-- ==== Sys2Proof/Word.lean ====
section
/-! DEFINITION. The byte type and the plainest names for raw data (00_scope.md, Bits, bytes and byte order). -/

namespace Sys2Proof

/-- One byte. -/
abbrev Byte := BitVec 8

/-- A run of bytes, lowest address first. -/
abbrev Bytes := List Byte

/-- A 64-bit word as the pseudocode's u64. -/
abbrev U64 := BitVec 64

/-- A 32-bit word as the pseudocode's u32. -/
abbrev U32 := BitVec 32

end Sys2Proof
end

