-- ==== Sys2Proof/Syntax.lean ====
section
/-!
DEFINITION. The commands of the block: every row of spec/opcode_table.json, with its operands.
A row that only time or the outside decides is an event: its sender says that it happens.
-/

namespace Sys2Proof

/-- Names a link in a command: `hedge = false` an Emtor port 0 or 1, `hedge = true` a hedge link 0 to 47 (14 R355, 15 R379). -/
structure LinkRef where
  hedge : Bool
  num : Nat
  deriving DecidableEq, Repr

/-- Where a kernel op executes: the job slot and the kernel station whose open row group runs it (08 R223). -/
structure KAt where
  slot : Nat
  station : Nat
  deriving DecidableEq, Repr

/-- The fields of a kernel program word beside the op (08 R221). -/
structure KWord where
  ty : Nat
  d : Nat
  a : Nat
  b : Nat
  c : Nat
  imm : Nat
  deriving DecidableEq, Repr

/-- A hedge packet as a command carries it: the header of 15 R381 and the data. `un` is SRC's UNASSIGNED bit. -/
structure PktArg where
  pflags : Nat
  dest : Nat
  src : Nat
  hops : Nat
  engine : Nat
  jobTag : Nat
  tag : Nat
  addr : Nat
  aux : Nat
  data : Bytes
  deriving DecidableEq, Repr

/-- What a read-back or an acknowledgement is about: a ring's memory (0 command, 1 completion, 2 event; 03 R68) or a destination path of a channel (12 R314). -/
inductive PathRef where
  | ring (n : Nat)
  | hbm (stack : Nat)
  | tier
  | emtor (port : Nat)
  | peer (addr : Nat)
  deriving DecidableEq, Repr

/-- One link of a LINK_STATE or discovery record: own link number, peer's digest, whether verified and admitted. -/
structure TopoLink where
  link : Nat
  peer : Bytes
  verified : Bool
  admitted : Bool
  deriving DecidableEq, Repr

/-- A record of one device's links (15 R390, R395). -/
structure TopoRec where
  digest : Bytes
  addr : Option Nat := none
  level : Nat := 0
  seqNo : Nat := 0
  root : Bool := false
  /-- Every job slot of that device is FREE. -/
  free : Bool := true
  links : List TopoLink := []
  deriving DecidableEq, Repr

/-- A soft error in the CAM cells of a match table's entry: ordinal, unit, cell group (0 key and 1 mask of the first match line, 2 key and 3 mask of
the complement line; 4 with unit 0 the entry's valid bit, which is bit 0), the bits flipped, and the replica of the table that it hits (07 R197, R206). -/
structure CellHit where
  ord : Nat
  unit : Nat
  part : Nat
  flip : Nat
  copy : Nat := 0
  deriving DecidableEq, Repr

/-- An error in a 64-bit word of the shadow of an entry: key units then mask units; a single or a double bit (07 R199). -/
structure ShadowHit where
  ord : Nat
  word : Nat
  double : Bool
  deriving DecidableEq, Repr


/-- The commands: one constructor per row of spec/opcode_table.json. -/
inductive Instr where
  /-- IDENTIFY (R15): Returns the device identity, strap values, addresses and resource counts. -/
  | identify (idx : Nat)
  /-- ATTEST (R445): Returns an attestation report signed with the identity key over the given nonce. -/
  | attest (idx : Nat)
  /-- JOB_LOAD (R93): Checks a job image and admission conditions, assigns a slot, reserves the minimum placement and adopts any checkpoint. -/
  | jobLoad (idx : Nat)
  /-- JOB_START (R94): Checks regions, participants and resources, then places and starts the job in the given mode. -/
  | jobStart (idx : Nat)
  /-- JOB_ABORT (R92): Stops the job on all participants and moves it to STOPPED. -/
  | jobAbort (idx : Nat)
  /-- JOB_QUERY (R87): Returns the job state, flags, epochs, spill and intake log use and last fault. -/
  | jobQuery (idx : Nat)
  /-- EPOCH_COMMIT (R118): Requests a commit of the open epoch through the two-phase protocol. -/
  | epochCommit (idx : Nat)
  /-- EPOCH_ROLLBACK (R122): Discards the open epoch's provisional output and restarts or holds the job. -/
  | epochRollback (idx : Nat)
  /-- JOB_REBIND (R97): Moves resource units of one kind from a donor to a recipient, saving and restoring state. -/
  | jobRebind (idx : Nat) (saved : Nat) (coded : Nat) (duration : Nat) (shale : Nat)
  /-- JOB_UNLOAD (R91): Unmaps regions, releases resources and optionally checkpoints, and frees the slot. -/
  | jobUnload (idx : Nat)
  /-- PLACEMENT_QUERY (R95): Returns current placement records or placement history records. -/
  | placementQuery (idx : Nat)
  /-- STATION_PIN (R96): Pins or unpins a station instance to a named resource. -/
  | stationPin (idx : Nat)
  /-- FEED_OPEN (R160): Binds a live feed to an align input, returns its identifier and grants feed credits. -/
  | feedOpen (idx : Nat)
  /-- FEED_CLOSE (R165): Closes a feed, recording the close in the intake log and setting its watermark infinite. -/
  | feedClose (idx : Nat)
  /-- FEED_WATERMARK (R161): Places a watermark in a mode 0 feed after the messages already received. -/
  | feedWatermark (idx : Nat)
  /-- REGION_MAP (R345): Binds a region identifier to host, allocated, given or remote memory. -/
  | regionMap (idx : Nat)
  /-- REGION_UNMAP (R345): Removes a region binding, returning allocated pages to the free pool. -/
  | regionUnmap (idx : Nat)
  /-- POWER_SET (R412): Changes device power state and applies die gates and lane-off bits. -/
  | powerSet (idx : Nat)
  /-- POWER_QUERY (R411): Returns power state, clock step, cap, package power, gates and lane-off mask. -/
  | powerQuery (idx : Nat)
  /-- CLOCK_SET (R410): Switches the arithmetic clock divider at a coincident edge with a brief issue pause. -/
  | clockSet (idx : Nat)
  /-- POWER_CAP (R417): Sets a static power cap that limits every engine's issue rate. -/
  | powerCap (idx : Nat)
  /-- MONITOR_READ (R421): Returns monitor records from the last complete snapshot. -/
  | monitorRead (idx : Nat)
  /-- MONITOR_ALARM_SET (R424): Arms or disarms a monitor's alarm thresholds. -/
  | monitorAlarmSet (idx : Nat)
  /-- HEDGE_DISCOVER (R390): Runs hedge discovery from the root device and assigns addresses and levels. -/
  | hedgeDiscover (idx : Nat)
  /-- HEDGE_ADDRESS (R389): Sets the device's own hedge address. -/
  | hedgeAddress (idx : Nat)
  /-- HEDGE_ROUTE_SET (R392): Writes or removes manual adaptive route alternatives for a destination. -/
  | hedgeRouteSet (idx : Nat)
  /-- HEDGE_STATUS (R396): Returns own address, anchors per slot and the reachability bitmap. -/
  | hedgeStatus (idx : Nat)
  /-- PEER_APPROVE (R388): Writes an expected digest into the peer table and approves the link. -/
  | peerApprove (idx : Nat)
  /-- FW_STAGE (R442): Checks a signed image and writes it to the target's STAGED bank. -/
  | fwStage (idx : Nat)
  /-- FW_ACTIVATE (R443): Sets PENDING on a staged image and starts a full reset. -/
  | fwActivate (idx : Nat)
  /-- MATCH_TABLE_LOAD (R202): Writes a match table image into its region. -/
  | matchTableLoad (idx : Nat)
  /-- MATCH_TABLE_UPDATE (R203): Checks paired writes, captures them in the intake log and queues them for the next epoch. -/
  | matchTableUpdate (idx : Nat)
  /-- DIAG_RUN (R89): Runs a diagnostic test on a die when no job is active. -/
  | diagRun (idx : Nat)
  /-- RESET_DEVICE (R83): With the right key, completes and then starts a full reset. -/
  | resetDevice (idx : Nat)
  /-- UNKNOWN_COMMAND (R10): A command with a reserved code is completed with UNKNOWN_COMMAND and nothing else. -/
  | unknownCommand (idx : Nat)
  /-- CMD_DOORBELL (R69): The driver's command tail write makes new command slots available for fetch. -/
  | cmdDoorbell (stores : List (Nat × Bytes)) (value : Nat)
  /-- CPL_DOORBELL (R70): The driver's completion head write frees completion entries. -/
  | cplDoorbell (value : Nat)
  /-- EVT_DOORBELL (R73): The driver's event head write frees event entries. -/
  | evtDoorbell (value : Nat)
  /-- RING_ENABLE_SET (R67): Setting a ring enable bit checks base and size and enables the ring from index 0. -/
  | ringEnableSet (value : Nat)
  /-- RING_DISABLE (R68): Clearing a ring enable bit stops access to the ring after outstanding writes complete. -/
  | ringDisable (value : Nat)
  /-- FAULT_LATCH_CLEAR (R66): Writing 1 to VALID clears the latched fault so the next fault can latch. -/
  | faultLatchClear
  /-- EVT_LOST_READ (R6): Reading EVT_LOST returns the dropped event count and clears it. -/
  | evtLostRead
  /-- REG_READ_LOW_WORD (R64): A read of a 64-bit register's low word captures its high word for the next read. -/
  | regReadLowWord (off len : Nat)
  /-- FULL_RESET (R65): A keyed RESET_CTL write starts a full reset within 10 us. -/
  | fullReset (value : Nat)
  /-- REG_WRITE (R370): A host write to a register without behaviour of its own stores or discards the value. -/
  | regWrite (off : Nat) (len : Nat) (value : Nat)
  /-- COMMAND_FETCH (R70): The HY-2 fetches the next command slot once fewer than 32 commands are in progress and completion room exists. -/
  | commandFetch (gaps : List (Nat × Nat))
  /-- NOTIFY (R74): Announces new completion or event entries, at most once per ring per 2 us. -/
  | notify (ring : Nat)
  /-- TILE_CONSUME (R35): A consumer takes a tile and checks seal, header and shape before use. -/
  | tileConsume (slot : Nat) (station : Nat) (port : Nat)
  /-- CREDIT_RETURN (R45): A consumer returns a credit, freeing a slot and letting a waiting producer write. -/
  | creditReturn (slot : Nat) (station : Nat) (port : Nat)
  /-- WATCHDOG_SAMPLE (R52): Every 10 us the watchdog samples queues and measures progress per wait cycle. -/
  | watchdogSample
  /-- SPILL_VALVE_OPEN (R52): A wait cycle without progress for 100 us opens the spill valve on its lowest-numbered blocked queue. -/
  | spillValveOpen (slot : Nat) (queue : Nat)
  /-- SPILL_REFILL (R53): A spilled tile returns to its queue in SEQ order when a slot is free. -/
  | spillRefill (slot : Nat) (queue : Nat)
  /-- SATURATION_REPLACEMENT (R23): Oluat changes placement at a tile boundary in response to a saturation counter. -/
  | saturationReplacement (slot : Nat) (station : Nat) (inst : Nat) (counter : Nat)
  /-- INTAKE_OBJECT (R136): Intake reads an object or tile run from its source and writes framed tiles. -/
  | intakeObject (slot : Nat) (station : Nat)
  /-- FEED_RECORDS (R140): A RECORDS feed message is checked against the expected sequence, accepted and logged. -/
  | feedRecords (feed : Nat)
  /-- FEED_WATERMARK_MESSAGE (R161): A watermark message raises the port's watermark and triggers release. -/
  | feedWatermarkMessage (feed : Nat)
  /-- UNPACK_OBJECT (R147): Unpack decompresses one object, truncating or faulting on an error. -/
  | unpackObject (slot : Nat) (station : Nat)
  /-- PARSE_RECORD (R151): Parse decodes one record into one output row, corrupt rows carrying a status. -/
  | parseRecord (slot : Nat) (station : Nat)
  /-- BRAMBLE_DIVERT (R155): A decode unit exceeding its cycle limit or needing an unsupported feature is diverted to the bramble lane. -/
  | brambleDivert (slot : Nat) (station : Nat)
  /-- BRAMBLE_RETURN (R156): A bramble kernel returns the decoded unit and the station emits held output in order. -/
  | brambleReturn (slot : Nat) (station : Nat) (unit : Nat)
  /-- ALIGN_ROW (R162): An align station classifies an input row as late or held and releases rows below the frontier. -/
  | alignRow (slot : Nat) (station : Nat) (port : Nat)
  /-- EMIT_TILE (R166): An emit station checks and writes a tile to its region. -/
  | emitTile (slot : Nat) (station : Nat)
  /-- SHALE_ENCODE_BLOCK (R175): The compressor codes one block into its slot and overflow. -/
  | shaleEncodeBlock (slot : Nat) (station : Nat)
  /-- SHALE_COMPRESSOR_RESUME (R181): A stopped compressor resumes when the slot or granules are freed. -/
  | shaleCompressorResume (slot : Nat) (station : Nat)
  /-- SHALE_DECODE_BLOCK (R178): The decompressor checks a block header, decodes its code words and checks its CRC. -/
  | shaleDecodeBlock (slot : Nat) (station : Nat)
  /-- SHALE_DECOMPRESSOR_RESUME (R182): A decompressor stopped on a full buffer continues into the next buffer. -/
  | shaleDecompressorResume (slot : Nat) (station : Nat)
  /-- MATCH_SEARCH (R190): A match die searches a bank set for a key and verifies the result. -/
  | matchSearch (slot : Nat) (station : Nat) (cells : List CellHit) (shadow : List ShadowHit)
  /-- SEARCH_REPEAT (R197): An unclean search is reissued after rewriting entries from the shadow. -/
  | searchRepeat (slot : Nat) (station : Nat) (cells : List CellHit) (shadow : List ShadowHit)
  /-- PAIR_COMMIT (R201): A pair commits once earlier searches on its banks complete. -/
  | pairCommit (slot : Nat) (station : Nat)
  /-- SCRUB (R199): Idle search slots compare units with their shadow and rewrite differences. -/
  | scrub (slot : Nat) (station : Nat) (ord : Nat) (cells : List CellHit) (shadow : List ShadowHit)
  /-- TABLE_BUILD_COMPLETE (R202): A table finishes building into the CAM and its match station starts consuming input. -/
  | tableBuildComplete (slot : Nat) (station : Nat)
  /-- FREQUENCY_SAMPLE (R206): Every 100 ms Oluat resamples key frequencies for step 2 placement. -/
  | frequencySample (slot : Nat) (station : Nat)
  /-- HASHJOIN_BUILD_ROW (R209): A build row is inserted into its partition's hash table. -/
  | hashjoinBuildRow (slot : Nat) (station : Nat)
  /-- HASHJOIN_PROBE_ROW (R208): A probe row is looked up and joined by KIND. -/
  | hashjoinProbeRow (slot : Nat) (station : Nat)
  /-- ROW_GROUP (R223): A kernel program runs once over a row group. -/
  | rowGroup (slot : Nat) (station : Nat)
  /-- END_PROGRAM (R223): After every instance consumed end of stream, partials combine and the end program runs once. -/
  | endProgram (slot : Nat) (station : Nat)
  /-- NOP (R228): Does nothing. -/
  | kNop (ka : KAt) (w : KWord)
  /-- LDCOL (R228): Loads a column of a port into a slot. -/
  | kLdcol (ka : KAt) (w : KWord)
  /-- STCOL (R228): Stages a slot as a column of a port's next EMIT. -/
  | kStcol (ka : KAt) (w : KWord)
  /-- MOV (R228): Copies an operand. -/
  | kMov (ka : KAt) (w : KWord)
  /-- ROWIDX (R228): Gives each row's ordinal. -/
  | kRowidx (ka : KAt) (w : KWord)
  /-- INFO (R229): Returns an item such as row count, seed or partition. -/
  | kInfo (ka : KAt) (w : KWord)
  /-- VALID (R225): Gives 1 where the operand is valid. -/
  | kValid (ka : KAt) (w : KWord)
  /-- SETNULL (R225): Makes a null where the mask is 1. -/
  | kSetnull (ka : KAt) (w : KWord)
  /-- COALESCE (R228): Gives a where valid, else b. -/
  | kCoalesce (ka : KAt) (w : KWord)
  /-- SEL (R228): Selects a or b by a BOOL. -/
  | kSel (ka : KAt) (w : KWord)
  /-- LDPAY (R228): Loads an element from the driving payload. -/
  | kLdpay (ka : KAt) (w : KWord)
  /-- STPAY (R228): Writes an element to the payload under construction. -/
  | kStpay (ka : KAt) (w : KWord)
  /-- LDTAB (R228): Loads an element of a table region. -/
  | kLdtab (ka : KAt) (w : KWord)
  /-- BR (R223): Branches unconditionally. -/
  | kBr (ka : KAt) (w : KWord)
  /-- BRZ (R223): Branches when a scalar is zero. -/
  | kBrz (ka : KAt) (w : KWord)
  /-- BRNZ (R223): Branches when a scalar is not zero. -/
  | kBrnz (ka : KAt) (w : KWord)
  /-- EMIT (R243): Appends staged rows, or seals a payload tile, on an output port. -/
  | kEmit (ka : KAt) (w : KWord)
  /-- END (R223): Ends the row group. -/
  | kEnd (ka : KAt) (w : KWord)
  /-- RAISE (R228): Raises the job fault 0x08F0. -/
  | kRaise (ka : KAt) (w : KWord)
  /-- SCOUNT (R228): Counts rows where a BOOL is 1. -/
  | kScount (ka : KAt) (w : KWord)
  /-- SANY (R228): Gives 1 when any row is 1. -/
  | kSany (ka : KAt) (w : KWord)
  /-- SALL (R228): Gives 1 when every valid row is 1. -/
  | kSall (ka : KAt) (w : KWord)
  /-- MWRITE (R244): Issues paired match writes per selected row. -/
  | kMwrite (ka : KAt) (w : KWord)
  /-- ADD (R228): Adds. -/
  | kAdd (ka : KAt) (w : KWord)
  /-- SUB (R228): Subtracts. -/
  | kSub (ka : KAt) (w : KWord)
  /-- MUL (R228): Multiplies. -/
  | kMul (ka : KAt) (w : KWord)
  /-- DIV (R227): Divides. -/
  | kDiv (ka : KAt) (w : KWord)
  /-- FMA (R228): Fused multiply-add rounded once. -/
  | kFma (ka : KAt) (w : KWord)
  /-- NEG (R228): Negates. -/
  | kNeg (ka : KAt) (w : KWord)
  /-- ABS (R228): Absolute value. -/
  | kAbs (ka : KAt) (w : KWord)
  /-- MIN (R226): Minimum. -/
  | kMin (ka : KAt) (w : KWord)
  /-- MAX (R226): Maximum. -/
  | kMax (ka : KAt) (w : KWord)
  /-- CLAMP (R226): Clamps between bounds. -/
  | kClamp (ka : KAt) (w : KWord)
  /-- SQRT (R226): Correctly rounded square root. -/
  | kSqrt (ka : KAt) (w : KWord)
  /-- RECIP (R226): Correctly rounded reciprocal. -/
  | kRecip (ka : KAt) (w : KWord)
  /-- RSQRT (R226): Correctly rounded reciprocal square root. -/
  | kRsqrt (ka : KAt) (w : KWord)
  /-- EXP (R226): Natural exponential. -/
  | kExp (ka : KAt) (w : KWord)
  /-- LOG (R226): Natural logarithm. -/
  | kLog (ka : KAt) (w : KWord)
  /-- LOG1P (R226): Logarithm of 1 + a. -/
  | kLog1p (ka : KAt) (w : KWord)
  /-- EXPM1 (R226): Exponential minus 1. -/
  | kExpm1 (ka : KAt) (w : KWord)
  /-- FLOOR (R228): Rounds down to integral. -/
  | kFloor (ka : KAt) (w : KWord)
  /-- CEIL (R228): Rounds up to integral. -/
  | kCeil (ka : KAt) (w : KWord)
  /-- RINT (R228): Rounds to nearest integral, ties to even. -/
  | kRint (ka : KAt) (w : KWord)
  /-- TRUNC (R228): Rounds toward zero to integral. -/
  | kTrunc (ka : KAt) (w : KWord)
  /-- MOD (R227): Remainder. -/
  | kMod (ka : KAt) (w : KWord)
  /-- ADDS (R227): Saturating add. -/
  | kAdds (ka : KAt) (w : KWord)
  /-- SUBS (R227): Saturating subtract. -/
  | kSubs (ka : KAt) (w : KWord)
  /-- MULS (R227): Saturating multiply. -/
  | kMuls (ka : KAt) (w : KWord)
  /-- SIGN (R228): Sign of the value. -/
  | kSign (ka : KAt) (w : KWord)
  /-- COPYSIGN (R228): Magnitude of a with the sign of b. -/
  | kCopysign (ka : KAt) (w : KWord)
  /-- CMPEQ (R228): Compares equal. -/
  | kCmpeq (ka : KAt) (w : KWord)
  /-- CMPNE (R228): Compares not equal. -/
  | kCmpne (ka : KAt) (w : KWord)
  /-- CMPLT (R228): Compares less than. -/
  | kCmplt (ka : KAt) (w : KWord)
  /-- CMPLE (R228): Compares less or equal. -/
  | kCmple (ka : KAt) (w : KWord)
  /-- CMPGT (R228): Compares greater than. -/
  | kCmpgt (ka : KAt) (w : KWord)
  /-- CMPGE (R228): Compares greater or equal. -/
  | kCmpge (ka : KAt) (w : KWord)
  /-- ISNAN (R228): Tests for NaN. -/
  | kIsnan (ka : KAt) (w : KWord)
  /-- ISINF (R228): Tests for infinity. -/
  | kIsinf (ka : KAt) (w : KWord)
  /-- ISFIN (R228): Tests for a finite value. -/
  | kIsfin (ka : KAt) (w : KWord)
  /-- AND (R228): Bitwise and. -/
  | kAnd (ka : KAt) (w : KWord)
  /-- OR (R228): Bitwise or. -/
  | kOr (ka : KAt) (w : KWord)
  /-- XOR (R228): Bitwise exclusive or. -/
  | kXor (ka : KAt) (w : KWord)
  /-- NOT (R228): Bitwise not. -/
  | kNot (ka : KAt) (w : KWord)
  /-- ANDN (R228): a and not b. -/
  | kAndn (ka : KAt) (w : KWord)
  /-- SHL (R227): Shift left. -/
  | kShl (ka : KAt) (w : KWord)
  /-- SHR (R227): Logical shift right. -/
  | kShr (ka : KAt) (w : KWord)
  /-- SAR (R227): Arithmetic shift right. -/
  | kSar (ka : KAt) (w : KWord)
  /-- ROTL (R227): Rotate left. -/
  | kRotl (ka : KAt) (w : KWord)
  /-- ROTR (R227): Rotate right. -/
  | kRotr (ka : KAt) (w : KWord)
  /-- POPCNT (R228): Counts set bits. -/
  | kPopcnt (ka : KAt) (w : KWord)
  /-- CLZ (R228): Counts leading zeros. -/
  | kClz (ka : KAt) (w : KWord)
  /-- CTZ (R228): Counts trailing zeros. -/
  | kCtz (ka : KAt) (w : KWord)
  /-- BSWAP (R228): Reverses bytes. -/
  | kBswap (ka : KAt) (w : KWord)
  /-- CVT (R230): Converts type in a rounding mode. -/
  | kCvt (ka : KAt) (w : KWord)
  /-- CVTS (R230): Converts type with saturation. -/
  | kCvts (ka : KAt) (w : KWord)
  /-- REINT (R228): Reinterprets bits as another type. -/
  | kReint (ka : KAt) (w : KWord)
  /-- TIMEPART (R230): Extracts a calendar part of a TIME_US value. -/
  | kTimepart (ka : KAt) (w : KWord)
  /-- TIMETRUNC (R228): Truncates a time to a multiple. -/
  | kTimetrunc (ka : KAt) (w : KWord)
  /-- XXH64 (R233): xxhash64 of the byte form. -/
  | kXxh64 (ka : KAt) (w : KWord)
  /-- MUR3L (R233): Low half of murmur3_x64_128. -/
  | kMur3l (ka : KAt) (w : KWord)
  /-- MUR3H (R233): High half of murmur3_x64_128. -/
  | kMur3h (ka : KAt) (w : KWord)
  /-- CRC32C (R233): CRC-32C of the byte form with optional seed prefix. -/
  | kCrc32c (ka : KAt) (w : KWord)
  /-- XXH64C (R233): xxhash64 over concatenated byte forms. -/
  | kXxh64c (ka : KAt) (w : KWord)
  /-- HMOD (R228): U64 modulus. -/
  | kHmod (ka : KAt) (w : KWord)
  /-- HBUCKET (R228): Hash then modulus. -/
  | kHbucket (ka : KAt) (w : KWord)
  /-- BUCKET (R234): Places a value against a boundary list. -/
  | kBucket (ka : KAt) (w : KWord)
  /-- BUCKETW (R234): Places a value in equal-width buckets. -/
  | kBucketw (ka : KAt) (w : KWord)
  /-- SLEN (R228): String byte length. -/
  | kSlen (ka : KAt) (w : KWord)
  /-- SCHARS (R228): String code point count. -/
  | kSchars (ka : KAt) (w : KWord)
  /-- SLOWER (R242): ASCII lower-case. -/
  | kSlower (ka : KAt) (w : KWord)
  /-- SUPPER (R242): ASCII upper-case. -/
  | kSupper (ka : KAt) (w : KWord)
  /-- SSUB (R242): Substring by code points. -/
  | kSsub (ka : KAt) (w : KWord)
  /-- SPREFIX (R228): Tests a prefix. -/
  | kSprefix (ka : KAt) (w : KWord)
  /-- SSUFFIX (R228): Tests a suffix. -/
  | kSsuffix (ka : KAt) (w : KWord)
  /-- SFIND (R228): Finds a substring offset. -/
  | kSfind (ka : KAt) (w : KWord)
  /-- SFIELD (R242): Extracts a delimited field. -/
  | kSfield (ka : KAt) (w : KWord)
  /-- STOI (R242): Parses integer text. -/
  | kStoi (ka : KAt) (w : KWord)
  /-- STOF (R242): Parses number text. -/
  | kStof (ka : KAt) (w : KWord)
  /-- DSTR (R242): Looks up a dictionary string. -/
  | kDstr (ka : KAt) (w : KWord)
  /-- SCAT (R242): Concatenates strings. -/
  | kScat (ka : KAt) (w : KWord)
  /-- ACC (R235): Adds a term to a SUM cell. -/
  | kAcc (ka : KAt) (w : KWord)
  /-- ACCP (R110): Adds a rounded product to a SUM cell. -/
  | kAccp (ka : KAt) (w : KWord)
  /-- ACCN (R235): Counts valid values in a COUNT cell. -/
  | kAccn (ka : KAt) (w : KWord)
  /-- ACCX (R235): Folds a value into a MIN or MAX cell. -/
  | kAccx (ka : KAt) (w : KWord)
  /-- SKETCH (R238): Adds a value to a quantile sketch. -/
  | kSketch (ka : KAt) (w : KWord)
  /-- ACCRD (R237): Reads out a cell in a mode. -/
  | kAccrd (ka : KAt) (w : KWord)
  /-- QREAD (R238): Reads a quantile from a sketch. -/
  | kQread (ka : KAt) (w : KWord)
  /-- ACCCLR (R228): Empties every cell of an array. -/
  | kAccclr (ka : KAt) (w : KWord)
  /-- ACCEMIT (R239): Writes a SUM array as ACCUM records. -/
  | kAccemit (ka : KAt) (w : KWord)
  /-- ACCMERGE (R239): Merges ACCUM records into a SUM array. -/
  | kAccmerge (ka : KAt) (w : KWord)
  /-- EMBAG (R240): Pools embedding table rows. -/
  | kEmbag (ka : KAt) (w : KWord)
  /-- MPACK (R241): Writes a slot into a matrix buffer column. -/
  | kMpack (ka : KAt) (w : KWord)
  /-- MUNPACK (R241): Reads a matrix buffer column into a slot. -/
  | kMunpack (ka : KAt) (w : KWord)
  /-- CDOT (R241): Computes a matrix product with exact accumulation. -/
  | kCdot (ka : KAt) (w : KWord)
  /-- SELECT_GROUP (R251): A select engine ends a group and writes its top-k result. -/
  | selectGroup (slot : Nat) (station : Nat)
  /-- IMAGE_DECODE (R266): The decoder decodes one JPEG image or makes a hole. -/
  | imageDecode (slot : Nat) (station : Nat)
  /-- IMAGE_WARP (R269): The warp engine computes the output pixels of one image. -/
  | imageWarp (slot : Nat) (station : Nat)
  /-- SHUFFLE_STORE_ROW (R280): A shuffle station files an input row in its sample store. -/
  | shuffleStoreRow (slot : Nat) (station : Nat)
  /-- SAMPLE_STORE_COMPLETE (R280): When every participant's store is complete, coverage is checked and emission starts. -/
  | sampleStoreComplete (slot : Nat) (station : Nat)
  /-- SHUFFLE_EMIT (R281): The shuffle emits its held samples in ascending permuted position. -/
  | shuffleEmit (slot : Nat) (station : Nat) (port : Nat)
  /-- BATCH_ASSEMBLE (R287): The batch station checks and assembles an arriving sample into its batch. -/
  | batchAssemble (slot : Nat) (station : Nat) (holder : Nat)
  /-- LAYOUT_TRANSFER (R293): The layout writes one batch's slot image as TENSOR runs. -/
  | layoutTransfer (slot : Nat) (station : Nat)
  /-- BATCH_EMIT (R299): The emit station writes tensor runs, descriptor and WRITTEN for a credited batch. -/
  | batchEmit (slot : Nat) (station : Nat)
  /-- CONSUMED_POLL (R299): Without a credit, the emit station reads CONSUMED every 2 us. -/
  | consumedPoll (slot : Nat) (station : Nat) (stores : List (Nat × Bytes))
  /-- START_BARRIER (R92): A participant's start reaches the anchor's barrier. -/
  | startBarrier (slot : Nat) (part : Nat) (mode : Nat) (check : Nat)
  /-- START_BARRIER_TIMEOUT (R92): A participant missing JOB_START for 10 s completes every pending JOB_START with TIMEOUT. -/
  | startBarrierTimeout (slot : Nat) (missing : Nat)
  /-- PREPARE (R118): A participant drains, closes links with flush markers and writes its checkpoint. -/
  | prepare (slot : Nat) (part : Nat) (epoch : Nat) (cause : Nat)
  /-- CHECKPOINT_WRITTEN (R118): A participant finishes its checkpoint, resumes in the next epoch and sends PREPARED. -/
  | checkpointWritten (slot : Nat) (size : Nat) (mismatch : Option (Nat × Nat))
  /-- PREPARED (R118): The anchor records a participant's readiness and commits when all are prepared. -/
  | prepared (slot : Nat) (part : Nat) (epoch : Nat) (dirSeal : Bytes)
  /-- COMMIT (R118): A participant marks the epoch committed, releases the old checkpoint and writes EPOCH_COMMITTED. -/
  | commit (slot : Nat) (epoch : Nat) (time : Nat)
  /-- COMMIT_TIMEOUT (R119): A participant not prepared 5 s after PREPARE raises 0x0C20. -/
  | commitTimeout (slot : Nat) (part : Nat)
  /-- PROGRESS_SEND (R119): A working participant reports commit progress every 10 ms. -/
  | progressSend (slot : Nat)
  /-- PROGRESS (R119): A progress message shows a participant is still working on a commit. -/
  | progress (slot : Nat) (part : Nat)
  /-- PARTICIPANT_LOST (R102): A participant silent for 10 ms raises 0x0C04. -/
  | participantLost (slot : Nat) (part : Nat)
  /-- STOP (R127): A participant stops the job, discards in-flight tiles and moves to RESTARTING or HELD. -/
  | stop (slot : Nat) (src : Nat) (code : Nat)
  /-- UNIT_IDLE_TIMEOUT (R126): A unit not idle 1 ms after a stop request sets FFLAGS[1]. -/
  | unitIdleTimeout (slot : Nat) (die : Nat)
  /-- RECOVERY_RESET (R126): Within 10 ms of a fault requiring it, the device starts a full reset with LAST_CAUSE 5. -/
  | recoveryReset
  /-- RESTORE_COMPLETE (R127): A participant finishes restoring its committed checkpoint and checking region CRCs. -/
  | restoreComplete (slot : Nat) (part : Nat) (epoch : Option Nat) (shale : Nat)
  /-- RESUME (R127): Participants re-place the job and run it in epoch c + 1, replaying the log. -/
  | resume (slot : Nat)
  /-- ABORT (R92): A coordination message carries JOB_ABORT to every participant. -/
  | abort (slot : Nat)
  /-- ROLLBACK (R122): A coordination message carries EPOCH_ROLLBACK to every participant. -/
  | rollback (slot : Nat) (again : Bool)
  /-- WAIT_EDGES (R52): A device reports its wait edges to the anchor for cross-device cycles. -/
  | waitEdges (slot : Nat) (part : Nat) (edges : List (Nat × Nat × Bool))
  /-- PARTIALS (R236): A device sends combined STATION array partials to the end instance. -/
  | partials (slot : Nat) (station : Nat) (part : Nat) (data : Bytes)
  /-- VALID_COUNTS (R288): Participants exchange valid sample counts per 65,536-position window. -/
  | validCounts (slot : Nat) (station : Nat) (part : Nat) (window : Nat) (count : Nat)
  /-- SAMPLE_HOLDINGS (R280): Participants report sample store holdings for the coverage check. -/
  | sampleHoldings (slot : Nat) (station : Nat) (part : Nat) (held : List (Nat × Nat))
  /-- ARM (R306): Oluat writes an arm descriptor that starts or queues a channel program after checks. -/
  | arm (engine : Nat) (channel : Nat) (desc : Bytes) (prog : Bytes) (src : Option (Nat × Nat))
  /-- MOVE (R308): Copies COUNT bytes or streams tiles between registers and queues. -/
  | move (engine : Nat) (channel : Nat)
  /-- LOOP (R309): Repeats a loop body using a counter. -/
  | loop (engine : Nat) (channel : Nat)
  /-- WAIT (R309): Stalls until the sync counter reaches the threshold. -/
  | wait (engine : Nat) (channel : Nat)
  /-- SIGNAL (R309): Completes earlier moves, then notifies a station or adds to a sync counter. -/
  | signal (engine : Nat) (channel : Nat)
  /-- MOVER_END (R309): Completes earlier moves and idles the channel unless a program is pending. -/
  | moverEnd (engine : Nat) (channel : Nat)
  /-- WAIT_TIMEOUT (R309): A WAIT unsatisfied for 1 s raises 0x0406. -/
  | waitTimeout (engine : Nat) (channel : Nat)
  /-- READ_BACK_RETURN (R315): A read-back returns and lets a completion point proceed. -/
  | readBackReturn (engine : Nat) (channel : Nat) (path : PathRef) (ok : Bool)
  /-- REARM_START (R319): A pending program starts after the running one ends and its read-backs return. -/
  | rearmStart (engine : Nat) (channel : Nat)
  /-- BURST_DELIVER (R320): A stream burst, or a held burst, is delivered on demand from a consumer port. -/
  | burstDeliver (engine : Nat) (channel : Nat)
  /-- MOVER_BUS_ERROR (R325): A bus error stops all channels of the engine and raises 0x0401 in affected jobs. -/
  | moverBusError (engine : Nat) (source : Nat) (addr : Nat)
  /-- MOVER_DRAIN_COMPLETE (R325): The last outstanding read returns and DRAINING clears. -/
  | moverDrainComplete (engine : Nat)
  /-- DRAIN_TIMEOUT (R326): DRAINING still set 1 ms after a bus error requires a full reset. -/
  | drainTimeout (engine : Nat)
  /-- MOVER_CLEAR (R305): Writing CLEAR returns a stopped engine's channels to idle. -/
  | moverClear (engine : Nat)
  /-- PATROL (R352): The patrol reads, checks and corrects sectors in idle cycles. `slice` is the cache slice 0 to 31 whose line holds the sector, 255 the
  memory itself; a line both bad and corrected is a clean one that is fetched again, a line only bad a dirty one (R349). -/
  | patrol (addr : Nat) (slice : Nat) (bad : Bool) (corrected : Bool)
  /-- TRAINING_FRAME (R359): A training frame from the partner advances a port's training step. -/
  | trainingFrame (link : LinkRef) (bs : Bytes)
  /-- TRAINING_STEP_TIMEOUT (R358): A training step over its limit fails the training. -/
  | trainingStepTimeout (link : LinkRef)
  /-- TRAINING_RETRY (R358): 10 ms after a failure training restarts at step 1, up to 3 times. -/
  | trainingRetry (link : LinkRef)
  /-- FAST_RETRAIN (R357): Too many uncorrectable codewords or NAKs start a fast retrain. -/
  | fastRetrain (link : LinkRef)
  /-- FLIT_RECEIVE (R362): A flit is accepted or rejected by CHECK and SEQ, with NAK on error. The operand: the codeword times since the last flit, each
  with the 10-bit symbols of every active lane (R356). -/
  | flitReceive (link : LinkRef) (times : List (List (List Nat)))
  /-- CONTROL_FLIT (R365): A CONTROL flit grants credits, feed credits, closes feeds or makes a class unlimited. -/
  | controlFlit (link : LinkRef) (entries : List (Nat × Nat × Nat))
  /-- MEM_DATA (R371): The adapter returns data, or an error, for a host memory read. -/
  | memData (port : Nat) (tag : Nat) (data : Bytes) (error : Bool)
  /-- FEED (R366): A FEED transaction delivers feed message bytes for an identifier. -/
  | feed (port : Nat) (feed : Nat) (data : Bytes)
  /-- MEM_READ_TIMEOUT (R371): A host read unanswered for 10 ms is a bus error. -/
  | memReadTimeout (port : Nat) (tag : Nat)
  /-- CODEWORD_LOCK_LOSS (R375): No codeword lock for 10 us takes the port down and retrains it. -/
  | codewordLockLoss (link : LinkRef)
  /-- LOW_POWER_IDLE (R374): In D2 a port idle for 10 us enters low-power idle. -/
  | lowPowerIdle (link : LinkRef)
  /-- WAKE (R374): Wake frames bring a port out of low-power idle. -/
  | wake (link : LinkRef)
  /-- HEDGE_MEM_WRITE (R384): A remote write is checked and applied in OSEQ order. -/
  | hedgeMemWrite (link : Nat) (p : PktArg)
  /-- HEDGE_MEM_READ (R384): A remote read is checked and answered with data and region end. -/
  | hedgeMemRead (link : Nat) (p : PktArg)
  /-- HEDGE_MEM_DATA (R384): Reply data of a remote read arrives with the region end. -/
  | hedgeMemData (link : Nat) (p : PktArg)
  /-- WRITE_ACK (R384): Acknowledges remote writes applied in order. -/
  | writeAck (link : Nat) (p : PktArg)
  /-- WRITE_ACK_TIMER (R384): 1 us after the last write applied, the destination sends WRITE_ACK. -/
  | writeAckTimer (engine : Nat) (src : Nat)
  /-- HEDGE_TILE (R36): A tile received over the hedge is checked, restamped, resealed and ordered. -/
  | hedgeTile (link : Nat) (p : PktArg)
  /-- FLUSH (R384): A flush marker after the last tile of a queue is answered with FLUSH_ACK. -/
  | flush (link : Nat) (p : PktArg)
  /-- FLUSH_ACK (R384): Confirms every tile below the SEQ was received, ending a queue's commit drain. -/
  | flushAck (link : Nat) (p : PktArg)
  /-- LINK_STATE (R395): A flooded link record updates routes and reachability. -/
  | linkState (link : Nat) (r : TopoRec)
  /-- DISCOVERY (R390): A discovery packet is flooded, collected or assigns an address. -/
  | discovery (link : Nat) (phase : Nat) (recs : List TopoRec)
  /-- IDENT (R386): A peer's key, nonce or signature is received and verified. -/
  | ident (link : Nat) (aux : Nat) (data : Bytes)
  /-- IDENT_TIMEOUT (R386): An identity exchange not complete in 5 ms raises 0x0704. -/
  | identTimeout (link : Nat)
  /-- IDENT_RETRY (R386): A failed identity exchange is repeated every 1 s. -/
  | identRetry (link : Nat)
  /-- ADMIT (R387): A peer's approval message admits the link when both ends approve. -/
  | admitLink (link : Nat) (approve : Bool)
  /-- TIME_SYNC (R397): A time sync request or reply exchanges timestamps with the time parent. -/
  | timeSync (link : Nat) (kind : Nat) (t1 : Nat) (t2 : Nat) (t3 : Nat)
  /-- TIME_SYNC_TICK (R397): Every 1 ms a device sends a time sync request and corrects its timestamp. -/
  | timeSyncTick
  /-- PACKET_FORWARD (R394): A packet is forwarded on an adaptive or escape link, or discarded. -/
  | packetForward (link : Nat) (ptype : Nat) (p : PktArg)
  /-- ESCAPE_TIMEOUT (R394): A packet waiting 2 us for credits switches to the escape path. -/
  | escapeTimeout (link : Nat) (ptype : Nat) (p : PktArg)
  /-- HEDGE_LINK_DOWN (R380): A hedge link going down discards traffic, faults affected jobs and updates routes. -/
  | hedgeLinkDown (link : Nat) (reason : Nat)
  /-- ENUMERATE (R402): An enumeration frame assigns chain addresses along the chain. -/
  | enumerate (next : Nat)
  /-- LAST_DEVICE_TIMEOUT (R402): No turn returned downstream within 10 us marks the last device, which sends ENUM_DONE. -/
  | lastDeviceTimeout
  /-- CHAIN_COMMAND (R403): A chain COMMAND or DATA frame delivers a command, executed on the LAST fragment. -/
  | chainCommand (up : Bool) (bs : Bytes)
  /-- CHAIN_FRAME_FORWARD (R401): A frame not addressed to the device is stored and forwarded. -/
  | chainFrameForward (up : Bool) (bs : Bytes)
  /-- TURN_PASS (R400): After a frame or 2 us idle the upstream end passes the turn. -/
  | turnPass (up : Bool)
  /-- HEARTBEAT_TICK (R404): Every 10 ms an addressed device sends HEARTBEAT. -/
  | heartbeatTick
  /-- HEARTBEAT (R404): A heartbeat from a device beyond is recorded by the watcher. -/
  | heartbeat (src : Nat)
  /-- HEARTBEAT_MISSING (R404): Three silent intervals make the watcher send LOST and write 0x0711. -/
  | heartbeatMissing (missing : Nat)
  /-- REFERENCE_LOST (R407): Loss of reference or PLL lock holds every die in reset. -/
  | referenceLost
  /-- REFERENCE_RETURN (R407): Reference return and PLL lock run the boot sequence and latch 0x0D01. -/
  | referenceReturn
  /-- THERMAL_TRIP (R427): A die reaching its trip temperature drives THERMTRIP_N and holds all dies in reset. -/
  | thermalTrip (die : Nat)
  /-- DOMAIN_WAKE_TIMEOUT (R415): A domain not power-good 5 ms after ungating raises 0x0D03. -/
  | domainWakeTimeout (die : Nat) (domain : Nat)
  /-- MONITOR_SAMPLE (R421): Every 1 ms the hub samples all monitors into a snapshot and updates counters. -/
  | monitorSample (readings : List (Nat × Int)) (sat : List Bool) (railsOut : List Nat)
  /-- POWER_ON (R429): The first RESET_N rise after VAON and VIO latches the straps and starts boot. -/
  | powerOn (straps : Nat) (tierGib : Nat)
  /-- RESET_N_ASSERT (R448): RESET_N held low for 10 us requests a full reset. -/
  | resetNAssert (cool : Bool)
  /-- BOOT_COMPLETE (R439): Boot step 9 ends and the device enters its boot-end state. -/
  | bootComplete (selfTest : Option (Nat × Nat)) (hbmFail : Option Nat) (tierFail : Option Nat) (flashFail : Option Nat)
  /-- BOOT_STEP_TIMEOUT (R439): A boot step over its limit raises 0x0E05 and enters RECOVERY. -/
  | bootStepTimeout (die : Nat)
  /-- BYPASS (R446): JTAG BYPASS instruction. -/
  | bypass
  /-- IDCODE (R446): JTAG IDCODE instruction. -/
  | idcode
  /-- SAMPLE_PRELOAD (R446): JTAG SAMPLE/PRELOAD instruction. -/
  | samplePreload
  /-- EXTEST (R446): JTAG EXTEST, accepted only in RECOVERY. -/
  | extest
  /-- EXTEST_PULSE (R446): JTAG EXTEST_PULSE, accepted only in RECOVERY. -/
  | extestPulse
  /-- EXTEST_TRAIN (R446): JTAG EXTEST_TRAIN, accepted only in RECOVERY. -/
  | extestTrain
  /-- DEBUG_CHALLENGE (R447): Returns the current 32-byte debug challenge. -/
  | debugChallenge
  /-- DEBUG_TOKEN (R447): Checks a debug token and unlocks its scope. -/
  | debugToken (bs : Bytes)
  /-- DEBUG_STATUS (R447): Returns the result of the last token check. -/
  | debugStatus
  /-- RAIL_REMOVAL (R420): The board removes rails: in D3 all but VAON and VIO, losing the tier contents when the tier rails go, or VAON itself, losing the strap word, peer table, debug unlock and a held THERMTRIP_N. -/
  | railRemoval (vaon : Bool) (tier : Bool)
  /-- RESET_N_RELEASE (R448): RESET_N rising after a full reset request lets the waiting boot sequence continue past step 2. -/
  | resetNRelease
  /-- BARRIER_ACKNOWLEDGEMENT (R315): An HBM or tier controller's queue acknowledges a barrier-mode write, letting a waiting SIGNAL or END proceed. -/
  | barrierAcknowledgement (engine : Nat) (channel : Nat) (path : PathRef)
  deriving DecidableEq, Repr

end Sys2Proof
end

