-- ==== Sys2Proof/Decode.lean ====
section
/-!
DEFINITION. The decoder over the rows of spec/opcode_table.json that give bits. No row of this block gives bits: its commands come from outside as events,
and the encodings the spec has (command slots 03 R77, kernel words 08 R221, mover instructions 12 R307, packets 15 R381) are read by the meanings.
-/

namespace Sys2Proof

/-- The command that a word spells by the table's bits: none, since no row of the table has bits. -/
def decodeTableWord (_nbits _w : Nat) : Option Instr := none

end Sys2Proof
end

