-- ==== Sys2Proof/Config.lean ====
section
/-!
DEFINITION. What an implementation fixes and the manual leaves open: opaque values, so no proof can lean on any of them.
Each is named in a row of notes/assumptions.
-/

namespace Sys2Proof.Config

/-- A free number: the n-th value the manual leaves open (log entry 2). -/
opaque freeNat : Nat → Nat

/-- What a kernel's scalar holds before the program writes it, by its number (08 R217; log entry 18). -/
opaque scalarInit : Nat → Nat

/-- Free bytes: the n-th run of bytes the manual leaves open (log entry 2). -/
opaque freeBytes : Nat → Bytes

/-- The 32 bytes of randomness of a signature over a message: FIPS 204 has them drawn or zero and the manual does not say (17 R434; log entry 51). -/
opaque signRandom : Bytes → Bytes

/-- The 32 bytes reconstructed from the root die's PUF (17 R437). -/
opaque puf : Bytes

/-- The fused seed (17 R437). -/
opaque fusedSeed : Bytes

/-- The fused identity digest (17 R437). -/
opaque fusedDigest : Bytes

/-- The fused signing-root digest (17 R434). -/
opaque signingRoot : Bytes

/-- The fused serial number (17 R445). -/
opaque serial : Nat

/-- The whole fuse array, given the minimum SVNs of targets 0, 1, 2 (17 R445). -/
opaque fuseArray : List Nat → Bytes

/-- The measurement of the boot ROM (17 R445). -/
opaque romMeasure : Bytes

/-- The IDCODE register and the boundary register as the BSDL file gives them (17 R446). -/
opaque bsdlIdcode : Bytes

/-- Boundary cells captured, by the number of free values drawn (17 R446). -/
opaque bsdlCapture : Nat → Bytes

/-- The flash address at which a written bank reads back otherwise, if any, by the number of free values drawn (17 R442, R451; log entry 50). -/
opaque flashMismatch : Nat → Option Nat

/-- The FW version IDENTIFY reports where no Oluat image is loaded. -/
opaque recoveryVersion : Nat

/-- What another device's memory holds: by free values drawn, remote address and length (log entry 14). -/
opaque remoteBytes : Nat → Nat → Nat → Bytes

/-- Block codecs of the bramble lane (05 R153, R156; log entry 15): brotli pages, bzip2 and xz blocks; codec name and data, none where it cannot be decoded. -/
opaque brambleUnpack : Bytes → Bytes → Option Bytes

/-- A number that the manual leaves open in a job's output, by what names it within the job: the same job finds the same value again (04 R104; log entry 114). -/
opaque jobNat : List Nat → Nat

/-- Bytes that the manual leaves open in a job's output, in the same way (log entry 114). -/
opaque jobBytes : List Nat → Bytes

/-- The group of banks to which a key belongs by the bits of its unit 0 under HASH_MASK: bits, groups (07 R194; log entry 30). -/
opaque matchGroup : Nat → Nat → Nat

/-- The bucket of a join table in which a row lies: byte form of its key, buckets (07 R209; log entry 20). -/
opaque joinBucket : Bytes → Nat → Nat

/-- What a key wider than its table's entries looks like to the CAM: key and width, where the image shows no types (07 R192; log entry 72). -/
opaque wideKey : Bytes → Nat → Bytes

/-- The order in which the top-k engine takes tied candidates with TIES 1: key and tied indices (09 R252; 04 R108; log entry 17). -/
opaque tieOrder : Nat → List Nat → List Nat

end Sys2Proof.Config
end

