-- ==== Sys2Proof/Machine/Bits.lean ====
section
/-!
DEFINITION. Bit fields, byte order and sign extension (00_scope.md R4, R5, R9).
Numbers of the manual's fields are natural numbers below two to their width; bytes are `BitVec 8`.
-/

namespace Sys2Proof.Machine

/-- `2 ^ n`. -/
def pow2 (n : Nat) : Nat := 1 <<< n

/-- The low `w` bits of `v` (R9: unsigned arithmetic wraps). -/
def wrap (w v : Nat) : Nat := v % pow2 w

/-- Bits `[hi:lo]` of `v`, both ends included (R4). -/
def field (v hi lo : Nat) : Nat := (v >>> lo) % pow2 (hi - lo + 1)

/-- Bit `i` of `v`. -/
def bit (v i : Nat) : Bool := v.testBit i

/-- 1 for true, 0 for false. -/
def b2n (b : Bool) : Nat := if b then 1 else 0

/-- The value of `w` bits read as two's complement. -/
def toSigned (w v : Nat) : Int :=
  if w ≠ 0 ∧ v.testBit (w - 1) then (v : Int) - (pow2 w : Int) else (v : Int)

/-- The `w`-bit two's complement form of an integer, wrapping. -/
def ofSigned (w : Nat) (x : Int) : Nat := (x % (pow2 w : Int)).toNat

/-- A byte from the low 8 bits of a number. -/
def byteOf (v : Nat) : Byte := BitVec.ofNat 8 v

/-- The `n` little-endian bytes of `v` (R5). -/
def le : (n v : Nat) → Bytes
  | 0, _ => []
  | n + 1, v => byteOf v :: le n (v >>> 8)

/-- The number that little-endian bytes hold (R5). -/
def leNat : Bytes → Nat
  | [] => 0
  | b :: bs => b.toNat + 256 * leNat bs

/-- `n` zero bytes. -/
def zeros (n : Nat) : Bytes := List.replicate n 0

/-- `len` bytes from offset `off`; bytes past the end read as zero. -/
def slice (bs : Bytes) (off len : Nat) : Bytes :=
  let t := (bs.drop off).take len
  t ++ zeros (len - t.length)

/-- The byte at offset `i` as a number; zero past the end. -/
def u8at (bs : Bytes) (i : Nat) : Nat := (bs.getD i 0).toNat

/-- A little-endian field of `n` bytes at offset `i`. -/
def uat (bs : Bytes) (i n : Nat) : Nat := leNat (slice bs i n)

/-- A little-endian u16 at offset `i`. -/
def u16at (bs : Bytes) (i : Nat) : Nat := uat bs i 2

/-- A little-endian u32 at offset `i`. -/
def u32at (bs : Bytes) (i : Nat) : Nat := uat bs i 4

/-- A little-endian u64 at offset `i`. -/
def u64at (bs : Bytes) (i : Nat) : Nat := uat bs i 8

/-- True when every byte of the range is zero. -/
def allZero (bs : Bytes) (off len : Nat) : Bool := (slice bs off len).all (· == 0)

/-- Pads bytes with zeros to a length. -/
def padTo (n : Nat) (bs : Bytes) : Bytes := bs.take n ++ zeros (n - bs.length)

/-- Ceiling division. -/
def ceilDiv (a b : Nat) : Nat := (a + b - 1) / b

/-- `a` rounded up to a multiple of `b`. -/
def roundUp (a b : Nat) : Nat := ceilDiv a b * b

/-- Number of bits of `v`: 0 for 0, else one more than the highest set bit. -/
def bitLen (v : Nat) : Nat := if v = 0 then 0 else Nat.log2 v + 1

/-- Replaces element `i` of a list. -/
def setAt (xs : List α) (i : Nat) (a : α) : List α := xs.set i a

/-- Applies `f` to element `i` of a list; no change past the end. -/
def modifyAt (xs : List α) (i : Nat) (f : α → α) : List α :=
  match xs[i]? with
  | some a => xs.set i (f a)
  | none => xs

/-- First value of a key in a list of pairs. -/
def assocGet [BEq κ] (xs : List (κ × α)) (k : κ) : Option α :=
  match xs.find? (fun p => p.1 == k) with
  | some p => some p.2
  | none => none

/-- The pairs without a key. -/
def assocDel [BEq κ] (xs : List (κ × α)) (k : κ) : List (κ × α) := xs.filter (fun p => !(p.1 == k))

/-- The pairs with a key's value replaced or added at the end. -/
def assocSet [BEq κ] (xs : List (κ × α)) (k : κ) (a : α) : List (κ × α) :=
  if xs.any (fun p => p.1 == k) then xs.map (fun p => if p.1 == k then (k, a) else p) else xs ++ [(k, a)]

/-- Inserts into a list kept in ascending order of `key`. -/
def insertBy (key : α → Nat) (a : α) : List α → List α
  | [] => [a]
  | b :: bs => if key a < key b then a :: b :: bs else b :: insertBy key a bs

/-- A list in ascending order of `key`, equal keys in their given order. -/
def sortBy (key : α → Nat) (xs : List α) : List α := xs.foldr (fun a acc =>
  match acc with
  | [] => [a]
  | _ => insertByLe key a acc) []
where
  /-- Inserts before the first element whose key is not lower. -/
  insertByLe (key : α → Nat) (a : α) : List α → List α
    | [] => [a]
    | b :: bs => if key a ≤ key b then a :: b :: bs else b :: insertByLe key a bs

/-- True when no element repeats. -/
def nodup [BEq α] : List α → Bool
  | [] => true
  | a :: as => !(as.contains a) && nodup as

/-- ASCII text as bytes. -/
def ascii (s : String) : Bytes := s.toList.map (fun c => byteOf c.toNat)

end Sys2Proof.Machine
end

