-- ==== Sys2Proof/Machine/Crc.lean ====
section
/-!
DEFINITION. The checks the manual names: CRC-64/NVME (02_tiles_queues_stations.md, The seal, R31), CRC-32C (06 R170, 08 R233, 14 R359),
and CRC-32 and Adler-32 of the gzip and zlib formats (05 R144).
-/

namespace Sys2Proof.Machine

/-- One bit of a reflected CRC. -/
def crcBit (poly c : Nat) : Nat := if c % 2 = 1 then (c / 2) ^^^ poly else c / 2

/-- `n` bits of a reflected CRC. -/
def crcBits (poly : Nat) : Nat → Nat → Nat
  | 0, c => c
  | n + 1, c => crcBits poly n (crcBit poly c)

/-- A reflected CRC over bytes from a register value. -/
def crcRun (poly : Nat) : Bytes → Nat → Nat
  | [], c => c
  | b :: bs, c => crcRun poly bs (crcBits poly 8 (c ^^^ b.toNat))

/-- CRC-64/NVME: polynomial 0xAD93_D235_94C9_3659 reflected, all-ones initial value and final XOR. -/
def crc64 (bs : Bytes) : Nat := crcRun 0x9A6C9329AC4BC9B5 bs 0xFFFFFFFFFFFFFFFF ^^^ 0xFFFFFFFFFFFFFFFF

/-- CRC-32C (Castagnoli). -/
def crc32c (bs : Bytes) : Nat := crcRun 0x82F63B78 bs 0xFFFFFFFF ^^^ 0xFFFFFFFF

/-- CRC-32 of gzip. -/
def crc32 (bs : Bytes) : Nat := crcRun 0xEDB88320 bs 0xFFFFFFFF ^^^ 0xFFFFFFFF

/-- The two sums of Adler-32. -/
def adlerRun : Bytes → Nat → Nat → Nat × Nat
  | [], a, b => (a, b)
  | x :: xs, a, b =>
    let a' := (a + x.toNat) % 65521
    adlerRun xs a' ((b + a') % 65521)

/-- Adler-32 of zlib. -/
def adler32 (bs : Bytes) : Nat :=
  let p := adlerRun bs 1 0
  p.2 * 65536 + p.1

end Sys2Proof.Machine
end

