-- ==== Sys2Proof/Machine/Hash.lean ====
section
/-!
DEFINITION. The published hashes the manual names (00_scope.md R9: a function named after a published algorithm computes it exactly):
xxhash64 and murmur3_x64_128 (08_grain_kernels.md R232, R233) and SHAKE256 (11 R282, 15 R386, 17 R433 to R437).
-/

namespace Sys2Proof.Machine

def xxP1 : U64 := 0x9E3779B185EBCA87#64
def xxP2 : U64 := 0xC2B2AE3D27D4EB4F#64
def xxP3 : U64 := 0x165667B19E3779F9#64
def xxP4 : U64 := 0x85EBCA77C2B2AE63#64
def xxP5 : U64 := 0x27D4EB2F165667C5#64

/-- A u64 from the first 8 bytes, little-endian. -/
def word64 (bs : Bytes) : U64 := BitVec.ofNat 64 (leNat (bs.take 8))

/-- A u32 from the first 4 bytes, zero-extended. -/
def word32 (bs : Bytes) : U64 := BitVec.ofNat 64 (leNat (bs.take 4))

/-- One lane round of xxhash64. -/
def xxRound (acc inp : U64) : U64 := (acc + inp * xxP2).rotateLeft 31 * xxP1

/-- Folds a lane accumulator into the hash. -/
def xxMerge (h acc : U64) : U64 := (h ^^^ xxRound 0 acc) * xxP1 + xxP4

/-- The four lanes over whole 32-byte stripes; answers the lanes and the bytes left. -/
def xxStripes : Nat → U64 → U64 → U64 → U64 → Bytes → (U64 × U64 × U64 × U64) × Bytes
  | 0, a, b, c, d, bs => ((a, b, c, d), bs)
  | n + 1, a, b, c, d, bs =>
    xxStripes n (xxRound a (word64 bs)) (xxRound b (word64 (bs.drop 8)))
      (xxRound c (word64 (bs.drop 16))) (xxRound d (word64 (bs.drop 24))) (bs.drop 32)

/-- The 8-byte steps of the tail. -/
def xxTail8 : Nat → U64 → Bytes → U64 × Bytes
  | 0, h, bs => (h, bs)
  | n + 1, h, bs =>
    xxTail8 n ((h ^^^ xxRound 0 (word64 bs)).rotateLeft 27 * xxP1 + xxP4) (bs.drop 8)

/-- The single-byte steps of the tail. -/
def xxTail1 : Bytes → U64 → U64
  | [], h => h
  | b :: bs, h => xxTail1 bs ((h ^^^ (BitVec.ofNat 64 b.toNat * xxP5)).rotateLeft 11 * xxP1)

/-- xxhash64 of bytes under a 64-bit seed. -/
def xxhash64 (bs : Bytes) (seed : Nat) : Nat :=
  let s : U64 := BitVec.ofNat 64 seed
  let n := bs.length
  let st := xxStripes (n / 32) (s + xxP1 + xxP2) (s + xxP2) s (s - xxP1) bs
  let h0 : U64 :=
    if n < 32 then s + xxP5
    else
      let l := st.1
      xxMerge (xxMerge (xxMerge (xxMerge
        (l.1.rotateLeft 1 + l.2.1.rotateLeft 7 + l.2.2.1.rotateLeft 12 + l.2.2.2.rotateLeft 18)
        l.1) l.2.1) l.2.2.1) l.2.2.2
  let h1 := h0 + BitVec.ofNat 64 n
  let r := st.2
  let t8 := xxTail8 (r.length / 8) h1 r
  let h2 := if 4 ≤ t8.2.length then (t8.1 ^^^ (word32 t8.2 * xxP1)).rotateLeft 23 * xxP2 + xxP3 else t8.1
  let r2 := if 4 ≤ t8.2.length then t8.2.drop 4 else t8.2
  let h3 := xxTail1 r2 h2
  let h4 := (h3 ^^^ (h3 >>> 33)) * xxP2
  let h5 := (h4 ^^^ (h4 >>> 29)) * xxP3
  (h5 ^^^ (h5 >>> 32)).toNat

def murC1 : U64 := 0x87C37B91114253D5#64
def murC2 : U64 := 0x4CF5AD432745937F#64

/-- The k1 mix of murmur3_x64_128. -/
def murK1 (k : U64) : U64 := (k * murC1).rotateLeft 31 * murC2

/-- The k2 mix of murmur3_x64_128. -/
def murK2 (k : U64) : U64 := (k * murC2).rotateLeft 33 * murC1

/-- The 16-byte blocks of murmur3_x64_128. -/
def murBlocks : Nat → U64 → U64 → Bytes → (U64 × U64) × Bytes
  | 0, h1, h2, bs => ((h1, h2), bs)
  | n + 1, h1, h2, bs =>
    let a := ((h1 ^^^ murK1 (word64 bs)).rotateLeft 27 + h2) * 5 + 0x52DCE729#64
    let b := ((h2 ^^^ murK2 (word64 (bs.drop 8))).rotateLeft 31 + a) * 5 + 0x38495AB5#64
    murBlocks n a b (bs.drop 16)

/-- The finaliser of murmur3_x64_128. -/
def murFmix (k : U64) : U64 :=
  let a := (k ^^^ (k >>> 33)) * 0xFF51AFD7ED558CCD#64
  let b := (a ^^^ (a >>> 33)) * 0xC4CEB9FE1A85EC53#64
  b ^^^ (b >>> 33)

/-- murmur3_x64_128 of bytes under a 32-bit seed: the two 64-bit halves, first half first. -/
def murmur3 (bs : Bytes) (seed : Nat) : Nat × Nat :=
  let s : U64 := BitVec.ofNat 64 (wrap 32 seed)
  let n := bs.length
  let m := murBlocks (n / 16) s s bs
  let t := m.2
  let h2 := m.1.2 ^^^ (if 8 < t.length then murK2 (word64 (t.drop 8)) else 0)
  let h1 := m.1.1 ^^^ (if t.length = 0 then 0 else murK1 (word64 t))
  let a := h1 ^^^ BitVec.ofNat 64 n
  let b := h2 ^^^ BitVec.ofNat 64 n
  let a1 := a + b
  let b1 := b + a1
  let a2 := murFmix a1
  let b2 := murFmix b1
  let a3 := a2 + b2
  (a3.toNat, (b2 + a3).toNat)

/-- The round constants of Keccak-f[1600]. -/
def keccakRC : List U64 :=
  [0x0000000000000001#64, 0x0000000000008082#64, 0x800000000000808A#64, 0x8000000080008000#64,
   0x000000000000808B#64, 0x0000000080000001#64, 0x8000000080008081#64, 0x8000000000008009#64,
   0x000000000000008A#64, 0x0000000000000088#64, 0x0000000080008009#64, 0x000000008000000A#64,
   0x000000008000808B#64, 0x800000000000008B#64, 0x8000000000008089#64, 0x8000000000008003#64,
   0x8000000000008002#64, 0x8000000000000080#64, 0x000000000000800A#64, 0x800000008000000A#64,
   0x8000000080008081#64, 0x8000000000008080#64, 0x0000000080000001#64, 0x8000000080008008#64]

/-- The rotation of lane x + 5 y. -/
def keccakRot : List Nat :=
  [0, 1, 62, 28, 27, 36, 44, 6, 55, 20, 3, 10, 43, 25, 39, 41, 45, 15, 21, 8, 18, 2, 61, 56, 14]

/-- One round of Keccak-f[1600] on 25 lanes, lane x + 5 y at that index. -/
def keccakRound (a : List U64) (rc : U64) : List U64 :=
  let l (i : Nat) : U64 := a.getD i 0
  let c := (List.range 5).map (fun x => l x ^^^ l (x + 5) ^^^ l (x + 10) ^^^ l (x + 15) ^^^ l (x + 20))
  let d := (List.range 5).map (fun x => c.getD ((x + 4) % 5) 0 ^^^ (c.getD ((x + 1) % 5) 0).rotateLeft 1)
  let t := (List.range 25).map (fun i => (l i ^^^ d.getD (i % 5) 0).rotateLeft (keccakRot.getD i 0))
  -- lane (x, y) moves to (y, 2 x + 3 y)
  let b := (List.range 25).map (fun i =>
    let x := i % 5; let y := i / 5
    -- the source (x', y') with y' = x and 2 x' + 3 y' = y modulo 5
    let x' := (x + 3 * y) % 5
    t.getD (x' + 5 * x) 0)
  let e := (List.range 25).map (fun i =>
    let x := i % 5; let y := i / 5
    b.getD i 0 ^^^ (~~~ (b.getD ((x + 1) % 5 + 5 * y) 0) &&& b.getD ((x + 2) % 5 + 5 * y) 0))
  match e with
  | h :: r => (h ^^^ rc) :: r
  | [] => []

/-- Keccak-f[1600]. -/
def keccakF (a : List U64) : List U64 := keccakRC.foldl keccakRound a

/-- XORs a 136-byte block into the state. -/
def keccakAbsorb (a : List U64) (blk : Bytes) : List U64 :=
  keccakF ((List.range 25).map (fun i =>
    if i < 17 then a.getD i 0 ^^^ word64 (blk.drop (8 * i)) else a.getD i 0))

/-- Absorbs whole blocks. -/
def shakeAbsorb : Nat → List U64 → Bytes → List U64
  | 0, a, _ => a
  | n + 1, a, bs => shakeAbsorb n (keccakAbsorb a (bs.take 136)) (bs.drop 136)

/-- Squeezes blocks of 136 bytes. -/
def shakeSqueeze : Nat → List U64 → Bytes
  | 0, _ => []
  | n + 1, a => ((a.take 17).map (fun w => le 8 w.toNat)).flatten ++ shakeSqueeze n (keccakF a)

/-- SHAKE256: `out` bytes of output over a message. -/
def shake256 (msg : Bytes) (out : Nat) : Bytes :=
  let padLen := 136 - msg.length % 136
  let pad : Bytes := if padLen = 1 then [0x9F] else [0x1F] ++ zeros (padLen - 2) ++ [0x80]
  let m := msg ++ pad
  let a := shakeAbsorb (m.length / 136) (List.replicate 25 0) m
  (shakeSqueeze (out / 136 + 1) a).take out

end Sys2Proof.Machine
end

