-- ==== Sys2Proof/Machine/Mldsa.lean ====
section
/-!
DEFINITION. ML-DSA-65 of FIPS 204 in its pure form with an empty context string (17 R434, R437; 00 R9): key generation, signing and verification.
The manual names the standard and does not repeat it; its parameters and encodings here are FIPS 204's (log entry 51, PRESUMED).
-/

namespace Sys2Proof.Machine

open Sys2Proof

/-- The modulus. -/
def dsaQ : Nat := 8380417

/-- SHAKE with blocks of `rate` bytes: 168 is SHAKE128, 136 is SHAKE256. -/
def shakeState (rate : Nat) (msg : Bytes) : List U64 :=
  let padLen := rate - msg.length % rate
  let m := msg ++ (if padLen = 1 then [0x9F] else [0x1F] ++ zeros (padLen - 2) ++ [0x80])
  let absorb (a : List U64) (blk : Bytes) : List U64 :=
    keccakF ((List.range 25).map (fun i => if 8 * i < rate then a.getD i 0 ^^^ word64 (blk.drop (8 * i)) else a.getD i 0))
  (List.range (m.length / rate)).foldl (fun a i => absorb a (slice m (rate * i) rate)) (List.replicate 25 0)

/-- The bytes a SHAKE state gives before its next permutation. -/
def shakeOut (rate : Nat) (a : List U64) : Bytes := ((a.take (rate / 8)).map (fun w => le 8 w.toNat)).flatten

/-- The numbers a sampler draws from a SHAKE stream, block after block until it has enough (FIPS 204 algorithms 30 and 31). -/
def drawMany (rate want : Nat) (pick : Bytes → List Nat) : Nat → List U64 → List Nat → List Nat
  | 0, _, acc => acc
  | n + 1, a, acc => if want ≤ acc.length then acc.take want else drawMany rate want pick n (keccakF a) (acc ++ pick (shakeOut rate a))

/-- Groups of n bytes. -/
def groupsOf (n : Nat) : Nat → Bytes → List Bytes
  | 0, _ => []
  | k + 1, bs => bs.take n :: groupsOf n k (bs.drop n)

/-- A polynomial of the matrix in transformed form: three bytes a coefficient, those not below the modulus rejected. -/
def dsaUniform (seed : Bytes) : List Nat :=
  drawMany 168 256 (fun bs => ((groupsOf 3 56 bs).map (fun g => leNat g % pow2 23)).filter (fun z => decide (z < dsaQ))) 32 (shakeState 168 seed) []

/-- A secret polynomial: four bits a coefficient, 4 less the value, values above 8 rejected. -/
def dsaBounded (seed : Bytes) : List Nat :=
  drawMany 136 256 (fun bs => ((bs.map (fun b => [b.toNat % 16, b.toNat / 16])).flatten.filter (fun v => decide (v < 9))).map (fun v => (dsaQ + 4 - v) % dsaQ))
    32 (shakeState 136 seed) []

/-- x to the e modulo the modulus, e below 2^24. -/
def powQ (x e : Nat) : Nat :=
  (List.range 24).reverse.foldl (fun acc i => let sq := acc * acc % dsaQ; if e.testBit i then sq * x % dsaQ else sq) 1

/-- The eight bits of a number in reverse order. -/
def rev8 (m : Nat) : Nat := (List.range 8).foldl (fun acc i => acc * 2 + b2n (m.testBit i)) 0

/-- The transform's factor of node m. -/
def zetaQ (m : Nat) : Nat := powQ 1753 (rev8 m)

/-- Sum and difference of two coefficients. -/
def addQ (a b : Nat) : Nat := (a + b) % dsaQ
def subQ (a b : Nat) : Nat := (a + dsaQ - b) % dsaQ

/-- The transform of 2^k coefficients at node m: its halves are the transforms at nodes 2m and 2m + 1. -/
def nttQ : Nat → Nat → List Nat → List Nat
  | 0, _, w => w
  | k + 1, m, w =>
    let z := zetaQ m
    let lo := w.take (2 ^ k)
    let hi := (w.drop (2 ^ k)).map (fun x => z * x % dsaQ)
    nttQ k (2 * m) (List.zipWith addQ lo hi) ++ nttQ k (2 * m + 1) (List.zipWith subQ lo hi)

/-- Its inverse. -/
def invNttQ : Nat → Nat → List Nat → List Nat
  | 0, _, w => w
  | k + 1, m, w =>
    let half := powQ 2 (dsaQ - 2)
    let zi := powQ (2 * zetaQ m) (dsaQ - 2)
    let a := invNttQ k (2 * m) (w.take (2 ^ k))
    let b := invNttQ k (2 * m + 1) (w.drop (2 ^ k))
    List.zipWith (fun x y => addQ x y * half % dsaQ) a b ++ List.zipWith (fun x y => subQ x y * zi % dsaQ) a b

/-- The transform of a polynomial and its inverse. -/
def toNtt (w : List Nat) : List Nat := nttQ 8 1 w
def ofNtt (w : List Nat) : List Nat := invNttQ 8 1 w

/-- Products of transformed polynomials, sums and differences. -/
def mulPoly (a b : List Nat) : List Nat := List.zipWith (fun x y => x * y % dsaQ) a b
def addPoly (a b : List Nat) : List Nat := List.zipWith addQ a b
def subPoly (a b : List Nat) : List Nat := List.zipWith subQ a b

/-- The matrix of a public seed: 6 rows of 5 transformed polynomials. -/
def dsaMatrix (rho : Bytes) : List (List (List Nat)) :=
  (List.range 6).map (fun r => (List.range 5).map (fun s => dsaUniform (rho ++ le 1 s ++ le 1 r)))

/-- The matrix times a vector of transformed polynomials. -/
def matVec (m : List (List (List Nat))) (v : List (List Nat)) : List (List Nat) :=
  m.map (fun row => (List.zipWith mulPoly row v).foldl addPoly (List.replicate 256 0))

/-- A coefficient as the signed number nearest zero. -/
def centred (x : Nat) : Int := if 2 * x < dsaQ then (x : Int) else (x : Int) - dsaQ

/-- A signed number as a coefficient. -/
def ofCentred (x : Int) : Nat := (x % (dsaQ : Int)).toNat

/-- The largest magnitude of a polynomial's coefficients. -/
def normQ (w : List Nat) : Nat := w.foldl (fun m x => max m (centred x).natAbs) 0

/-- The low 13 bits of a coefficient, signed, and the rest (algorithm 35). -/
def power2Round (r : Nat) : Nat × Int :=
  let m := r % 8192
  let r0 : Int := if m ≤ 4096 then (m : Int) else (m : Int) - 8192
  ((((r : Int) - r0) / 8192).toNat, r0)

/-- A coefficient by multiples of 523,776: the high part, below 16, and the signed rest (algorithm 36). -/
def decomposeQ (r : Nat) : Nat × Int :=
  let m := r % 523776
  let r0 : Int := if m ≤ 261888 then (m : Int) else (m : Int) - 523776
  if (r : Int) - r0 = dsaQ - 1 then (0, r0 - 1) else ((((r : Int) - r0) / 523776).toNat, r0)

/-- The high part that a hint corrects (algorithm 40). -/
def useHint (h : Bool) (r : Nat) : Nat :=
  let (r1, r0) := decomposeQ r
  if !h then r1 else if 0 < r0 then (r1 + 1) % 16 else (r1 + 15) % 16

/-- Numbers of w bits each, packed from the lowest bit on. -/
def joinBits (w : Nat) (xs : List Nat) : Bytes := le (ceilDiv (w * xs.length) 8) (xs.foldr (fun x acc => x + acc * pow2 w) 0)

/-- n numbers of w bits each. -/
def splitBits (w n : Nat) (bs : Bytes) : List Nat := let v := leNat bs; (List.range n).map (fun i => (v >>> (w * i)) % pow2 w)

/-- A polynomial packed as `top` less each coefficient (algorithm 17), and read back (algorithm 19). -/
def packFrom (w top : Nat) (p : List Nat) : Bytes := joinBits w (p.map (fun x => ((top : Int) - centred x).toNat))
def unpackFrom (w top : Nat) (bs : Bytes) : List Nat := (splitBits w 256 bs).map (fun v => ofCentred ((top : Int) - v))

/-- Polynomials of `size` bytes each. -/
def polysOf (n size : Nat) (unpack : Bytes → List Nat) (bs : Bytes) : List (List Nat) := (List.range n).map (fun i => unpack (slice bs (size * i) size))

/-- ML-DSA.KeyGen_internal (algorithm 6): the public key of 1,952 bytes and the secret key of 4,032 bytes of a 32-byte seed. -/
def mldsaKeygen (xi : Bytes) : Bytes × Bytes :=
  let g := shake256 (padTo 32 xi ++ [6, 5]) 128
  let rho := g.take 32
  let s (i : Nat) : List Nat := dsaBounded (slice g 32 64 ++ le 2 i)
  let s1 := (List.range 5).map s
  let s2 := (List.range 6).map (fun i => s (5 + i))
  let t := List.zipWith addPoly ((matVec (dsaMatrix rho) (s1.map toNtt)).map ofNtt) s2
  let parts := t.map (fun p => p.map power2Round)
  let pk := rho ++ (parts.map (fun p => joinBits 10 (p.map (·.1)))).flatten
  let t0 := parts.map (fun p => joinBits 13 (p.map (fun x => ((4096 : Int) - x.2).toNat)))
  (pk, rho ++ slice g 96 32 ++ shake256 pk 64 ++ ((s1 ++ s2).map (packFrom 4 4)).flatten ++ t0.flatten)

/-- The challenge: 49 coefficients 1 or -1 (algorithm 29). The stream of positions is cut after 16 blocks. -/
def sampleInBall (seed : Bytes) : List Nat :=
  let stream := shake256 seed (136 * 16)
  let signs := leNat (stream.take 8)
  ((List.range 49).foldl (fun (c, bs) k =>
    let i := 207 + k
    let bs := bs.dropWhile (fun b => decide (i < b.toNat))
    let j := (bs.headD 0).toNat
    ((c.set i (c.getD j 0)).set j (if signs.testBit k then dsaQ - 1 else 1), bs.drop 1)) (List.replicate 256 0, stream.drop 8)).1

/-- The high parts of a vector, four bits each (algorithm 28). -/
def packHigh (w : List (List Nat)) : Bytes := (w.map (joinBits 4)).flatten

/-- The hints of a vector (algorithm 20). -/
def packHints (h : List (List Bool)) : Bytes :=
  let at1 (p : List Bool) : List Nat := (p.zipIdx.filter (·.1)).map (·.2)
  let pos := (h.map at1).flatten
  let ends := (List.range h.length).map (fun i => ((h.take (i + 1)).map (fun p => (at1 p).length)).foldl (· + ·) 0)
  padTo 55 (pos.map byteOf) ++ ends.map byteOf

/-- Hints read back: none where their form is wrong (algorithm 21). -/
def unpackHints (bs : Bytes) : Option (List (List Bool)) :=
  let ends := (List.range 6).map (fun i => u8at bs (55 + i))
  let starts := 0 :: ends
  let part (i : Nat) : List Nat := (slice bs (starts.getD i 0) (ends.getD i 0 - starts.getD i 0)).map (·.toNat)
  let rising (xs : List Nat) : Bool := (xs.zip (xs.drop 1)).all (fun p => decide (p.1 < p.2))
  if (List.range 6).all (fun i => decide (starts.getD i 0 ≤ ends.getD i 0) && decide (ends.getD i 0 ≤ 55) && rising (part i)) &&
     allZero bs (ends.getD 5 0) (55 - ends.getD 5 0) then
    some ((List.range 6).map (fun i => (List.range 256).map (fun j => (part i).contains j)))
  else none

/-- The message representative of a key's digest and a message with an empty context string (algorithms 2 and 7). -/
def dsaMu (tr msg : Bytes) : Bytes := shake256 (tr ++ [0, 0] ++ msg) 64

/-- The secret key's parts that signing uses. -/
structure DsaSecret where
  mat : List (List (List Nat))
  s1 : List (List Nat)
  s2 : List (List Nat)
  t0 : List (List Nat)
  deriving DecidableEq, Repr

/-- One attempt to sign at a counter (algorithm 7): none where the attempt is rejected. -/
def signAttempt (k : DsaSecret) (mu rho2 : Bytes) (kappa : Nat) : Option Bytes :=
  let y := (List.range 5).map (fun r => unpackFrom 20 524288 (shake256 (rho2 ++ le 2 (kappa + r)) 640))
  let w := (matVec k.mat (y.map toNtt)).map ofNtt
  let c := shake256 (mu ++ packHigh (w.map (fun p => p.map (fun x => (decomposeQ x).1)))) 48
  let ch := toNtt (sampleInBall c)
  let by_ (v : List (List Nat)) : List (List Nat) := v.map (fun p => ofNtt (mulPoly ch p))
  let z := List.zipWith addPoly y (by_ k.s1)
  let r := List.zipWith subPoly w (by_ k.s2)
  let ct0 := by_ k.t0
  let low := (r.flatten.foldl (fun m x => max m (decomposeQ x).2.natAbs) 0)
  let h := List.zipWith (fun p q => List.zipWith (fun x t => decide ((decomposeQ (addQ x t)).1 ≠ (decomposeQ x).1)) p q) r ct0
  let ones := (h.flatten.filter id).length
  if 524288 - 196 ≤ normQ z.flatten ∨ 261888 - 196 ≤ low ∨ 261888 ≤ normQ ct0.flatten ∨ 55 < ones then none
  else some (c ++ (z.map (packFrom 20 524288)).flatten ++ packHints h)

/-- The attempts in turn; after `n` of them, none. -/
def signLoop (k : DsaSecret) (mu rho2 : Bytes) : Nat → Nat → Option Bytes
  | 0, _ => none
  | n + 1, kappa => match signAttempt k mu rho2 kappa with
    | some s => some s
    | none => signLoop k mu rho2 n (kappa + 5)

/-- A signature of 3,309 bytes under a secret key with 32 bytes of randomness (algorithms 2 and 7; 17 R434). FIPS 204 allows a limit of 814 attempts. -/
def mldsaSign (sk rnd msg : Bytes) : Bytes :=
  let mu := dsaMu (slice sk 64 64) msg
  let k : DsaSecret :=
    { mat := dsaMatrix (sk.take 32),
      s1 := (polysOf 5 128 (unpackFrom 4 4) (slice sk 128 640)).map toNtt,
      s2 := (polysOf 6 128 (unpackFrom 4 4) (slice sk 768 768)).map toNtt,
      t0 := (polysOf 6 416 (unpackFrom 13 4096) (slice sk 1536 2496)).map toNtt }
  (signLoop k mu (shake256 (slice sk 32 32 ++ padTo 32 rnd ++ mu) 64) 814 0).getD []

/-- Verification of a signature over a message under a public key (algorithms 3 and 8; 17 R434). -/
def mldsaVerify (pk msg sig : Bytes) : Bool :=
  match unpackHints (slice sig 3248 61) with
  | none => false
  | some h =>
    let z := polysOf 5 640 (unpackFrom 20 524288) (slice sig 48 3200)
    let t1 := polysOf 6 320 (fun b => (splitBits 10 256 b).map (fun x => x * 8192 % dsaQ)) (slice pk 32 1920)
    let mu := dsaMu (shake256 pk 64) msg
    let ch := toNtt (sampleInBall (sig.take 48))
    let az := matVec (dsaMatrix (pk.take 32)) (z.map toNtt)
    let w := List.zipWith (fun a t => ofNtt (subPoly a (mulPoly ch (toNtt t)))) az t1
    let high := List.zipWith (List.zipWith useHint) h w
    decide (pk.length = 1952) && decide (sig.length = 3309) && decide (normQ z.flatten < 524288 - 196) && (shake256 (mu ++ packHigh high) 48 == sig.take 48)

end Sys2Proof.Machine
end

