-- ==== Sys2Proof/Machine/Float.lean ====
section
/-!
DEFINITION. The floating-point formats and their rounding (02 R42, 04 R112, 08 R226, R230): every result is the exact value rounded once.
-/

namespace Sys2Proof.Machine

/-- A binary format: precision, exponent range, field widths. `e4m3` marks the format that has no infinity and one NaN per sign (R226). -/
structure Fmt where
  p : Nat
  emin : Int
  emax : Int
  expBits : Nat
  e4m3 : Bool
  deriving DecidableEq, Repr

def fp64 : Fmt := { p := 53, emin := -1022, emax := 1023, expBits := 11, e4m3 := false }
def fp32 : Fmt := { p := 24, emin := -126, emax := 127, expBits := 8, e4m3 := false }
def fp16 : Fmt := { p := 11, emin := -14, emax := 15, expBits := 5, e4m3 := false }
def bf16 : Fmt := { p := 8, emin := -126, emax := 127, expBits := 8, e4m3 := false }
def fp8e4m3 : Fmt := { p := 4, emin := -6, emax := 8, expBits := 4, e4m3 := true }
def fp8e5m2 : Fmt := { p := 3, emin := -14, emax := 15, expBits := 5, e4m3 := false }

/-- Width of the format in bits. -/
def Fmt.width (f : Fmt) : Nat := f.expBits + f.p

/-- Fraction field width. -/
def Fmt.man (f : Fmt) : Nat := f.p - 1

/-- The all-ones exponent field. -/
def Fmt.expOnes (f : Fmt) : Nat := pow2 f.expBits - 1

/-- The canonical NaN of R112. -/
def Fmt.nan (f : Fmt) : Nat :=
  if f.e4m3 then 0x7F
  else if f.p = 3 then 0x7E
  else f.expOnes * pow2 f.man + pow2 (f.man - 1)

/-- Infinity of a sign; E4M3 has none, and NaN takes its place (R226, R230). -/
def Fmt.inf (f : Fmt) (neg : Bool) : Nat :=
  if f.e4m3 then f.nan else (if neg then pow2 (f.width - 1) else 0) + f.expOnes * pow2 f.man

/-- The largest finite value of a sign. -/
def Fmt.maxFin (f : Fmt) (neg : Bool) : Nat :=
  (if neg then pow2 (f.width - 1) else 0) +
    (if f.e4m3 then 0x7E else f.expOnes * pow2 f.man - 1)

/-- A decoded value: NaN, an infinity, or `± m × 2 ^ e` exactly. -/
inductive FVal where
  | nan
  | inf (neg : Bool)
  | fin (neg : Bool) (m : Nat) (e : Int)
  deriving DecidableEq, Repr

/-- Reads the stored bits of a format. -/
def Fmt.decode (f : Fmt) (v : Nat) : FVal :=
  let neg := v.testBit (f.width - 1)
  let ex := field v (f.width - 2) f.man
  let fr := v % pow2 f.man
  if f.e4m3 ∧ ex = f.expOnes ∧ fr = pow2 f.man - 1 then .nan
  else if ¬ f.e4m3 ∧ ex = f.expOnes then (if fr = 0 then .inf neg else .nan)
  else if ex = 0 then .fin neg fr (f.emin - (f.man : Int))
  else .fin neg (fr + pow2 f.man) (f.emin - (f.man : Int) + (ex : Int) - 1)

/-- The rounding modes of R230: 0 nearest even, 1 toward zero, 2 toward −∞, 3 toward +∞. -/
inductive Rnd where
  | near | zero | down | up
  deriving DecidableEq, Repr

/-- The mode that IMM[1:0] names (R230). -/
def Rnd.ofImm (n : Nat) : Rnd :=
  match n % 4 with
  | 0 => .near
  | 1 => .zero
  | 2 => .down
  | _ => .up

/-- Whether a magnitude with kept part `s` is raised by one, given its first dropped bit and whether any lower bit or remainder is set. -/
def Rnd.raises (r : Rnd) (neg : Bool) (s : Nat) (half rest : Bool) : Bool :=
  match r with
  | .near => half && (rest || s % 2 == 1)
  | .zero => false
  | .down => neg && (half || rest)
  | .up => !neg && (half || rest)

/-- The bits of an overflow (R226, R230): infinity or the largest finite value, by mode, sign and saturation. -/
def Fmt.overflow (f : Fmt) (r : Rnd) (sat neg : Bool) : Nat :=
  if sat then f.maxFin neg
  else match r with
    | .near => f.inf neg
    | .zero => f.maxFin neg
    | .down => if neg then f.inf neg else f.maxFin neg
    | .up => if neg then f.maxFin neg else f.inf neg

/--
Rounds the magnitude `m × 2 ^ e`, plus a positive remainder below `2 ^ e` when `sticky`, once to the format.
With `sticky`, `m` carries at least two bits below the last kept bit (its makers see to it).
-/
def Fmt.round (f : Fmt) (r : Rnd) (sat neg : Bool) (m : Nat) (e : Int) (sticky : Bool) : Nat :=
  let sgn := if neg then pow2 (f.width - 1) else 0
  if m = 0 ∧ ¬ sticky then sgn
  else
    let lead : Int := e + (bitLen m : Int) - 1
    let lead' := if lead < f.emin then f.emin else lead
    let q : Int := lead' - (f.man : Int)
    let sh : Int := q - e
    let s0 : Nat := if sh ≤ 0 then m * pow2 (-sh).toNat else m / pow2 sh.toNat
    let half : Bool := if sh ≤ 0 then false else m.testBit (sh.toNat - 1)
    let rest : Bool := sticky || (if sh ≤ 1 then false else decide (m % pow2 (sh.toNat - 1) ≠ 0))
    let s1 := if r.raises neg s0 half rest then s0 + 1 else s0
    let s2 := if s1 = pow2 f.p then pow2 f.man else s1
    let q2 := if s1 = pow2 f.p then q + 1 else q
    let ex : Nat := if s2 < pow2 f.man then 0 else (q2 + (f.man : Int) - f.emin + 1).toNat
    let mag := ex * pow2 f.man + s2 % pow2 f.man
    if f.maxFin false < mag then f.overflow r sat neg else sgn + mag

/-- Rounds to nearest, ties to even, without saturation (R226). -/
def Fmt.rne (f : Fmt) (neg : Bool) (m : Nat) (e : Int) (sticky : Bool) : Nat := f.round .near false neg m e sticky

/-- Rounds an exact quotient `num / den × 2 ^ e` once. -/
def Fmt.roundQuot (f : Fmt) (r : Rnd) (sat neg : Bool) (num den : Nat) (e : Int) : Nat :=
  let k := bitLen den + f.p + 8
  let n := num * pow2 k
  f.round r sat neg (n / den) (e - (k : Int)) (decide (n % den ≠ 0))

/-- Bits of the square root, from bit `n` down: the largest `x` with `x * x ≤ v`, given `x` so far. -/
def isqrtGo (v : Nat) : Nat → Nat → Nat
  | 0, x => x
  | n + 1, x =>
    let y := x + pow2 n
    isqrtGo v n (if y * y ≤ v then y else x)

/-- The integer square root. -/
def isqrt (v : Nat) : Nat := isqrtGo v (bitLen v / 2 + 1) 0

/-- Rounds the square root of `num / den × 2 ^ e` once to nearest. -/
def Fmt.roundSqrt (f : Fmt) (num den : Nat) (e : Int) : Nat :=
  -- scale so that the exponent is even and the root has more than p + 8 bits
  let k0 : Int := 2 * ((bitLen den : Int) + (f.p : Int) + 8)
  let k : Int := if (e - k0) % 2 = 0 then k0 else k0 + 1
  let n := num * pow2 k.toNat
  let v := n / den
  let s := isqrt v
  f.rne false s ((e - k) / 2) (decide (s * s ≠ v) || decide (n % den ≠ 0))

/-- Exact sum of two finite values, as sign, magnitude and exponent. -/
def faddExact (n1 : Bool) (m1 : Nat) (e1 : Int) (n2 : Bool) (m2 : Nat) (e2 : Int) : Bool × Nat × Int :=
  let e := min e1 e2
  let a : Int := (if n1 then -1 else 1) * ((m1 * pow2 (e1 - e).toNat : Nat) : Int)
  let b : Int := (if n2 then -1 else 1) * ((m2 * pow2 (e2 - e).toNat : Nat) : Int)
  let s := a + b
  -- an exact zero sum is +0 unless both terms are negative (IEEE 754, to nearest)
  (if s = 0 then n1 && n2 else decide (s < 0), s.natAbs, e)

/-- IEEE addition. -/
def Fmt.add (f : Fmt) (a b : FVal) : Nat :=
  match a, b with
  | .nan, _ => f.nan
  | _, .nan => f.nan
  | .inf n, .inf m => if n = m then f.inf n else f.nan
  | .inf n, _ => f.inf n
  | _, .inf n => f.inf n
  | .fin n1 m1 e1, .fin n2 m2 e2 =>
    let s := faddExact n1 m1 e1 n2 m2 e2
    f.rne s.1 s.2.1 s.2.2 false

/-- The value with its sign reversed. -/
def FVal.neg : FVal → FVal
  | .nan => .nan
  | .inf n => .inf (!n)
  | .fin n m e => .fin (!n) m e

/-- The sign bit of a value; NaN counts as positive. -/
def FVal.sign : FVal → Bool
  | .nan => false
  | .inf n => n
  | .fin n _ _ => n

/-- True for ±0. -/
def FVal.isZero : FVal → Bool
  | .fin _ 0 _ => true
  | _ => false

/-- IEEE multiplication, exact before its one rounding. -/
def Fmt.mul (f : Fmt) (a b : FVal) : Nat :=
  match a, b with
  | .nan, _ => f.nan
  | _, .nan => f.nan
  | .inf n, y => if y.isZero then f.nan else f.inf (n != y.sign)
  | x, .inf n => if x.isZero then f.nan else f.inf (n != x.sign)
  | .fin n1 m1 e1, .fin n2 m2 e2 => f.rne (n1 != n2) (m1 * m2) (e1 + e2) false

/-- IEEE division. -/
def Fmt.div (f : Fmt) (a b : FVal) : Nat :=
  match a, b with
  | .nan, _ => f.nan
  | _, .nan => f.nan
  | .inf _, .inf _ => f.nan
  | .inf n, y => f.inf (n != y.sign)
  | x, .inf n => f.rne (x.sign != n) 0 0 false
  | .fin n1 m1 e1, .fin n2 m2 e2 =>
    if m2 = 0 then (if m1 = 0 then f.nan else f.inf (n1 != n2))
    else if m1 = 0 then f.rne (n1 != n2) 0 0 false
    else f.roundQuot .near false (n1 != n2) m1 m2 (e1 - e2)

/-- Fused multiply-add: `a × b + c`, rounded once (R228). -/
def Fmt.fma (f : Fmt) (a b c : FVal) : Nat :=
  match a, b, c with
  | .fin n1 m1 e1, .fin n2 m2 e2, .fin n3 m3 e3 =>
    let s := faddExact (n1 != n2) (m1 * m2) (e1 + e2) n3 m3 e3
    f.rne s.1 s.2.1 s.2.2 false
  | .fin _ _ _, .fin _ _ _, z => f.add (.fin false 0 0) z
  | x, y, z =>
    -- an infinite or NaN product, or a NaN
    let pr : FVal := match x, y with
      | .nan, _ => .nan
      | _, .nan => .nan
      | .inf n, y' => if y'.isZero then .nan else .inf (n != y'.sign)
      | x', .inf n => if x'.isZero then .nan else .inf (n != x'.sign)
      | .fin _ _ _, .fin _ _ _ => .nan
    f.add pr z

/-- Square root, correctly rounded; −0 gives −0. -/
def Fmt.sqrt (f : Fmt) (a : FVal) : Nat :=
  match a with
  | .nan => f.nan
  | .inf n => if n then f.nan else f.inf false
  | .fin n m e => if m = 0 then f.rne n 0 0 false else if n then f.nan else f.roundSqrt m 1 e

/-- Reciprocal square root, correctly rounded; RSQRT(+0) = +∞ (R226), and RSQRT(−0) = −∞ as IEEE 754 gives it. -/
def Fmt.rsqrt (f : Fmt) (a : FVal) : Nat :=
  match a with
  | .nan => f.nan
  | .inf n => if n then f.nan else f.rne false 0 0 false
  | .fin n m e => if m = 0 then f.inf n else if n then f.nan else f.roundSqrt 1 m (-e)

/-- Compares two finite or infinite values: negative, zero or positive as `a` is below, equal to or above `b`; NaN gives none. -/
def FVal.cmp (a b : FVal) : Option Int :=
  match a, b with
  | .nan, _ => none
  | _, .nan => none
  | .inf n, .inf m => some (if n = m then 0 else if n then -1 else 1)
  | .inf n, _ => some (if n then -1 else 1)
  | _, .inf n => some (if n then 1 else -1)
  | .fin n1 m1 e1, .fin n2 m2 e2 =>
    let s := faddExact n1 m1 e1 (!n2) m2 e2
    some (if s.2.1 = 0 then 0 else if s.1 then -1 else 1)

/-- The order of MIN, MAX and ACCX (R226): as `cmp`, with −0 below +0. -/
def FVal.below (a b : FVal) : Bool :=
  match a.cmp b with
  | some c => if c = 0 then a.sign && !b.sign else decide (c < 0)
  | none => false

/-- Converts a decoded value to a format (R150, R230). -/
def Fmt.ofVal (f : Fmt) (r : Rnd) (sat : Bool) (a : FVal) : Nat :=
  match a with
  | .nan => f.nan
  | .inf n => if sat && f.e4m3 then f.maxFin n else f.inf n
  | .fin n m e => f.round r sat n m e false

/-- Converts an integer to a format. -/
def Fmt.ofInt (f : Fmt) (r : Rnd) (sat : Bool) (x : Int) : Nat := f.round r sat (decide (x < 0)) x.natAbs 0 false

/-- A finite value rounded to an integer in a mode. -/
def FVal.toInt (r : Rnd) (neg : Bool) (m : Nat) (e : Int) : Int :=
  let k := (-e).toNat
  let s : Nat :=
    if 0 ≤ e then m * pow2 e.toNat
    else
      let s0 := m / pow2 k
      let half := m.testBit (k - 1)
      let rest : Bool := decide (m % pow2 (k - 1) ≠ 0)
      if r.raises neg s0 half rest then s0 + 1 else s0
  if neg then -(s : Int) else (s : Int)

/-- FLOOR, CEIL, RINT, TRUNC (R228): the integral value in the same format; a zero result keeps the sign. -/
def Fmt.integral (f : Fmt) (r : Rnd) (a : FVal) : Nat :=
  match a with
  | .nan => f.nan
  | .inf n => f.inf n
  | .fin n m e => f.rne n (FVal.toInt r n m e).natAbs 0 false

/-- MOD on floating-point (R228): `a − trunc(a ÷ b) × b`, exact; b = 0 gives NaN. -/
def Fmt.fmod (f : Fmt) (a b : FVal) : Nat :=
  match a, b with
  | .nan, _ => f.nan
  | _, .nan => f.nan
  | .inf _, _ => f.nan
  | .fin n m e, .inf _ => f.rne n m e false
  | .fin n1 m1 e1, .fin _ m2 e2 =>
    if m2 = 0 then f.nan
    else
      let e := min e1 e2
      f.rne n1 ((m1 * pow2 (e1 - e).toNat) % (m2 * pow2 (e2 - e).toNat)) e false

end Sys2Proof.Machine
end

