-- ==== Sys2Proof/Machine/ExpLog.lean ====
section
/-!
DEFINITION. EXP, LOG, LOG1P and EXPM1, correctly rounded (08_grain_kernels.md R226, R228).
The exact value is enclosed by integers scaled by `2 ^ 400` and then rounded once.
DEDUCED: no FP32, FP16, BF16 or FP8 argument has a result so near a rounding boundary that 400 fraction bits do not decide it (log entry 3). Unsafe if one did.
-/

namespace Sys2Proof.Machine

/-- Fraction bits of the enclosure. -/
def elBits : Nat := 400

/-- One, scaled. -/
def elOne : Int := (pow2 elBits : Nat)

/-- `Σ r^n / n!` for `n` from `i`, with `t` the scaled term `r^(i-1) / (i-1)!`. -/
def expSeries (r : Int) : Nat → Nat → Int → Int
  | 0, _, _ => 0
  | n + 1, i, t =>
    let t' := t * r / elOne / (i : Int)
    t' + expSeries r n (i + 1) t'

/-- `Σ z^(2i+1) / (2i+1)`, with `t` the scaled power and `d` the odd divisor. -/
def atanhSeries (z2 : Int) : Nat → Nat → Int → Int
  | 0, _, _ => 0
  | n + 1, d, t => t / (d : Int) + atanhSeries z2 n (d + 2) (t * z2 / elOne)

/-- `ln ((1 + z) / (1 − z))`, scaled, for a scaled `z`. -/
def lnOfZ (z : Int) : Int := 2 * atanhSeries (z * z / elOne) 140 1 z

/-- `ln 2`, scaled. -/
def elLn2 : Int := lnOfZ (elOne / 3)

/-- `exp x` for a scaled `x`, as a scaled mantissa and a binary exponent. -/
def expScaled (x : Int) : Int × Int :=
  let k := (2 * x + elLn2) / (2 * elLn2)
  let r := x - k * elLn2
  (elOne + expSeries r 100 1 elOne, k)

/-- A finite value scaled by `2 ^ 400`; every finite value of the F formats is exact at that scale. -/
def elScale (neg : Bool) (m : Nat) (e : Int) : Int :=
  let v : Int := ((m * pow2 (e + (elBits : Int)).toNat : Nat) : Int)
  if neg then -v else v

/-- `ln` of the positive value `n × 2 ^ e`, scaled. -/
def lnScaled (n : Nat) (e : Int) : Int :=
  -- n = f × 2^j with f in [3/4, 3/2)
  let l := bitLen n
  let j : Nat := if 3 * pow2 l ≤ 4 * n then l else l - 1
  let num : Int := (n : Int) - (pow2 j : Nat)
  let den : Int := (n : Int) + (pow2 j : Nat)
  lnOfZ (num * elOne / den) + ((j : Int) + e) * elLn2

/-- Rounds a scaled value that is known not to be exact. -/
def Fmt.ofScaled (f : Fmt) (v : Int) : Nat :=
  -- a negative enclosure from below is moved to a magnitude from below
  if 0 ≤ v then f.rne false v.natAbs (-(elBits : Int)) true
  else f.rne true ((-v).toNat - 1) (-(elBits : Int)) true

/-- EXP. -/
def Fmt.exp (f : Fmt) (a : FVal) : Nat :=
  match a with
  | .nan => f.nan
  | .inf n => if n then 0 else f.inf false
  | .fin n m e =>
    if m = 0 then f.rne false 1 0 false
    else if ¬ n ∧ 0 < e + (bitLen m : Int) - 10 then f.overflow .near false false
    else if n ∧ 0 < e + (bitLen m : Int) - 10 then 0
    else
      let p := expScaled (elScale n m e)
      f.rne false p.1.toNat (p.2 - (elBits : Int)) true

/-- EXPM1; ±0 gives ±0. -/
def Fmt.expm1 (f : Fmt) (a : FVal) : Nat :=
  match a with
  | .nan => f.nan
  | .inf n => if n then f.rne true 1 0 false else f.inf false
  | .fin n m e =>
    if m = 0 then f.rne n 0 0 false
    else if ¬ n ∧ 0 < e + (bitLen m : Int) - 10 then f.overflow .near false false
    else if n ∧ 0 < e + (bitLen m : Int) - 10 then f.rne true (pow2 600 - 1) (-600) true
    else
      let p := expScaled (elScale n m e)
      let v : Int := if 0 ≤ p.2 then p.1 * (pow2 p.2.toNat : Nat) else p.1 / (pow2 (-p.2).toNat : Nat)
      f.ofScaled (v - elOne)

/-- LOG. -/
def Fmt.log (f : Fmt) (a : FVal) : Nat :=
  match a with
  | .nan => f.nan
  | .inf n => if n then f.nan else f.inf false
  | .fin n m e =>
    if m = 0 then f.inf true
    else if n then f.nan
    else if FVal.cmp a (.fin false 1 0) = some 0 then 0
    else f.ofScaled (lnScaled m e)

/-- LOG1P; ±0 gives ±0, −1 gives −∞. -/
def Fmt.log1p (f : Fmt) (a : FVal) : Nat :=
  match a with
  | .nan => f.nan
  | .inf n => if n then f.nan else f.inf false
  | .fin n m e =>
    if m = 0 then f.rne n 0 0 false
    else
      let s := faddExact n m e false 1 0
      if s.2.1 = 0 then f.inf true
      else if s.1 then f.nan
      else f.ofScaled (lnScaled s.2.1 s.2.2)

end Sys2Proof.Machine
end

