-- ==== Sys2Proof/Machine/Elem.lean ====
section
/-!
DEFINITION. Element types (02_tiles_queues_stations.md R42), element values, byte forms (08 R232) and the tile format codes (02 R38).
-/

namespace Sys2Proof.Machine

/-- The element types of R42. -/
inductive Ty where
  | bool | u8 | i8 | u16 | i16 | u32 | i32 | u64 | i64 | fp16 | bf16 | fp32 | fp64 | e4m3 | e5m2 | time | dict | str
  deriving DecidableEq, Repr

/-- The element type of a code; none for a reserved code. -/
def Ty.ofCode (c : Nat) : Option Ty :=
  match c with
  | 0x01 => some .bool | 0x02 => some .u8 | 0x03 => some .i8 | 0x04 => some .u16 | 0x05 => some .i16 | 0x06 => some .u32
  | 0x07 => some .i32 | 0x08 => some .u64 | 0x09 => some .i64 | 0x0A => some .fp16 | 0x0B => some .bf16 | 0x0C => some .fp32
  | 0x0D => some .fp64 | 0x0E => some .e4m3 | 0x0F => some .e5m2 | 0x10 => some .time | 0x11 => some .dict | 0x12 => some .str
  | _ => none

/-- The code of an element type. -/
def Ty.code : Ty → Nat
  | .bool => 0x01 | .u8 => 0x02 | .i8 => 0x03 | .u16 => 0x04 | .i16 => 0x05 | .u32 => 0x06 | .i32 => 0x07 | .u64 => 0x08
  | .i64 => 0x09 | .fp16 => 0x0A | .bf16 => 0x0B | .fp32 => 0x0C | .fp64 => 0x0D | .e4m3 => 0x0E | .e5m2 => 0x0F
  | .time => 0x10 | .dict => 0x11 | .str => 0x12

/-- Width of one element in bits; BOOL is 1, and STR, which has none, 0. -/
def Ty.width : Ty → Nat
  | .bool => 1 | .str => 0
  | .u8 | .i8 | .e4m3 | .e5m2 => 8
  | .u16 | .i16 | .fp16 | .bf16 => 16
  | .u32 | .i32 | .fp32 | .dict => 32
  | .u64 | .i64 | .fp64 | .time => 64

/-- Bytes of one stored element of a fixed-width type; BOOL counts one byte and STR none. -/
def Ty.bytes (t : Ty) : Nat := ceilDiv t.width 8

/-- The integer types: class I of R228, TIME_US included. -/
def Ty.isInt : Ty → Bool
  | .u8 | .i8 | .u16 | .i16 | .u32 | .i32 | .u64 | .i64 | .time => true
  | _ => false

/-- Signed integer types. -/
def Ty.isSigned : Ty → Bool
  | .i8 | .i16 | .i32 | .i64 => true
  | _ => false

/-- Class F of R228. -/
def Ty.isF : Ty → Bool
  | .fp16 | .bf16 | .fp32 | .e4m3 | .e5m2 => true
  | _ => false

/-- Floating-point types, FP64 included. -/
def Ty.isFloat (t : Ty) : Bool := t.isF || decide (t = .fp64)

/-- Fixed-width types: all but STR. -/
def Ty.isFixed (t : Ty) : Bool := decide (t ≠ .str)

/-- The format of a floating-point type; FP32 for the others, which do not use it. -/
def Ty.fmt : Ty → Fmt
  | .fp16 => Machine.fp16 | .bf16 => Machine.bf16 | .fp64 => Machine.fp64
  | .e4m3 => fp8e4m3 | .e5m2 => fp8e5m2 | _ => Machine.fp32

/-- The least integer of an integer type. -/
def Ty.minInt (t : Ty) : Int := if t.isSigned then -(pow2 (t.width - 1) : Nat) else 0

/-- The greatest integer of an integer type. -/
def Ty.maxInt (t : Ty) : Int := if t.isSigned then (pow2 (t.width - 1) : Nat) - 1 else (pow2 t.width : Nat) - 1

/-- The integer that an integer element's bits hold. -/
def Ty.toInt (t : Ty) (bits : Nat) : Int :=
  if t.isSigned then toSigned t.width (wrap t.width bits) else ((wrap t.width bits : Nat) : Int)

/-- The bits of an integer in an integer type, wrapping. -/
def Ty.ofInt (t : Ty) (x : Int) : Nat := ofSigned t.width x

/-- True when an integer lies in the type's range. -/
def Ty.inRange (t : Ty) (x : Int) : Bool := decide (t.minInt ≤ x) && decide (x ≤ t.maxInt)

/-- An integer limited to the type's range. -/
def Ty.clampInt (t : Ty) (x : Int) : Int := if x < t.minInt then t.minInt else if t.maxInt < x then t.maxInt else x

/-- One element value: the bits of a fixed-width element, or the bytes of a STR. -/
inductive Val where
  | bits (n : Nat)
  | str (b : Bytes)
  deriving DecidableEq, Repr

/-- The bits of a value; a STR has none. -/
def Val.n : Val → Nat
  | .bits n => n
  | .str _ => 0

/-- The bytes of a STR value. -/
def Val.s : Val → Bytes
  | .bits _ => []
  | .str b => b

/-- The zero of a type: numeric zero, BOOL false, or an empty STR (R151). -/
def Ty.zero : Ty → Val
  | .str => .str []
  | _ => .bits 0

/-- The byte form of R232. -/
def byteForm (t : Ty) (v : Val) : Bytes :=
  match t with
  | .bool => [byteOf (v.n % 2)]
  | .str => v.s
  | _ => le t.bytes v.n

/-- The tile formats of R38. -/
inductive TFmt where
  | bytes | records | columns | pixels | matchResults | topk | accum | batch | tensor
  | job (code : Nat)
  deriving DecidableEq, Repr

/-- The format of a code; none for a reserved code. -/
def TFmt.ofCode (c : Nat) : Option TFmt :=
  match c with
  | 0x01 => some .bytes | 0x02 => some .records | 0x10 => some .columns | 0x20 => some .pixels
  | 0x28 => some .matchResults | 0x30 => some .topk | 0x38 => some .accum | 0x48 => some .batch | 0x50 => some .tensor
  | n => if 0x80 ≤ n ∧ n ≤ 0xBF then some (.job n) else none

/-- The code of a format. -/
def TFmt.code : TFmt → Nat
  | .bytes => 0x01 | .records => 0x02 | .columns => 0x10 | .pixels => 0x20 | .matchResults => 0x28
  | .topk => 0x30 | .accum => 0x38 | .batch => 0x48 | .tensor => 0x50 | .job n => n

/-- Length of the longest valid UTF-8 character at the head of the bytes; 0 when there is none. -/
def utf8Head (bs : Bytes) : Nat :=
  match bs with
  | [] => 0
  | b0 :: r =>
    let c := b0.toNat
    let t (i : Nat) : Nat := u8at r i
    let cont (i : Nat) : Bool := decide (i < r.length) && decide (0x80 ≤ t i) && decide (t i ≤ 0xBF)
    if c < 0x80 then 1
    else if 0xC2 ≤ c ∧ c ≤ 0xDF then (if cont 0 then 2 else 0)
    else if c = 0xE0 then (if cont 0 && decide (0xA0 ≤ t 0) && cont 1 then 3 else 0)
    else if c = 0xED then (if cont 0 && decide (t 0 ≤ 0x9F) && cont 1 then 3 else 0)
    else if 0xE1 ≤ c ∧ c ≤ 0xEF then (if cont 0 && cont 1 then 3 else 0)
    else if c = 0xF0 then (if cont 0 && decide (0x90 ≤ t 0) && cont 1 && cont 2 then 4 else 0)
    else if 0xF1 ≤ c ∧ c ≤ 0xF3 then (if cont 0 && cont 1 && cont 2 then 4 else 0)
    else if c = 0xF4 then (if cont 0 && decide (t 0 ≤ 0x8F) && cont 1 && cont 2 then 4 else 0)
    else 0

/-- Splits valid UTF-8 into its characters' bytes; none where it is not valid. -/
def utf8Chars : Nat → Bytes → Option (List Bytes)
  | _, [] => some []
  | 0, _ :: _ => none
  | n + 1, bs@(_ :: _) =>
    let k := utf8Head bs
    if k = 0 then none
    else match utf8Chars n (bs.drop k) with
      | some r => some (bs.take k :: r)
      | none => none

/-- The characters of a string (SCHARS, SSUB). -/
def chars (bs : Bytes) : Option (List Bytes) := utf8Chars bs.length bs

/-- True for valid UTF-8. -/
def utf8Ok (bs : Bytes) : Bool := (chars bs).isSome

/-- The order-preserving key transform of R249 for an element of a select type. -/
def topkKey (t : Ty) (bits : Nat) (nanHigh : Bool) : Nat :=
  let w := t.width
  let top := pow2 (w - 1)
  let mask := pow2 w - 1
  let b := wrap w bits
  if t.isInt then (if t.isSigned then b ^^^ top else b)
  else if t.fmt.decode b = .nan then (if nanHigh then mask else 0)
  else
    let b := if b = top then 0 else b
    if top ≤ b then mask - b else b + top

/-- The bucket of a key: the top 12 bits of the left-aligned key (R249). -/
def topkBucket (key w : Nat) : Nat := wrap 64 (key <<< (64 - w)) >>> 52

end Sys2Proof.Machine
end

