-- ==== Sys2Proof/Machine/Accum.lean ====
section
/-! DEFINITION. Exact accumulators: R109 to R112 of 04_determinism_and_recovery.md and the read-outs of 08 R237. -/

namespace Sys2Proof.Machine

/-- An exact accumulator (R109): VALUE as the integer it holds (weight 2^-149), the flags and the term count. -/
structure Acc where
  value : Int := 0
  nan : Bool := false
  pinf : Bool := false
  ninf : Bool := false
  count : Nat := 0
  deriving DecidableEq, Repr

/-- The 64-byte record of R109. -/
def Acc.encode (a : Acc) : Bytes :=
  le 52 (ofSigned 416 a.value) ++ [byteOf (b2n a.nan + 2 * b2n a.pinf + 4 * b2n a.ninf)] ++ zeros 3 ++ le 8 a.count

/-- Reads a 64-byte record. -/
def Acc.decode (bs : Bytes) : Acc :=
  let f := u8at bs 0x34
  { value := toSigned 416 (uat bs 0 52), nan := bit f 0, pinf := bit f 1, ninf := bit f 2, count := u64at bs 0x38 }

/-- Adds one term (R110): a finite value exactly, NaN and infinities as flags, each one term. -/
def Acc.addVal (a : Acc) (v : FVal) : Acc :=
  match v with
  | .nan => { a with nan := true, count := a.count + 1 }
  | .inf n => if n then { a with ninf := true, count := a.count + 1 } else { a with pinf := true, count := a.count + 1 }
  | .fin n m e =>
    let x : Int := ((m * pow2 (e + 149).toNat : Nat) : Int)
    { a with value := a.value + (if n then -x else x), count := a.count + 1 }

/-- Adds an integer term (R110). -/
def Acc.addInt (a : Acc) (x : Int) : Acc := { a with value := a.value + x * (pow2 149 : Nat), count := a.count + 1 }

/-- Adds an element of class F or I as a term. -/
def Acc.addElem (a : Acc) (t : Ty) (bits : Nat) : Acc :=
  if t.isInt then a.addInt (t.toInt bits) else a.addVal (t.fmt.decode bits)

/-- The product of two floating-point values rounded once to FP32 (R110). -/
def prod32 (t : Ty) (x y : Nat) : Nat := fp32.mul (t.fmt.decode x) (t.fmt.decode y)

/-- Adds a product of two elements of one type (R110). -/
def Acc.addProd (a : Acc) (t : Ty) (x y : Nat) : Acc :=
  if t.isInt then a.addInt (t.toInt x * t.toInt y) else a.addVal (fp32.decode (prod32 t x y))

/-- The sum of two accumulators (R111). -/
def Acc.add (a b : Acc) : Acc :=
  { value := a.value + b.value, nan := a.nan || b.nan, pinf := a.pinf || b.pinf, ninf := a.ninf || b.ninf, count := a.count + b.count }

/-- True when the read-out is canonical NaN by its flags (R112 step 1). -/
def Acc.isNan (a : Acc) : Bool := a.nan || (a.pinf && a.ninf)

/-- True when any flag is set. -/
def Acc.flagged (a : Acc) : Bool := a.nan || a.pinf || a.ninf

/-- The integer nearest to `num ÷ den`, ties to even, for a positive `den`. -/
def roundDivEven (num : Int) (den : Nat) : Int :=
  let q := num / (den : Int)
  let r := num - q * (den : Int)
  let up : Bool := decide ((den : Int) < 2 * r) || (decide (2 * r = (den : Int)) && decide (q % 2 ≠ 0))
  if up then q + 1 else q

/-- Saturates an integer to I64, as bits (R112 step 4). -/
def satI64 (x : Int) : Nat := Ty.i64.ofInt (Ty.i64.clampInt x)

/-- Read-out of `value × 2^-149 ÷ den` to a type by R112: FP64, FP32, BF16, FP16 or I64. -/
def Acc.readQuot (a : Acc) (t : Ty) (den : Nat) : Nat :=
  if t = .i64 then
    if a.isNan then 0
    else if a.pinf then satI64 Ty.i64.maxInt
    else if a.ninf then satI64 Ty.i64.minInt
    else satI64 (roundDivEven a.value (den * pow2 149))
  else
    let f := t.fmt
    if a.isNan then f.nan
    else if a.pinf then f.inf false
    else if a.ninf then f.inf true
    else if a.value = 0 then 0
    else f.roundQuot .near false (decide (a.value < 0)) a.value.natAbs den (-149)

/-- Read-out of a sum (R112). -/
def Acc.readSum (a : Acc) (t : Ty) : Nat := a.readQuot t 1

/-- Canonical NaN of a read-out type; 0 for I64 (R112). -/
def nanOf (t : Ty) : Nat := if t = .i64 then 0 else t.fmt.nan

/-- Mean read-out (R112 step 5). -/
def Acc.readMean (a : Acc) (t : Ty) : Nat := if a.count = 0 then nanOf t else a.readQuot t a.count

/-- The square root of `num ÷ den` rounded to nearest integer, ties to even, saturated to I64. -/
def sqrtI64 (num den : Nat) : Nat :=
  -- r = floor (sqrt (num / den)); round up when (2 r + 1)^2 den < 4 num, or equal with r odd
  let r := isqrt (num / den)
  let up : Bool := decide ((2 * r + 1) * (2 * r + 1) * den < 4 * num) ||
    (decide ((2 * r + 1) * (2 * r + 1) * den = 4 * num) && decide (r % 2 = 1))
  satI64 ((if up then r + 1 else r : Nat) : Int)

/-- Modes 2 to 5 of R237: the variance of sum `s` and squares `q`, exact, then one rounding; `sample` divides by n (n − 1), `root` takes the square root. -/
def readVar (s q : Acc) (sample root : Bool) (t : Ty) : Nat :=
  let n := s.count
  if s.flagged || q.flagged || n = 0 || (sample && n = 1) then nanOf t
  else
    -- V = (n Q 2^149 − S^2) / (2^298 d)
    let num : Int := (n : Int) * q.value * (pow2 149 : Nat) - s.value * s.value
    let d := if sample then n * (n - 1) else n * n
    if num ≤ 0 then 0
    else if t = .i64 then
      (if root then sqrtI64 num.natAbs (d * pow2 298) else satI64 (roundDivEven num (d * pow2 298)))
    else if root then t.fmt.roundSqrt num.natAbs d (-298)
    else t.fmt.roundQuot .near false false num.natAbs d (-298)

end Sys2Proof.Machine
end

