-- ==== Sys2Proof/Machine/Tile.lean ====
section
/-!
DEFINITION. Tiles: header R27, seal R31, RECORDS R39, COLUMNS R40 to R43, the consumer's checks R35 and the class 0x01 faults R37
(02_tiles_queues_stations.md).
-/

namespace Sys2Proof.Machine

/-- A tile: the header fields of R27 as numbers, the payload bytes (bytes past the list are zero) and the seal it carries. -/
structure Tile where
  version : Nat := 0x02
  format : Nat := 0
  /-- The JOB_SLOT byte, reserved bits included. -/
  jobSlot : Nat := 0
  /-- The FLAGS byte: [2] REPLAYED, [1] PROVISIONAL, [0] END_OF_STREAM, reserved bits included. -/
  flags : Nat := 0
  jobTag : Nat := 0
  producer : Nat := 0
  rowCount : Nat := 0
  /-- The QUEUE field, reserved bits included. -/
  queue : Nat := 0
  /-- The SEQ field, reserved bits included. -/
  seq : Nat := 0
  epoch : Nat := 0
  payloadBytes : Nat := 0
  /-- The reserved u16 at 0x1E. -/
  rsv1 : Nat := 0
  columns : Nat := 0
  /-- The FIRST_ROW field, reserved bits included. -/
  firstRow : Nat := 0
  /-- The reserved u64 at 0x30. -/
  rsv2 : Nat := 0
  payload : Bytes := []
  crc : Nat := 0
  deriving DecidableEq, Repr

/-- Header bytes 0x00 to 0x37 (R27). -/
def Tile.head (t : Tile) : Bytes :=
  le 1 t.version ++ le 1 t.format ++ le 1 t.jobSlot ++ le 1 t.flags ++ le 4 t.jobTag ++ le 2 t.producer ++ le 2 t.rowCount ++
  le 4 t.queue ++ le 8 t.seq ++ le 4 t.epoch ++ le 2 t.payloadBytes ++ le 2 t.rsv1 ++ le 8 t.columns ++ le 8 t.firstRow ++ le 8 t.rsv2

/-- The seal of R31. -/
def Tile.computeSeal (t : Tile) : Nat := crc64 (t.head ++ padTo 4096 t.payload)

/-- The tile with its seal written (R32). -/
def Tile.sealed (t : Tile) : Tile := { t with crc := t.computeSeal }

/-- The 4,160 bytes of a tile (R26). -/
def Tile.bytes (t : Tile) : Bytes := t.head ++ le 8 t.crc ++ padTo 4096 t.payload

/-- Reads a tile from its 4,160 bytes. -/
def Tile.ofBytes (bs : Bytes) : Tile :=
  { version := u8at bs 0, format := u8at bs 1, jobSlot := u8at bs 2, flags := u8at bs 3, jobTag := u32at bs 4,
    producer := u16at bs 8, rowCount := u16at bs 0x0A, queue := u32at bs 0x0C, seq := u64at bs 0x10, epoch := u32at bs 0x18,
    payloadBytes := u16at bs 0x1C, rsv1 := u16at bs 0x1E, columns := u64at bs 0x20, firstRow := u64at bs 0x28,
    rsv2 := u64at bs 0x30, crc := u64at bs 0x38, payload := slice bs 64 4096 }

/-- END_OF_STREAM of the tile. -/
def Tile.eos (t : Tile) : Bool := bit t.flags 0

/-- The used payload bytes. -/
def Tile.used (t : Tile) : Bytes := slice t.payload 0 t.payloadBytes

/-- One cell of a row: column number, element type and the value, none for a null. -/
structure Cell where
  col : Nat
  ty : Ty
  val : Option Val
  deriving DecidableEq, Repr

/-- A row of a COLUMNS tile: its present columns in ascending number. -/
abbrev Row := List Cell

/-- The value of a column in a row; none for a null or absent column (R41). -/
def Row.get (r : Row) (c : Nat) : Option Val :=
  match r.find? (fun x => x.col == c) with
  | some x => x.val
  | none => none

/-- The type of a column in a row; none where the column is absent. -/
def Row.ty (r : Row) (c : Nat) : Option Ty :=
  match r.find? (fun x => x.col == c) with
  | some x => some x.ty
  | none => none

/-- Puts a cell into a row, replacing the column's. -/
def Row.put (r : Row) (x : Cell) : Row := insertBy Cell.col x (r.filter (fun y => y.col != x.col))

/-- The columns present in some row, ascending (R41). -/
def presentCols (rows : List Row) : List Nat :=
  (List.range 64).filter (fun c => rows.any (fun r => r.any (fun x => x.col == c)))

/-- The type a column has in the first row that carries it. -/
def colTyOf (rows : List Row) (c : Nat) : Ty :=
  match rows.findSome? (fun r => Row.ty r c) with
  | some t => t
  | none => .u8

/-- The alignment of a type's data (R41). -/
def Ty.align (t : Ty) : Nat :=
  match t with
  | .bool => 1
  | .str => 2
  | _ => t.bytes

/-- Packs booleans one bit per row, row r at bit r mod 8 of byte r / 8 (R41). -/
def packBits : Nat → List Bool → Bytes
  | 0, _ => []
  | n + 1, bs =>
    byteOf ((bs.take 8).zipIdx.foldl (fun a p => a + (if p.1 then pow2 p.2 else 0)) 0) :: packBits n (bs.drop 8)

/-- The end offsets of strings (R39, R41). -/
def endOffsets : List Bytes → Nat → Bytes
  | [], _ => []
  | s :: r, e => le 2 (e + s.length) ++ endOffsets r (e + s.length)

/-- A column's data (R41). A null's data are zero. -/
def colData (t : Ty) (vals : List (Option Val)) : Bytes :=
  match t with
  | .bool => packBits (ceilDiv vals.length 8) (vals.map (fun v => (v.getD (.bits 0)).n % 2 = 1))
  | .str =>
    let ss := vals.map (fun v => (v.getD (.str [])).s)
    endOffsets ss 0 ++ ss.flatten
  | _ => (vals.map (fun v => le t.bytes (v.getD (.bits 0)).n)).flatten

/-- One column of a table: number, type and the rows' values. -/
structure Col where
  num : Nat
  ty : Ty
  vals : List (Option Val)
  deriving DecidableEq, Repr

/-- Columns of a list of rows. -/
def rowsToCols (rows : List Row) : List Col :=
  (presentCols rows).map (fun c => { num := c, ty := colTyOf rows c, vals := rows.map (fun r => Row.get r c) })

/-- Rows of a list of columns. -/
def colsToRows (n : Nat) (cols : List Col) : List Row :=
  (List.range n).map (fun i => cols.map (fun c => { col := c.num, ty := c.ty, val := c.vals.getD i none }))

/-- Lays out the data areas of columns: (padding and data so far, directory so far without bitmap offsets), from a start offset. -/
def layData : List Col → Nat → Bytes × List (Col × Nat × Nat)
  | [], _ => ([], [])
  | c :: cs, off =>
    let start := roundUp off c.ty.align
    let d := colData c.ty c.vals
    let (bs, ents) := layData cs (start + d.length)
    (zeros (start - off) ++ d ++ bs, (c, start, d.length) :: ents)

/-- Lays out the validity bitmaps and completes the directory (R40, R41). -/
def layValid : List (Col × Nat × Nat) → Nat → Bytes × Bytes
  | [], _ => ([], [])
  | (c, off, len) :: es, pos =>
    if c.vals.any (·.isNone) then
      let bm := packBits (ceilDiv c.vals.length 8) (c.vals.map (·.isSome))
      let (d, v) := layValid es (pos + bm.length)
      ([byteOf c.ty.code, 1] ++ le 2 off ++ le 2 len ++ le 2 pos ++ d, bm ++ v)
    else
      let (d, v) := layValid es pos
      ([byteOf c.ty.code, 0] ++ le 2 off ++ le 2 len ++ le 2 0 ++ d, v)

/-- The payload of a COLUMNS tile with these columns (R40, R41). -/
def encodeCols (cols : List Col) : Bytes :=
  let dir := 8 * cols.length
  let (data, ents) := layData cols dir
  let (d, v) := layValid ents (dir + data.length)
  d ++ data ++ v

/-- The column-presence bitmap of columns. -/
def colsMask (cols : List Col) : Nat := cols.foldl (fun a c => a ||| pow2 c.num) 0

/-- Payload bytes the rows would take as one COLUMNS tile. -/
def packedSize (rows : List Row) : Nat :=
  let cols := rowsToCols rows
  let dir := 8 * cols.length
  let n := rows.length
  let data := cols.foldl (fun off c =>
    let start := roundUp off c.ty.align
    let len := match c.ty with
      | .bool => ceilDiv n 8
      | .str => 2 * n + (c.vals.foldl (fun a v => a + (v.getD (.str [])).s.length) 0)
      | _ => n * c.ty.bytes
    start + len) dir
  data + (cols.filter (fun c => c.vals.any (·.isNone))).length * ceilDiv n 8

/-- True when the rows fit one COLUMNS tile (R43). -/
def rowsFit (rows : List Row) : Bool := decide (rows.length ≤ 4096) && decide (packedSize rows ≤ 4096)

/-- Reads bits packed as BOOL data. -/
def unpackBits (bs : Bytes) (n : Nat) : List Bool := (List.range n).map (fun r => bit (u8at bs (r / 8)) (r % 8))

/-- Splits strings at end offsets; none where the offsets decrease or pass the end. -/
def splitEnds (area : Bytes) : List Nat → Nat → Option (List Bytes)
  | [], _ => some []
  | e :: es, prev =>
    if e < prev ∨ area.length < e then none
    else match splitEnds area es e with
      | some r => some ((area.drop prev).take (e - prev) :: r)
      | none => none

/-- The u16 numbers of a byte run. -/
def u16s (bs : Bytes) (n : Nat) : List Nat := (List.range n).map (fun i => u16at bs (2 * i))

/-- Decodes a column's data (R41); none where they break the rule. -/
def decodeColData (t : Ty) (d : Bytes) (n : Nat) : Option (List Val) :=
  match t with
  | .bool =>
    if d.length = ceilDiv n 8 ∧ packBits (ceilDiv n 8) (unpackBits d n) = d then some ((unpackBits d n).map (fun b => .bits (b2n b))) else none
  | .str =>
    if d.length < 2 * n then none
    else
      let area := d.drop (2 * n)
      let ends := u16s d n
      match splitEnds area ends 0 with
      | some ss => if area.length = ends.getLastD 0 then some (ss.map Val.str) else none
      | none => none
  | _ => if d.length = n * t.bytes then some ((List.range n).map (fun i => .bits (uat d (i * t.bytes) t.bytes))) else none

/-- Decodes the directory entries and data of columns (R40, R41), first pass: data in order, with only zero padding between. Answers the columns with
their validity offsets and the offset after the data. -/
def decodeColsData (p : Bytes) (n : Nat) : List (Nat × Nat) → Nat → Option (List (Nat × Ty × List Val × Option Nat) × Nat)
  | [], off => some ([], off)
  | (c, d) :: r, off =>
    match Ty.ofCode (u8at p d) with
    | none => none
    | some t =>
      let cf := u8at p (d + 1)
      let doff := u16at p (d + 2)
      let nb := u16at p (d + 4)
      let voff := u16at p (d + 6)
      if 2 ≤ cf ∨ (cf = 0 ∧ voff ≠ 0) ∨ doff ≠ roundUp off t.align ∨ !allZero p off (doff - off) ∨ p.length < doff + nb then none
      else match decodeColData t (slice p doff nb) n with
        | none => none
        | some vs =>
          match decodeColsData p n r (doff + nb) with
          | none => none
          | some (cs, e) => some ((c, t, vs, if cf = 1 then some voff else none) :: cs, e)

/-- Second pass: validity bitmaps in order; a column has one exactly where it marks a row null (R41). -/
def decodeColsValid (p : Bytes) (n : Nat) : List (Nat × Ty × List Val × Option Nat) → Nat → Option (List Col × Nat)
  | [], off => some ([], off)
  | (c, t, vs, v) :: r, off =>
    match v with
    | none =>
      match decodeColsValid p n r off with
      | none => none
      | some (cs, e) => some ({ num := c, ty := t, vals := vs.map some } :: cs, e)
    | some voff =>
      let len := ceilDiv n 8
      let bm := slice p voff len
      let bits := unpackBits bm n
      if voff ≠ off ∨ p.length < voff + len ∨ packBits len bits ≠ bm ∨ bits.all id then none
      else match decodeColsValid p n r (off + len) with
        | none => none
        | some (cs, e) => some ({ num := c, ty := t, vals := (vs.zip bits).map (fun x => if x.2 then some x.1 else none) } :: cs, e)

/-- Decodes a COLUMNS payload; none where it breaks R40 or R41. -/
def decodeCols (mask n : Nat) (used : Bytes) : Option (List Col) :=
  let nums := (List.range 64).filter (fun c => bit mask c)
  let dir := 8 * nums.length
  if used.length < dir then none
  else match decodeColsData used n (nums.zip ((List.range nums.length).map (fun i => 8 * i))) dir with
    | none => none
    | some (cs, e) =>
      match decodeColsValid used n cs e with
      | none => none
      | some (cols, e) => if e = used.length then some cols else none

/-- The columns of a tile. -/
def Tile.cols (t : Tile) : List Col := if t.payloadBytes = 0 then [] else (decodeCols t.columns t.rowCount t.used).getD []

/-- The rows of a COLUMNS tile. -/
def Tile.rows (t : Tile) : List Row := colsToRows t.rowCount t.cols

/-- The payload of a RECORDS tile with these records (R39). -/
def encodeRecords (rs : List Bytes) : Bytes := endOffsets rs 0 ++ rs.flatten

/-- The records of a RECORDS payload with rows; none where it breaks R39. -/
def decodeRecords (n : Nat) (used : Bytes) : Option (List Bytes) :=
  if used.length < 2 * n then none
  else
    let area := used.drop (2 * n)
    let ends := u16s used n
    match splitEnds area ends 0 with
    | some rs => if area.length = ends.getLastD 0 then some rs else none
    | none => none

/-- The shape checks of a RECORDS tile (R39): a tile without rows is a fragment, or an END_OF_STREAM tile without bytes. -/
def recordsShapeOk (t : Tile) : Bool :=
  if t.rowCount = 0 then (if t.eos then decide (t.payloadBytes = 0) else decide (0 < t.payloadBytes))
  else (decodeRecords t.rowCount t.used).isSome

/-- Step 8 of R35 without the column types of R455: the shape agrees with the format. -/
def shapeOk (t : Tile) (queueCols : Nat) : Bool :=
  decide (t.rowCount ≤ 4096) && decide (t.payloadBytes ≤ 4096) && decide (t.columns &&& queueCols = t.columns) &&
  (match TFmt.ofCode t.format with
   | some .bytes => decide (t.rowCount = 0) && decide (t.columns = 0)
   | some .records => decide (t.columns = 0) && recordsShapeOk t
   | some .columns =>
     if t.rowCount = 0 ∧ t.payloadBytes = 0 then decide (t.columns = 0)
     else (decodeCols t.columns t.rowCount t.used).isSome
   | some .accum => decide (t.rowCount ≤ 64) && decide (t.payloadBytes = 64 * t.rowCount) && decide (t.columns = 0)
   | _ => true)

/-- The types R455 fixes for a queue after a tile: known types kept, new columns added; none where a column has another type. -/
def mergeTypes (known : List (Nat × Ty)) (t : Tile) : Option (List (Nat × Ty)) :=
  if t.format ≠ TFmt.columns.code then some known
  else t.cols.foldl (fun acc c =>
    match acc with
    | none => none
    | some k =>
      match assocGet k c.num with
      | none => some (k ++ [(c.num, c.ty)])
      | some ty => if ty = c.ty then some k else none) (some known)

/-- What a consumer expects of the next tile of a queue (R35). -/
structure Expect where
  jobTag : Nat
  jobSlot : Nat
  queue : Nat
  seq : Nat
  firstRow : Nat
  format : Nat
  columns : Nat
  types : List (Nat × Ty)
  deriving DecidableEq, Repr

/-- The checks of R35 in order, with the fault code of the first that fails (R37). -/
def checkTile (x : Expect) (t : Tile) : Option Nat :=
  if t.computeSeal ≠ t.crc then some 0x0101
  else if t.version ≠ 0x02 then some 0x0102
  else if 0x40 ≤ t.jobSlot ∨ 0x08 ≤ t.flags ∨ 0x10000 ≤ t.queue ∨ pow2 48 ≤ t.seq ∨ t.rsv1 ≠ 0 ∨ pow2 48 ≤ t.firstRow ∨ t.rsv2 ≠ 0 then some 0x0103
  else if t.jobTag ≠ x.jobTag ∨ t.jobSlot ≠ x.jobSlot then some 0x0104
  else if t.queue ≠ x.queue then some 0x0105
  else if t.seq ≠ x.seq ∨ t.firstRow ≠ x.firstRow then some 0x0106
  else if t.format ≠ x.format ∨ (TFmt.ofCode t.format).isNone then some 0x0107
  else if !shapeOk t x.columns then some 0x0108
  else if (mergeTypes x.types t).isNone then some 0x0108
  else none

end Sys2Proof.Machine
end

