-- ==== Sys2Proof/Machine/Text.lean ====
section
/-!
DEFINITION. Text for numbers and times and the conversions of parse (05 R150).
-/

namespace Sys2Proof.Machine

/-- A decimal number: sign, digits and power of ten. -/
structure Dec where
  neg : Bool
  digits : Nat
  exp : Int
  deriving DecidableEq, Repr

/-- A byte is a decimal digit. -/
def isDigit (b : Byte) : Bool := decide (0x30 ≤ b.toNat) && decide (b.toNat ≤ 0x39)

/-- The number that digits spell. -/
def digitsNat (bs : Bytes) : Nat := bs.foldl (fun a b => 10 * a + (b.toNat - 0x30)) 0

/-- Splits the longest run of digits off the front. -/
def spanDigits : Bytes → Bytes × Bytes
  | [] => ([], [])
  | b :: bs => if isDigit b then let (d, r) := spanDigits bs; (b :: d, r) else ([], b :: bs)

/-- Splits an optional sign off the front; the flag is true for a minus. -/
def takeSign (plus : Bool) : Bytes → Bool × Bytes
  | [] => (false, [])
  | b :: bs => if b = 0x2D then (true, bs) else if plus && decide (b = 0x2B) then (false, bs) else (false, b :: bs)

/-- Integer text (R150): an optional sign and one or more digits. -/
def intText (bs : Bytes) : Option Int :=
  let (neg, r) := takeSign true bs
  if r.isEmpty || !(r.all isDigit) then none
  else some (if neg then -(digitsNat r : Int) else (digitsNat r : Int))

/-- The fraction of an RFC 8259 number: digits after a point. -/
def takeFrac (bs : Bytes) : Option (Bytes × Bytes) :=
  match bs with
  | b :: r =>
    if b = 0x2E then
      let (d, s) := spanDigits r
      if d.isEmpty then none else some (d, s)
    else some ([], bs)
  | [] => some ([], [])

/-- The exponent of an RFC 8259 number. -/
def takeExp (bs : Bytes) : Option (Int × Bytes) :=
  match bs with
  | b :: r =>
    if b = 0x65 ∨ b = 0x45 then
      let (neg, r) := takeSign true r
      let (d, s) := spanDigits r
      if d.isEmpty then none else some (if neg then -(digitsNat d : Int) else (digitsNat d : Int), s)
    else some (0, bs)
  | [] => some (0, [])

/-- A number of the grammar of RFC 8259 at the front of the bytes, and the rest. -/
def takeNumber (bs : Bytes) : Option (Dec × Bytes) :=
  let (neg, r) := takeSign false bs
  let (i, r) := spanDigits r
  if i.isEmpty || (decide (1 < i.length) && decide (i.head? = some 0x30)) then none
  else match takeFrac r with
  | none => none
  | some (f, r) =>
    match takeExp r with
    | none => none
    | some (e, r) => some ({ neg := neg, digits := digitsNat (i ++ f), exp := e - f.length }, r)

/-- Number text (R150): integer text, or a whole RFC 8259 number. The flag says that it is integer text. -/
def numText (bs : Bytes) : Option (Dec × Bool) :=
  match intText bs with
  | some x => some ({ neg := decide (bs.head? = some 0x2D), digits := x.natAbs, exp := 0 }, true)
  | none =>
    match takeNumber bs with
    | some (d, []) => some (d, false)
    | _ => none

/-- How many decimal digits a number has. -/
def decLen (n : Nat) : Nat := (Nat.repr n).length

/-- A decimal rounded once to a format (R150). Exponents far outside every format's range are settled without the power. -/
def Dec.toFloat (f : Fmt) (sat : Bool) (d : Dec) : Nat :=
  if d.digits = 0 then f.rne d.neg 0 0 false
  else
    let top : Int := d.exp + (decLen d.digits : Int)
    if 400 < top then f.overflow .near sat d.neg
    else if top < -400 then f.rne d.neg 0 0 false
    else if 0 ≤ d.exp then f.round .near sat d.neg (d.digits * 10 ^ d.exp.toNat) 0 false
    else f.roundQuot .near sat d.neg d.digits (10 ^ (-d.exp).toNat) 0

/-- A decimal rounded toward zero, limited to beyond every integer type. -/
def Dec.trunc (d : Dec) : Int :=
  let top : Int := d.exp + (decLen d.digits : Int)
  let m : Nat :=
    if d.digits = 0 ∨ top ≤ 0 then 0
    else if 40 < top then 10 ^ 40
    else if 0 ≤ d.exp then d.digits * 10 ^ d.exp.toNat else d.digits / 10 ^ (-d.exp).toNat
  if d.neg then -(m : Int) else (m : Int)

/-- Days since 1970-01-01 of a date, in the Gregorian calendar extended in both directions. -/
def daysOf (y m d : Nat) : Int :=
  let y' : Int := if m ≤ 2 then (y : Int) - 1 else (y : Int)
  let era := y' / 400
  let yoe := y' - era * 400
  let mp : Int := ((m + 9) % 12 : Nat)
  let doy := (153 * mp + 2) / 5 + (d : Int) - 1
  era * 146097 + yoe * 365 + yoe / 4 - yoe / 100 + doy - 719468

/-- A leap year. -/
def leapYear (y : Nat) : Bool := (decide (y % 4 = 0) && decide (y % 100 ≠ 0)) || decide (y % 400 = 0)

/-- Days of a month. -/
def monthDays (y m : Nat) : Nat :=
  match m with
  | 2 => if leapYear y then 29 else 28
  | 4 | 6 | 9 | 11 => 30
  | _ => 31

/-- A fixed number of digits at the front. -/
def takeFixed (n : Nat) (bs : Bytes) : Option (Nat × Bytes) :=
  if (bs.take n).length = n ∧ (bs.take n).all isDigit then some (digitsNat (bs.take n), bs.drop n) else none

/-- One expected byte at the front; letters in either case. -/
def takeByte (c : Nat) (bs : Bytes) : Option Bytes :=
  match bs with
  | b :: r => if b.toNat = c ∨ b.toNat = c + 32 ∧ 0x41 ≤ c then some r else none
  | [] => none

/-- The offset of an RFC 3339 time in minutes, at the end of the text. -/
def zoneText (bs : Bytes) : Option Int :=
  match bs with
  | [] => none
  | b :: r =>
    if b = 0x5A ∨ b = 0x7A then (if r.isEmpty then some 0 else none)
    else if b = 0x2B ∨ b = 0x2D then do
      let (h, r) ← takeFixed 2 r
      let r ← takeByte 0x3A r
      let (m, r) ← takeFixed 2 r
      if r.isEmpty ∧ h ≤ 23 ∧ m ≤ 59 then some (if b = 0x2D then -((60 * h + m : Nat) : Int) else ((60 * h + m : Nat) : Int)) else none
    else none

/-- RFC 3339 date-time text in µs since 1970 (R150): the offset applied, finer fractions rounded toward −∞, a seconds field of 60 read as 59.999999. -/
def rfc3339 (bs : Bytes) : Option Int := do
  let (y, r) ← takeFixed 4 bs
  let r ← takeByte 0x2D r
  let (mo, r) ← takeFixed 2 r
  let r ← takeByte 0x2D r
  let (da, r) ← takeFixed 2 r
  let r ← takeByte 0x54 r
  let (h, r) ← takeFixed 2 r
  let r ← takeByte 0x3A r
  let (mi, r) ← takeFixed 2 r
  let r ← takeByte 0x3A r
  let (s, r) ← takeFixed 2 r
  let (fr, r) ← takeFrac r
  let z ← zoneText r
  if mo < 1 ∨ 12 < mo ∨ da < 1 ∨ monthDays y mo < da ∨ 23 < h ∨ 59 < mi ∨ 60 < s then none
  else
    let us := if s = 60 then 59999999 else 1000000 * s + digitsNat ((fr ++ List.replicate 6 0x30).take 6)
    some ((daysOf y mo da * 86400 + (3600 * h + 60 * mi : Nat) - 60 * z) * 1000000 + us)

/-- A source value as the engines read it (R150). -/
inductive Src where
  | null
  | bool (b : Bool)
  /-- An integer source. -/
  | int (x : Int)
  /-- Number text of a JSON number; the flag says integer text. -/
  | num (d : Dec) (isInt : Bool)
  | float (v : FVal)
  | text (b : Bytes)
  /-- A timestamp or date logical type, in µs. -/
  | time (us : Int)
  /-- An Avro enum: the symbol's index and its name. -/
  | enum (i : Nat) (name : Bytes)
  /-- A Decimal logical type's unscaled integer, precision up to 18. -/
  | decimal (x : Int)
  /-- An object, an array or a list where a scalar is asked. -/
  | other
  deriving DecidableEq, Repr

/-- A time in µs, or status 2 outside the range (R150). -/
def timeVal (us : Int) : Except Nat (Option Val) := if us < 0 ∨ Ty.time.maxInt < us then .error 2 else .ok (some (.bits us.toNat))

/-- An integer count of SRC_UNIT in µs (R149, R150). -/
def unitTime (unit : Nat) (x : Int) : Int :=
  match unit with
  | 0 => x | 1 => x * 1000 | 2 => x / 1000 | _ => x * 1000000

/-- An exact integer into an integer type (R150). -/
def intVal (t : Ty) (sat : Bool) (x : Int) : Except Nat (Option Val) :=
  if t.inRange x then .ok (some (.bits (t.ofInt x))) else if sat then .ok (some (.bits (t.ofInt (t.clampInt x)))) else .error 2

/-- A number given as text into a type. -/
def numVal (t : Ty) (sat : Bool) (unit : Nat) (d : Dec) (isInt : Bool) : Except Nat (Option Val) :=
  let x : Int := if d.neg then -(d.digits : Int) else (d.digits : Int)
  if t = .time then (if isInt then timeVal (unitTime unit x) else .error 2)
  else if t.isInt then (if isInt then intVal t sat x else if sat then intVal t true d.trunc else .error 2)
  else if t.isFloat then .ok (some (.bits (d.toFloat t.fmt sat)))
  else .error 2

/-- ASCII letters in lower case. -/
def lowerAscii (bs : Bytes) : Bytes := bs.map (fun b => if 0x41 ≤ b.toNat ∧ b.toNat ≤ 0x5A then b + 0x20 else b)

/-- Text into BOOL (R150). -/
def boolText (bs : Bytes) : Except Nat (Option Val) :=
  let l := lowerAscii bs
  if l = ascii "true" ∨ l = ascii "1" then .ok (some (.bits 1))
  else if l = ascii "false" ∨ l = ascii "0" then .ok (some (.bits 0))
  else .error 2

/-- Text into a type (R150). -/
def textVal (t : Ty) (sat : Bool) (unit : Nat) (bs : Bytes) : Except Nat (Option Val) :=
  if t = .str then (if utf8Ok bs then .ok (some (.str bs)) else .error 4)
  else if t = .bool then boolText bs
  else match numText bs with
  | some (d, i) => numVal t sat unit d i
  | none =>
    if t = .time then
      match rfc3339 bs with
      | some us => timeVal us
      | none => .error 2
    else .error 2

/-- A floating-point source into a type (R150). -/
def floatVal (t : Ty) (sat : Bool) (v : FVal) : Except Nat (Option Val) :=
  if t.isFloat then .ok (some (.bits (t.fmt.ofVal .near sat v)))
  else if t.isInt && decide (t ≠ .time) && sat then
    match v with
    | .nan => .ok (some (.bits 0))
    | .inf n => .ok (some (.bits (t.ofInt (if n then t.minInt else t.maxInt))))
    | .fin n m e => .ok (some (.bits (t.ofInt (t.clampInt (FVal.toInt .zero n m e)))))
  else .error 2

/-- Converts a source to a column's type (R150): an error is the row's status. CFLAGS: [1] saturate, [0] nullable. -/
def convert (t : Ty) (cflags unit : Nat) (s : Src) : Except Nat (Option Val) :=
  let sat := bit cflags 1
  match s with
  | .null => if bit cflags 0 then .ok none else .error 3
  | .bool b => if t = .bool then .ok (some (.bits (b2n b))) else .error 2
  | .int x =>
    if t = .time then timeVal (unitTime unit x)
    else if t.isInt then intVal t sat x
    else if t.isFloat then .ok (some (.bits (t.fmt.ofInt .near sat x)))
    else .error 2
  | .num d i => if t = .bool ∨ t = .str then .error 2 else numVal t sat unit d i
  | .float v => floatVal t sat v
  | .text b => textVal t sat unit b
  | .time us => if t = .time then timeVal us else .error 2
  | .enum i name => if t = .u32 then intVal t sat i else if t = .str then textVal t sat unit name else .error 2
  | .decimal x => if t = .i64 then intVal t sat x else .error 2
  | .other => .error 2

end Sys2Proof.Machine
end

