-- ==== Sys2Proof/Machine/Json.lean ====
section
/-!
DEFINITION. JSON text (RFC 8259) as parse reads a JSON Lines record and an Avro schema (05 R149, R151, R153).
-/

namespace Sys2Proof.Machine

/-- A JSON value; a number keeps its exact decimal and whether it is integer text. -/
inductive Jv where
  | null
  | bool (b : Bool)
  | num (d : Dec) (isInt : Bool)
  | str (b : Bytes)
  | arr (xs : List Jv)
  | obj (kvs : List (Bytes × Jv))
  deriving Repr

/-- Why a text is no JSON value: a syntax error, invalid UTF-8, or the text ends inside a string, object or array; the first met in byte order. -/
inductive JErr where
  | syn
  | utf8
  | ended
  deriving DecidableEq, Repr

/-- A space, tab, LF or CR. -/
def isJsonSpace (b : Byte) : Bool := b = 0x20 || b = 0x09 || b = 0x0A || b = 0x0D

/-- The bytes after leading white space. -/
def skipSpace : Bytes → Bytes
  | [] => []
  | b :: bs => if isJsonSpace b then skipSpace bs else b :: bs

/-- The error at an unexpected byte: invalid UTF-8, else syntax; at the end of the text it ended inside something. -/
def errAt (bs : Bytes) : JErr :=
  match bs with
  | [] => .ended
  | b :: _ => if 0x80 ≤ b.toNat ∧ utf8Head bs = 0 then .utf8 else .syn

/-- A hexadecimal digit's value. -/
def hexVal (b : Byte) : Option Nat :=
  let n := b.toNat
  if 0x30 ≤ n ∧ n ≤ 0x39 then some (n - 0x30)
  else if 0x41 ≤ n ∧ n ≤ 0x46 then some (n - 0x37)
  else if 0x61 ≤ n ∧ n ≤ 0x66 then some (n - 0x57)
  else none

/-- Four hexadecimal digits. -/
def hex4 (bs : Bytes) : Option Nat :=
  match bs with
  | a :: b :: c :: d :: _ => do
    let a ← hexVal a
    let b ← hexVal b
    let c ← hexVal c
    let d ← hexVal d
    some (0x1000 * a + 0x100 * b + 0x10 * c + d)
  | _ => none

/-- The UTF-8 form of a code point; a lone surrogate yields bytes that are not valid UTF-8. -/
def utf8Of (c : Nat) : Bytes :=
  if c < 0x80 then [byteOf c]
  else if c < 0x800 then [byteOf (0xC0 + c / 64), byteOf (0x80 + c % 64)]
  else if c < 0x10000 then [byteOf (0xE0 + c / 4096), byteOf (0x80 + c / 64 % 64), byteOf (0x80 + c % 64)]
  else [byteOf (0xF0 + c / 262144), byteOf (0x80 + c / 4096 % 64), byteOf (0x80 + c / 64 % 64), byteOf (0x80 + c % 64)]

/-- A \u escape after its u: the code point, a surrogate pair taken as one, and the rest. -/
def jsonUnicode (bs : Bytes) : Except JErr (Nat × Bytes) :=
  match hex4 bs with
  | none => .error (if bs.length < 4 ∧ bs.all (fun b => (hexVal b).isSome) then .ended else .syn)
  | some h =>
    let r := bs.drop 4
    match r with
    | a :: b :: r2 =>
      if 0xD800 ≤ h ∧ h < 0xDC00 ∧ a = 0x5C ∧ b = 0x75 then
        match hex4 r2 with
        | some l => if 0xDC00 ≤ l ∧ l < 0xE000 then .ok (0x10000 + (h - 0xD800) * 0x400 + (l - 0xDC00), r2.drop 4) else .ok (h, r)
        | none => .ok (h, r)
      else .ok (h, r)
    | _ => .ok (h, r)

/-- The byte a one-letter escape stands for. -/
def jsonEscape (b : Byte) : Option Byte :=
  match b.toNat with
  | 0x22 => some 0x22 | 0x5C => some 0x5C | 0x2F => some 0x2F | 0x62 => some 0x08 | 0x66 => some 0x0C
  | 0x6E => some 0x0A | 0x72 => some 0x0D | 0x74 => some 0x09
  | _ => none

/-- A string after its opening quote: its bytes and the rest. -/
def jsonString : Nat → Bytes → Except JErr (Bytes × Bytes)
  | 0, _ => .error .syn
  | n + 1, bs =>
    match bs with
    | [] => .error .ended
    | b :: r =>
      if b = 0x22 then .ok ([], r)
      else if b.toNat < 0x20 then .error .syn
      else if b = 0x5C then
        match r with
        | [] => .error .ended
        | e :: r2 =>
          if e = 0x75 then
            match jsonUnicode r2 with
            | .error x => .error x
            | .ok (c, r3) => (jsonString n r3).map (fun x => (utf8Of c ++ x.1, x.2))
          else match jsonEscape e with
          | none => .error (errAt r)
          | some c => (jsonString n r2).map (fun x => (c :: x.1, x.2))
      else
        let k := utf8Head bs
        if k = 0 then .error .utf8
        else (jsonString n (bs.drop k)).map (fun x => (bs.take k ++ x.1, x.2))

/-- An expected word at the front. -/
def jsonWord (w : Bytes) (bs : Bytes) : Except JErr Bytes :=
  if bs.take w.length = w then .ok (bs.drop w.length)
  else
    let same := ((w.zip bs).takeWhile (fun p => p.1 == p.2)).length
    .error (errAt (bs.drop same))

/-- Where a text that begins like a number breaks the grammar of RFC 8259: the first byte that cannot stand there, or the end of the text. -/
def numberErr (bs : Bytes) : JErr :=
  let r := (takeSign false bs).2
  let (i, r) := spanDigits r
  if i.isEmpty then errAt r
  else if i.head? = some 0x30 ∧ 1 < i.length then .syn
  else
    let frac (r : Bytes) : Bytes := (spanDigits (r.drop 1)).1
    let r2 := if r.head? = some 0x2E then (spanDigits (r.drop 1)).2 else r
    if r.head? = some 0x2E ∧ (frac r).isEmpty then errAt r2
    else errAt (takeSign true (r2.drop 1)).2

mutual
/-- A JSON value at the front of the bytes, and the rest. -/
def jsonValue : Nat → Bytes → Except JErr (Jv × Bytes)
  | 0, _ => .error .syn
  | n + 1, bs =>
    match skipSpace bs with
    | [] => .error .ended
    | b :: r =>
      if b = 0x22 then (jsonString (r.length + 1) r).map (fun x => (.str x.1, x.2))
      else if b = 0x7B then
        match skipSpace r with
        | [] => .error .ended
        | c :: r2 => if c = 0x7D then .ok (.obj [], r2) else (jsonMembers n (c :: r2)).map (fun x => (.obj x.1, x.2))
      else if b = 0x5B then
        match skipSpace r with
        | [] => .error .ended
        | c :: r2 => if c = 0x5D then .ok (.arr [], r2) else (jsonElems n (c :: r2)).map (fun x => (.arr x.1, x.2))
      else if b = 0x74 then (jsonWord (ascii "true") (b :: r)).map (fun x => (.bool true, x))
      else if b = 0x66 then (jsonWord (ascii "false") (b :: r)).map (fun x => (.bool false, x))
      else if b = 0x6E then (jsonWord (ascii "null") (b :: r)).map (fun x => (.null, x))
      else match takeNumber (b :: r) with
      | some (d, rest) => .ok (.num d (intText ((b :: r).take (r.length + 1 - rest.length))).isSome, rest)
      | none => .error (numberErr (b :: r))

/-- The elements of an array and its closing bracket. -/
def jsonElems : Nat → Bytes → Except JErr (List Jv × Bytes)
  | 0, _ => .error .syn
  | n + 1, bs =>
    match jsonValue n bs with
    | .error e => .error e
    | .ok (v, r) =>
      match skipSpace r with
      | [] => .error .ended
      | c :: r2 =>
        if c = 0x5D then .ok ([v], r2)
        else if c = 0x2C then (jsonElems n r2).map (fun x => (v :: x.1, x.2))
        else .error (errAt (c :: r2))

/-- The members of an object and its closing brace. -/
def jsonMembers : Nat → Bytes → Except JErr (List (Bytes × Jv) × Bytes)
  | 0, _ => .error .syn
  | n + 1, bs =>
    match skipSpace bs with
    | [] => .error .ended
    | q :: r =>
      if q ≠ 0x22 then .error (errAt (q :: r))
      else match jsonString (r.length + 1) r with
      | .error e => .error e
      | .ok (k, r) =>
        match skipSpace r with
        | [] => .error .ended
        | c :: r =>
          if c ≠ 0x3A then .error (errAt (c :: r))
          else match jsonValue n r with
          | .error e => .error e
          | .ok (v, r) =>
            match skipSpace r with
            | [] => .error .ended
            | c :: r2 =>
              if c = 0x7D then .ok ([(k, v)], r2)
              else if c = 0x2C then (jsonMembers n r2).map (fun x => ((k, v) :: x.1, x.2))
              else .error (errAt (c :: r2))
end

/-- A whole text as one JSON value. -/
def jsonText (bs : Bytes) : Except JErr Jv :=
  match jsonValue (2 * bs.length + 2) bs with
  | .error e => .error e
  | .ok (v, r) =>
    match skipSpace r with
    | [] => .ok v
    | c :: r2 => .error (errAt (c :: r2))

/-- True for an object. -/
def Jv.isObj : Jv → Bool
  | .obj _ => true
  | _ => false

/-- The value of a key; the last occurrence wins (R153). -/
def Jv.key (v : Jv) (k : Bytes) : Option Jv :=
  match v with
  | .obj kvs => (kvs.reverse.find? (fun p => p.1 == k)).map (·.2)
  | _ => none

mutual
/-- Nesting depth of objects and arrays. -/
def Jv.depth : Jv → Nat
  | .arr xs => 1 + depthList xs
  | .obj kvs => 1 + depthKvs kvs
  | _ => 0

/-- Greatest depth of a list. -/
def depthList : List Jv → Nat
  | [] => 0
  | x :: xs => max x.depth (depthList xs)

/-- Greatest depth of members. -/
def depthKvs : List (Bytes × Jv) → Nat
  | [] => 0
  | (_, x) :: xs => max x.depth (depthKvs xs)
end

mutual
/-- A value with every level of arrays flattened into one sequence (R149). -/
def Jv.flat : Jv → List Jv
  | .arr xs => flatList xs
  | v => [v]

/-- The elements of a list flattened. -/
def flatList : List Jv → List Jv
  | [] => []
  | x :: xs => x.flat ++ flatList xs
end

/-- True for an array. -/
def Jv.isArr : Jv → Bool
  | .arr _ => true
  | _ => false

/-- The values a path reaches in document order, and whether it passed a repeated level (R149). -/
def jsonPath (v : Jv) (names : List Bytes) : List Jv × Bool :=
  names.foldl (fun acc k =>
    let found := acc.1.filterMap (fun n => n.key k)
    ((found.map Jv.flat).flatten, acc.2 || found.any Jv.isArr)) ([v], false)

/-- A JSON value as a source (R150): an object or array is a value no scalar column takes. -/
def Jv.src : Jv → Src
  | .null => .null
  | .bool b => .bool b
  | .num d i => .num d i
  | .str b => .text b
  | _ => .other

/-- The source of a column map entry in a JSON record (R149): MODE 0 scalar, 1 list element, 2 list length. -/
def jsonSource (v : Jv) (names : List Bytes) (mode index : Nat) : Src :=
  let (vals, rep) := jsonPath v names
  match mode with
  | 0 => if rep then .other else (match vals with
    | x :: _ => x.src
    | [] => .null)
  | 1 => if rep then ((vals[index]?).map Jv.src).getD .null else loneSource vals
  | _ => if rep then .int vals.length else loneSource vals
where
  /-- A list mode on a path that reached no list: null where the value is null or absent. -/
  loneSource : List Jv → Src
    | [] => .null
    | .null :: _ => .null
    | _ => .other

end Sys2Proof.Machine
end

