-- ==== Sys2Proof/Machine/Csv.lean ====
section
/-!
DEFINITION. CSV and JSON Lines records as parse reads them (05 R133, R148, R151, R153).
-/

namespace Sys2Proof.Machine

/-- A parsed row before its tile: the status of a corrupt row, or the sources of its column map entries in order. -/
inductive RowSrc where
  | status (n : Nat)
  | srcs (xs : List Src)
  deriving DecidableEq, Repr

/-- Rows of one decode unit of parse (05 R155): the engine must divert it; rows of it have gone out. -/
structure RowUnit where
  rows : List RowSrc
  lane : Bool := false
  begun : Bool := false
  deriving DecidableEq, Repr

/-- A CSV record: its fields, none for null; or its status. -/
inductive CsvRec where
  | fields (fs : List (Option Bytes))
  | status (n : Nat)
  deriving DecidableEq, Repr

/-- What ends a field: the delimiter, a line end, or the end of the input. -/
inductive CsvEnd where
  | delim
  | line
  | input
  deriving DecidableEq, Repr

/-- A line end at the front: LF or CRLF; the bytes behind it. -/
def lineEnd (bs : Bytes) : Option Bytes :=
  match bs with
  | a :: r =>
    if a = 0x0A then some r
    else if a = 0x0D then
      match r with
      | b :: r2 => if b = 0x0A then some r2 else none
      | [] => none
    else none
  | [] => none

/-- An unquoted field: its bytes, how it ends and the rest; none at a quote character. -/
def csvPlain (delim quote : Byte) : Bytes → Option (Bytes × CsvEnd × Bytes)
  | [] => some ([], .input, [])
  | b :: r =>
    if b = delim then some ([], .delim, r)
    else match lineEnd (b :: r) with
    | some rest => some ([], .line, rest)
    | none => if b = quote then none else (csvPlain delim quote r).map (fun x => (b :: x.1, x.2))

/-- A quoted field after its opening quote: its bytes and the rest behind the closing quote; none where the input ends first. -/
def csvQuoted (quote : Byte) : Nat → Bytes → Option (Bytes × Bytes)
  | 0, _ => none
  | _, [] => none
  | n + 1, b :: r =>
    if b = quote then
      match r with
      | c :: r2 => if c = quote then (csvQuoted quote n r2).map (fun x => (b :: x.1, x.2)) else some ([], r)
      | [] => some ([], [])
    else (csvQuoted quote n r).map (fun x => (b :: x.1, x.2))

/-- The bytes behind the next line end; nothing where none follows. -/
def afterLine : Bytes → Bytes
  | [] => []
  | b :: r => if b = 0x0A then r else afterLine r

/-- One CSV record at the front and the rest. A syntax error ends the record at the next line end. -/
def csvRecord (delim quote : Byte) : Nat → Bytes → List (Option Bytes) → CsvRec × CsvEnd × Bytes
  | 0, bs, _ => (.status 1, .input, bs)
  | n + 1, bs, acc =>
    let next (f : Option Bytes) (e : CsvEnd) (r : Bytes) : CsvRec × CsvEnd × Bytes :=
      match e with
      | .delim => csvRecord delim quote n r (acc ++ [f])
      | _ => (.fields (acc ++ [f]), e, r)
    match bs with
    | b :: r =>
      if b = quote then
        match csvQuoted quote (r.length + 1) r with
        | none => (.status 5, .input, [])
        | some (f, r2) =>
          match r2 with
          | [] => next (some f) .input []
          | c :: r3 =>
            if c = delim then next (some f) .delim r3
            else match lineEnd r2 with
            | some r4 => next (some f) .line r4
            | none => (.status 1, .line, afterLine r2)
      else match csvPlain delim quote bs with
      | none => (.status 1, .line, afterLine bs)
      | some (f, e, r2) => next (if f.isEmpty then none else some f) e r2
    | [] => (.fields (acc ++ [none]), .input, [])

/-- Bytes of a record without the line end that ends it (R151, R153). -/
def csvLength (rec : Bytes) (e : CsvEnd) : Nat :=
  match e, rec.reverse with
  | .line, a :: b :: _ => if a = 0x0A then (if b = 0x0D then rec.length - 2 else rec.length - 1) else rec.length
  | .line, [a] => if a = 0x0A then 0 else 1
  | _, _ => rec.length

/-- Longest record that is decoded (R151 status 7): 256 MiB. -/
def recordMax : Nat := 0x10000000

/-- The records of a CSV object with their lengths; blank lines are none (R133). -/
def csvObject (delim quote : Byte) : Nat → Bytes → List (CsvRec × Nat)
  | 0, _ => []
  | n + 1, bs =>
    match bs with
    | [] => []
    | _ =>
      match lineEnd bs with
      | some r => csvObject delim quote n r
      | none =>
        let (x, e, r) := csvRecord delim quote (bs.length + 1) bs []
        let k := csvLength (bs.take (bs.length - r.length)) e
        (if recordMax < k then .status 7 else x, k) :: csvObject delim quote n r

/-- One RECORDS row as CSV: none for a blank line. Bytes behind a line end outside quotes, and a quoted field left open, are syntax errors. -/
def csvRow (delim quote : Byte) (bs : Bytes) : Option (CsvRec × Nat) :=
  if bs.isEmpty || lineEnd bs = some [] then none
  else
    let (x, e, r) := csvRecord delim quote (bs.length + 1) bs []
    let k := if r.isEmpty then csvLength bs e else bs.length
    let bad := decide (x = .status 1) || decide (x = .status 5) || !r.isEmpty || (lineEnd bs).isSome
    some (if recordMax < k then .status 7 else if bad then .status 1 else x, k)

/-- The sources of a record for the fields that the column map names; a missing trailing field is null. -/
def CsvRec.row (fields : List Nat) : CsvRec → RowSrc
  | .status n => .status n
  | .fields fs => .srcs (fields.map (fun i =>
      match fs.getD i none with
      | some b => .text b
      | none => .null))

/-- A line without its LF, and the rest; the flag tells that an LF ended it. -/
def takeLine : Bytes → Bytes × Bool × Bytes
  | [] => ([], false, [])
  | b :: r =>
    if b = 0x0A then ([], true, r)
    else
      let (l, e, rest) := takeLine r
      (b :: l, e, rest)

/-- A blank JSON line: only spaces, tabs and one CR (R133). -/
def jsonBlank (l : Bytes) : Bool := l.all (fun b => b = 0x20 || b = 0x09 || b = 0x0D) && decide ((l.filter (· == 0x0D)).length ≤ 1)

/-- A column map entry's path, MODE and INDEX (R149). -/
structure PathEnt where
  names : List Bytes
  mode : Nat
  index : Nat
  deriving DecidableEq, Repr

/-- One JSON Lines record: `open5` where the object ended with it, so that a record still open has status 5. -/
def jsonRow (ents : List PathEnt) (open5 : Bool) (l : Bytes) : RowSrc :=
  if recordMax < l.length then .status 7
  else match jsonText l with
  | .error .utf8 => .status 4
  | .error .syn => .status 1
  | .error .ended =>
    match skipSpace l with
    | b :: _ => if open5 && (b = 0x7B || b = 0x5B || b = 0x22) then .status 5 else .status 1
    | [] => .status 1
  | .ok v => if v.isObj then .srcs (ents.map (fun e => jsonSource v e.names e.mode e.index)) else .status 1

/-- The rows of a JSON Lines object with their lines. -/
def jsonObject (ents : List PathEnt) : Nat → Bytes → List (RowSrc × Bytes)
  | 0, _ => []
  | n + 1, bs =>
    match bs with
    | [] => []
    | _ =>
      let (l, ended, r) := takeLine bs
      if jsonBlank l then jsonObject ents n r else (jsonRow ents (!ended) l, l) :: jsonObject ents n r

end Sys2Proof.Machine
end

