-- ==== Sys2Proof/Machine/Fec.lean ====
section
/-!
DEFINITION. The forward error correction of a link: RS(544,514) codewords, their symbols on the lanes, alignment markers and the bit stream of flits
(14 R356, R357; 15 R379). The rule names IEEE 802.3 clause 91 as the code's definition: the field, the generator and the order of bits are that
clause's, marked PRESUMED (log entry 120).
-/

namespace Sys2Proof.Machine

open Sys2Proof

/-- The product of two 10-bit symbols in GF(2^10) of x^10 + x^3 + 1 (log entry 120, PRESUMED). -/
def gfMul (a b : Nat) : Nat :=
  ((List.range 10).reverse.foldl (fun acc i =>
    let dbl := acc * 2
    let red := if 1024 ≤ dbl then Nat.xor dbl 1033 else dbl
    if b.testBit i then Nat.xor red a else red) 0)

/-- A power of a symbol, the exponent below 1,024. -/
def gfPow (a e : Nat) : Nat :=
  (List.range 10).reverse.foldl (fun acc i => let sq := gfMul acc acc; if e.testBit i then gfMul sq a else sq) 1

/-- The inverse of a symbol that is not zero. -/
def gfInv (a : Nat) : Nat := gfPow a 1022

/-- The sum of two polynomials, lowest coefficient first. -/
def polyAdd : List Nat → List Nat → List Nat
  | [], q => q
  | p, [] => p
  | a :: p, b :: q => Nat.xor a b :: polyAdd p q

/-- A polynomial times a symbol. -/
def polyScale (c : Nat) (p : List Nat) : List Nat := p.map (gfMul c)

/-- A polynomial at a point. -/
def polyEval (p : List Nat) (x : Nat) : Nat := p.foldr (fun c acc => Nat.xor c (gfMul acc x)) 0

/-- The generator: the product of x + 2^j for j from 0 to 29, lowest coefficient first. -/
def rsGenerator : List Nat := (List.range 30).foldl (fun g j => polyAdd (0 :: g) (polyScale (gfPow 2 j) g)) [1]

/-- The 30 parity symbols of 514 data symbols, in the order sent: the remainder of the data's polynomial times x^30. -/
def rsParity (data : List Nat) : List Nat :=
  let g := ((rsGenerator.take 30).reverse)
  data.foldl (fun reg m =>
    let fb := Nat.xor m (reg.headD 0)
    polyAdd (reg.drop 1 ++ [0]) (polyScale fb g)) (List.replicate 30 0)

/-- A codeword: 514 data symbols and their parity. -/
def rsEncode (data : List Nat) : List Nat := data ++ rsParity data

/-- The 30 syndromes of a received word. -/
def rsSyndromes (word : List Nat) : List Nat := (List.range 30).map (fun j => polyEval word.reverse (gfPow 2 j))

/-- The search for the shortest recurrence of the syndromes: the locator so far, the last one before its length changed, the length, the distance since
that change and the discrepancy then. -/
structure RsSearch where
  loc : List Nat := [1]
  old : List Nat := [1]
  len : Nat := 0
  dist : Nat := 1
  disc : Nat := 1
  deriving DecidableEq, Repr

/-- One syndrome more. -/
def RsSearch.next (syn : List Nat) (r : RsSearch) (n : Nat) : RsSearch :=
  let d := (List.range (r.len + 1)).foldl (fun acc i => if i ≤ n then Nat.xor acc (gfMul (r.loc.getD i 0) (syn.getD (n - i) 0)) else acc) 0
  if d = 0 then { r with dist := r.dist + 1 }
  else
    let loc := polyAdd r.loc (List.replicate r.dist 0 ++ polyScale (gfMul d (gfInv r.disc)) r.old)
    if 2 * r.len ≤ n then { loc := loc, old := r.loc, len := n + 1 - r.len, dist := 1, disc := d }
    else { r with loc := loc, dist := r.dist + 1 }

/-- The wrong symbols of a received word: position in the codeword and the value to add; none when the word cannot be corrected (at most 15 can). -/
def rsErrors (word : List Nat) : Option (List (Nat × Nat)) :=
  let syn := rsSyndromes word
  if syn.all (· == 0) then some []
  else
    let r := (List.range 30).foldl (RsSearch.next syn) {}
    if 15 < r.len then none
    else
      let omega := (List.range 30).map (fun k => (List.range (k + 1)).foldl (fun acc i => Nat.xor acc (gfMul (r.loc.getD i 0) (syn.getD (k - i) 0))) 0)
      let slope := (List.range r.loc.length).filterMap (fun i => if i % 2 = 1 then some (r.loc.getD i 0) else none)
      let found := (List.range 544).filterMap (fun i =>
        let x := gfPow 2 (543 - i)
        let y := gfInv x
        if polyEval r.loc y = 0 then some (i, gfMul x (gfMul (polyEval omega y) (gfInv (polyEval slope (gfMul y y))))) else none)
      if found.length = r.len then some found else none

/-- A received word with its wrong symbols corrected. -/
def rsCorrect (word : List Nat) (errors : List (Nat × Nat)) : List Nat :=
  errors.foldl (fun w e => w.set e.1 (Nat.xor (w.getD e.1 0) e.2)) word

/-- Symbol i of a codeword travels on lane i mod width (14 R356). -/
def toLanes (width : Nat) (word : List Nat) : List (List Nat) :=
  (List.range width).map (fun k => (List.range (544 / width)).map (fun j => word.getD (j * width + k) 0))

/-- The codeword that the lanes carry. -/
def fromLanes (lanes : List (List Nat)) : List Nat :=
  (List.range 544).map (fun i => (lanes.getD (i % lanes.length) []).getD (i / lanes.length) 0)

/-- Lanes in the form of one codeword time: each carries its share of 544 symbols of 10 bits. -/
def lanesOk (width : Nat) (lanes : List (List Nat)) : Bool :=
  decide (0 < width) && decide (lanes.length = width) && lanes.all (fun l => decide (l.length = 544 / width) && l.all (fun x => decide (x < 1024)))

/-- The data bits of a codeword as a number: its first symbol lowest, each symbol's bit 0 first (log entry 120, PRESUMED). -/
def dataBits (word : List Nat) : Nat := (word.take 514).foldr (fun x acc => x + acc * 1024) 0

/-- A stretch of the received bit stream: its bits as a number, their count, and whether their codeword was uncorrectable. -/
structure BitRun where
  bits : Nat
  count : Nat
  bad : Bool := false
  deriving DecidableEq, Repr

/-- Takes n bits off a stream: their value, whether any comes from an uncorrectable codeword, and the rest; none while fewer are there. -/
def takeBits : Nat → List BitRun → Option (Nat × Bool × List BitRun)
  | 0, rs => some (0, false, rs)
  | _ + 1, [] => none
  | n, r :: rs =>
    if n < r.count then some (r.bits % pow2 n, r.bad, { r with bits := r.bits / pow2 n, count := r.count - n } :: rs)
    else (takeBits (n - r.count) rs).map (fun x => (r.bits + x.1 * pow2 r.count, r.bad || x.2.1, x.2.2))

end Sys2Proof.Machine
end

