-- ==== Sys2Proof/Machine/JobImage.lean ====
section
/-!
DEFINITION. The job image: layouts R57 to R62, the station table R49, and the acceptance conditions of R63 and R56
(02_tiles_queues_stations.md).
-/

namespace Sys2Proof.Machine

/-- The station types of R49. -/
inductive SType where
  | intake | unpack | parse | align | matchSt | hashjoin | kernel | select | image | shuffle | batch | layout | shale | emit
  deriving DecidableEq, Repr

/-- The station type of a code; none for a reserved code (R49). -/
def SType.ofCode (c : Nat) : Option SType :=
  match c with
  | 0x01 => some .intake | 0x02 => some .unpack | 0x03 => some .parse | 0x04 => some .align | 0x05 => some .matchSt
  | 0x06 => some .hashjoin | 0x07 => some .kernel | 0x08 => some .select | 0x09 => some .image | 0x0A => some .shuffle
  | 0x0B => some .batch | 0x0C => some .layout | 0x0D => some .shale | 0x0E => some .emit | _ => none

/-- Input ports a type may use: least and most (R49). -/
def SType.inPorts : SType → Nat × Nat
  | .intake => (0, 0) | .align => (2, 16) | .hashjoin => (2, 2) | .kernel => (0, 8) | _ => (1, 1)

/-- Output ports a type may use: least and most (R49). -/
def SType.outPorts : SType → Nat × Nat
  | .align => (1, 2) | .kernel => (1, 8) | .shuffle => (1, 64) | .emit => (0, 0) | _ => (1, 1)

/-- DISTRIBUTION codes a type allows (R49): 0 SINGLE, 1 SEQUENTIAL, 2 PARTITIONED. -/
def SType.dists : SType → List Nat
  | .unpack | .parse | .matchSt | .select => [0, 1]
  | .hashjoin => [2] | .kernel => [0, 1, 2] | .image => [1] | _ => [0]

/-- True when a type accepts a format on its input (R49). -/
def SType.accepts (t : SType) (f : TFmt) : Bool :=
  match t with
  | .intake => false
  | .unpack => f = .bytes
  | .parse => f = .bytes || f = .records
  | .align | .matchSt | .hashjoin | .select | .shuffle => f = .columns
  | .kernel => f ≠ .tensor
  | .image => f = .bytes || f = .pixels
  | .batch => f = .columns || f = .pixels
  | .layout => f = .batch
  | .shale | .emit => true

/-- True when a type produces a format on its output (R49). -/
def SType.produces (t : SType) (f : TFmt) : Bool :=
  match t with
  | .intake | .shale => true
  | .unpack => f = .bytes
  | .parse | .align | .hashjoin | .shuffle => f = .columns
  | .matchSt => f = .columns || f = .matchResults
  | .kernel => f ≠ .batch && f ≠ .tensor
  | .select => f = .topk
  | .image => f = .pixels
  | .batch => f = .batch
  | .layout => f = .tensor
  | .emit => false

/-- A station descriptor (R59). -/
structure StationD where
  index : Nat := 0
  typeCode : Nat := 0
  dist : Nat := 0
  partitions : Nat := 0
  keyColumn : Nat := 0
  sflags : Nat := 0
  maxInstances : Nat := 0
  inPorts : Nat := 0
  outPorts : Nat := 0
  paramOffset : Nat := 0
  paramBytes : Nat := 0
  programOffset : Nat := 0
  programWords : Nat := 0
  rsv : Nat := 0
  deriving DecidableEq, Repr

/-- The type of a station, intake for a reserved code (which R63 condition 2 rejects). -/
def StationD.stype (s : StationD) : SType := (SType.ofCode s.typeCode).getD .intake

/-- A queue descriptor (R60). -/
structure QueueD where
  number : Nat := 0
  producer : Nat := 0
  producerPort : Nat := 0
  consumers : Nat := 1
  /-- The four consumer entries: station, port, reserved byte. -/
  consumer : List (Nat × Nat × Nat) := []
  depth : Nat := 2
  format : Nat := 0
  qflags : Nat := 0
  rsv1 : Nat := 0
  columns : Nat := 0
  rsv2 : Nat := 0
  deriving DecidableEq, Repr

/-- The consumer ports in use. -/
def QueueD.ends (q : QueueD) : List (Nat × Nat) := (q.consumer.take q.consumers).map (fun c => (c.1, c.2.1))

/-- A region reference (R61). -/
structure RegionD where
  id : Nat := 0
  kind : Nat := 0
  access : Nat := 0
  rflags : Nat := 0
  minBytes : Nat := 0
  name : Nat := 0
  rsv : Nat := 0
  deriving DecidableEq, Repr

/-- A channel declaration (R62). -/
structure ChannelD where
  channel : Nat := 0
  kind : Nat := 0
  emitStation : Nat := 0
  batchSamples : Nat := 1
  outputRegion : Nat := 0
  descRegion : Nat := 0
  rsv1 : Nat := 0
  samples : Nat := 1
  rsv2 : Nat := 0
  deriving DecidableEq, Repr

/-- A hint (R62, its last paragraph). -/
structure HintD where
  station : Nat := 0
  kind : Nat := 0
  rsv : Nat := 0
  value : Nat := 0
  deriving DecidableEq, Repr

/-- A job image: the header of R58 and the areas. -/
structure Image where
  jobTag : Nat := 0
  seed : Nat := 0
  firstEpoch : Nat := 0
  epochBatches : Nat := 0
  spillBudget : Nat := 0
  intakeLogBytes : Nat := 0
  latenessUs : Nat := 0
  stations : List StationD := []
  queues : List QueueD := []
  regions : List RegionD := []
  channels : List ChannelD := []
  hints : List HintD := []
  program : Bytes := []
  params : Bytes := []
  check : Nat := 0
  deriving DecidableEq, Repr

/-- Reads station descriptor `i` of a table at `off`. -/
def readStation (b : Bytes) (off i : Nat) : StationD :=
  let d := slice b (off + 32 * i) 32
  { index := u16at d 0, typeCode := u8at d 2, dist := u8at d 3, partitions := u16at d 4, keyColumn := u8at d 6, sflags := u8at d 7,
    maxInstances := u16at d 8, inPorts := u8at d 0x0A, outPorts := u8at d 0x0B, paramOffset := u32at d 0x0C, paramBytes := u32at d 0x10,
    programOffset := u32at d 0x14, programWords := u32at d 0x18, rsv := u32at d 0x1C }

/-- Reads queue descriptor `i`. -/
def readQueue (b : Bytes) (off i : Nat) : QueueD :=
  let d := slice b (off + 48 * i) 48
  { number := u32at d 0, producer := u16at d 4, producerPort := u8at d 6, consumers := u8at d 7,
    consumer := (List.range 4).map (fun k => (u16at d (8 + 4 * k), u8at d (10 + 4 * k), u8at d (11 + 4 * k))),
    depth := u16at d 0x18, format := u8at d 0x1A, qflags := u8at d 0x1B, rsv1 := u32at d 0x1C, columns := u64at d 0x20, rsv2 := u64at d 0x28 }

/-- Reads region reference `i`. -/
def readRegion (b : Bytes) (off i : Nat) : RegionD :=
  let d := slice b (off + 32 * i) 32
  { id := u16at d 0, kind := u8at d 2, access := u8at d 3, rflags := u32at d 4, minBytes := u64at d 8, name := u64at d 0x10, rsv := u64at d 0x18 }

/-- Reads channel declaration `i`. -/
def readChannel (b : Bytes) (off i : Nat) : ChannelD :=
  let d := slice b (off + 32 * i) 32
  { channel := u8at d 0, kind := u8at d 1, emitStation := u16at d 2, batchSamples := u32at d 4, outputRegion := u16at d 8, descRegion := u16at d 0x0A,
    rsv1 := u32at d 0x0C, samples := u64at d 0x10, rsv2 := u64at d 0x18 }

/-- Reads hint `i`. -/
def readHint (b : Bytes) (off i : Nat) : HintD :=
  let d := slice b (off + 16 * i) 16
  { station := u16at d 0, kind := u8at d 2, rsv := uat d 3 5, value := u64at d 8 }

/-- A failed check of an image: area, failing condition and descriptor index or byte offset (R79). -/
structure Fail where
  area : Nat
  cond : Nat
  index : Nat
  deriving DecidableEq, Repr

/-- The DETAIL of a failed check (R79). -/
def Fail.detail (f : Fail) : Nat := f.area * pow2 56 + f.cond * pow2 48 + f.index

/-- The first failing check of a list of (failed, area, condition, index). -/
def firstFail (cs : List (Bool × Nat × Nat × Nat)) : Option Fail :=
  match cs.find? (·.1) with
  | some (_, a, c, i) => some ⟨a, c, i⟩
  | none => none

/-- Condition 1 of R63 (and of R57 for the length). -/
def imageCond1 (b : Bytes) : Option Fail :=
  firstFail [
    (decide (b.length < 256 ∨ 0x10000000 < b.length), 1, 1, 0x008),
    (decide (u32at b 0 ≠ 0x494A5948), 1, 1, 0x000),
    (decide (u16at b 4 ≠ 2), 1, 1, 0x004),
    (decide (u32at b 8 ≠ b.length), 1, 1, 0x008),
    (decide (crc64 (b.take 0xF8 ++ zeros 8 ++ b.drop 0x100) ≠ u64at b 0xF8), 1, 1, 0x0F8)]

/-- The areas of an image: header offset of the field, start and length, for the tables that are not empty (R57). -/
def imageAreas (b : Bytes) : List (Nat × Nat × Nat) :=
  [(0x048, u32at b 0x48, 32 * u16at b 0x38), (0x04C, u32at b 0x4C, 48 * u32at b 0x3C), (0x050, u32at b 0x50, 32 * u32at b 0x40),
   (0x054, u32at b 0x54, 32 * u16at b 0x3A), (0x058, u32at b 0x58, 16 * u32at b 0x44), (0x05C, u32at b 0x5C, u32at b 0x60),
   (0x064, u32at b 0x64, u32at b 0x68)]

/-- Two spans overlap. -/
def spansMeet (a1 n1 a2 n2 : Nat) : Bool := decide (a1 < a2 + n2) && decide (a2 < a1 + n1)

/-- Checks of the areas (R57, condition 2). DESIGN CHOICE (log entry 105): a program or parameter area of length zero has offset zero, as R57 asks of tables. -/
def imageAreaFails (b : Bytes) : List (Bool × Nat × Nat × Nat) :=
  let as := imageAreas b
  as.map (fun (o, s, n) => (decide (n = 0 ∧ s ≠ 0), 1, 2, o)) ++
  as.map (fun (o, s, n) => (decide (n ≠ 0) && (decide (s % 64 ≠ 0) || decide (s < 256) || decide (b.length < s + n)), 1, 2, o)) ++
  as.zipIdx.map (fun ((o, s, n), i) =>
    ((as.take i).any (fun (_, s2, n2) => decide (n ≠ 0) && decide (n2 ≠ 0) && spansMeet s n s2 n2), 1, 2, o))

/-- Reads the areas of an image whose header is sound. -/
def readImage (b : Bytes) : Image :=
  { jobTag := u32at b 0x0C, seed := u64at b 0x10, firstEpoch := u32at b 0x18, epochBatches := u32at b 0x1C, spillBudget := u64at b 0x20,
    intakeLogBytes := u64at b 0x28, latenessUs := u64at b 0x30,
    stations := (List.range (u16at b 0x38)).map (readStation b (u32at b 0x48)),
    queues := (List.range (u32at b 0x3C)).map (readQueue b (u32at b 0x4C)),
    regions := (List.range (u32at b 0x40)).map (readRegion b (u32at b 0x50)),
    channels := (List.range (u16at b 0x3A)).map (readChannel b (u32at b 0x54)),
    hints := (List.range (u32at b 0x44)).map (readHint b (u32at b 0x58)),
    program := slice b (u32at b 0x5C) (u32at b 0x60), params := slice b (u32at b 0x64) (u32at b 0x68), check := u64at b 0xF8 }

/-- Header fields of condition 2. -/
def imageHeaderFails (b : Bytes) : List (Bool × Nat × Nat × Nat) :=
  let mib := 0x100000
  [(decide (u32at b 0x18 = 0xFFFFFFFF), 1, 2, 0x018),
   (decide (u64at b 0x20 % mib ≠ 0 ∨ 64 * 0x40000000 < u64at b 0x20), 1, 2, 0x020),
   (decide (u64at b 0x28 % mib ≠ 0), 1, 2, 0x028),
   (decide (u16at b 0x38 = 0 ∨ 4096 < u16at b 0x38), 1, 2, 0x038),
   (decide (64 < u16at b 0x3A), 1, 2, 0x03A),
   (decide (u32at b 0x3C = 0 ∨ 65536 < u32at b 0x3C), 1, 2, 0x03C),
   (decide (1024 < u32at b 0x40), 1, 2, 0x040),
   (decide (4096 < u32at b 0x44), 1, 2, 0x044),
   (decide (u32at b 0x60 % 8 ≠ 0), 1, 2, 0x060)]

/-- A number lies outside the span. -/
def outside (x : Nat) (r : Nat × Nat) : Bool := decide (x < r.1) || decide (r.2 < x)

/-- Formats whose queues declare columns. -/
def hasColumns (f : Nat) : Bool := decide (f = TFmt.columns.code) || decide (0x80 ≤ f)

/-- A region's NAME (R61): ASCII bytes, padded with zeros to eight. -/
def nameOk (name : Nat) : Bool :=
  let bs := le 8 name
  bs.all (fun b => decide (b.toNat < 0x80)) && (bs.dropWhile (fun b => b != 0)).all (fun b => b == 0)

/-- Descriptor fields of condition 2. DESIGN CHOICE (log entry 105): PROGRAM_OFFSET must be a multiple of 8, the width of a program word; R59 does not say so. `lenOk` answers whether a station's PARAM_BYTES is the length its chapter gives (R59). -/
def imageDescFails (im : Image) (lenOk : StationD → Bool) : List (Bool × Nat × Nat × Nat) :=
  im.stations.zipIdx.map (fun (s, i) =>
    ((SType.ofCode s.typeCode).isNone || decide (2 < s.dist) ||
     (if s.dist = 2 then decide (s.partitions = 0 ∨ 4096 < s.partitions ∨ 63 < s.keyColumn) else decide (s.partitions ≠ 0 ∨ s.keyColumn ≠ 0)) ||
     outside s.inPorts s.stype.inPorts || outside s.outPorts s.stype.outPorts ||
     decide (im.params.length < s.paramOffset + s.paramBytes) || decide (im.program.length < s.programOffset + 8 * s.programWords) ||
     decide (s.programOffset % 8 ≠ 0) || decide (s.stype ≠ .kernel ∧ s.programOffset ≠ 0) || !lenOk s, 2, 2, i)) ++
  im.queues.zipIdx.map (fun (q, i) =>
    (decide (q.consumers = 0 ∨ 4 < q.consumers) || (q.consumer.drop q.consumers).any (fun c => decide (c.1 ≠ 0 ∨ c.2.1 ≠ 0)) ||
     outside q.depth (2, 4096) || (TFmt.ofCode q.format).isNone || (!hasColumns q.format && decide (q.columns ≠ 0)), 3, 2, i)) ++
  im.regions.zipIdx.map (fun (r, i) => (decide (1023 < r.id) || outside r.kind (1, 5) || !nameOk r.name, 4, 2, i)) ++
  im.channels.zipIdx.map (fun (c, i) =>
    (decide (63 < c.channel) || decide (1 < c.kind) || decide (c.batchSamples = 0) || outside c.samples (1, pow2 48 - 1), 5, 2, i)) ++
  im.hints.zipIdx.map (fun (h, i) => (outside h.kind (1, 3), 6, 2, i))

/-- Condition 3: positions, duplicates and references; `refsOk` answers whether what a station's parameter block names exists. -/
def imageCond3 (im : Image) (refsOk : StationD → Bool) : List (Bool × Nat × Nat × Nat) :=
  let st (i : Nat) : Option StationD := im.stations[i]?
  let hasRegion (id : Nat) : Bool := im.regions.any (fun r => r.id == id)
  im.stations.zipIdx.map (fun (s, i) => (s.index != i || !refsOk s, 2, 3, i)) ++
  im.queues.zipIdx.map (fun (q, i) =>
    (q.number != i ||
     (match st q.producer with
      | some s => decide (s.outPorts ≤ q.producerPort)
      | none => true) ||
     q.ends.any (fun e =>
       match st e.1 with
       | some s => decide (s.inPorts ≤ e.2)
       | none => true), 3, 3, i)) ++
  im.regions.zipIdx.map (fun (r, i) => ((im.regions.take i).any (fun r2 => r2.id == r.id), 4, 3, i)) ++
  im.channels.zipIdx.map (fun (c, i) =>
    ((im.channels.take i).any (fun c2 => c2.channel == c.channel) || !hasRegion c.outputRegion || !hasRegion c.descRegion ||
     (match st c.emitStation with
      | some s => decide (s.stype ≠ .emit)
      | none => true), 5, 3, i)) ++
  im.hints.zipIdx.map (fun (h, i) => ((st h.station).isNone || (h.kind == 2 && !hasRegion h.value), 6, 3, i))

/-- Queues whose consumer is an input port. -/
def portQueues (im : Image) (s p : Nat) : List QueueD := im.queues.filter (fun q => q.ends.contains (s, p))

/-- How often a port is a consumer end. -/
def portCount (im : Image) (s p : Nat) : Nat := im.queues.foldl (fun a q => a + q.ends.count (s, p)) 0

/-- Queues whose producer is an output port. -/
def outQueues (im : Image) (s p : Nat) : List QueueD := im.queues.filter (fun q => q.producer == s && q.producerPort == p)

/-- Condition 4: every port is one queue's end. -/
def imageCond4 (im : Image) : List (Bool × Nat × Nat × Nat) :=
  im.stations.zipIdx.map (fun (s, i) =>
    ((List.range s.inPorts).any (fun p => portCount im i p != 1) || (List.range s.outPorts).any (fun p => (outQueues im i p).length != 1), 2, 4, i))

/-- Condition 5: formats agree. -/
def imageCond5 (im : Image) : List (Bool × Nat × Nat × Nat) :=
  im.queues.zipIdx.map (fun (q, i) =>
    (match TFmt.ofCode q.format with
     | none => true
     | some f =>
       !(match im.stations[q.producer]? with
         | some s => s.stype.produces f
         | none => false) ||
       q.ends.any (fun e =>
         match im.stations[e.1]? with
         | some s => !s.stype.accepts f
         | none => true), 3, 5, i))

/-- A station is a shuffle station, or queues lead to it from one. -/
def fromShuffle (im : Image) : Nat → Nat → Bool
  | 0, _ => false
  | n + 1, s =>
    ((im.stations[s]?).map (fun x => decide (x.stype = .shuffle))).getD false ||
    (im.queues.filter (fun q => q.ends.any (fun e => e.1 == s))).any (fun q => fromShuffle im n q.producer)

/-- Walks back from a station's input to the shuffle station, asking that every queue on the way is a strict-path queue (condition 7). -/
def strictBack (im : Image) : Nat → Nat → Bool
  | 0, _ => true
  | n + 1, s =>
    (im.queues.filter (fun q => q.ends.any (fun e => e.1 == s) && fromShuffle im im.stations.length q.producer)).all (fun q =>
      bit q.qflags 0 &&
      (match im.stations[q.producer]? with
       | some p => if p.stype = .shuffle then true else strictBack im n q.producer
       | none => true))

/-- Condition 7: strict channels. -/
def imageCond7 (im : Image) : List (Bool × Nat × Nat × Nat) :=
  im.channels.zipIdx.map (fun (c, i) =>
    (c.kind == 1 && (decide (8 < ((im.channels.take (i + 1)).filter (fun x => x.kind == 1)).length) || !strictBack im im.stations.length c.emitStation), 5, 7, i))

/-- Condition 8: reserved fields (R8); `rsvOk` answers whether those of a station's parameter block are zero. -/
def imageCond8 (b : Bytes) (im : Image) (rsvOk : StationD → Bool) : List (Bool × Nat × Nat × Nat) :=
  [(u16at b 6 != 0, 1, 8, 0x006), (!allZero b 0x6C 140, 1, 8, 0x06C)] ++
  im.stations.zipIdx.map (fun (s, i) => (s.sflags != 0 || s.rsv != 0 || !rsvOk s, 2, 8, i)) ++
  im.queues.zipIdx.map (fun (q, i) => (q.consumer.any (fun c => c.2.2 != 0) || decide (4 ≤ q.qflags) || q.rsv1 != 0 || q.rsv2 != 0, 3, 8, i)) ++
  im.regions.zipIdx.map (fun (r, i) => (decide (4 ≤ r.access) || decide (4 ≤ r.rflags) || r.rsv != 0, 4, 8, i)) ++
  im.channels.zipIdx.map (fun (c, i) => (c.rsv1 != 0 || c.rsv2 != 0, 5, 8, i)) ++
  im.hints.zipIdx.map (fun (h, i) => (h.rsv != 0, 6, 8, i))

/-- Joins the labels of two nodes; none when they already share one: the edge closes a cycle. -/
def joinLabels (ls : List Nat) (a b : Nat) : Option (List Nat) :=
  let la := ls.getD a a
  let lb := ls.getD b b
  if la = lb then none else some (ls.map (fun l => if l = lb then la else l))

/-- True when the graph of stations and queues, its directions ignored, has a cycle (R56). -/
def graphHasCycle (im : Image) : Bool :=
  let ns := im.stations.length
  let edges := (im.queues.zipIdx.map (fun (q, i) => (ns + i, q.producer) :: q.ends.map (fun e => (ns + i, e.1)))).flatten
  (edges.foldl (fun acc e =>
    match acc with
    | none => none
    | some ls => joinLabels ls e.1 e.2) (some (List.range (ns + im.queues.length)))).isNone

/-- The conditions of R63 in order; of the parameter blocks `lenOk` is the length rule of R59's PARAM_BYTES, `refsOk` and `rsvOk` are conditions 3 and 8. -/
def checkImage (b : Bytes) (lenOk refsOk rsvOk : Image → StationD → Bool) : Option Fail :=
  match imageCond1 b with
  | some f => some f
  | none =>
    match firstFail (imageHeaderFails b ++ imageAreaFails b) with
    | some f => some f
    | none =>
      let im := readImage b
      firstFail (imageDescFails im (lenOk im) ++ imageCond3 im (refsOk im) ++ imageCond4 im ++ imageCond5 im ++
        im.stations.zipIdx.map (fun (s, i) => (!s.stype.dists.contains s.dist, 2, 6, i)) ++ imageCond7 im ++ imageCond8 b im (rsvOk im) ++
        [(im.spillBudget == 0 && graphHasCycle im, 1, 9, 0x020)])

/-- The bytes of a station's parameter block. -/
def Image.paramBlock (im : Image) (s : StationD) : Bytes := slice im.params s.paramOffset s.paramBytes

/-- The parameter block of station `i`. -/
def Image.param (im : Image) (i : Nat) : Bytes :=
  match im.stations[i]? with
  | some s => im.paramBlock s
  | none => []

end Sys2Proof.Machine
end

