-- ==== Sys2Proof/Machine/DevTypes.lean ====
section
/-!
DEFINITION. Plain-data types of the device outside its jobs: rings and register window (03), root die, firmware and boot (17), power and monitors (16),
links (14, 15), hedge and chain (15), movers (12).
-/

namespace Sys2Proof.Machine

/-- A write to memory that a command makes, applied in order when the command ends. -/
inductive Post where
  /-- Bytes written from a device address upward (02 R32, 03 R72, 12 R328). -/
  | write (addr : Nat) (bs : Bytes)
  /-- The contents of addresses `lo` to `hi - 1` are lost (13 R336, R342, 17 R449). -/
  | lose (lo hi : Nat)
  deriving DecidableEq, Repr

/-- Device states (03 R64 STATUS.DEVICE_STATE, 16 R411). -/
inductive DState where
  | booting | recovery | d0 | d1 | d2 | d3
  deriving DecidableEq, Repr

/-- The DEVICE_STATE code; D3, in which the window is unreachable, has no code of its own and counts on. -/
def DState.code : DState → Nat
  | .booting => 0 | .recovery => 1 | .d0 => 2 | .d1 => 3 | .d2 => 4 | .d3 => 5

/-- One ring's registers and bookkeeping (03 R64, R67, R68). -/
structure Ring where
  /-- The BASE register. -/
  base : Nat := 0
  /-- LOG2_ENTRIES. -/
  size : Nat := 0
  head : Nat := 0
  tail : Nat := 0
  enabled : Bool := false
  /-- The enable bit was cleared and a read-back is still outstanding (R68). -/
  disabling : Bool := false
  /-- PHASE of the current pass (R67). -/
  phase : Bool := true
  /-- Entries were written and not yet covered by a read-back. -/
  unread : Bool := false
  /-- Entries were written since the last notify (R74). -/
  announce : Bool := false
  /-- Time of the last notify. -/
  notified : Option Nat := none
  deriving DecidableEq, Repr

/-- A fetched command slot in progress (03 R70, R77). -/
structure Cmd where
  /-- Ring index of the slot; for a chain command the CID. -/
  index : Nat := 0
  opcode : Nat := 0
  rsv : Nat := 0
  slot : Nat := 0xFF
  cmdId : Nat := 0
  dataAddr : Nat := 0
  dataBytes : Nat := 0
  respBytes : Nat := 0
  respAddr : Nat := 0
  body : Bytes := []
  /-- The command took effect and waits for its protocol to end before it completes. -/
  accepted : Bool := false
  /-- A JOB_REBIND whose checks passed drains the affected instances and has not handed the units over (R97 steps 1 to 3, R99). -/
  begun : Bool := false
  /-- It came over the hedgerow chain (15 R403). -/
  chain : Bool := false
  /-- Request data that came over the chain. -/
  data : Bytes := []
  deriving DecidableEq, Repr

/-- A write of Oluat to host memory that is held (03 R68, 14 R376). -/
inductive Held where
  /-- A response buffer. -/
  | resp (addr : Nat) (bs : Bytes)
  /-- An event entry without PHASE and LOST. -/
  | event (e : Bytes)
  /-- A completion entry without PHASE. -/
  | entry (e : Bytes)
  deriving DecidableEq, Repr

/-- The held write is an event entry. -/
def Held.isEvent : Held → Bool
  | .event _ => true
  | _ => false

/-- The register window (03 R64 to R68) and what Oluat keeps of the rings. -/
structure Window where
  cmd : Ring := {}
  cpl : Ring := {}
  evt : Ring := {}
  evtLost : Nat := 0
  /-- The next event entry carries LOST (R73). -/
  lostFlag : Bool := false
  ringConfigError : Bool := false
  doorbellError : Bool := false
  resetInProgress : Bool := false
  /-- FAULT_LATCH and FAULT_TIME. -/
  latchValid : Bool := false
  latchSlot : Nat := 0
  latchDie : Nat := 0
  latchLater : Nat := 0
  latchCode : Nat := 0
  faultTime : Nat := 0
  /-- RESET_STATUS. -/
  resets : Nat := 0
  lastCause : Nat := 0
  /-- Low words of 64-bit registers waiting for their high word, by offset (R64). -/
  lowHold : List (Nat × Nat) := []
  /-- High words captured by a read of the low word, by offset (R64). -/
  highCap : List (Nat × Nat) := []
  /-- The value the last register read returned. -/
  lastRead : Nat := 0
  /-- Commands fetched and not completed (R70). -/
  inProg : List Cmd := []
  /-- Writes of Oluat held while the completion ring is disabled or no port is up, in order (R68, 14 R376). -/
  held : List Held := []
  deriving DecidableEq, Repr

/-- A firmware image as a bank holds it (17 R433): the header and the digest of the body it came with. -/
structure FwImage where
  hdr : Bytes := []
  bodyBytes : Nat := 0
  bodyDigest : Bytes := []
  deriving DecidableEq, Repr

/-- The banks of one target (17 R435). -/
structure Banks where
  active : Option FwImage := none
  staged : Option FwImage := none
  pending : Bool := false
  deriving DecidableEq, Repr

/-- An image that was loaded at boot: measurement, VERSION and SVN. -/
structure Loaded where
  measure : Bytes := []
  version : Nat := 0
  svn : Nat := 0
  deriving DecidableEq, Repr

/-- A fault waiting in the boot list (17 R441): code, DETAIL, DETAIL2, die. -/
structure BootFault where
  code : Nat
  detail : Nat
  detail2 : Nat
  die : Nat
  deriving DecidableEq, Repr

/-- The root die (17). -/
structure Root where
  /-- The strap word and whether it has been latched (R429). -/
  straps : Nat := 0
  strapsLatched : Bool := true
  /-- Fused minimum SVN of targets 0, 1, 2 (R434, R444). -/
  minSvn : List Nat := [0, 0, 0]
  /-- The image cache (R435), targets 0, 1, 2. -/
  cache : List Banks := [{}, {}, {}]
  /-- SPI flash banks (R435). -/
  flash : List Banks := [{}, {}, {}]
  /-- This boot found the flash absent or unsupported: its banks are not used (R451). -/
  flashBad : Bool := false
  /-- The images running, targets 0, 1, 2. -/
  loaded : List (Option Loaded) := [none, none, none]
  /-- The identity check of R437 passed at this boot. -/
  identityOk : Bool := true
  /-- Boot step in progress; 0 when no boot runs (R439). -/
  bootStep : Nat := 2
  /-- State the boot ends in when it is not STRAP_PWR_ON's: an exit from D3 (R412). -/
  bootTarget : Option DState := none
  /-- Gate and lane-off masks of the POWER_SET that began the exit from D3: applied after the state change (R413). -/
  bootMask : Nat × Nat := (0, 0)
  /-- The target whose PENDING image this boot tries (R443). -/
  activating : Option Nat := none
  /-- The boot is a power-on or an exit from D3: images come from flash. -/
  coldBoot : Bool := true
  /-- The boot is the second run after a failed activation (R443). -/
  secondRun : Bool := false
  bootFaults : List BootFault := []
  /-- A full reset was requested and not begun, with its cause (R448). -/
  resetCause : Option Nat := none
  /-- The slots of the jobs whose own faults asked for it (04 R126). -/
  resetSlots : List Nat := []
  /-- Match banks, die and index, not used until the self-test of the next reset (07 R198). -/
  badBanks : List (Nat × Nat) := []
  resetNLow : Bool := false
  /-- Reference and PLL lock (16 R407). -/
  refOk : Bool := true
  refLost : Bool := false
  /-- THERMTRIP_N is driven low; the die recorded (16 R427). -/
  tripped : Bool := false
  tripDie : Option Nat := none
  /-- Rails: VAON and VIO, the others, and the tier's (16 R420). -/
  railsOn : Bool := true
  mainOn : Bool := true
  tierOn : Bool := true
  /-- Debug tokens (R447): scope unlocked, digest of the accepted token, result of the last check, number of challenges drawn. -/
  debugScope : Nat := 0
  debugDigest : Bytes := []
  debugResult : Nat := 0
  challenges : Nat := 0
  /-- The JTAG instruction in the register; IDCODE after reset (log entry 29). -/
  jtag : Nat := 1
  /-- The peer table: digest approved for each hedge link (15 R387). -/
  peers : List (Nat × Bytes) := []
  deriving DecidableEq, Repr

/-- One monitor's alarm (16 R424). -/
structure Alarm where
  enabled : Bool := false
  low : Int := 0
  high : Int := 0
  above : Bool := false
  below : Bool := false
  inside : Nat := 0
  lastEvent : Option Nat := none
  deriving DecidableEq, Repr

/-- Power, clocks and monitors (16). -/
structure Power where
  state : DState := .booting
  /-- Arithmetic step: 0 1.8 GHz, 1 1.2 GHz, 2 0.9 GHz. -/
  step : Nat := 0
  cap : Nat := 0
  gates : Nat := 0
  /-- Clusters (die and index) outside the free pool on which the bramble lane runs for its clusters on gated dies (R415). -/
  moved : List (Nat × Nat) := []
  laneOff : Nat := 0
  /-- Number of the last complete sample (R421, R423). -/
  sampleNo : Nat := 0
  /-- Readings of the last complete snapshot; an unlisted index reads 0. -/
  snap : List (Nat × Int) := []
  /-- Count readings of the snapshot before, for alarms (R424). -/
  prev : List (Nat × Int) := []
  /-- Count monitors that accumulate outside other state: saturation (R22), corrections (R350). -/
  counts : List (Nat × Nat) := []
  alarms : List (Nat × Alarm) := []
  /-- Consecutive samples a voltage monitor was out of tolerance (R420). -/
  railOut : List (Nat × Nat) := []
  /-- Consecutive samples with the power above the cap, their power summed, and whether 0x0D04 was raised (R418). -/
  overCap : Nat := 0
  overSum : Nat := 0
  overRaised : Bool := false
  /-- Domains ungated and not yet power-good (R415). -/
  waking : List Nat := []
  deriving DecidableEq, Repr

/-- Names a link: an Emtor port or a hedge link. -/
inductive LinkId where
  | emtor (port : Nat)
  | hedge (link : Nat)
  deriving DecidableEq, Repr

/-- A read outstanding on a link: tag, address, length and who asked. -/
inductive Reader where
  | mover (engine channel : Nat)
  | oluat
  | job (slot : Nat)
  deriving DecidableEq, Repr

/-- A path of completion (12 R314). -/
inductive Path where
  | hbm (stack : Nat)
  | tier
  | emtor (port : Nat)
  | peer (addr : Nat)
  deriving DecidableEq, Repr

/-- A read outstanding on a link (14 R369, 15 R382). -/
structure ReadReq where
  tag : Nat
  addr : Nat
  len : Nat
  reader : Reader
  sealCheck : Bool := false
  /-- Where the data go when they return; none for data that are staged or discarded. -/
  dst : Option Nat := none
  /-- The data are part of a tile that gathers in the channel's staging buffer (12 R320). -/
  stage : Bool := false
  /-- The write of the data completes in barrier mode (12 R315). -/
  barrier : Bool := false
  /-- The read is the read-back of a path (12 R315). -/
  back : Option Path := none
  deriving DecidableEq, Repr

/-- Counters of a link (14, Counters and faults). -/
structure LinkCounts where
  fecCorrected : Nat := 0
  fecSymbols : Nat := 0
  fecUncorrectable : Nat := 0
  laneSymbols : List Nat := []
  crcErrors : Nat := 0
  nakSent : Nat := 0
  nakReceived : Nat := 0
  flitsReplayed : Nat := 0
  retrains : Nat := 0
  linkDown : Nat := 0
  feedDiscarded : Nat := 0
  regRefused : Nat := 0
  /-- Hedge links: packets escaped, discarded at the hop limit, discarded for lack of a route (15 R399). -/
  escaped : Nat := 0
  hopDiscards : Nat := 0
  noRoute : Nat := 0
  deriving DecidableEq, Repr

/-- What a hedge link learned of its peer (15 R386, R387). -/
structure Peer where
  /-- This end's nonce number and the peer's key, nonce and link, once received. -/
  nonce : Nat := 0
  key : Bytes := []
  peerNonce : Bytes := []
  peerLink : Option Nat := none
  verified : Bool := false
  digest : Bytes := []
  /-- This end approves; the peer approves (ADMIT). -/
  approved : Bool := false
  peerApproves : Bool := false
  /-- The peer's hedge address and level, where learned. -/
  addr : Option Nat := none
  level : Nat := 0
  deriving DecidableEq, Repr

/-- A hedge packet (15 R381). -/
structure Packet where
  ptype : Nat
  /-- PFLAGS: [2] STRICT, [1] ESCAPE, [0] ERROR. -/
  pflags : Nat := 0
  dest : Nat := 0
  src : Nat := 0
  hops : Nat := 0
  engine : Nat := 0xFF
  jobTag : Nat := 0xFFFFFFFF
  tag : Nat := 0
  addr : Nat := 0
  aux : Nat := 0
  data : Bytes := []
  deriving DecidableEq, Repr

/-- One Emtor port or hedge link (14 R355 to R376, 15 R379). -/
structure Link where
  up : Bool := false
  /-- Training step 1 to 6; 0 when not training (R358). -/
  step : Nat := 0
  fast : Bool := false
  failures : Nat := 0
  /-- Lanes whose equalisation is done, and lanes seen since ALIGN. -/
  eqDone : List Nat := []
  lanes : List Nat := []
  width : Nat := 0
  /-- Reason the link is down; 0 when it never came down (R375). -/
  downReason : Nat := 0
  /-- Receiver: next SEQ expected, discarding after an error, the SEQ last NAKed and when (R362). -/
  rxSeq : Nat := 0
  discarding : Bool := false
  naked : Option (Nat × Nat) := none
  /-- Data slots still to come of the transaction being received (R368). -/
  rxSlots : Nat := 0
  /-- Received bits not yet taken as a flit, and codeword times since the last alignment marker (R356). -/
  rxBits : List BitRun := []
  rxWords : Nat := 0
  /-- Sender: sequenced flits sent and acknowledged since INIT (R361, R363). -/
  txSent : Nat := 0
  txAcked : Nat := 0
  nakSame : Nat := 0
  nakSeq : Nat := 0
  /-- Credits held for sending, by class; none is unlimited (R364). -/
  credits : List (Option Nat) := []
  /-- Credits granted to the partner and not yet used, by class; none is unlimited. -/
  granted : List (Option Nat) := []
  /-- Feed credits granted and not yet used, by feed identifier (R366). -/
  feedGranted : List (Nat × Nat) := []
  /-- Slots of FEED transactions accepted in flits whose FEED has not been served, by feed identifier. -/
  feedDue : List (Nat × Nat) := []
  reads : List ReadReq := []
  /-- Times of the last fast retrains (R363). -/
  retrainTimes : List Nat := []
  lowPower : Bool := false
  /-- Packets of jobs in the replay buffer, each with the count of flits sent when its last one left (14 R363, 15 R380). -/
  replay : List (Nat × Packet) := []
  counts : LinkCounts := {}
  peer : Peer := {}
  deriving DecidableEq, Repr

/-- A routing entry (15 R392, R393). -/
structure Route where
  alts : List Nat := []
  manual : Bool := false
  escape : Option Nat := none
  deriving DecidableEq, Repr

/-- OSEQ bookkeeping of one pair as a source (15 R384). -/
structure OseqTx where
  engine : Nat
  dest : Nat
  next : Nat := 0
  acked : Nat := 0
  /-- Packets that wait for the window of 1,024 unacknowledged OSEQs, oldest first. -/
  waiting : List Packet := []
  deriving DecidableEq, Repr

/-- OSEQ bookkeeping of one pair as a destination: next to apply, packets waiting, writes applied since the last acknowledgement. -/
structure OseqRx where
  engine : Nat
  src : Nat
  next : Nat := 0
  waiting : List Packet := []
  unacked : Nat := 0
  /-- The end of the region that the last write lay in (15 R384). -/
  endAddr : Nat := 0
  deriving DecidableEq, Repr

/-- The hedge as one device sees it (15). -/
structure Hedge where
  addr : Option Nat := none
  level : Nat := 0
  routes : List (Nat × Route) := []
  /-- Addresses whose reachability bit is set, ascending (R396). -/
  reach : List Nat := []
  /-- Records learned, by digest. -/
  topo : List TopoRec := []
  /-- Sequence of this device's own LINK_STATE record. -/
  ownSeq : Nat := 0
  tx : List OseqTx := []
  rx : List OseqRx := []
  /-- Discovery: link of first arrival, whether this device runs it, records collected (R390). -/
  discIn : Option Nat := none
  discRoot : Bool := false
  /-- Time alignment (R397): first alignment done, frequency correction in ppm, request outstanding with its t1, bound notice raised. -/
  aligned : Bool := false
  slew : Int := 0
  t1 : Option Nat := none
  boundRaised : Bool := false
  /-- Coordination messages already taken: job tag, code, epoch, source (R380). -/
  taken : List (Nat × Nat × Nat × Nat) := []
  /-- Remote reads outstanding (R382). -/
  reads : List ReadReq := []
  /-- The HEDGE_DISCOVER waiting: its ring index. -/
  discCmd : Option Nat := none
  /-- Addresses held by two digests (R391). -/
  conflicts : List Nat := []
  deriving DecidableEq, Repr

/-- A chain frame (15 R401). -/
structure Frame where
  dest : Nat
  src : Nat
  kind : Nat
  last : Bool := true
  cid : Nat := 0
  offset : Nat := 0
  data : Bytes := []
  deriving DecidableEq, Repr

/-- The hedgerow chain interface (15 R400 to R404). -/
structure Chain where
  addr : Nat := 0
  /-- NEXT of the enumeration frame this device forwarded: what ENUM_DONE reports. -/
  enumNext : Option Nat := none
  /-- The command in progress: CID, sender, slot and data received so far. -/
  cid : Option Nat := none
  buf : Bytes := []
  /-- Responses of the last 8 CIDs. -/
  answers : List (Nat × Bytes) := []
  /-- Watched addresses beyond: intervals without a heartbeat, and whether reported lost (R404). -/
  watch : List (Nat × Nat × Bool) := []
  /-- Frames stored for forwarding: true upstream (R401). -/
  store : List (Bool × Frame) := []
  /-- This device holds the turn on the segment above, below (R400). -/
  turnUp : Bool := false
  turnDown : Bool := true
  discarded : Nat := 0
  deriving DecidableEq, Repr

/-- What the last command transmitted or signalled to the outside. -/
inductive Out where
  | notify (port ring tail : Nat)
  | regData (value : Nat) (error : Bool)
  | memRead (port : Nat) (r : ReadReq)
  | control (link : LinkId) (entries : List (Nat × Nat × Nat))
  | nak (link : LinkId) (ack : Nat)
  | ack (link : LinkId) (ack : Nat)
  | resend (link : LinkId) (fromSeq : Nat)
  | train (link : LinkId) (step : Nat)
  | wake (link : LinkId)
  | packet (link : Nat) (p : Packet)
  | frame (up : Bool) (f : Frame)
  | turn (up : Bool)
  | tdo (bs : Bytes)
  | thermtrip
  | station (slot tag : Nat)
  /-- A LINK_STATE record flooded on a link. -/
  | record (link : Nat) (r : TopoRec)
  /-- A DISCOVERY packet: link, phase, records. -/
  | discovery (link phase : Nat) (recs : List TopoRec)
  deriving DecidableEq, Repr

/-- A mover instruction (12 R307). -/
inductive MInstr where
  | move (mflags src dst count queue : Nat)
  | loop (counter iterations : Nat) (target : Int)
  | wait (threshold : Nat)
  | signal (kind channel add tag : Nat)
  | done
  deriving DecidableEq, Repr

/-- A path written since the last completion point: barrier mode or read-back, answered yet, and the mark its acknowledgement must reach. -/
structure Await where
  path : Path
  barrier : Bool
  last : Nat
  mark : Nat := 0
  answered : Bool := false
  deriving DecidableEq, Repr

/-- An arm descriptor with its fetched program (12 R306). -/
structure Arm where
  program : Nat := 0
  owner : Nat := 0xFF
  regs : List Nat := []
  prog : List MInstr := []
  /-- The source queue that Oluat bound at arm, for a MOVE between queues: job slot and job-local queue (R308). -/
  srcQueue : Option (Nat × Nat) := none
  deriving DecidableEq, Repr

/-- A remote write that waits for the peer's answer (12 R312, 15 R384): tag, OSEQ, address, data. -/
structure SentWr where
  tag : Nat
  oseq : Nat
  addr : Nat
  data : Bytes
  deriving DecidableEq, Repr

/-- One mover channel (12 R305, R321). -/
structure Chan where
  /-- 0 idle, 1 running, 2 completing, 3 stopped. -/
  state : Nat := 0
  arm : Arm := {}
  pending : Option Arm := none
  held : Option Tile := none
  waiting : Bool := false
  waitSince : Nat := 0
  pc : Nat := 0
  regs : List Nat := []
  ctr : List Nat := [0, 0, 0, 0]
  sync : Nat := 0
  /-- Bytes of the MOVE in progress already moved. -/
  moved : Nat := 0
  /-- The MOVE in progress has moved the END_OF_STREAM tile (12 R313). -/
  atEnd : Bool := false
  /-- Bytes of a tile read from memory so far (12 R320). -/
  stage : Bytes := []
  /-- Ends of the remote regions that the MOVE in progress reads and writes, once the peer has told them (12 R312). -/
  srcEnd : Option Nat := none
  dstEnd : Option Nat := none
  /-- Remote writes of the MOVE in progress that wait for their first answer: tag, address, data. -/
  sentWr : List SentWr := []
  /-- Paths written since the last completion point, and since the program started (R316, R319). -/
  since : List Await := []
  allPaths : List Await := []
  deriving DecidableEq, Repr

/-- One mover engine (12 R305, R325). -/
structure Engine where
  stopped : Bool := false
  draining : Bool := false
  since : Nat := 0
  deriving DecidableEq, Repr

/-- The movers: engines and channels not in their reset state, by number (12 R304). -/
structure Movers where
  engines : List (Nat × Engine) := []
  chans : List ((Nat × Nat) × Chan) := []
  /-- Tags of reads the movers have outstanding: next tag. -/
  nextTag : Nat := 0
  deriving DecidableEq, Repr

/-- Memory facts beside the bytes: poisoned sectors (13 R351), cache policies (R338), uncorrectable errors of a cluster (R353). -/
structure MemFacts where
  poison : List Nat := []
  /-- Poisoned sectors whose poison a dirty line of a cache slice still holds: sector and slice (R351). -/
  dirty : List (Nat × Nat) := []
  cache : List (Nat × Nat × Nat) := []
  clusterErr : List (Nat × Nat) := []
  /-- Raw tier GiB per channel that the board fitted (R340). -/
  tierGib : Nat := 8
  /-- Uncorrectable sectors that the patrol found in free memory (R352). -/
  freeBad : Nat := 0
  deriving DecidableEq, Repr

end Sys2Proof.Machine
end

