-- ==== Sys2Proof/Machine/StationTypes.lean ====
section
/-!
DEFINITION. What a station keeps beside its ports, by type (R49 and the station chapters).
-/

namespace Sys2Proof.Machine

/-- One item of the intake log (04 R123): what a station's intake captured, in order. -/
inductive LogItem where
  /-- A feed's record. -/
  | record (station : Nat) (bs : Bytes)
  /-- A watermark at its position among the records. -/
  | mark (station : Nat) (time : Nat)
  /-- FEED_CLOSE at its position. -/
  | close (station : Nat)
  /-- A feed opened while its align station ran: its number and the watermark it starts with (05 R165). -/
  | opened (station : Nat) (number : Nat) (time : Nat)
  /-- Bytes read from an input region that cannot be read again. -/
  | region (station : Nat) (bs : Bytes)
  /-- An accepted MATCH_TABLE_UPDATE: the epoch it opens with, how many pairs, and their bytes (07 R203). -/
  | update (station : Nat) (epoch : Nat) (pairs : Nat) (bs : Bytes)
  deriving DecidableEq, Repr

/-- FEED_CLOSE. -/
def LogItem.isClose : LogItem → Bool
  | .close _ => true
  | _ => false

/-- The station an item belongs to. -/
def LogItem.station : LogItem → Nat
  | .record s _ => s
  | .mark s _ => s
  | .close s => s
  | .opened s _ _ => s
  | .region s _ => s
  | .update s _ _ _ => s

/-- An intake station (05 R134 to R141). -/
structure IntakeSt where
  /-- The manifest's bytes, once read: its header and the entries it holds (05 R135; log entry 107). -/
  man : Option Bytes := none
  /-- The next object or tile run. -/
  obj : Nat := 0
  /-- Tiles of the stream so far, and the element types seen in them (FORM 1). -/
  tiles : Nat := 0
  types : List (Nat × Ty) := []
  /-- Records of the feed handed on, and its watermark (SOURCE 2). -/
  fseq : Nat := 0
  mark : Nat := 0
  /-- Items of the log still to be taken from it: a replay, or what arrived behind one. -/
  todo : List LogItem := []
  deriving DecidableEq, Repr

/-- A row held in the reorder window of a parse or image station (05 R157): outstanding in the bramble lane, or waiting behind one that is. -/
structure Waiting (α : Type) where
  away : Bool
  rows : List α
  deriving DecidableEq, Repr

/-- A parse station (05 R148 to R157). -/
structure ParseSt where
  /-- Decode units of the object or record in progress, its object error, and its number: all ones for RECORDS input. -/
  todo : List RowUnit := []
  objErr : Option Nat := none
  obj : Nat := 0
  /-- The next object. -/
  nextObj : Nat := 0
  /-- The footer segment of a Parquet object whose whole is still to come (05 R137). -/
  footer : Option Bytes := none
  /-- RECORDS rows read, and the ordinals of the blank ones among them. -/
  recs : Nat := 0
  blanks : List Nat := []
  /-- Rows written. -/
  rows : Nat := 0
  /-- The reorder window: an entry's row with its object number. -/
  window : List (Waiting (RowSrc × Nat)) := []
  deriving DecidableEq, Repr

/-- A key of the merged order: time, feed number, feed sequence (05 R162). -/
abbrev AlignKey := Nat × Nat × Nat

/-- An align station (05 R159 to R165). -/
structure AlignSt where
  /-- W[p]; all ones is infinite. -/
  w : List Nat := []
  /-- The feed number of each port. -/
  feedNo : List Nat := []
  lastF : Nat := 0
  /-- Rows held and late rows, as they came in, by ascending key. -/
  hold : List (AlignKey × Row) := []
  late : List (AlignKey × Row) := []
  /-- Rows classified, by port. -/
  classified : List Nat := []
  /-- Watermarks that wait for their position: port, records before it, value. -/
  marks : List (Nat × Nat × Nat) := []
  deriving DecidableEq, Repr

/-- One coded block of a shale area (06 R169 to R171): header and code words of its slot, its overflow bytes, the ring head its extent was allocated at
and the granules charged. -/
structure ShaleBlock where
  index : Nat
  hdr : Bytes := []
  code : Bytes := []
  ovf : Bytes := []
  headAt : Nat := 0
  charged : Nat := 0
  deriving DecidableEq, Repr

/-- A shale station: the two ends of its stream (06 R168 to R186). -/
structure ShaleSt where
  /-- Compressor: the last stream bytes received, how many were received, the block in progress. -/
  bytes : Bytes := []
  received : Nat := 0
  block : Nat := 0
  /-- The stream's last byte has been received. -/
  closed : Bool := false
  /-- STOP: 0 none, 1 no slot, 2 no pool. -/
  stop : Nat := 0
  /-- The block whose code words are written and whose overflow waits for granules. -/
  half : Option ShaleBlock := none
  inConsumed : Nat := 0
  outProduced : Nat := 0
  poolHead : Nat := 0
  /-- Coded blocks in their slots, oldest first. -/
  blocks : List ShaleBlock := []
  /-- Decompressor: the last bytes delivered, how many were delivered, the block in progress. -/
  hist : Bytes := []
  delivered : Nat := 0
  dblock : Nat := 0
  /-- Context of the block in progress (06 R183): CPOS, DONE, LIT_LEFT, MATCH_LEFT, DIST; the block has begun; stopped on a full buffer. -/
  begun : Bool := false
  cpos : Nat := 0
  done : Nat := 0
  litLeft : Nat := 0
  matchLeft : Nat := 0
  dist : Nat := 0
  full : Bool := false
  /-- Bytes of the tile being delivered. -/
  out : Bytes := []
  deriving DecidableEq, Repr

/-- A source image staged for the warp engine, or a hole (10 R262, R263, R273). -/
structure SrcImage where
  sample : Nat
  w : Nat := 0
  h : Nat := 0
  channels : Nat := 0
  ty : Ty := .u8
  ycc : Bool := false
  /-- Element bits in raster order, channels interleaved. -/
  data : List Nat := []
  srcW : Nat := 0
  srcH : Nat := 0
  /-- The per-sample record. -/
  record : Bytes := []
  /-- The pixel header of the hole that goes out in its place. -/
  hole : Option Bytes := none
  deriving DecidableEq, Repr

/-- An image on its way through the station (05 R157): in the bramble lane, staged, or warped into tiles (rows, payload). -/
structure ImgEntry where
  away : Bool
  src : SrcImage
  tiles : Option (List (Nat × Bytes)) := none
  deriving DecidableEq, Repr

/-- An image station (10 R262). -/
structure ImageSt where
  /-- Images begun. -/
  ordinal : Nat := 0
  /-- The image of PIXELS tiles being gathered: pixels so far. -/
  part : Option SrcImage := none
  got : Nat := 0
  window : List ImgEntry := []
  deriving DecidableEq, Repr

/-- A select station's open group (09 R247, R258). -/
structure SelGroup where
  /-- The group's value; none for null. -/
  value : Option Nat
  first : Nat
  rows : Nat := 0
  /-- Elements with a value: index and stored bits, in input order, duplicates removed. -/
  els : List (Nat × Nat) := []
  dups : Nat := 0
  deriving DecidableEq, Repr

/-- A select station (09). -/
structure SelectSt where
  cur : Option SelGroup := none
  results : Nat := 0
  deriving DecidableEq, Repr

/-- An emit station: bytes written by MODE 1 (05 R166); for a channel, the runs of the batch being gathered, the batch they complete, descriptors written,
and the last CONSUMED read (11 R297 to R299). -/
structure EmitSt where
  pos : Nat := 0
  runs : List (Nat × Bytes) := []
  ready : Option Nat := none
  /-- Of that batch 1 its runs, 2 its descriptor too, are written, and their read-back is awaited (12 R317). -/
  phase : Nat := 0
  written : Nat := 0
  consumed : Nat := 0
  deriving DecidableEq, Repr

/-- A shuffle station (11 R279 to R281). -/
structure ShuffleSt where
  /-- The sample store: channel, sample, row. -/
  store : List (Nat × Nat × Row) := []
  /-- The store is complete; coverage was checked and emission began. -/
  full : Bool := false
  emitting : Bool := false
  /-- What other participants hold: participant, then channel and sample. -/
  holds : List (Nat × List (Nat × Nat)) := []
  /-- The next output position of each port. -/
  pos : List Nat := []
  deriving DecidableEq, Repr

/-- What a sample's part holds: its rows, or an image's pixel data with its element type. -/
inductive PartData where
  | rows (rs : List Row)
  | image (ty : Ty) (px : Bytes)
  deriving DecidableEq, Repr

/-- A prepared sample: position, index, and its parts in ascending number; none for a corrupt one (11 R284). -/
structure Sample where
  pos : Nat
  index : Nat
  parts : Option (List (Nat × PartData))
  deriving DecidableEq, Repr

/-- A sample being gathered from a holder's stream: position, index, corrupt so far, its parts in arrival order (11 R284, R287). -/
structure OpenSample where
  pos : Nat
  index : Nat
  bad : Bool := false
  parts : List (Nat × PartData) := []
  deriving DecidableEq, Repr

/-- The stream of one holder of samples: pass and position it has reached, the sample in progress, whether it ended; the tiles of another participant
not yet taken and the rows taken of the first (11 R287, R289). -/
structure Holder where
  pass : Nat := 0
  next : Nat := 0
  cur : Option OpenSample := none
  ended : Bool := false
  tiles : List Tile := []
  row : Nat := 0
  /-- Rows taken from the stream. -/
  rows : Nat := 0
  /-- SEQ and FIRST_ROW of the next tile to arrive over the hedge, tiles that wait for an earlier SEQ (02 R44), and the SEQ of a flush marker that waits for
  them (15 R384). -/
  nextSeq : Nat := 0
  nextRow : Nat := 0
  early : List Tile := []
  flush : Option Nat := none
  deriving DecidableEq, Repr

/-- Descriptor fields of a batch that the batch station determines (11 R285, R286, R298). -/
structure BatchInfo where
  batch : Nat
  pass : Nat
  samples : Nat
  first : Nat
  skipped : Nat := 0
  holes : Nat := 0
  mask : Nat := 0
  last : Bool := false
  deriving DecidableEq, Repr

/-- A batch station (11 R284 to R290). -/
structure BatchSt where
  /-- Holders' streams by participant. -/
  holders : List (Nat × Holder) := []
  /-- The reorder window: samples that wait for an earlier position, by ascending position. -/
  waiting : List Sample := []
  /-- The oldest position not resolved. -/
  next : Nat := 0
  /-- Valid and corrupt samples at lower positions; corrupt ones below the last valid one. -/
  valid : Nat := 0
  corrupt : Nat := 0
  skipped : Nat := 0
  /-- The batch being assembled: number, pass of slot 0, slots. -/
  batch : Nat := 0
  pass : Nat := 0
  slots : List Sample := []
  /-- Assembled batches that wait to be known not to be the last, or for the counts of their window (R288): their fields and slots, oldest first. -/
  ready : List (BatchInfo × List Sample) := []
  /-- Fields of the batches on their way to the emit station. -/
  infos : List BatchInfo := []
  /-- What a slice header does not say of the part data on their way to the layout: batch, slot and part; columns, or an image's element type. -/
  shapes : List ((Nat × Nat × Nat) × (Nat × Option Ty)) := []
  /-- Valid samples by participant and window of 65,536 positions, as they are taken here; as the other participants have told them; and how many windows
  this participant has told (R288). -/
  counts : List ((Nat × Nat) × Nat) := []
  told : List ((Nat × Nat) × Nat) := []
  sentW : Nat := 0
  deriving DecidableEq, Repr

/-- A slot of the batch a layout station gathers: sample, hole, parts with their row count and data (11 R290, R292). -/
structure LaySlot where
  slot : Nat
  sample : Nat
  hole : Bool := false
  parts : List (Nat × Nat × Bytes) := []
  deriving DecidableEq, Repr

/-- A layout station (11 R291 to R296). -/
structure LayoutSt where
  slots : List LaySlot := []
  deriving DecidableEq, Repr

/-- One half of a pair (07 R200). -/
structure Half where
  kind : Nat
  ordinal : Nat
  bs : Bytes := []
  deriving DecidableEq, Repr

/-- A pair of writes to a match table, both seen at one instant (07 R200). -/
structure MPair where
  first : Half
  second : Half
  deriving DecidableEq, Repr

/-- An entry of a match table as its shadow holds it, with its result record (07 R188, R189, R193). -/
structure MEntry where
  ord : Nat
  valid : Bool := false
  key : List Nat := []
  mask : List Nat := []
  result : Bytes := []
  deriving DecidableEq, Repr

/-- A bank set of a table: match die index 0 to 7 and its banks, at most 16, ascending (07 R190). -/
structure BankSet where
  die : Nat
  banks : List Nat
  deriving DecidableEq, Repr

/-- A match station (07 R188 to R206). -/
structure MatchSt where
  /-- The table is built from its region. -/
  built : Bool := false
  /-- Entries that are or were valid, by ascending ordinal: their shadow. -/
  entries : List MEntry := []
  /-- Halves applied since the build, in order, without those that a later one of their kind replaced (R203). -/
  changed : List Half := []
  /-- CAM cells that differ from the shadow; shadow words in error. -/
  cells : List CellHit := []
  shadow : List ShadowHit := []
  /-- Pairs of the WRITER not committed: tile SEQ and pair, in issue order (R204). -/
  held : List (Nat × MPair) := []
  /-- The search of the next row was not clean: the entries rewritten for its repeat (R197). -/
  redo : Option (List Nat) := none
  /-- Placement step 1 to 4; the bank sets of each replica; the ordinals that the CAM holds, none where it takes them in order (R194, R205, R206). -/
  step : Nat := 1
  copies : List (List BankSet) := []
  cam : Option (List Nat) := none
  /-- Searches made; ordinals sampled since the last sample, with counts; ordinals by falling count of the last sample (R206). -/
  searches : Nat := 0
  freq : List (Nat × Nat) := []
  hot : List Nat := []
  /-- Differences the scrub rewrote; single-bit errors of the shadow corrected (R199). -/
  scrubbed : Nat := 0
  corrected : Nat := 0
  deriving DecidableEq, Repr

/-- A build row of a hashjoin station: partition, byte form of the key (none for null), row (07 R208). -/
structure BuildRow where
  part : Nat
  key : Option Bytes
  row : Row
  deriving DecidableEq, Repr

/-- A hashjoin station (07 R207 to R209). -/
structure JoinSt where
  /-- Build rows in input order: the tables of all partitions, commit-stable once the build ended. -/
  build : List BuildRow := []
  /-- Output rows of the probe tile in hand with their partitions (02 R47). -/
  out : List (Nat × Row) := []
  deriving DecidableEq, Repr

/-- A row of a kernel's input port: ordinal in the queue, number among the rows that the port presents, SEQ of its tile, columns, and the record of an
ACCUM tile (08 R215, R216). -/
structure KRow where
  ord : Nat
  n : Nat := 0
  seq : Nat
  row : Row := []
  acc : Bytes := []
  deriving DecidableEq, Repr

/-- A tile staged by a kernel, presented as rows (08 R215). -/
structure KTile where
  seq : Nat
  rows : List KRow := []
  payload : Bytes := []
  deriving DecidableEq, Repr

/-- A cell of an accumulator array (08 R235): SUM, COUNT, or MIN and MAX with STATE (0 empty, 1 value, 2 NaN) and VALUE as the bits of FP64, I64 or U64. -/
inductive KCell where
  | sum (a : Acc)
  | count (n : Nat)
  | ext (state value : Nat)
  deriving DecidableEq, Repr

/-- The cells of an array that are not empty, by index. -/
abbrev KArr := List (Nat × KCell)

/-- A row group being run (08 R213, R217, R221 to R223). -/
structure Ctx where
  rows : List KRow
  seq : Nat := 0
  part : Nat := 0
  /-- Payloads of the driving tiles, by SEQ. -/
  payloads : List (Nat × Bytes) := []
  /-- Rows of the STEP, MERGE and PRELOAD ports beside the driving rows, by port. -/
  side : List (Nat × List (Option Row)) := []
  endProg : Bool := false
  pc : Nat := 0
  /-- Words executed. -/
  steps : Nat := 0
  /-- Vector slots that hold something: one element a row. -/
  slots : List (Nat × List (Option Val)) := []
  /-- Scalars that were written. -/
  scal : List (Nat × Nat) := []
  /-- Bytes of the string heap in use. -/
  heap : Nat := 0
  /-- Columns staged: port, column, type, values. -/
  staged : List (Nat × Nat × Ty × List (Option Val)) := []
  /-- The payload built by STPAY: bytes from its start. -/
  build : Bytes := []
  /-- END was executed. -/
  done : Bool := false
  deriving DecidableEq, Repr

/-- A kernel station (08 R217). -/
structure KernelSt where
  arrays : List KArr := []
  /-- Matrix buffers, row-major. -/
  mbufs : List (List Nat) := []
  /-- Groups run, of a kernel with no input port; EMIT's end-of-stream option was executed. -/
  groups : Nat := 0
  stop : Bool := false
  /-- Groups of the gathered tiles already run. -/
  gpos : Nat := 0
  ctx : Option Ctx := none
  /-- Driving rows seen; the last key of each MERGE port. -/
  rows : Nat := 0
  keys : List (Nat × Nat) := []
  /-- The partials of other participants, kept until the end program combines them (R236). -/
  partials : List (Nat × Bytes) := []
  deriving DecidableEq, Repr

/-- The state of a station's own engine or program. -/
inductive KindSt where
  | plain
  | intake (x : IntakeSt)
  | parse (x : ParseSt)
  | align (x : AlignSt)
  | shale (x : ShaleSt)
  | emit (x : EmitSt)
  | image (x : ImageSt)
  | select (x : SelectSt)
  | matchSt (x : MatchSt)
  | join (x : JoinSt)
  | kernel (x : KernelSt)
  | shuffle (x : ShuffleSt)
  | batch (x : BatchSt)
  | layout (x : LayoutSt)
  deriving DecidableEq, Repr

end Sys2Proof.Machine
end

