-- ==== Sys2Proof/Machine/JobTypes.lean ====
section
/-!
DEFINITION. Plain-data types of jobs: queues and stations at run time (02), placement and job control (03), epochs, checkpoints and recovery (04).
-/

namespace Sys2Proof.Machine

/-- A job-local queue at run time (02 R29, R44, R45, R51 to R55, R455). -/
structure QRun where
  /-- Tiles in slots, oldest first. -/
  tiles : List Tile := []
  /-- Spilled tiles, oldest first (R53). -/
  spilled : List Tile := []
  /-- Sealed tiles that wait for a slot: the producer waits (R45, R51). -/
  held : List Tile := []
  valve : Bool := false
  /-- SEQ and FIRST_ROW of the next tile sealed (R29). -/
  nextSeq : Nat := 0
  nextRow : Nat := 0
  /-- SEQ each consumer takes next, and FIRST_ROW it expects. -/
  taken : List Nat := []
  rows : List Nat := []
  /-- SEQ below which each consumer has returned its credits. -/
  returned : List Nat := []
  /-- Column types fixed so far, by consumer view one list (R455). -/
  types : List (Nat × Ty) := []
  /-- END_OF_STREAM was sealed. -/
  eos : Bool := false
  /-- The producer waits for a slot without a sealed tile: a shale decompressor stopped on a full buffer (06 R182). -/
  wants : Bool := false
  /-- The queue made progress, or its wait began, since the last watchdog sample; samples its wait cycle has gone without progress (R52). -/
  moved : Bool := false
  stuck : Nat := 0
  /-- FLUSH markers sent and not answered (15 R384). -/
  flushing : Nat := 0
  /-- FLUSH markers received whose tiles are not all here: participant index and SEQ. -/
  marks : List (Nat × Nat) := []
  deriving DecidableEq, Repr

/-- An input port of a station (02 R35, R45, R48). -/
structure InPort where
  /-- Consumed tiles not yet processed in full, and how many rows of the first are. -/
  inbox : List Tile := []
  pos : Nat := 0
  /-- Whole objects or records read from BYTES or RECORDS tiles and not yet processed; the bytes of one still open. -/
  objs : List Bytes := []
  cur : Bytes := []
  /-- A kernel's staged tiles. -/
  ktiles : List KTile := []
  /-- Ordinal of the next row or object. -/
  ord : Nat := 0
  /-- Tiles finished whose credit is not yet returned. -/
  finished : Nat := 0
  eos : Bool := false
  deriving DecidableEq, Repr

/-- A tile made and not yet known not to be the last of its queue (R50): rows, columns, payload. -/
structure PendTile where
  rows : Nat
  columns : Nat
  payload : Bytes
  deriving DecidableEq, Repr

/-- An output port: the partly filled tile (R43) as rows or records, or a whole tile held until it is known whether it is the last (R50). -/
structure OutPort where
  rows : List Row := []
  recs : List Bytes := []
  pend : Option PendTile := none
  eos : Bool := false
  deriving DecidableEq, Repr

/-- A station at run time. -/
structure StRun where
  ins : List InPort := []
  outs : List OutPort := []
  kind : KindSt := .plain
  /-- Counters of R422 in the order it lists them. -/
  counts : List Nat := []
  /-- The station has reached end of stream and sealed its last tiles (R50). -/
  ended : Bool := false
  deriving DecidableEq, Repr

/-- The data state of a running job: its queues and stations. -/
structure Runtime where
  queues : List QRun := []
  stations : List StRun := []
  deriving DecidableEq, Repr

/-- Job states (03 R87). -/
inductive JState where
  | free | loaded | running | suspended | restarting | held | stopped | finished
  deriving DecidableEq, Repr

/-- The code of a job state (R87). -/
def JState.code : JState → Nat
  | .free => 0 | .loaded => 1 | .running => 2 | .suspended => 3 | .restarting => 4 | .held => 5 | .stopped => 6 | .finished => 7

/-- A region binding (03 REGION_MAP, 13 R345, R346, R452): where, device address of offset 0, bytes, extents. -/
structure Binding where
  id : Nat
  whereCode : Nat
  addr : Nat
  bytes : Nat
  extents : List (Nat × Nat)
  /-- Bytes of the pages taken from the free pool by where 1. -/
  pages : List (Nat × Nat) := []
  deriving DecidableEq, Repr

/-- A resource unit: kind 1 to 6 of R80, die and index on the die. -/
structure Res where
  kind : Nat
  die : Nat
  index : Nat
  deriving DecidableEq, Repr

/-- A placement record (03 PLACEMENT_QUERY, R95). -/
structure PlaceRec where
  station : Nat
  inst : Nat
  res : Res
  reason : Nat
  counter : Nat
  time : Nat
  index : Nat
  deriving DecidableEq, Repr

/-- Replay check of a host-replayable region: CRC so far, bytes so far, marks (count, CRC) since the commit, time of the last mark (04 R125). -/
structure Replay where
  region : Nat
  data : Bytes := []
  marks : List (Nat × Nat) := []
  lastMark : Nat := 0
  deriving DecidableEq, Repr

/-- A commit in progress (04 R118): the participant's and, on the anchor, the coordinator's side. -/
structure Commit where
  epoch : Nat
  /-- Why the epoch ends (R115): 0 requested, 1 final, 2 automatic. -/
  cause : Nat := 0
  /-- 1 asked for; 2 PREPARE received, draining; 4 checkpoint written, stations resumed, PREPARED sent; 6 record written. -/
  step : Nat := 1
  since : Nat := 0
  /-- Participant indices PREPARED (anchor), and the directory seals they sent. -/
  prepared : List Nat := []
  seals : List (Nat × Bytes) := []
  /-- Command indices of EPOCH_COMMITs this commit satisfies. -/
  waiters : List Nat := []
  /-- Commit time of the record. -/
  time : Nat := 0
  /-- What the epoch that is being committed left at the cut: provisional mark, log and its overflow, replay checks (R121, R123, R125). -/
  prov : Bool := false
  oldLog : List LogItem := []
  oldOver : Bool := false
  oldReplays : List Replay := []
  oldMeet : List (Nat × Nat × Nat) := []
  deriving DecidableEq, Repr

/-- A start barrier or a restart in progress (03 R92, 04 R127, R128). -/
structure Gather where
  mode : Nat := 0
  since : Nat := 0
  /-- Participant indices that have arrived at the barrier, and those that have restored. -/
  arrived : List Nat := []
  restored : List Nat := []
  /-- The barrier was passed: every participant started. -/
  passed : Bool := false
  /-- The JOB_START waiting. -/
  waiter : Option Nat := none
  deriving DecidableEq, Repr

/-- A live feed (05 R139 to R141, R160, R165). -/
structure Feed where
  id : Nat
  slot : Nat
  /-- The intake station it feeds, and the align station and port behind it. -/
  station : Nat
  align : Nat
  port : Nat
  number : Nat
  mode : Nat
  /-- Sequence expected of the next record, and the watermark. -/
  nextSeq : Nat := 0
  mark : Nat := 0
  /-- Bytes of messages received and not yet taken. -/
  partBuf : Bytes := []
  /-- Slots of credit the feed has in all: granted and unused, or held by whole messages not yet taken (14 R366). -/
  total : Nat := 0
  /-- Marks and the close that commands put behind messages not yet taken: bytes of messages before each, item (05 R161, R165). -/
  waits : List (Nat × LogItem) := []
  deriving DecidableEq, Repr

/-- A pair of an accepted MATCH_TABLE_UPDATE: match station, epoch it opens with, pair (07 R203). -/
structure PairWrite where
  station : Nat
  epoch : Nat
  pair : MPair
  deriving DecidableEq, Repr

/-- A job slot (03 R87). -/
structure Job where
  state : JState := .free
  image : Image := {}
  anchor : Nat := 0xFFFF
  participants : List Nat := []
  partIndex : Nat := 0
  lastCommitted : Option Nat := none
  openEpoch : Nat := 0
  /-- JOB_QUERY flags [0] to [3]. -/
  unrecov : Bool := false
  provisional : Bool := false
  partitioned : Bool := false
  logOver : Bool := false
  lastFault : Nat := 0
  lastFaultEvent : Bytes := []
  restarts : Nat := 0
  log : List LogItem := []
  regions : List Binding := []
  units : List Res := []
  /-- The physical queues the job holds; the first stand for its job-local queues in order, further ones go round again (02 R46, 03 R453). -/
  phys : List Nat := []
  weight : Nat := 0
  placed : List PlaceRec := []
  /-- Pins: station, instance, resource. -/
  pins : List (Nat × Nat × Res) := []
  hist : List PlaceRec := []
  histTotal : Nat := 0
  rt : Runtime := {}
  /-- Tiles of the open epoch are produced again (02 R27 REPLAYED). -/
  replaying : Bool := false
  pendingUpdates : List PairWrite := []
  commit : Option Commit := none
  start : Option Gather := none
  restart : Option Gather := none
  regionCrcs : List (Nat × Nat) := []
  replays : List Replay := []
  /-- Replay marks of the committed checkpoint that a replay must meet again. -/
  mustMeet : List (Nat × Nat × Nat) := []
  /-- When the open epoch's input began: the first mark of the replay check (R125). -/
  cutTime : Nat := 0
  valveOpenings : Nat := 0
  marksIgnored : Nat := 0
  /-- The last automatic boundary taken, as a channel-0 batch number (04 R115, R120). -/
  bound : Nat := 0
  /-- Participants whose emit stations have all reached end of stream (R115). -/
  endedParts : List Nat := []
  /-- The highest WRITTEN ever written, by channel (11 R299). -/
  writtenHigh : List (Nat × Nat) := []
  /-- The last CONSUMED read, by channel (11 R299). -/
  consumedLast : List (Nat × Nat) := []
  /-- Channels whose units the job gave up, with the station of each; 0xFFFF for none (12 R321). -/
  savedChans : List (Nat × Chan) := []
  /-- Private areas allocated from the free pool: address and bytes (13 R346). -/
  areas : List (Nat × Nat) := []
  /-- Instances whose staging area or arrays were allocated: station and instance (08 R220, 09 R258, 10 R262). -/
  hasArea : List (Nat × Nat) := []
  /-- The shale areas of its shale stations: station, extents in HBM or in the tier (06 R169). -/
  shaleAreas : List (Nat × List (Nat × Nat)) := []
  /-- Memory of its join tables: station, extents in HBM, which are private areas too, or in the tier (07 R209, 13 R346). -/
  joinAreas : List (Nat × List (Nat × Nat)) := []
  /-- Bytes of the tier that its match tables take: station, bytes (06 R184). -/
  tierTables : List (Nat × Nat) := []
  /-- State that rebinding saved for the job: kind, coded bytes, area (03 R97, R98; 06 R184). -/
  saved : List (Nat × Nat × List (Nat × Nat)) := []
  /-- Wait edges other participants reported (02 R52): participant, then station, queue, waiting for a slot. -/
  farEdges : List (Nat × List (Nat × Nat × Bool)) := []
  /-- The wait edges of the last watchdog sample (02 R52). -/
  lastEdges : List (Nat × Nat × Bool) := []
  /-- Last answer heard from each participant, by index (03 R102). -/
  heard : List (Nat × Nat) := []
  deriving DecidableEq, Repr

/-- How many physical queues a job holds. -/
def Job.queuesHeld (j : Job) : Nat := j.phys.length

/-- Commit-stable state in the checkpoint store, written once (04 R116): a built join table, or a shuffle's sample store. -/
inductive StableData where
  | table (rows : List BuildRow)
  | samples (xs : List (Nat × Nat × Row))
  deriving DecidableEq, Repr

/-- Commit-stable state of a job's station: the checkpoints of the job's participant refer to it. -/
structure Stable where
  tag : Nat
  part : Nat
  station : Nat
  data : StableData
  deriving DecidableEq, Repr

/-- A checkpoint in the store (04 R116, R117). -/
structure Ckpt where
  tag : Nat
  part : Nat
  epoch : Nat
  imageCheck : Nat
  rt : Runtime
  regionCrcs : List (Nat × Nat)
  /-- State regions, whole: identifier and bytes. -/
  stateData : List (Nat × Bytes)
  updates : List PairWrite
  replays : List Replay
  /-- Channels with the station whose unit each is; 0xFFFF for none (12 R321). -/
  chans : List (Nat × Chan)
  bound : Nat
  /-- The intake log behind the checkpoint, its overflow, and the replay marks since it (R123, R125): what a full reset leaves of the job. -/
  log : List LogItem := []
  logOver : Bool := false
  marks : List (Nat × Nat × Nat) := []
  writtenHigh : List (Nat × Nat) := []
  /-- A prepared checkpoint whose outcome is not known: items of the job's log that precede its cut (R119). -/
  cut : Nat := 0
  /-- Bytes it takes in the store, and the HBM that holds them where the tier is absent (13 R344). -/
  size : Nat
  area : List (Nat × Nat) := []
  /-- Codec context records of its shale stations: station, the compressor's, the decompressor's (06 R183). -/
  contexts : List (Nat × Bytes × Bytes) := []
  /-- Stations whose commit-stable state it refers to (R116). -/
  refers : List Nat := []
  /-- The seal of its directory (R118 step 5). -/
  dirSeal : Bytes := []
  /-- Committed, or only prepared. -/
  final : Bool := false
  deriving DecidableEq, Repr

/-- A commit record of the anchor (04 R118 step 6). -/
structure CommitRec where
  tag : Nat
  epoch : Nat
  time : Nat
  imageCheck : Nat
  participants : List Nat
  /-- Directory seals by participant. -/
  seals : List (Nat × Bytes) := []
  deriving DecidableEq, Repr

end Sys2Proof.Machine
end

