-- ==== Sys2Proof/Machine/State.lean ====
section
/-!
DEFINITION. The state of the block, its stops, and the state right after reset.
-/

namespace Sys2Proof.Machine

open Sys2Proof

/-- Stops with a fault: a command that names what the manual says does not exist. -/
inductive Fault where
  /-- Raised by PATROL: the address lies in no memory of the device address space (13 R331). Safe: the hardware has no such access. -/
  | noSuchAddress
  /-- Raised by a command that names a job slot, station, queue, port, link, engine, channel or die beyond the counts of 01 R15. Safe: no such unit exists. -/
  | noSuchUnit
  deriving DecidableEq, Repr

/-- Stops with a refusal. -/
inductive Refusal where
  /-- Raised by the dispatch for a row that has no meaning yet. Safe. -/
  | notModelled (mnemonic : String)
  deriving DecidableEq, Repr

/-- The device: everything but the queue of commands and the memory bytes. -/
structure Dev where
  /-- The device timestamp in ns (00, Numbers and units). -/
  time : Nat := 0
  /-- The MODEL's own field: how many free values have been drawn (log entry 2). -/
  free : Nat := 0
  /-- Memory writes of the command being executed, in order; empty between commands. -/
  posted : List Post := []
  /-- What the last command sent or signalled to the outside, in order. -/
  sent : List Out := []
  /-- Register window and rings (03). -/
  win : Window := {}
  /-- Root die: straps, identity, firmware, boot, debug, peer table (17, 15). -/
  root : Root := {}
  /-- Power states, clocks, monitors (16). -/
  power : Power := {}
  /-- The two Emtor ports (14). -/
  ports : List Link := List.replicate 2 {}
  /-- The 48 hedge links (15). -/
  links : List Link := List.replicate 48 {}
  /-- Hedge address, routes, reachability, orders (15). -/
  hedge : Hedge := {}
  /-- Hedgerow chain interface (15). -/
  chain : Chain := {}
  /-- Mover engines and channels (12). -/
  movers : Movers := {}
  /-- Poison, cache policies, tier capacity (13). -/
  facts : MemFacts := {}
  /-- Ranges of host addresses that the host memory system fails (14 R371 item 7). -/
  hostGaps : List (Nat × Nat) := []
  /-- The 64 job slots (03). -/
  jobs : List Job := List.replicate 64 {}
  /-- Live feeds open in the device (05). -/
  feeds : List Feed := []
  nextFeed : Nat := 0
  /-- The checkpoint store and the commit records, oldest first (04). -/
  ckpts : List Ckpt := []
  commits : List CommitRec := []
  /-- Commit-stable state in the checkpoint store (04 R116). -/
  stables : List Stable := []
  deriving DecidableEq, Repr

/-- The state: the commands waiting, first in first out; the memory as a canonical list of addresses and bytes; the device. -/
structure State where
  pending : List Instr := []
  /-- Device memory and, in the host window, host memory (13 R331): addresses strictly rising, no byte equal to what an unlisted address reads as. -/
  mem : List Host.Cell := []
  dev : Dev := {}
  deriving DecidableEq, Repr

/-- The machine right after reset: RESET_N has risen for the first time, the strap word is latched with every strap open (17 R429), the boot sequence
is in step 2 (R439), every register holds its reset value (03 R64), no command waits and no memory is listed. -/
def State.reset : State := { pending := [], mem := [], dev := {} }

end Sys2Proof.Machine
end

