-- ==== Sys2Proof/Machine/Ops.lean ====
section
/-!
DEFINITION. The named operations: memory, the end of a command, free values, links to the host, ring entries, events, faults and completions
(03 R66 to R82, 04 R127, 13 R331, 14 R376).
-/

namespace Sys2Proof.Machine

open Sys2Proof

/-- Memory: addresses strictly rising, no byte equal to zero, which an unlisted address reads as (log entry 1). -/
abbrev Memory := List Host.Cell

/-- The canonical form holds from address `lo` upward. -/
def memWfFrom (lo : Nat) : Memory → Bool
  | [] => true
  | c :: cs => decide (lo ≤ c.1) && c.2 != 0 && memWfFrom (c.1 + 1) cs

/-- The canonical form of memory. -/
def Memory.wf (m : Memory) : Bool := memWfFrom 0 m

/-- The byte at an address; an unlisted one reads 0. -/
def memByte (m : Memory) (a : Nat) : Byte :=
  match m.find? (fun c => c.1 == a) with
  | some c => c.2
  | none => 0

/-- Bytes from the listed cells of an ascending run. -/
def memFill (a : Nat) : Nat → Memory → Bytes
  | 0, _ => []
  | n + 1, cs =>
    match cs with
    | [] => 0 :: memFill (a + 1) n []
    | c :: r => if c.1 = a then c.2 :: memFill (a + 1) n r else 0 :: memFill (a + 1) n (c :: r)

/-- `n` bytes from address `a`. -/
def memRead (m : Memory) (a n : Nat) : Bytes := memFill a n (m.filter (fun c => decide (a ≤ c.1) && decide (c.1 < a + n)))

/-- The listed cells of bytes at an address: zeros are not listed. -/
def memCells (a : Nat) : Bytes → Memory
  | [] => []
  | b :: bs => if b = 0 then memCells (a + 1) bs else (a, b) :: memCells (a + 1) bs

/-- Bytes written from an address upward. -/
def memWrite (m : Memory) (a : Nat) (bs : Bytes) : Memory :=
  m.filter (fun c => decide (c.1 < a)) ++ memCells a bs ++ m.filter (fun c => decide (a + bs.length ≤ c.1))

/-- Addresses `lo` to `hi - 1` lose their contents. -/
def memLose (m : Memory) (lo hi : Nat) : Memory := m.filter (fun c => decide (c.1 < lo) || decide (hi ≤ c.1))

/-- Applies one posted write. -/
def applyPost (m : Memory) : Post → Memory
  | .write a bs => memWrite m a bs
  | .lose lo hi => memLose m lo hi

/-- Applies the posted writes in order. -/
def applyPosts (m : Memory) (ps : List Post) : Memory := ps.foldl applyPost m

/-- What a meaning answers: the device with its posted writes; nothing, where the event has no cause in the state and so does not take place (log
entry 99); or a stop. -/
inductive DevOut where
  | next (d : Dev)
  | nothing
  | fault (f : Fault)
  deriving DecidableEq, Repr

/-- The device as a command finds it: no write posted, nothing sent. -/
def fresh (d : Dev) : Dev := { d with posted := [], sent := [] }

/-- The end of a command: its writes are applied to memory in order; the queue stays. -/
def settle (s : State) (r : DevOut) : Host.Outcome State Fault Refusal :=
  match r with
  | .next d => .next { pending := s.pending, mem := applyPosts s.mem d.posted, dev := { d with posted := [] } }
  | .nothing => .next { s with dev := fresh s.dev }
  | .fault f => .fault f

/-- Runs a meaning on a state. -/
def runDev (s : State) (f : Memory → Dev → DevOut) : Host.Outcome State Fault Refusal := settle s (f s.mem (fresh s.dev))

/-- Nanoseconds that an idle step takes (log entry 25). -/
def idleNs : Nat := 1000

/-- An event whose cause the state does not hold: it does not take place, and the device stays as it is (log entry 99). -/
def noEvent : DevOut := .nothing

/-- The effect of an event whose cause the state holds; else it does not take place. -/
def onlyIf (c : Bool) (d : Dev) : DevOut := if c then .next d else noEvent

/-- The base of the host window (13 R331). -/
def hostBase : Nat := 0x8000000000000000

/-- Reads host memory. -/
def hostRead (m : Memory) (a n : Nat) : Bytes := memRead m (hostBase + a) n

/-- Memory writes of the command go in front of those it has posted. -/
def postFirst (d : Dev) (a : Nat) (bs : Bytes) : Dev := { d with posted := .write a bs :: d.posted }

/-- Posts a write. -/
def post (d : Dev) (a : Nat) (bs : Bytes) : Dev := { d with posted := d.posted ++ [.write a bs] }

/-- Memory as a command sees it after the writes it has posted. -/
def seen (m : Memory) (d : Dev) : Memory := applyPosts m d.posted

/-- Records something sent. -/
def send (d : Dev) (o : Out) : Dev := { d with sent := d.sent ++ [o] }

/-- The Emtor port that carries Oluat's traffic: the lowest-numbered port that is up (14 R376; log entry 6). -/
def hostPort (d : Dev) : Option Nat := (List.range 2).find? (fun p => (d.ports.getD p {}).up)

/-- Counts flits sent on a link for a number of slots (14 R361, R363). -/
def Link.sendSlots (l : Link) (slots : Nat) : Link := { l with txSent := l.txSent + ceilDiv slots 15 }

/-- Changes a port. -/
def modPort (d : Dev) (p : Nat) (f : Link → Link) : Dev := { d with ports := modifyAt d.ports p f }

/-- Changes a hedge link. -/
def modLink (d : Dev) (l : Nat) (f : Link → Link) : Dev := { d with links := modifyAt d.links l f }

/-- Counts the flits of a write of `n` bytes to host memory (14 R361, R369). -/
def hostSlots (d : Dev) (n : Nat) : Dev :=
  match hostPort d with
  | some p => modPort d p (fun l => l.sendSlots (1 + ceilDiv n 16))
  | none => d

/-- Writes host memory through a port (14 R369). -/
def hostWrite (d : Dev) (a : Nat) (bs : Bytes) : Dev := post (hostSlots d bs.length) (hostBase + a) bs

/-- A host range that the adapter can serve (14 R371 item 7, 12 R332). -/
def hostOk (d : Dev) (a n : Nat) : Bool :=
  decide (a + n ≤ pow2 57) && !(d.hostGaps.any (fun g => decide (a < g.2) && decide (g.1 < a + n)))

/-- Draws a free value (log entry 2). -/
def drawFree (d : Dev) : Nat × Dev := (Config.freeNat d.free, { d with free := d.free + 1 })

/-- Draws free bytes of a length (log entry 2). -/
def drawBytes (d : Dev) (n : Nat) : Bytes × Dev := (padTo n (Config.freeBytes d.free), { d with free := d.free + 1 })

/-- A job slot's job; a FREE one past the last slot. -/
def getJob (d : Dev) (slot : Nat) : Job := d.jobs.getD slot {}

/-- Changes a job. -/
def modJob (d : Dev) (slot : Nat) (f : Job → Job) : Dev := { d with jobs := modifyAt d.jobs slot f }

/-- Changes the register window. -/
def modWin (d : Dev) (f : Window → Window) : Dev := { d with win := f d.win }

/-- Entries of a ring (03 R67). -/
def Ring.entries (r : Ring) : Nat := pow2 r.size

/-- The ring is full (03, Rings and ordering). -/
def Ring.full (r : Ring) : Bool := decide ((r.tail + 1) % r.entries = r.head)

/-- Free entries of a ring. -/
def Ring.room (r : Ring) : Nat := (r.head + r.entries - 1 - r.tail) % r.entries

/-- The ring may be written. -/
def Ring.live (r : Ring) : Bool := r.enabled && !r.disabling

/-- The ring after one more entry was written (R67). -/
def Ring.push (r : Ring) : Ring :=
  { r with tail := (r.tail + 1) % r.entries, phase := if r.tail + 1 = r.entries then !r.phase else r.phase, unread := true, announce := true }

/-- Counts a dropped event (R73): EVT_LOST saturates, the next entry carries LOST. -/
def dropEvent (d : Dev) : Dev :=
  modWin d (fun w => { w with evtLost := if w.evtLost < 0xFFFFFFFF then w.evtLost + 1 else w.evtLost, lostFlag := true })

/-- Writes an event entry whose EFLAGS are still clear (R67, R73, R81; 14 R376). -/
def writeEvent (d : Dev) (e : Bytes) : Dev :=
  let r := d.win.evt
  if !r.live then dropEvent d
  else if (hostPort d).isNone then
    (if (d.win.held.filter Held.isEvent).length < 4096 then modWin d (fun w => { w with held := w.held ++ [.event e] }) else dropEvent d)
  else if r.full then dropEvent d
  else
    let flags := b2n r.phase + 2 * b2n d.win.lostFlag
    let d := hostWrite d (r.base + 64 * r.tail) (e.set 3 (byteOf flags))
    modWin d (fun w => { w with evt := w.evt.push, lostFlag := false })

/-- An event entry (R81): type, slot, tag, time, fault code and the 40 bytes of DATA. -/
def eventEntry (ty slot tag time code : Nat) (data : Bytes) : Bytes :=
  le 2 ty ++ le 1 slot ++ [0] ++ le 4 tag ++ le 8 time ++ le 2 code ++ zeros 6 ++ padTo 40 data

/-- The job tag an event of a slot carries: all ones for no job. -/
def slotTag (d : Dev) (slot : Nat) : Nat := if slot < 64 then (getJob d slot).image.jobTag else 0xFFFFFFFF

/-- Raises an event (R73, R81). -/
def event (d : Dev) (ty slot : Nat) (data : Bytes) : Dev := writeEvent d (eventEntry ty slot (slotTag d slot) d.time 0 data)

/-- DETAIL where the fault's code gives it no meaning: all ones (R81). -/
def noDetail : Nat := 0xFFFFFFFF

/-- DETAIL2 where the fault's code gives it no meaning: all ones (R81). -/
def noDetail2 : Nat := 0xFFFFFFFFFFFFFFFF

/-- What a fault report says (R82). Fields that do not apply are all ones (R81). -/
structure FaultInfo where
  code : Nat
  slot : Nat := 0xFF
  die : Nat := 98
  queue : Nat := 0xFFFFFFFF
  producer : Nat := 0xFFFF
  consumer : Nat := 0xFFFF
  /-- [63:48] are zero; a number that does not apply is all ones in [47:0]. -/
  seqNo : Nat := pow2 48 - 1
  fflags : Nat := 0
  detail : Nat := noDetail
  detail2 : Nat := noDetail2
  deriving DecidableEq, Repr

/-- Latches a fault or counts it in LATER (R66). -/
def latchFault (d : Dev) (f : FaultInfo) : Dev :=
  modWin d (fun w =>
    if w.latchValid then { w with latchLater := if w.latchLater < 0xFFFF then w.latchLater + 1 else w.latchLater }
    else { w with latchValid := true, latchSlot := f.slot, latchDie := f.die, latchLater := 0, latchCode := f.code, faultTime := d.time })

/-- The hedge address a report carries: 0xFFFF when unassigned. -/
def ownAddr (d : Dev) : Nat := d.hedge.addr.getD 0xFFFF

/-- SRC of a packet this device sends: its hedge address, or UNASSIGNED (15 R381). -/
def srcAddr (d : Dev) : Nat := d.hedge.addr.getD 0x8000

/-- The fault report (R82). -/
def faultData (d : Dev) (f : FaultInfo) : Bytes :=
  le 4 f.queue ++ le 2 f.producer ++ le 2 f.consumer ++ le 8 f.seqNo ++ le 2 (ownAddr d) ++ le 1 f.die ++ le 1 f.fflags ++ le 4 f.detail ++
  le 8 f.detail2 ++ zeros 8

/-- The FAULT event entry. -/
def faultEntry (d : Dev) (f : FaultInfo) : Bytes := eventEntry 2 f.slot (slotTag d f.slot) d.time f.code (faultData d f)

/-- Reports a fault: latch and FAULT event (R66, R73). A job keeps its last fault (JOB_QUERY). -/
def reportFault (d : Dev) (f : FaultInfo) : Dev :=
  let e := faultEntry d f
  let d := latchFault d f
  let d := if f.slot < 64 then modJob d f.slot (fun j => { j with lastFault := f.code, lastFaultEvent := e }) else d
  writeEvent d e

/-- A device fault or notice with JOB_SLOT 0xFF (R451, 14 R378, 16 R428). -/
def deviceFault (d : Dev) (code detail detail2 die : Nat) : Dev :=
  reportFault d { code := code, die := die, detail := detail, detail2 := detail2 }

/-- A boot fault: latched first, kept in the list of 16, and an event when the event ring is enabled (17 R441). -/
def bootFault (d : Dev) (code detail detail2 die : Nat) : Dev :=
  let d := latchFault d { code := code, die := die, detail := detail, detail2 := detail2 }
  { d with root := { d.root with bootFaults := if d.root.bootFaults.length < 16 then d.root.bootFaults ++ [⟨code, detail, detail2, die⟩] else d.root.bootFaults } }

/-- A JOB_STATE event (R88): old and new state, reason, epoch. -/
def stateEvent (d : Dev) (slot : Nat) (old new : JState) (reason epoch : Nat) : Dev :=
  event d 1 slot (le 1 old.code ++ le 1 new.code ++ le 2 reason ++ le 4 epoch)

/-- The job in another state: its pins end when it leaves RUNNING (R96). -/
def Job.enter (j : Job) (st : JState) : Job := { j with state := st, pins := if j.state = .running then [] else j.pins }

/-- Moves a job to a state; a change produces a JOB_STATE event (R88). A further fault in RESTARTING changes no state, so it writes none (log entry 100). -/
def setJState (d : Dev) (slot : Nat) (st : JState) (reason : Nat) : Dev :=
  let j := getJob d slot
  if j.state = st then d
  else stateEvent (modJob d slot (fun j => j.enter st)) slot j.state st reason j.openEpoch

/-- A completion entry (R78) without PHASE. -/
def cplEntry (c : Cmd) (status detail written slot time : Nat) : Bytes :=
  le 4 c.cmdId ++ le 2 c.opcode ++ le 2 status ++ le 8 detail ++ le 4 written ++ le 2 c.index ++ le 1 slot ++ [0] ++ le 8 time

/-- Writes a response buffer (R72 item 1): it stands in front of the events that the command caused. With no port up it is held, in front of the held events. -/
def writeResp (d : Dev) (a : Nat) (resp : Bytes) : Dev :=
  if resp.length = 0 then d
  else if (hostPort d).isNone then
    modWin d (fun w =>
      let events := (w.held.reverse.takeWhile Held.isEvent).reverse
      { w with held := w.held.take (w.held.length - events.length) ++ [.resp a resp] ++ events })
  else postFirst (hostSlots d resp.length) (hostBase + a) resp

/-- Writes a completion entry (R72 item 3), or holds it while the ring is disabled or no port is up (R68, 14 R376). -/
def writeCpl (d : Dev) (e : Bytes) : Dev :=
  let r := d.win.cpl
  if !r.live || (hostPort d).isNone || r.full then modWin d (fun w => { w with held := w.held ++ [.entry e] })
  else
    let d := hostWrite d (r.base + 32 * r.tail) (e.set 0x17 (byteOf (b2n r.phase)))
    modWin d (fun w => { w with cpl := w.cpl.push })

/-- Takes a command out of those in progress. -/
def dropCmd (d : Dev) (c : Cmd) : Dev := modWin d (fun w => { w with inProg := w.inProg.filter (fun x => !(x.index == c.index && x.chain == c.chain)) })

/-- A chain RESPONSE frame of this device to the controller (15 R403). -/
def respFrames (src cid : Nat) : Nat → Nat → Bytes → List Frame
  | 0, _, _ => []
  | n + 1, off, bs =>
    let lastOne := decide (bs.length ≤ 4096)
    { dest := 0, src := src, kind := 6, last := lastOne, cid := cid, offset := off, data := bs.take 4096 } ::
      (if lastOne then [] else respFrames src cid n (off + 4096) (bs.drop 4096))

/-- Answers a chain command: the completion entry and the response, kept for the last 8 CIDs (15 R403). -/
def chainAnswer (d : Dev) (c : Cmd) (e resp : Bytes) : Dev :=
  let all := e ++ resp
  let ch := d.chain
  let ch := { ch with cid := none, buf := [], answers := ((assocDel ch.answers c.index) ++ [(c.index, all)]).drop ((assocDel ch.answers c.index).length + 1 - 8) }
  { d with chain := { ch with store := ch.store ++ (respFrames ch.addr c.index (all.length / 4096 + 1) 0 all).map (fun f => (true, f)) } }

/-- Completes a command (R72, R78, R79): the response, behind it the events already raised, the completion entry. -/
def complete (d : Dev) (c : Cmd) (status detail : Nat) (resp : Bytes) (slot : Nat) : Dev :=
  let d := dropCmd d c
  let e := cplEntry c status detail resp.length slot d.time
  if c.chain then chainAnswer d c e resp else writeCpl (writeResp d c.respAddr resp) e

/-- Completes the command in progress with a ring index, if there is one. -/
def completeIdx (d : Dev) (idx status detail : Nat) (resp : Bytes) : Dev :=
  match d.win.inProg.find? (fun c => c.index == idx && !c.chain) with
  | some c => complete d c status detail resp c.slot
  | none => d

/-- Writes one held write, or holds it on. -/
def writeHeld (d : Dev) : Held → Dev
  | .resp a bs => hostWrite d a bs
  | .event e => writeEvent d e
  | .entry e => writeCpl d e

/-- Writes what was held while a ring or every port was down, in its order (R68, 14 R376). -/
def flushHeld (d : Dev) : Dev :=
  if (hostPort d).isNone then d else d.win.held.foldl writeHeld (modWin d (fun w => { w with held := [] }))

/-- The escape link toward a hedge address (15 R393). -/
def escapeTo (d : Dev) (dest : Nat) : Option Nat :=
  match assocGet d.hedge.routes dest with
  | some r => r.escape
  | none => none

/-- Sends a packet on a hedge link, counting its flits and noting its job (15 R380). -/
def sendOn (d : Dev) (l : Nat) (p : Packet) : Dev :=
  let slots := 2 + ceilDiv p.data.length 16
  let d := modLink d l (fun k =>
    let k := k.sendSlots slots
    if p.jobTag = 0xFFFFFFFF then k else { k with replay := k.replay ++ [(k.txSent, p)] })
  send d (.packet l p)

/-- Sends a coordination message of a job to a hedge address (15 R385); it goes on the escape link (R394). -/
def sendCoord (d : Dev) (slot code dest : Nat) (payload : Bytes) : Dev :=
  match escapeTo d dest with
  | some l => sendOn d l { ptype := 0x20, dest := dest, src := srcAddr d, engine := 0xFE, jobTag := (getJob d slot).image.jobTag, aux := code, data := payload }
  | none => d

/-- Sends a coordination message to every other participant. -/
def sendAll (d : Dev) (slot code : Nat) (payload : Bytes) : Dev :=
  let j := getJob d slot
  (j.participants.zipIdx.filter (fun p => p.2 != j.partIndex)).foldl (fun d p => sendCoord d slot code p.1 payload) d

/-- This device is the job's anchor: the only participant, or its hedge address is the anchor's. -/
def isAnchor (d : Dev) (j : Job) : Bool := decide (j.participants.length ≤ 1) || (d.hedge.addr == some j.anchor)

/-- The flag of an overflowed intake log: it lasts until the commit that cuts the log completes (R124). -/
def Job.overflowed (j : Job) : Bool := j.logOver || (j.commit.map (fun c => c.oldOver)).getD false

/-- The job has recovery equivalence lost for a fault code: R132's codes, or the intake log overflowed (R88, R124). -/
def equivalenceLost (j : Job) (code : Nat) : Bool := code == 0x0C23 || code == 0x0C24 || code == 0x0C25 || j.overflowed

/-- The state a job fault leads to (R88). -/
def faultState (j : Job) (code : Nat) : JState :=
  match j.state with
  | .running | .suspended => if equivalenceLost j code || code == 0x0C26 then .held else .restarting
  | .restarting => if equivalenceLost j code then .held else .restarting
  | st => st

/-- True where a fault stops the job. -/
def JState.live (s : JState) : Bool := s = .running || s = .suspended || s = .restarting

/-- The epoch a restart opens: c + 1, or FIRST_EPOCH where none is committed (04 R114). -/
def reopened (j : Job) : Nat :=
  match j.lastCommitted with
  | some c => c + 1
  | none => j.image.firstEpoch

/-- The replay check of a region over an epoch cut that was not committed: the reads behind the cut follow those before it. -/
def Replay.join (a b : Replay) : Replay :=
  { b with data := a.data ++ b.data, marks := a.marks ++ b.marks.map (fun m => (a.data.length + m.1, crc64 (a.data ++ b.data.take m.1))) }

/-- Replay checks joined by region. -/
def joinReplays (a b : List Replay) : List Replay :=
  a.filter (fun x => !(b.any (fun y => y.region == x.region))) ++ b.map (fun y => ((a.find? (fun x => x.region == y.region)).map (fun x => x.join y)).getD y)

/-- An update of the log accepted while a commit was in progress that is given up: it shows with the epoch that the next commit opens (R107). -/
def LogItem.rebase (epoch : Nat) : LogItem → LogItem
  | .update s e n bs => .update s (min e epoch) n bs
  | i => i

/-- A commit given up: what its epoch left at the cut belongs to the open epoch again; match updates accepted meanwhile show with the epoch that the next
commit opens (R107). -/
def Job.dropCommit (j : Job) : Job :=
  match j.commit with
  | none => j
  | some c => { j with
      commit := none, pendingUpdates := j.pendingUpdates.map (fun u => { u with epoch := min u.epoch (c.epoch + 1) }), provisional := j.provisional || c.prov, log := c.oldLog ++ j.log.map (·.rebase (c.epoch + 1)), logOver := j.logOver || c.oldOver,
      replays := joinReplays c.oldReplays j.replays, mustMeet := c.oldMeet ++ j.mustMeet }

/-- Replay marks of a job since its commit: region, bytes, CRC (04 R125). -/
def Job.marks (j : Job) : List (Nat × Nat × Nat) := (j.mustMeet ++ (j.replays.map (fun r => r.marks.map (fun m => (r.region, m)))).flatten).eraseDups

/-- The committed checkpoint of a job on this device. -/
def committedCkpt (d : Dev) (j : Job) : Option Ckpt :=
  d.ckpts.find? (fun k => k.tag == j.image.jobTag && k.part == j.partIndex && j.lastCommitted == some k.epoch)

/-- Held bursts of a job are discarded (12 R320). -/
def dropBursts (d : Dev) (slot : Nat) : Dev :=
  { d with movers := { d.movers with chans := d.movers.chans.map (fun x => if x.2.arm.owner == slot then (x.1, { x.2 with held := none }) else x) } }

/-- Step 7 of a commit (04 R118): the epoch is committed, older checkpoints are released, the log up to the cut is gone with the commit, EPOCH_COMMITTED is
written; the final commit ends the job, whose held bursts are discarded. -/
def finishCommit (d : Dev) (slot : Nat) (c : Commit) : Dev :=
  let j := getJob d slot
  let mine (k : Ckpt) : Bool := k.tag == j.image.jobTag && k.part == j.partIndex
  let d := { d with ckpts := (d.ckpts.filter (fun k => !mine k || k.epoch == c.epoch)).map (fun k => if mine k then { k with final := true } else k) }
  let d := modJob d slot (fun j => { j with lastCommitted := some c.epoch, commit := none })
  let d := event d 3 slot (le 4 c.epoch ++ zeros 4 ++ le 8 c.time)
  let d := if c.cause = 1 then dropBursts (setJState d slot .finished 0) slot else d
  c.waiters.foldl (fun d i => completeIdx d i 0 0 (padTo 16 (le 4 c.epoch ++ zeros 4 ++ le 8 c.time))) d

/-- A commit is abandoned before its record is written here (04 R119): the anchor's checkpoint is discarded; another participant keeps its own as
prepared, with what its log and its replay marks hold behind the cut. -/
def dropPrepared (d : Dev) (slot : Nat) : Dev :=
  let j := getJob d slot
  match j.commit with
  | none => d
  | some c =>
    let mine (k : Ckpt) : Bool := k.tag == j.image.jobTag && k.part == j.partIndex && k.epoch == c.epoch && !k.final
    let keep (k : Ckpt) : Ckpt := if mine k then { k with log := j.log, logOver := j.logOver, marks := j.marks, cut := c.oldLog.length } else k
    let d := if isAnchor d j then { d with ckpts := d.ckpts.filter (fun k => !mine k) } else { d with ckpts := d.ckpts.map keep }
    modJob d slot Job.dropCommit

/-- What a full reset leaves of a job beside its checkpoint: the intake log and the replay marks lie in the store (04 R117, R123, R125). -/
def parkJob (d : Dev) (slot : Nat) : Dev :=
  let j := getJob d slot
  if j.state = .free then d
  else
    let d := match j.commit with
      | some c => if c.step = 6 then finishCommit d slot { c with waiters := [] } else dropPrepared d slot
      | none => d
    let j := getJob d slot
    let keep (k : Ckpt) : Ckpt :=
      if k.tag == j.image.jobTag && k.part == j.partIndex && j.lastCommitted == some k.epoch then
        { k with log := j.log, logOver := j.logOver, marks := j.marks, writtenHigh := j.writtenHigh }
      else k
    { d with ckpts := d.ckpts.map keep }

/-- Ends the commit in progress: one whose record is written completes, an earlier one is abandoned and its EPOCH_COMMITs complete with ABORTED (04 R119). -/
def endCommit (d : Dev) (slot code : Nat) : Dev :=
  match (getJob d slot).commit with
  | none => d
  | some c =>
    if c.step = 6 then finishCommit d slot c
    else c.waiters.foldl (fun d i => completeIdx d i 0x000C code []) (dropPrepared d slot)

/-- Ends a waiting JOB_START with ABORTED (R79). -/
def endStart (d : Dev) (slot code : Nat) : Dev :=
  match (getJob d slot).start with
  | none => d
  | some g => g.waiter.toList.foldl (fun d i => completeIdx d i 0x000C code []) (modJob d slot (fun j => { j with start := none }))

/-- The data that a halted job's channels still have to come are discarded. -/
def orphanReads (d : Dev) (slot : Nat) (rs : List ReadReq) : List ReadReq :=
  rs.map (fun r =>
    match r.reader with
    | .mover e c => if ((assocGet d.movers.chans (e, c)).map (fun x => x.arm.owner == slot)).getD false then { r with dst := none, stage := false, sealCheck := false, back := none } else r
    | _ => r)

/-- A job leaves the state in which its stations run: the runtime and the state of its mover channels are gone, the replay must meet the marks taken since the commit, and the epoch that
follows the last commit is the one to be opened (04 R127 steps 1 and 2, R129). -/
def haltJob (d : Dev) (slot code : Nat) : Dev :=
  let d := endCommit d slot code
  let d := { d with ports := d.ports.map (fun (l : Link) => ({ l with reads := orphanReads d slot l.reads } : Link)) }
  let d := { d with hedge := { d.hedge with reads := orphanReads d slot d.hedge.reads } }
  let d := { d with movers := { d.movers with chans := d.movers.chans.filter (fun x => x.2.arm.owner != slot || x.2.state == 3) } }
  modJob d slot (fun j => { j with
    rt := {}, savedChans := [], openEpoch := reopened j, restart := none, farEdges := [], lastEdges := [],
    mustMeet := j.marks, replays := [] })

/-- A fault of the donor before its units are handed over cancels a rebinding in progress (03 R99). -/
def endRebinds (d : Dev) (slot code : Nat) : Dev :=
  (d.win.inProg.filter (fun c => c.begun && c.slot == slot)).foldl (fun d c => complete d c 0x000C code [] c.slot) d

/-- The job is at the steps of a restart in which it restores (R127 step 5): in RESTARTING, or behind a JOB_START whose barrier was passed. -/
def Job.restoring (j : Job) : Bool := j.restart.isSome || (j.start.map (fun g => g.passed && decide (g.mode ≠ 0))).getD false

/-- A fault of a job whose stations do not run (R129): a restart that it ends leaves the job in its state, or in HELD where equivalence is lost (log
entry 101). -/
def stopIdle (d : Dev) (f : FaultInfo) (lost : Bool) : Dev :=
  if (getJob d f.slot).start.isSome && decide ((getJob d f.slot).state ≠ .finished) then
    let d := if lost then setJState (modJob d f.slot (fun j => { j with unrecov := true })) f.slot .held f.code else d
    endStart (reportFault d { f with fflags := f.fflags ||| b2n lost ||| (if (getJob d f.slot).state = .held then 4 else 0) }) f.slot f.code
  else reportFault d f

/-- Stops a job on this device (R127 steps 1 and 2): in-flight tiles are discarded, the commit in progress is abandoned, JOB_STATE then FAULT are written.
`why` is the code of the detector. A commit whose record is written completes first; a final one leaves the job FINISHED. -/
def stopJob (d : Dev) (f : FaultInfo) (why : Nat) : Dev :=
  let d := if (getJob d f.slot).state.live then endCommit d f.slot f.code else d
  let j := getJob d f.slot
  let lost := equivalenceLost j why
  if !j.state.live then stopIdle d f lost
  else
    let st := faultState j why
    let d := haltJob d f.slot f.code
    let d := modJob d f.slot (fun j => { j with
      unrecov := j.unrecov || lost, partitioned := j.partitioned || why == 0x0C26, restarts := if st = .restarting then min 0xFFFF (j.restarts + 1) else j.restarts })
    let d := setJState d f.slot st f.code
    let d := if st = .restarting then modJob d f.slot (fun j => { j with restart := some { mode := 1, since := d.time, passed := true } }) else d
    endRebinds (reportFault d { f with fflags := f.fflags ||| (if st = .held then 4 else 0) ||| b2n lost }) f.slot f.code

/-- A job fault on the device that detects it (R127, R129): the job stops here and STOP goes to the other participants. -/
def jobFault (d : Dev) (f : FaultInfo) : Dev :=
  let j := getJob d f.slot
  let d := stopJob d f f.code
  if (j.state.live || j.restoring) && decide ((getJob d f.slot).state ≠ .finished) then sendAll d f.slot 2 (le 2 f.code) else d

/-- A feed message header breaks R139: its kind, or a count or length that cannot be. -/
def feedHeadBad (b : Bytes) : Bool :=
  let kind := u8at b 0
  let n := u32at b 4
  let count := u16at b 2
  decide ((kind ≠ 1 ∧ kind ≠ 2) ∨ 0x1000000 < n ∨ (kind = 1 ∧ count = 0) ∨ (kind = 2 ∧ (count ≠ 0 ∨ n ≠ 0)))

/-- Bytes of the first message of a feed's buffer; none while it is not whole. Of a message with a bad header only the header counts. -/
def feedMsgLen (b : Bytes) : Option Nat :=
  if b.length < 16 then none
  else if feedHeadBad b then some 16
  else if b.length < 16 + u32at b 4 then none
  else some (16 + u32at b 4)

/-- Bytes of the whole messages at the head of a feed's buffer. -/
def wholeMsgs : Nat → Bytes → Nat
  | 0, _ => 0
  | n + 1, b =>
    match feedMsgLen b with
    | some k => k + wholeMsgs n (b.drop k)
    | none => 0

/-- The same for a whole buffer. -/
def Feed.whole (f : Feed) : Nat := wholeMsgs (f.partBuf.length / 16 + 1) f.partBuf

/-- A notice for a job: latched and reported, its state unchanged. -/
def jobNotice (d : Dev) (f : FaultInfo) : Dev := reportFault d f

end Sys2Proof.Machine
end

