-- ==== Sys2Proof/Machine/Boot.lean ====
section
/-!
DEFINITION. Straps, boot, firmware, identity, full reset, JTAG and debug tokens (17); reference loss, thermal trip and rails (16 R407, R420, R427).
-/

namespace Sys2Proof.Machine

open Sys2Proof

/-- STRAP_THERM_LIMIT. -/
def strapTherm (w : Nat) : Nat := field w 14 13
/-- STRAP_DEBUG_LOCK. -/
def strapDebugLock (w : Nat) : Bool := bit w 12
/-- STRAP_TIER_EN. -/
def strapTier (w : Nat) : Bool := bit w 11
/-- STRAP_PWR_ON. -/
def strapPwrOn (w : Nat) : Nat := field w 10 9
/-- STRAP_EMTOR_LANES. -/
def strapLanes (w : Nat) : Nat := field w 8 7
/-- STRAP_COMPAT_HY1. -/
def strapCompat (w : Nat) : Bool := bit w 6
/-- STRAP_CHAIN_POS_EN. -/
def strapChainPos (w : Nat) : Bool := bit w 5
/-- STRAP_HEDGE_ROOT. -/
def strapHedgeRoot (w : Nat) : Bool := bit w 4
/-- STRAP_BOOT. -/
def strapBoot (w : Nat) : Nat := field w 3 2
/-- STRAP_REFSEL. -/
def strapRefsel (w : Nat) : Nat := field w 1 0

/-- Lanes the strap sets for both ports; 0 when they are off (14 R355). -/
def emtorLanes (w : Nat) : Nat :=
  match strapLanes w with
  | 0 => 16 | 1 => 8 | 2 => 4 | _ => 0

/-- A reserved strap value, or bit 15 high (R431). -/
def strapsReserved (w : Nat) : Bool := bit w 15 || decide (2 ≤ strapPwrOn w) || decide (2 ≤ strapRefsel w)

/-- T_trip in °C (16 R427). -/
def tripTemp (w : Nat) : Nat := 105 + 5 * strapTherm w

/-- The identity key pair (R437). -/
def identityKeys : Bytes × Bytes := mldsaKeygen (shake256 (ascii "HYIDK001" ++ padTo 32 Config.puf ++ padTo 32 Config.fusedSeed) 32)

/-- The derived identity digest (R437). -/
def identityDigest : Bytes := shake256 identityKeys.1 32

/-- The identity digest IDENTIFY reports: the fused one after a mismatch (R437). -/
def ownDigest (d : Dev) : Bytes := if d.root.identityOk then identityDigest else padTo 32 Config.fusedDigest

/-- SHAKE256 digest over header bytes 0x0000 to 0x07DF: the measurement of an image (R433). -/
def FwImage.measure (i : FwImage) : Bytes := shake256 (slice i.hdr 0 0x7E0) 32

/-- VERSION of an image. -/
def FwImage.version (i : FwImage) : Nat := u32at i.hdr 8

/-- SVN of an image. -/
def FwImage.svn (i : FwImage) : Nat := u8at i.hdr 0x0C

/-- The first check of R434 that an image fails; none when it is acceptable. -/
def FwImage.failing (i : FwImage) (minSvn : Nat) : Option Nat :=
  let signer := slice i.hdr 0x20 1952
  if shake256 signer 32 ≠ padTo 32 Config.signingRoot then some 1
  else if slice i.hdr 0x7C0 32 ≠ i.bodyDigest then some 2
  else if !mldsaVerify signer (slice i.hdr 0 0x7E0) (slice i.hdr 0x7E0 3309) then some 3
  else if i.svn < minSvn then some 4
  else none

/-- Flash holds banks: STRAP_BOOT is 10 and this boot found the flash usable (R435, R451). -/
def usesFlash (r : Root) : Bool := decide (strapBoot r.straps = 2) && !r.flashBad

/-- The banks of a target the boot may use: the cache, filled from flash where a bank is missing (R435). -/
def bootBanks (r : Root) (t : Nat) : Banks :=
  let c := r.cache.getD t {}
  let f := r.flash.getD t {}
  if usesFlash r then { active := c.active.or f.active, staged := c.staged.or f.staged, pending := c.pending || f.pending } else c

/-- The banks of a target in the order of R436: true marks the STAGED bank. -/
def bankOrder (b : Banks) : List (Bool × FwImage) :=
  let a := b.active.toList.map (fun i => (false, i))
  let s := b.staged.toList.map (fun i => (true, i))
  if b.pending then s ++ a else a ++ s

/-- Tries banks in order: failed checks so far and the first acceptable bank (R436). -/
def tryBanks (minSvn : Nat) : List (Bool × FwImage) → List (Bool × Nat) × Option (Bool × FwImage)
  | [] => ([], none)
  | (s, i) :: r =>
    match i.failing minSvn with
    | none => ([], some (s, i))
    | some n =>
      let (fs, res) := tryBanks minSvn r
      ((s, n) :: fs, res)

/-- A register window after a reset: RESET_STATUS stays (03 R64, R449). -/
def resetWin (w : Window) (cause : Nat) (count : Bool) : Window :=
  { resets := if count && decide (w.resets < 0xFFFF) then w.resets + 1 else w.resets, lastCause := cause }

/-- The root die as a boot finds it: always-on contents, fuses, cache and flash stay (R449). -/
def resetRoot (r : Root) (cold : Bool) : Root :=
  { r with
    loaded := [none, none, none], identityOk := true, bootStep := 1, bootTarget := none, bootMask := (0, 0), activating := none, coldBoot := cold, secondRun := false,
    bootFaults := [], resetCause := none, resetSlots := [], badBanks := [], flashBad := false, cache := if cold then [{}, {}, {}] else r.cache }

/-- The end of the addresses that hold HBM, and the span of cluster SRAM (13 R331). -/
def hbmEnd : Nat := 0x12000000000
/-- Base of the cluster SRAM window. -/
def sramBase : Nat := 0x80000000000
/-- End of the cluster SRAM window. -/
def sramEnd : Nat := 0x80080000000
/-- Base of the tier window. -/
def tierBase : Nat := 0x40000000000

/-- The contents of cluster SRAM, and its poison, are lost; the cache holds no dirty line any more, what it held lies in HBM (13 R351; 16 R411). -/
def loseSram (d : Dev) : Dev :=
  { d with posted := d.posted ++ [.lose sramBase sramEnd],
           facts := { d.facts with poison := d.facts.poison.filter (fun a => !(decide (sramBase ≤ a) && decide (a < sramEnd))), dirty := [] } }

/-- The contents of HBM and cluster SRAM are lost (13 R336). -/
def loseMemory (d : Dev) : Dev := { d with posted := d.posted ++ [.lose 0 hbmEnd, .lose sramBase sramEnd] }

/-- The tier dies: with STRAP_TIER_EN low they stay in reset and power-gated (01 R19). -/
def isTierDie (die : Nat) : Bool := decide (68 ≤ die) && decide (die ≤ 75)

/-- Poisoned sectors whose memory keeps its contents (13 R342, R351; 04 R117): of the tier, and, where HBM is kept for it, of the checkpoint store. -/
def keptPoison (d : Dev) (cold : Bool) : List Nat :=
  let areas := (d.ckpts.map (·.area)).flatten
  d.facts.poison.filter (fun a => (decide (tierBase ≤ a) && decide (a < sramBase)) || (!cold && areas.any (fun e => decide (e.1 ≤ a) && decide (a < e.1 + e.2))))

/-- The state every reset of the dies leaves: registers, rings, job slots, clock step, cap, gates, alarms, movers and links at reset; device memory
undefined (R449, 13 R336). Feeds die with their jobs. The saturation counters clear at every such reset, an entry to D3 and a lost reference among them:
DEDUCED, 01 R22 names power-on and full reset only and 16 R407, R411 say that contents are lost (log entry 102). -/
def resetDies (d : Dev) (cause : Nat) (count cold : Bool) : Dev :=
  let h := d.hedge
  let d := loseMemory ((List.range 64).foldl parkJob d)
  { d with
    win := resetWin d.win cause count, root := resetRoot d.root cold, power := { sampleNo := d.power.sampleNo },
    ports := List.replicate 2 {}, links := List.replicate 48 {}, movers := {}, jobs := List.replicate 64 {}, feeds := [], nextFeed := 0,
    hedge := { addr := h.addr, level := h.level },
    facts := { tierGib := d.facts.tierGib, poison := keptPoison d cold } }

/-- The checkpoint store after a boot that loses HBM: only its tier part stays (R449, 13 R342). -/
def keepTierStore (d : Dev) : Dev :=
  if strapTier d.root.straps && d.root.tierOn then d else { d with ckpts := [], commits := [], stables := [] }

/-- Tells the participants of every job that holds a slot that this device resets (R448). -/
def stopAllJobs (d : Dev) : Dev :=
  (List.range 64).foldl (fun d s => if (getJob d s).state = .free then d else sendAll d s 2 (le 2 0x0C21)) d

/-- Starts a full reset with a cause (R448): the sequence begins, or restarts at step 2 when it is running. Step 1 is taken at once. -/
def fullReset (d : Dev) (cause : Nat) : Dev :=
  let booting := decide (d.root.bootStep ≠ 0)
  let d := if booting then d else stopAllJobs d
  let d := resetDies d cause true (booting && d.root.coldBoot)
  { d with root := { d.root with bootStep := 2 } }

/-- A die's identity for a boot fault that names none. -/
def rootDie : Nat := 99

/-- The faults of the image checks of one target (R436) and the image it loads. -/
def bootTargetImage (d : Dev) (t : Nat) : Dev × Option (Bool × FwImage) :=
  let (fs, res) := tryBanks (d.root.minSvn.getD t 0) (bankOrder (bootBanks d.root t))
  let d := fs.foldl (fun d f => bootFault d 0x0E02 (256 * b2n f.1 + t) f.2 rootDie) d
  match res with
  | some x => (d, some x)
  | none => (bootFault d 0x0E01 t 0 rootDie, none)

/-- The banks of a target after the boot that made its PENDING image ACTIVE (R443). -/
def Banks.activated (b : Banks) : Banks := { active := b.staged, staged := b.active, pending := false }

/-- Makes a target's staged image ACTIVE in cache and flash, raising the fused minimum SVN where the image says so (R443, R444). -/
def activateTarget (d : Dev) (t : Nat) (i : FwImage) : Dev :=
  let r := d.root
  let up (bs : List Banks) : List Banks := modifyAt bs t Banks.activated
  { d with root := { r with
      cache := up r.cache, flash := if usesFlash r then up r.flash else r.flash
      minSvn := if bit (u8at i.hdr 5) 0 then modifyAt r.minSvn t (fun n => max n i.svn) else r.minSvn } }

/-- Clears PENDING of a target (R443). -/
def clearPending (d : Dev) (t : Nat) : Dev :=
  let f (bs : List Banks) : List Banks := modifyAt bs t (fun b => { b with pending := false })
  { d with root := { d.root with cache := f d.root.cache, flash := if usesFlash d.root then f d.root.flash else d.root.flash } }

/-- The target whose PENDING image this boot tries. -/
def pendingTarget (r : Root) : Option Nat := (List.range 3).find? (fun t => (bootBanks r t).pending)

/-- A boot that tried a PENDING image and failed runs once more from step 2 without it (R443). -/
def secondRun (d : Dev) (t why : Nat) : Dev :=
  let d := clearPending d t
  let d := bootFault d 0x0E03 t why rootDie
  { d with root := { d.root with bootStep := 2, secondRun := true } }

/-- Enters RECOVERY: the device serves three commands (R440). -/
def enterRecovery (d : Dev) : Dev :=
  { d with power := { d.power with state := .recovery }, root := { d.root with bootStep := 0 } }

/-- The state a boot ends in (R439): the commanded one after D3, else STRAP_PWR_ON's. -/
def bootEndState (r : Root) : DState :=
  match r.bootTarget with
  | some s => s
  | none => if strapPwrOn r.straps = 1 then .d1 else .d2

/-- Latches what the boot reports after it: the thermal trip (16 R427) and the lost reference (16 R407). -/
def bootAfter (d : Dev) : Dev :=
  let d := if d.root.refLost then bootFault d 0x0D01 0 0 rootDie else d
  let d := match d.root.tripDie with
    | some die => bootFault d 0x0D10 die (tripTemp d.root.straps) die
    | none => d
  { d with root := { d.root with refLost := false, tripDie := none } }

/-- What a bank's image leaves when it is loaded. -/
def FwImage.loadedAs (i : FwImage) : Loaded := { measure := i.measure, version := i.version, svn := i.svn }

/-- The end of the boot: the device enters its boot-end state; the masks of a POWER_SET that left D3 apply (16 R413). -/
def bootDone (d : Dev) : Dev :=
  { d with
    power := { d.power with state := bootEndState d.root, gates := d.root.bootMask.1, laneOff := d.root.bootMask.2 }
    root := { d.root with bootStep := 0, coldBoot := false, bootTarget := none, bootMask := (0, 0) } }

/-- With STRAP_BOOT 10, a flash without usable SFDP tables is reported with 0x0E09 and the boot goes on from the cache (R451). -/
def flashFound (d : Dev) (flashFail : Option Nat) : Dev :=
  match flashFail with
  | some a => if strapBoot d.root.straps = 2 then bootFault { d with root := { d.root with flashBad := true } } 0x0E09 a 0 rootDie else d
  | none => { d with root := { d.root with flashBad := false } }

/-- Boot steps 3 to 9 (R439), with the outcomes of the self-test, HBM training, tier training and the reading of the flash's SFDP tables. -/
def bootRun (d : Dev) (selfTest : Option (Nat × Nat)) (hbmFail tierFail flashFail : Option Nat) : Dev :=
  let d := bootAfter d
  if strapsReserved d.root.straps then enterRecovery (bootFault d 0x0E08 d.root.straps 0 rootDie)
  else if identityDigest ≠ padTo 32 Config.fusedDigest then
    enterRecovery (bootFault { d with root := { d.root with identityOk := false } } 0x0E06 0 0 rootDie)
  else if strapBoot d.root.straps = 3 then enterRecovery d
  else
    let d := flashFound d flashFail
    let pend := pendingTarget d.root
    let (d, l2) := bootTargetImage d 2
    let (d, l1) := bootTargetImage d 1
    let (d, l0) := bootTargetImage d 0
    let loaded := [l0, l1, l2].map (fun x => x.map (fun y => y.2.loadedAs))
    let usesPending (t : Nat) : Bool :=
      match ([l0, l1, l2].getD t none) with
      | some (s, _) => s
      | none => false
    let d := { d with root := { d.root with loaded := loaded } }
    let selfTest := selfTest.filter (fun x => strapTier d.root.straps || !isTierDie x.1)
    let bad := selfTest.isSome || hbmFail.isSome || (tierFail.isSome && strapTier d.root.straps)
    match pend with
    | some t =>
      if !usesPending t then
        let why := ((bootBanks d.root t).staged.bind (fun i => i.failing (d.root.minSvn.getD t 0))).getD 0
        secondRun d t why
      else if bad then secondRun d t (0x100 + (if selfTest.isSome then 5 else 6))
      else if l2.isNone || l1.isNone || l0.isNone then enterRecovery d
      else
        let img := (([l0, l1, l2].getD t none).map (·.2)).getD {}
        bootDone (activateTarget d t img)
    | none =>
      let d := match selfTest with
        | some (die, unit) => bootFault d 0x0E04 die unit die
        | none => d
      let d := match hbmFail with
        | some s => bootFault d 0x0506 s s (32 + s)
        | none => d
      let d := match tierFail with
        | some c => if strapTier d.root.straps then bootFault d 0x0507 c c (68 + c / 8) else d
        | none => d
      if bad || l2.isNone || l1.isNone || l0.isNone then enterRecovery d
      else bootDone d

/-- A boot is running and may go on: rails up, reference present, no trip, RESET_N high. -/
def bootReady (r : Root) : Bool := decide (r.bootStep ≠ 0) && r.railsOn && r.mainOn && r.refOk && !r.tripped && !r.resetNLow

/-- BOOT_COMPLETE (R439, R440, R443). -/
def bootComplete (selfTest : Option (Nat × Nat)) (hbmFail tierFail flashFail : Option Nat) (d : Dev) : DevOut :=
  onlyIf (bootReady d.root) (bootRun d selfTest hbmFail tierFail flashFail)

/-- BOOT_COMPLETE. -/
def execBootComplete (selfTest : Option (Nat × Nat)) (hbmFail tierFail flashFail : Option Nat) (s : State) : Host.Outcome State Fault Refusal :=
  runDev s (fun _ d => bootComplete selfTest hbmFail tierFail flashFail d)

/-- BOOT_STEP_TIMEOUT (R439): 0x0E05 and RECOVERY, or the second run of an activation (R443). -/
def bootTimeout (die : Nat) (d : Dev) : DevOut :=
  onlyIf (bootReady d.root)
    (match pendingTarget d.root with
     | some t => secondRun d t (0x100 + d.root.bootStep)
     | none => enterRecovery (bootFault d 0x0E05 d.root.bootStep die rootDie))

/-- BOOT_STEP_TIMEOUT. -/
def execBootStepTimeout (die : Nat) (s : State) : Host.Outcome State Fault Refusal := runDev s (fun _ d => bootTimeout die d)

/-- The device at power-on (R429, R449): straps latched, everything volatile at reset. -/
def powerOn (straps tierGib : Nat) (d : Dev) : Dev :=
  let r : Root := { straps := wrap 16 straps, minSvn := d.root.minSvn, flash := d.root.flash, tripDie := d.root.tripDie }
  let keep := strapTier r.straps && d.root.tierOn && decide (d.facts.tierGib = tierGib)
  { ({} : Dev) with
    free := d.free, posted := d.posted ++ [.lose 0 hbmEnd, .lose sramBase sramEnd], root := r, facts := { tierGib := tierGib },
    ckpts := if keep then d.ckpts else [], commits := if keep then d.commits else [], stables := if keep then d.stables else [] }

/-- POWER_ON (R429): possible while the strap word is not latched, or before anything ran. -/
def execPowerOn (straps tierGib : Nat) (s : State) : Host.Outcome State Fault Refusal :=
  runDev s (fun _ d => onlyIf (!d.root.strapsLatched) (powerOn straps tierGib d))

/-- RESET_N held low for 10 µs (R448); it releases THERMTRIP_N where every comparator is cool (16 R427). -/
def resetNAssert (cool : Bool) (d : Dev) : Dev :=
  let d := if d.root.tripped && !cool then d else fullReset { d with root := { d.root with tripped := false } } 1
  { d with root := { d.root with resetNLow := true } }

/-- RESET_N_ASSERT (R432, R448). -/
def execResetNAssert (cool : Bool) (s : State) : Host.Outcome State Fault Refusal :=
  runDev s (fun _ d => onlyIf (d.root.strapsLatched && !d.root.resetNLow) (resetNAssert cool d))

/-- RESET_N_RELEASE (R448): the waiting boot sequence goes on. -/
def execResetNRelease (s : State) : Host.Outcome State Fault Refusal :=
  runDev s (fun _ d => onlyIf d.root.resetNLow { d with root := { d.root with resetNLow := false } })

/-- REFERENCE_LOST (16 R407): every die is held in reset; HBM and cluster SRAM are lost, the tier stays by R342. -/
def referenceLost (d : Dev) : Dev :=
  let d := keepTierStore (resetDies d 0 false false)
  { d with root := { d.root with bootStep := 0, refOk := false, refLost := true } }

/-- REFERENCE_LOST. -/
def execReferenceLost (s : State) : Host.Outcome State Fault Refusal :=
  runDev s (fun _ d => onlyIf (d.root.refOk && d.root.strapsLatched) (referenceLost d))

/-- REFERENCE_RETURN (16 R407): the boot sequence runs. -/
def execReferenceReturn (s : State) : Host.Outcome State Fault Refusal :=
  runDev s (fun _ d => onlyIf (!d.root.refOk) { d with root := { d.root with refOk := true, bootStep := 2 } })

/-- THERMAL_TRIP (16 R427): THERMTRIP_N low, every die but the always-on island in reset, HBM lost, the die recorded. -/
def thermalTrip (die : Nat) (d : Dev) : Dev :=
  let d := keepTierStore (resetDies d d.win.lastCause false false)
  send { d with root := { d.root with bootStep := 0, tripped := true, tripDie := some die } } .thermtrip

/-- THERMAL_TRIP. -/
def execThermalTrip (die : Nat) (s : State) : Host.Outcome State Fault Refusal :=
  runDev s (fun _ d => if 100 ≤ die then .fault .noSuchUnit else onlyIf (!d.root.tripped && d.root.strapsLatched) (thermalTrip die d))

/-- Rails are removed (16 R420, R342, R427, R429): the tier's contents go with its rails; VAON takes the strap word, peer table, debug unlock and a held
THERMTRIP_N with it. Outside D3 and the trip, removing the main rails is a power loss: the dies hold nothing. -/
def railRemoval (vaon tier : Bool) (d : Dev) : Dev :=
  let d := if d.power.state = .d3 then d else resetDies d d.win.lastCause false true
  let d := { d with root := { d.root with bootStep := 0, mainOn := false, tierOn := d.root.tierOn && !tier } }
  let d := if tier then { d with ckpts := [], commits := [], stables := [] } else d
  if vaon then
    { d with
      root := { d.root with strapsLatched := false, railsOn := false, straps := 0, peers := [], debugScope := 0, debugDigest := [], debugResult := 0, tripped := false },
      hedge := { d.hedge with addr := none, level := 0 }, chain := {} }
  else d

/-- RAIL_REMOVAL: in D3 or while tripped the main rails, or VAON at any time. -/
def execRailRemoval (vaon tier : Bool) (s : State) : Host.Outcome State Fault Refusal :=
  runDev s (fun _ d => onlyIf (vaon || d.power.state = .d3 || d.root.tripped) (railRemoval vaon tier d))

/-- A fault that requires a full reset is outstanding: its FFLAGS[1] was reported (04 R126). -/
def resetDue (d : Dev) : Bool := d.root.resetCause.isSome

/-- Notes that a fault requires a full reset (04 R126). -/
def needReset (d : Dev) : Dev := { d with root := { d.root with resetCause := some 5 } }

/-- A job fault whose class requires a full reset (04 R126): FFLAGS[1] is set. -/
def jobFaultReset (d : Dev) (f : FaultInfo) : Dev :=
  let d := needReset (jobFault d { f with fflags := f.fflags ||| 2 })
  { d with root := { d.root with resetSlots := d.root.resetSlots ++ [f.slot] } }

/-- A device fault that requires a full reset. -/
def deviceFaultReset (d : Dev) (f : FaultInfo) : Dev := needReset (reportFault d { f with fflags := f.fflags ||| 2 })

/-- RECOVERY_RESET (04 R126): every job with a slot but those whose faults asked for the reset faults with 0x0C21, and the device resets with
LAST_CAUSE 5. -/
def recoveryReset (d : Dev) : Dev :=
  let d := (List.range 64).foldl (fun d s =>
    if (getJob d s).state = .free || d.root.resetSlots.contains s then d else stopJob d { code := 0x0C21, slot := s } 0x0C21) d
  fullReset d 5

/-- RECOVERY_RESET. -/
def execRecoveryReset (s : State) : Host.Outcome State Fault Refusal := runDev s (fun _ d => onlyIf (resetDue d) (recoveryReset d))

/-- UNIT_IDLE_TIMEOUT (04 R126): a job's unit did not return to idle within 1 ms of the stop request; FFLAGS[1] is reported. -/
def unitIdleTimeout (slot die : Nat) (d : Dev) : DevOut :=
  let j := getJob d slot
  let d := deviceFaultReset d { code := if j.lastFault = 0 then 0x0C01 else j.lastFault, slot := slot, die := die }
  onlyIf (j.state = .restarting || j.state = .held) { d with root := { d.root with resetSlots := d.root.resetSlots ++ [slot] } }

/-- UNIT_IDLE_TIMEOUT. -/
def execUnitIdleTimeout (slot die : Nat) (s : State) : Host.Outcome State Fault Refusal :=
  runDev s (fun _ d => if 64 ≤ slot ∨ 100 ≤ die then .fault .noSuchUnit else unitIdleTimeout slot die d)

/-- JTAG is reachable: VIO and VAON are up. -/
def jtagOn (d : Dev) : Bool := d.root.railsOn

/-- The JTAG register codes of the model: 0 BYPASS, 1 IDCODE, 2 SAMPLE/PRELOAD, 3 EXTEST, 4 EXTEST_PULSE, 5 EXTEST_TRAIN (R446). -/
def jtagLoad (d : Dev) (code : Nat) (out : Bytes) : DevOut := onlyIf (jtagOn d) (send { d with root := { d.root with jtag := code } } (.tdo out))

/-- BYPASS (R446): one bit, captured as 0. -/
def execBypass (s : State) : Host.Outcome State Fault Refusal := runDev s (fun _ d => jtagLoad d 0 [0])

/-- IDCODE (R446). -/
def execIdcode (s : State) : Host.Outcome State Fault Refusal := runDev s (fun _ d => jtagLoad d 1 Config.bsdlIdcode)

/-- SAMPLE/PRELOAD (R446): the captured boundary cells are a free value. -/
def execSamplePreload (s : State) : Host.Outcome State Fault Refusal :=
  runDev s (fun _ d => jtagLoad { d with free := d.free + 1 } 2 (Config.bsdlCapture d.free))

/-- The EXTEST instructions: accepted only in RECOVERY, BYPASS elsewhere (R446). -/
def extest (code : Nat) (d : Dev) : DevOut :=
  if d.power.state = .recovery then jtagLoad { d with free := d.free + 1 } code (Config.bsdlCapture d.free) else jtagLoad d 0 [0]

/-- EXTEST. -/
def execExtest (s : State) : Host.Outcome State Fault Refusal := runDev s (fun _ d => extest 3 d)

/-- EXTEST_PULSE. -/
def execExtestPulse (s : State) : Host.Outcome State Fault Refusal := runDev s (fun _ d => extest 4 d)

/-- EXTEST_TRAIN. -/
def execExtestTrain (s : State) : Host.Outcome State Fault Refusal := runDev s (fun _ d => extest 5 d)

/-- The current debug challenge: 32 bytes drawn at power-on and after every token attempt (R447; a free value). -/
def challenge (d : Dev) : Bytes := padTo 32 (Config.freeBytes (1000000000 + d.root.challenges))

/-- DEBUG_CHALLENGE (R447). -/
def execDebugChallenge (s : State) : Host.Outcome State Fault Refusal := runDev s (fun _ d => onlyIf (jtagOn d) (send d (.tdo (challenge d))))

/-- The first check of a token that fails (R447); 0 when it is accepted. -/
def tokenCheck (d : Dev) (t : Bytes) : Nat :=
  let signer := slice t 0x48 1952
  if strapDebugLock d.root.straps then 9
  else if slice t 8 32 ≠ ownDigest d then 6
  else if slice t 40 32 ≠ challenge d then 7
  else if shake256 signer 32 ≠ padTo 32 Config.signingRoot then 1
  else if !mldsaVerify signer (slice t 0 0x7E8) (slice t 0x7E8 3309) then 8
  else 0

/-- DEBUG_TOKEN (R447): an accepted token unlocks its SCOPE and latches 0x0E07; every attempt draws a new challenge. -/
def debugToken (t : Bytes) (d : Dev) : Dev :=
  let r := tokenCheck d t
  let d := { d with root := { d.root with debugResult := r, challenges := d.root.challenges + 1 } }
  if r = 0 then
    let scope := u32at t 4 % 8
    let d := { d with root := { d.root with debugScope := d.root.debugScope ||| scope, debugDigest := shake256 (padTo 5333 t) 32 } }
    deviceFault d 0x0E07 (u32at t 4) 0 rootDie
  else d

/-- DEBUG_TOKEN. -/
def execDebugToken (bs : Bytes) (s : State) : Host.Outcome State Fault Refusal := runDev s (fun _ d => onlyIf (jtagOn d) (debugToken bs d))

/-- DEBUG_STATUS (R447): the number of the first check that failed, 0 for none. -/
def execDebugStatus (s : State) : Host.Outcome State Fault Refusal :=
  runDev s (fun _ d => onlyIf (jtagOn d) (send d (.tdo [byteOf d.root.debugResult])))

end Sys2Proof.Machine
end

