-- ==== Sys2Proof/Machine/Registers.lean ====
section
/-!
DEFINITION. The register window, the doorbells, ring enables, command fetch and notify (03 R64 to R70, R74).
-/

namespace Sys2Proof.Machine

open Sys2Proof

/-- The window is reached through a port that is up, and not in D3 (R64, 14 R375). -/
def windowUp (d : Dev) : Bool := (hostPort d).isSome && decide (d.power.state ≠ .d3)

/-- Job slots not FREE. -/
def activeJobs (d : Dev) : Nat := (d.jobs.filter (fun j => decide (j.state ≠ .free))).length

/-- A RING_ENABLE bit reads 1 until the HY-2 has acted on its clearing (R68). -/
def ringEnables (w : Window) : Nat := b2n w.cmd.enabled + 2 * b2n w.cpl.enabled + 4 * b2n w.evt.enabled

/-- All three rings are enabled. -/
def ringsRunning (w : Window) : Bool := w.cmd.enabled && w.cpl.enabled && w.evt.enabled

/-- STATUS (R64): RESET_IN_PROGRESS reads 1 from the request of a full reset on (17 R448). -/
def statusReg (d : Dev) : Nat :=
  let w := d.win
  d.power.state.code + pow2 8 * b2n (ringsRunning w) + pow2 9 * b2n (w.resetInProgress || d.root.resetCause.isSome) + pow2 10 * b2n w.latchValid +
  pow2 11 * b2n (decide (w.evtLost ≠ 0)) + pow2 12 * b2n w.doorbellError + pow2 13 * b2n w.ringConfigError + pow2 16 * activeJobs d

/-- FAULT_LATCH (R64). -/
def latchReg (w : Window) : Nat :=
  w.latchCode + pow2 16 * w.latchLater + pow2 32 * w.latchDie + pow2 40 * w.latchSlot + pow2 63 * b2n w.latchValid

/-- The 64-bit registers' offsets. -/
def wideRegs : List Nat := [0x010, 0x028, 0x040, 0x060, 0x068]

/-- A 64-bit register's value. -/
def readWide (d : Dev) (off : Nat) : Nat :=
  if off = 0x010 then d.win.cmd.base
  else if off = 0x028 then d.win.cpl.base
  else if off = 0x040 then d.win.evt.base
  else if off = 0x060 then latchReg d.win
  else if off = 0x068 then d.win.faultTime
  else 0

/-- A 32-bit register's value; write-only fields and unlisted offsets read as zero (R6, R64). -/
def readReg32 (d : Dev) (off : Nat) : Nat :=
  let w := d.win
  match off with
  | 0x000 => 0x59440201
  | 0x004 => 2
  | 0x008 => statusReg d
  | 0x018 => w.cmd.size
  | 0x01C => w.cmd.head
  | 0x030 => w.cpl.size
  | 0x034 => w.cpl.tail
  | 0x048 => w.evt.size
  | 0x04C => w.evt.tail
  | 0x054 => w.evtLost
  | 0x058 => ringEnables w
  | 0x074 => pow2 8 * w.lastCause + pow2 16 * w.resets
  | o =>
    if wideRegs.contains o then wrap 32 (readWide d o)
    else if wideRegs.contains (o - 4) && decide (4 ≤ o) then (assocGet w.highCap (o - 4)).getD (readWide d (o - 4) >>> 32)
    else 0

/-- Least and most LOG2_ENTRIES of a ring: 0 command, 1 completion, 2 event. -/
def ringSizes (n : Nat) : Nat × Nat :=
  match n with
  | 0 => (4, 12) | 1 => (4, 14) | _ => (6, 16)

/-- Bytes of a ring's entries. -/
def ringEntryBytes (n : Nat) : Nat :=
  match n with
  | 0 => 256 | 1 => 32 | _ => 64

/-- Ring n of the window. -/
def Window.ring (w : Window) (n : Nat) : Ring :=
  match n with
  | 0 => w.cmd | 1 => w.cpl | _ => w.evt

/-- Changes ring n. -/
def modRing (d : Dev) (n : Nat) (f : Ring → Ring) : Dev :=
  modWin d (fun w =>
    match n with
    | 0 => { w with cmd := f w.cmd } | 1 => { w with cpl := f w.cpl } | _ => { w with evt := f w.evt })

/-- The ring's base and size are valid (R67). -/
def ringValid (n : Nat) (r : Ring) : Bool :=
  decide (r.base ≠ 0) && decide (r.base + ringEntryBytes n * r.entries ≤ pow2 57) && !outside r.size (ringSizes n)

/-- Writes the boot faults as FAULT events when the event ring is first enabled after a boot (17 R441). -/
def reportBootFaults (d : Dev) : Dev :=
  let fs := d.root.bootFaults
  let d := { d with root := { d.root with bootFaults := [] } }
  fs.foldl (fun d f => writeEvent d (faultEntry d { code := f.code, die := f.die, detail := f.detail, detail2 := f.detail2 })) d

/-- A RING_ENABLE bit goes from 0 to 1 (R67). -/
def enableRing (d : Dev) (n : Nat) : Dev :=
  if ringValid n (d.win.ring n) then
    let d := modRing d n (fun r => { r with head := 0, tail := 0, enabled := true, disabling := false, phase := true, unread := false, announce := false })
    let d := modWin d (fun w => { w with doorbellError := false })
    let d := if n = 2 then reportBootFaults d else d
    flushHeld d
  else modWin d (fun w => { w with ringConfigError := true })

/-- A RING_ENABLE bit goes from 1 to 0 (R68): a ring with writes not read back stays until the read-back returns. -/
def disableRing (d : Dev) (n : Nat) : Dev :=
  modRing d n (fun r => if r.unread then { r with disabling := true } else { r with enabled := false, disabling := false })

/-- A write to RING_ENABLE. -/
def writeRingEnable (d : Dev) (v : Nat) : Dev :=
  let d := modWin d (fun w => { w with ringConfigError := false })
  (List.range 3).foldl (fun d n =>
    let on := (d.win.ring n).enabled
    if bit v n && !on then enableRing d n else if !bit v n && on then disableRing d n else d) d

/-- A doorbell index outside its ring is discarded with DOORBELL_ERROR (R64). A doorbell of a ring that is not enabled is discarded without it, whatever its
index: DESIGN CHOICE, the spec is silent (log entry 100). -/
def doorbell (d : Dev) (n v : Nat) : Dev :=
  let i := v % 0x10000
  let r := d.win.ring n
  if !r.enabled then d
  else if r.entries ≤ i then modWin d (fun w => { w with doorbellError := true })
  else if n = 0 then modRing d 0 (fun r => { r with tail := i })
  else flushHeld (modRing d n (fun r => { r with head := i }))

/-- A write to a BASE register: discarded while the ring is enabled (R67); the low 12 bits are reserved. -/
def writeBase (d : Dev) (n v : Nat) : Dev := if (d.win.ring n).enabled then d else modRing d n (fun r => { r with base := wrap 64 v / 4096 * 4096 })

/-- A write to a SIZE register. -/
def writeSize (d : Dev) (n v : Nat) : Dev := if (d.win.ring n).enabled then d else modRing d n (fun r => { r with size := v % 32 })

/-- Writing 1 to FAULT_LATCH.VALID clears the whole register (R64, R66). -/
def clearLatch (d : Dev) : Dev :=
  modWin d (fun w => { w with latchValid := false, latchSlot := 0, latchDie := 0, latchLater := 0, latchCode := 0 })

/-- A write to a 64-bit register takes effect. -/
def writeWide (d : Dev) (off v : Nat) : Dev :=
  if off = 0x010 then writeBase d 0 v
  else if off = 0x028 then writeBase d 1 v
  else if off = 0x040 then writeBase d 2 v
  else if off = 0x060 then (if bit v 63 then clearLatch d else d)
  else d

/-- A write to RESET_CTL (R65): any other key is discarded. -/
def writeResetCtl (d : Dev) (v : Nat) : Dev := if field v 31 16 = 0xA5C3 ∧ bit v 0 then fullReset d 2 else d

/-- A 32-bit write (R64): to half of a 64-bit register, low word first; else to a 32-bit register; unlisted offsets discard. -/
def writeReg32 (d : Dev) (off v : Nat) : Dev :=
  if wideRegs.contains off then modWin d (fun w => { w with lowHold := assocSet w.lowHold off (wrap 32 v) })
  else if decide (4 ≤ off) && wideRegs.contains (off - 4) then
    let lo := (assocGet d.win.lowHold (off - 4)).getD (wrap 32 (readWide d (off - 4)))
    writeWide (modWin d (fun w => { w with lowHold := assocDel w.lowHold (off - 4) })) (off - 4) (wrap 32 v * pow2 32 + lo)
  else
    match off with
    | 0x018 => writeSize d 0 v
    | 0x020 => doorbell d 0 v
    | 0x030 => writeSize d 1 v
    | 0x038 => doorbell d 1 v
    | 0x048 => writeSize d 2 v
    | 0x050 => doorbell d 2 v
    | 0x058 => writeRingEnable d v
    | 0x070 => writeResetCtl d v
    | _ => d

/-- Counts a register access answered with ERROR or discarded (14 R370). -/
def refuseReg (d : Dev) : Dev :=
  match hostPort d with
  | some p => modPort d p (fun l => { l with counts := { l.counts with regRefused := l.counts.regRefused + 1 } })
  | none => d

/-- An access is well placed: 4 or 8 bytes, at a multiple of its length, inside the window (14 R370). -/
def regAligned (off len : Nat) : Bool := (decide (len = 4) || decide (len = 8)) && decide (off % len = 0) && decide (off + len ≤ 0x1000)

/-- A host write to the register window. A 64-bit write on 32-bit registers is taken as two, low word first. While no port is up the adapter discards
it (14 R375). -/
def writeReg (d : Dev) (off len v : Nat) : Dev :=
  if !windowUp d then d
  else if !regAligned off len then refuseReg d
  else if len = 8 then (if wideRegs.contains off then writeWide d off (wrap 64 v) else writeReg32 (writeReg32 d off (wrap 32 v)) (off + 4) (v >>> 32))
  else writeReg32 d off (wrap 32 v)

/-- REG_WRITE (R64, R370). -/
def execRegWrite (off len value : Nat) (s : State) : Host.Outcome State Fault Refusal := runDev s (fun _ d => .next (writeReg d off len value))

/-- The driver's stores, made visible before a doorbell (R69, 12 R327). -/
def hostStores (d : Dev) (stores : List (Nat × Bytes)) : Dev :=
  { d with posted := d.posted ++ (stores.filter (fun x => decide (x.1 + x.2.length ≤ pow2 57))).map (fun x => .write (hostBase + x.1) x.2) }

/-- CMD_DOORBELL (R69). -/
def execCmdDoorbell (stores : List (Nat × Bytes)) (value : Nat) (s : State) : Host.Outcome State Fault Refusal :=
  runDev s (fun _ d => .next (writeReg (hostStores d stores) 0x020 4 value))

/-- CPL_DOORBELL (R70). -/
def execCplDoorbell (value : Nat) (s : State) : Host.Outcome State Fault Refusal := runDev s (fun _ d => .next (writeReg d 0x038 4 value))

/-- EVT_DOORBELL (R73). -/
def execEvtDoorbell (value : Nat) (s : State) : Host.Outcome State Fault Refusal := runDev s (fun _ d => .next (writeReg d 0x050 4 value))

/-- RING_ENABLE_SET (R67): the bits of `value` go to 1; the other bits are written as they read. -/
def execRingEnableSet (value : Nat) (s : State) : Host.Outcome State Fault Refusal :=
  runDev s (fun _ d => .next (writeReg d 0x058 4 (ringEnables d.win ||| value % 8)))

/-- RING_DISABLE (R68): the bits of `value` go to 0; the other bits are written as they read. -/
def execRingDisable (value : Nat) (s : State) : Host.Outcome State Fault Refusal :=
  runDev s (fun _ d => .next (writeReg d 0x058 4 (ringEnables d.win &&& (7 - value % 8))))

/-- FAULT_LATCH_CLEAR (R66): a 64-bit write of VALID. -/
def execFaultLatchClear (s : State) : Host.Outcome State Fault Refusal := runDev s (fun _ d => .next (writeReg d 0x060 8 (pow2 63)))

/-- FULL_RESET (R65): a write to RESET_CTL; the root die acts on it. -/
def execFullReset (value : Nat) (s : State) : Host.Outcome State Fault Refusal := runDev s (fun _ d => .next (writeReg d 0x070 4 value))

/-- Answers a register read. -/
def answerRead (d : Dev) (v : Nat) : Dev := send (modWin d (fun w => { w with lastRead := v })) (.regData v false)

/-- EVT_LOST_READ (R64 RC): the count, which clears. With no port up the adapter answers all ones and the register stays (14 R375). -/
def execEvtLostRead (s : State) : Host.Outcome State Fault Refusal :=
  runDev s (fun _ d => .next (if windowUp d then modWin (answerRead d d.win.evtLost) (fun w => { w with evtLost := 0 }) else answerRead d 0xFFFFFFFF))

/-- What a 32-bit read leaves (R6, R64): a low word's read captures the high word, the next read of that high word uses the capture up, and a read of
EVT_LOST clears it. -/
def readLeaves (d : Dev) (off : Nat) : Dev :=
  if wideRegs.contains off then modWin d (fun w => { w with highCap := assocSet w.highCap off (readWide d off >>> 32) })
  else if decide (4 ≤ off) && wideRegs.contains (off - 4) then modWin d (fun w => { w with highCap := assocDel w.highCap (off - 4) })
  else if off = 0x054 then modWin d (fun w => { w with evtLost := 0 })
  else d

/-- REG_READ_LOW_WORD (R64; 14 R369, R370): a 32-bit read of a 64-bit register's low word captures the high word for the next read of it; a 64-bit read
answers both words at once, of two 32-bit registers the lower one first. -/
def regReadLow (off len : Nat) (d : Dev) : Dev :=
  if !windowUp d then answerRead d (if len = 8 then pow2 64 - 1 else 0xFFFFFFFF)
  else if !regAligned off len then refuseReg (send d (.regData 0 true))
  else if len = 8 then
    (if wideRegs.contains off then answerRead d (readWide d off)
     else
       let low := readLeaves d off
       answerRead (readLeaves low (off + 4)) (readReg32 d off + pow2 32 * readReg32 low (off + 4)))
  else answerRead (readLeaves d off) (readReg32 d off)

/-- REG_READ_LOW_WORD. -/
def execRegReadLowWord (off len : Nat) (s : State) : Host.Outcome State Fault Refusal := runDev s (fun _ d => .next (regReadLow off len d))

/-- The rings are served: not in BOOTING, not in D3 (R84). -/
def served (d : Dev) : Bool := decide (d.power.state ≠ .booting) && decide (d.power.state ≠ .d3)

/-- Commands of the rings in progress. -/
def ringCmds (w : Window) : List Cmd := w.inProg.filter (fun c => !c.chain)

/-- The HY-2 may fetch the next slot (R68, R70, 14 R376). -/
def canFetch (d : Dev) : Bool :=
  let w := d.win
  served d && (hostPort d).isSome && w.cmd.live && w.cpl.live && decide (w.cmd.head ≠ w.cmd.tail) && decide ((ringCmds w).length < 32) &&
  decide ((ringCmds w).length < w.cpl.room)

/-- Reads a command slot (R77). -/
def readSlot (b : Bytes) (index : Nat) : Cmd :=
  { index := index, opcode := u16at b 0, rsv := u8at b 2, slot := u8at b 3, cmdId := u32at b 4, dataAddr := u64at b 8, dataBytes := u32at b 0x10,
    respBytes := u32at b 0x14, respAddr := u64at b 0x18, body := slice b 0x20 224 }

/-- COMMAND_FETCH (R70): the slot at CMD_HEAD is read whole; a fetch that the host memory system fails completes with HOST_ACCESS_ERROR (14 R371);
its completion carries CMD_ID and OPCODE 0 and JOB_SLOT 0xFF: DESIGN CHOICE, the spec is silent (log entry 100). -/
def commandFetch (gaps : List (Nat × Nat)) (m : Memory) (d : Dev) : Dev :=
  let d := { d with hostGaps := gaps }
  let r := d.win.cmd
  let a := r.base + 256 * r.head
  let d := modRing d 0 (fun r => { r with head := (r.head + 1) % r.entries })
  if hostOk d a 256 then modWin d (fun w => { w with inProg := w.inProg ++ [readSlot (hostRead m a 256) r.head] })
  else complete d { index := r.head } 0x0007 a [] 0xFF

/-- COMMAND_FETCH. -/
def execCommandFetch (gaps : List (Nat × Nat)) (s : State) : Host.Outcome State Fault Refusal :=
  runDev s (fun m d => onlyIf (canFetch d) (commandFetch gaps m d))

/-- A notify may be sent: entries to announce, a port up, 2 µs since the last of this ring (R74). -/
def canNotify (d : Dev) (ring : Nat) : Bool :=
  let r := d.win.ring (ring + 1)
  r.announce && (hostPort d).isSome && decide ((r.notified.map (· + 2000)).getD 0 ≤ d.time)

/-- NOTIFY (R74): ring 0 is the completion ring, 1 the event ring. -/
def notify (ring : Nat) (d : Dev) : Dev :=
  let p := (hostPort d).getD 0
  let d := modPort d p (fun l => l.sendSlots 1)
  let d := send d (.notify p ring (d.win.ring (ring + 1)).tail)
  modRing d (ring + 1) (fun r => { r with announce := false, notified := some d.time })

/-- NOTIFY. -/
def execNotify (ring : Nat) (s : State) : Host.Outcome State Fault Refusal :=
  runDev s (fun _ d => if 2 ≤ ring then .fault .noSuchUnit else onlyIf (canNotify d ring) (notify ring d))

/-- The read-back of a ring's memory returns: a ring being disabled is disabled now (R68). -/
def ringReadBack (n : Nat) (d : Dev) : Dev :=
  modRing d n (fun r => if r.disabling then { r with enabled := false, disabling := false, unread := false } else { r with unread := false })

end Sys2Proof.Machine
end

