-- ==== Sys2Proof/Machine/Mailbox.lean ====
section
/-!
DEFINITION. How Oluat serves a command: the checks every command meets, its effect, its completion (03 R71, R72, R77 to R85, R89).
-/

namespace Sys2Proof.Machine

open Sys2Proof

/-- INVALID_FIELD for a field of the request: area 8, condition 0 (log entry 10), byte offset. -/
def badField (off : Nat) : Option (Nat × Nat) := some (0x0002, pow2 59 + off)

/-- BAD_STATE with its DETAIL: device and job state (R79). -/
def badState (d : Dev) (slot : Nat) : Option (Nat × Nat) := some (0x0003, 256 * d.power.state.code + (getJob d slot).state.code)

/-- What a command is, for the checks all commands share. -/
structure CmdKind where
  /-- It names a job slot in the header (R77). -/
  job : Bool := false
  /-- It may name 0xFF in place of a slot (JOB_REBIND's free pool). -/
  slotOrPool : Bool := false
  /-- Served in RECOVERY, and in D2 (R84). -/
  inRecovery : Bool := false
  inD2 : Bool := false
  /-- Job states in which it is legal (R89); empty where the state is not checked here. -/
  states : List JState := []
  /-- It takes request data. -/
  data : Bool := false
  /-- Body bytes in use: offset and length. -/
  body : List (Nat × Nat) := []
  /-- Response bytes it needs. -/
  resp : Nat := 0
  /-- Its response size depends on the request (MONITOR_READ). -/
  respVar : Bool := false
  deriving DecidableEq, Repr

/-- All states of a job in a slot. -/
def anyJob : List JState := [.loaded, .running, .suspended, .restarting, .held, .stopped, .finished]

/-- The kinds of the command catalogue (R79 to R89); none for a reserved code (00 R10). DESIGN CHOICE, where the spec is silent (log entry 100): JOB_LOAD
names no slot and so must carry JOB_SLOT 0xFF; JOB_QUERY of a FREE slot, for which R89 has no column, answers BAD_STATE. -/
def cmdKind (op : Nat) : Option CmdKind :=
  match op with
  | 0x0001 => some { inRecovery := true, inD2 := true, resp := 256 }
  | 0x0002 => some { inRecovery := true, inD2 := true, body := [(0, 32)], resp := 8192 }
  | 0x0010 => some { data := true, body := [(0, 16)], resp := 16 }
  | 0x0011 => some { job := true, states := [.loaded, .held, .stopped], body := [(0, 1)], resp := 8 }
  | 0x0013 => some { job := true, states := [.running, .suspended, .restarting, .held] }
  | 0x0014 => some { job := true, inD2 := true, states := anyJob, resp := 128 }
  | 0x0015 => some { job := true, states := [.running], resp := 16 }
  | 0x0016 => some { job := true, states := [.running, .held, .stopped], body := [(0, 1)], resp := 8 }
  | 0x0017 => some { job := true, slotOrPool := true, body := [(0, 2), (4, 4)], resp := 32 }
  | 0x0018 => some { job := true, inD2 := true, states := [.loaded, .held, .stopped, .finished], body := [(0, 1)] }
  | 0x0019 => some { job := true, inD2 := true, states := anyJob, body := [(0, 1), (4, 8)], resp := 16 }
  | 0x001A => some { job := true, states := [.loaded, .running], body := [(0, 6), (8, 4)] }
  | 0x0020 => some { job := true, states := [.loaded, .running], body := [(0, 5)], resp := 8 }
  | 0x0021 => some { job := true, states := [.running, .suspended, .restarting], body := [(0, 2)] }
  | 0x0022 => some { job := true, states := [.running, .suspended, .restarting], body := [(0, 2), (8, 8)] }
  | 0x0030 => some { job := true, states := [.loaded, .held, .stopped, .finished], body := [(0, 3), (8, 16)], resp := 8 }
  | 0x0031 => some { job := true, inD2 := true, states := [.loaded, .held, .stopped, .finished], body := [(0, 2)] }
  | 0x0040 => some { inD2 := true, body := [(0, 1), (8, 24)] }
  | 0x0041 => some { inD2 := true, resp := 64 }
  | 0x0042 => some { body := [(0, 1)] }
  | 0x0043 => some { body := [(0, 2)] }
  | 0x0050 => some { inD2 := true, body := [(0, 4)], respVar := true }
  | 0x0051 => some { inD2 := true, body := [(0, 3), (4, 8)] }
  | 0x0060 => some { resp := 8 }
  | 0x0061 => some { body := [(0, 2)] }
  | 0x0062 => some { body := [(0, 3), (4, 4)] }
  | 0x0063 => some { inD2 := true, resp := 2304 }
  | 0x0064 => some { body := [(0, 1), (8, 32)] }
  | 0x0070 => some { inRecovery := true, inD2 := true, data := true, body := [(0, 1)] }
  | 0x0071 => some { inD2 := true, body := [(0, 1)] }
  | 0x0080 => some { job := true, states := [.loaded, .stopped], data := true, body := [(0, 2), (4, 4)] }
  | 0x0081 => some { job := true, states := [.loaded, .running, .suspended], data := true, body := [(0, 2), (4, 4)] }
  | 0x0090 => some { body := [(0, 3)], resp := 16 }
  | 0x00F0 => some { inD2 := true, body := [(0, 4)] }
  | _ => none

/-- A body byte lies in no field. -/
def bodyByteFree (k : CmdKind) (i : Nat) : Bool := !(k.body.any (fun f => decide (f.1 ≤ i) && decide (i < f.1 + f.2)))

/-- The offset of the first body byte outside the command's fields that is not zero: DESIGN CHOICE, such a byte counts as reserved (00 R8; log entry 100). -/
def bodyReserved (k : CmdKind) (b : Bytes) : Option Nat := (List.range 224).find? (fun i => bodyByteFree k i && u8at b i != 0)

/-- Request data of a command. -/
def cmdData (m : Memory) (c : Cmd) : Bytes := if c.chain then c.data else hostRead m c.dataAddr c.dataBytes

/-- The checks every command meets, in this order (log entry 10): device state, header, body, job state, buffers. -/
def cmdCheck (d : Dev) (c : Cmd) (k : CmdKind) : Option (Nat × Nat) :=
  if d.power.state = .recovery ∧ !k.inRecovery then some (0x000D, 0)
  else if d.power.state = .d2 ∧ !k.inD2 then badState d c.slot
  else if c.rsv ≠ 0 then badField 0x02
  else if k.job ∧ 63 < c.slot ∧ !(k.slotOrPool ∧ c.slot = 0xFF) then badField 0x03
  else if !k.job ∧ c.slot ≠ 0xFF then badField 0x03
  else if !k.data ∧ (c.dataAddr ≠ 0 ∨ c.dataBytes ≠ 0) then badField 0x08
  else if c.respAddr % 64 ≠ 0 ∨ (c.respBytes = 0 ∧ c.respAddr ≠ 0) then badField 0x18
  else if k.resp = 0 ∧ !k.respVar ∧ c.respBytes ≠ 0 then badField 0x14
  else if pow2 57 < c.dataAddr + c.dataBytes then badField 0x08
  else if pow2 57 < c.respAddr + c.respBytes then badField 0x18
  else
    match bodyReserved k c.body with
    | some i => badField i
    | none =>
      if k.states ≠ [] ∧ !k.states.contains (getJob d c.slot).state then badState d c.slot
      else if c.respBytes < k.resp then some (0x0008, k.resp)
      else if k.data ∧ !c.chain ∧ !hostOk d c.dataAddr c.dataBytes then some (0x0007, c.dataAddr)
      else if c.respBytes ≠ 0 ∧ !c.chain ∧ !hostOk d c.respAddr c.respBytes then some (0x0007, c.respAddr)
      else none

/-- A command of the catalogue: its own check after the shared ones, and its effect with the response; no response where its protocol completes it later.
`after` follows the completion. -/
structure Service where
  opcode : Nat
  check : Memory → Dev → Cmd → Option (Nat × Nat)
  act : Memory → Dev → Cmd → Dev × Option Bytes
  after : Dev → Cmd → Dev := fun d _ => d
  slotOf : Cmd → Bytes → Nat := fun c _ => c.slot

/-- Why a command is turned away, if it is (R79). -/
def Service.refuses (sv : Service) (m : Memory) (d : Dev) (c : Cmd) : Option (Nat × Nat) :=
  match cmdKind sv.opcode with
  | none => some (0x0001, 0)
  | some k =>
    match cmdCheck d c k with
    | some r => some r
    | none => sv.check m d c

/-- A job command in D1 first returns the device to D0 (R85). -/
def wakeD0 (d : Dev) (op : Nat) : Dev :=
  if d.power.state = .d1 ∧ ((cmdKind op).map (·.job)).getD false || d.power.state = .d1 ∧ op = 0x0010 then { d with power := { d.power with state := .d0 } } else d

/-- Marks a command as having taken effect. -/
def acceptCmd (d : Dev) (c : Cmd) : Dev :=
  modWin d (fun w => { w with inProg := w.inProg.map (fun x => if x.index == c.index && x.chain == c.chain then { x with accepted := true } else x) })

/-- Serves a command: a failing one has no effect but its completion (R79). -/
def Service.run (sv : Service) (m : Memory) (d : Dev) (c : Cmd) : Dev :=
  match sv.refuses m d c with
  | some (st, dt) => complete d c st dt [] c.slot
  | none =>
    match sv.act m (wakeD0 d sv.opcode) c with
    | (d, some resp) => sv.after (complete d c 0 0 resp (sv.slotOf c resp)) c
    | (d, none) => acceptCmd d c

/-- The job slots a command names (R71): the header's, and the recipient of JOB_REBIND. -/
def Cmd.slots (c : Cmd) : List Nat := (c.slot :: (if c.opcode = 0x0017 then [u8at c.body 0] else [])).filter (fun s => decide (s < 64))

/-- An earlier command in progress names the same slot (R71). -/
def earlierOnSlot (w : Window) (c : Cmd) : Bool :=
  ((ringCmds w).takeWhile (fun x => !(x.index == c.index))).any (fun x => x.slots.any (fun s => c.slots.contains s))

/-- The command waits (R71): behind an earlier one of its slot, except JOB_QUERY and PLACEMENT_QUERY; or no port is up to answer through. -/
def mustWait (d : Dev) (c : Cmd) : Bool :=
  (hostPort d).isNone || (decide (c.opcode ≠ 0x0014) && decide (c.opcode ≠ 0x0019) && earlierOnSlot d.win c)

/-- The ring command in progress with a ring index, not yet accepted. -/
def findCmd (d : Dev) (idx : Nat) : Option Cmd := d.win.inProg.find? (fun c => c.index == idx && !c.chain && !c.accepted)

/-- Serves the ring command with a ring index: it must be in progress and carry the row's code; while it must wait nothing changes. -/
def serve (sv : Service) (idx : Nat) (m : Memory) (d : Dev) : DevOut :=
  match findCmd d idx with
  | none => noEvent
  | some c =>
    if c.opcode ≠ sv.opcode ∨ !served d then noEvent
    else if mustWait d c then .next d
    else .next (sv.run m d c)

/-- UNKNOWN_COMMAND (00 R10): a reserved code completes and does nothing else. -/
def unknownCommand (idx : Nat) (d : Dev) : DevOut :=
  match findCmd d idx with
  | none => noEvent
  | some c =>
    if (cmdKind c.opcode).isSome ∨ !served d then noEvent
    else if (hostPort d).isNone then .next d
    else .next (complete d c 0x0001 0 [] c.slot)

/-- UNKNOWN_COMMAND. -/
def execUnknownCommand (idx : Nat) (s : State) : Host.Outcome State Fault Refusal := runDev s (fun _ d => unknownCommand idx d)

end Sys2Proof.Machine
end

