-- ==== Sys2Proof/Machine/MoverOps.lean ====
section
/-!
DEFINITION. Mover engines and channels: lookup, bus errors, the sliver path's condition (12 R304, R305, R323, R325, R326).
-/

namespace Sys2Proof.Machine

open Sys2Proof

/-- An engine's state; one not listed is as at reset. -/
def getEngine (d : Dev) (e : Nat) : Engine := (assocGet d.movers.engines e).getD {}

/-- A channel's state; one not listed is idle. -/
def getChan (d : Dev) (e c : Nat) : Chan := (assocGet d.movers.chans (e, c)).getD {}

/-- Writes an engine. -/
def setEngine (d : Dev) (e : Nat) (x : Engine) : Dev := { d with movers := { d.movers with engines := assocSet d.movers.engines e x } }

/-- Writes a channel. -/
def setChan (d : Dev) (e c : Nat) (x : Chan) : Dev := { d with movers := { d.movers with chans := assocSet d.movers.chans (e, c) x } }

/-- The compute die of an engine: it borders the engine's stack (R304, 16 R414). -/
def engineDie (e : Nat) : Nat := e / 4

/-- The resource of a channel (R304). -/
def chanRes (e c : Nat) : Res := { kind := 6, die := engineDie e, index := 64 * (e % 4) + c }

/-- The lowest channel of an engine that a job holds. -/
def lowestChan (j : Job) (e : Nat) : Option Nat := (List.range 63).find? (fun c => j.units.contains (chanRes e c))

/-- SLIVER_EN (R323): in normal service, no DIAG_RUN in progress on the engine's die, and no job that holds a channel of the engine RESTARTING. -/
def sliverOn (d : Dev) (e : Nat) : Bool :=
  decide (d.power.state ≠ .booting) && decide (d.power.state ≠ .recovery) && decide (d.power.state ≠ .d3) &&
  !(d.win.inProg.any (fun c => c.opcode == 0x0090 && u8at c.body 2 == engineDie e)) &&
  !(d.jobs.any (fun j => decide (j.state = .restarting) && (lowestChan j e).isSome))

/-- MOVER_CTL as Oluat reads it (R305). -/
def moverCtl (d : Dev) (e : Nat) : Nat :=
  let g := getEngine d e
  let act := ((List.range 64).filter (fun c => decide ((getChan d e c).state ≠ 0))).length
  b2n (strapCompat d.root.straps) + 2 * b2n (sliverOn d e) + 8 * b2n g.stopped + 16 * b2n g.draining + pow2 8 * act + pow2 16 * e

/-- OWNER of a channel (R305): the job that holds it, Oluat, or none. -/
def chanOwner (d : Dev) (e c : Nat) : Nat := if c = 63 then 0xFE else (d.jobs.findIdx? (fun j => j.units.contains (chanRes e c))).getD 0xFF

/-- CHAN_STATUS as Oluat reads it (R305). -/
def chanStatus (d : Dev) (e c : Nat) : Nat :=
  let x := getChan d e c
  x.pc % 256 + pow2 16 * chanOwner d e c + pow2 27 * b2n x.waiting + pow2 28 * b2n x.held.isSome + pow2 29 * b2n x.pending.isSome + pow2 30 * x.state

/-- The job slot and job-local queue that a physical queue serves (02 R46). -/
def physQueue (d : Dev) (q : Nat) : Option (Nat × Nat) :=
  (List.range 64).findSome? (fun s =>
    let j := getJob d s
    if j.image.queues.isEmpty then none else (j.phys.findIdx? (· == q)).map (fun i => (s, i % j.image.queues.length)))

/-- The queue that an instruction of a program names. -/
def instrQueue (d : Dev) (i : MInstr) : Option (Nat × Nat) :=
  match i with
  | .move f _ _ _ q => if bit f 3 || bit f 2 then physQueue d q else none
  | _ => none

/-- DETAIL of a mover fault (R330). -/
def moverDetail (source engine channel pc : Nat) : Nat := pow2 24 * source + pow2 16 * engine + pow2 8 * channel + pc

/-- The source number of a bus error by the memory that failed (R330, 13 R351). -/
def memSource (a : Nat) : Nat := if a < hbmEnd then 1 else if tierBase ≤ a ∧ a < sramBase then 2 else 5

/-- The slots whose data an engine's channel 63 was moving (R326). -/
def oluatSlots (d : Dev) (c : Chan) : List Nat := ((c.arm.srcQueue.toList ++ c.arm.prog.filterMap (instrQueue d)).map (·.1))

/-- Reads that a channel has outstanding. -/
def chanReads (d : Dev) (e c : Nat) : List ReadReq :=
  ((d.ports.map (·.reads)).flatten ++ d.hedge.reads).filter (fun r => r.reader == .mover e c)

/-- An engine has a read outstanding (R305). -/
def engineReads (d : Dev) (e : Nat) : Bool := (List.range 64).any (fun c => !(chanReads d e c).isEmpty)

/-- A bus error of an engine (R325, R326): every channel stops, held bursts and pending arms are discarded, and 0x0401 is raised in every job that
holds a channel of it. -/
def busError (d : Dev) (e source addr : Nat) : Dev :=
  let own := oluatSlots d (getChan d e 63)
  let stop (x : (Nat × Nat) × Chan) : (Nat × Nat) × Chan :=
    if x.1.1 = e then (x.1, { x.2 with state := 3, pending := none, held := none, stage := [], sentWr := [], waiting := false }) else x
  let d := { d with movers := { d.movers with chans := d.movers.chans.map stop } }
  let d := setEngine d e { (getEngine d e) with stopped := true, draining := true, since := d.time }
  (List.range 64).foldl (fun d s =>
    match lowestChan (getJob d s) e with
    | some c => jobFault d { code := 0x0401, slot := s, die := engineDie e, detail := moverDetail source e c 0, detail2 := addr }
    | none =>
      if own.contains s && decide ((getJob d s).state ≠ .free) then
        jobFault d { code := 0x0401, slot := s, die := engineDie e, detail := moverDetail source e 63 0, detail2 := addr }
      else d) d

/-- MOVER_BUS_ERROR (R325). -/
def execMoverBusError (engine source addr : Nat) (s : State) : Host.Outcome State Fault Refusal :=
  runDev s (fun _ d =>
    if 96 ≤ engine then .fault .noSuchUnit
    else onlyIf (decide (1 ≤ source) && decide (source ≤ 5) && !(getEngine d engine).stopped) (busError d engine source addr))

/-- MOVER_DRAIN_COMPLETE (R325 step 3): the last outstanding read has returned. -/
def execMoverDrainComplete (engine : Nat) (s : State) : Host.Outcome State Fault Refusal :=
  runDev s (fun _ d =>
    if 96 ≤ engine then .fault .noSuchUnit
    else onlyIf ((getEngine d engine).draining && !engineReads d engine) (setEngine d engine { (getEngine d engine) with draining := false }))

/-- DRAIN_TIMEOUT (R326): FFLAGS[1] is set for the jobs of the engine, and the device takes a full reset. -/
def drainTimeout (e : Nat) (d : Dev) : Dev :=
  let own := oluatSlots d (getChan d e 63)
  let slots := (List.range 64).filter (fun s => (lowestChan (getJob d s) e).isSome || (own.contains s && decide ((getJob d s).state ≠ .free)))
  needReset (slots.foldl (fun d s =>
    reportFault d { code := 0x0401, slot := s, die := engineDie e, fflags := 2, detail := moverDetail 0 e ((lowestChan (getJob d s) e).getD 63) 0 }) d)

/-- DRAIN_TIMEOUT: DRAINING still set 1 ms after the bus error. -/
def execDrainTimeout (engine : Nat) (s : State) : Host.Outcome State Fault Refusal :=
  runDev s (fun _ d => if 96 ≤ engine then .fault .noSuchUnit else onlyIf (getEngine d engine).draining (drainTimeout engine d))

/-- Writing CLEAR while STOPPED is set and DRAINING is clear returns every channel to idle (R305); otherwise nothing happens. -/
def moverClear (e : Nat) (d : Dev) : Dev :=
  let g := getEngine d e
  if g.stopped && !g.draining then
    let d := { d with movers := { d.movers with chans := d.movers.chans.filter (fun x => decide (x.1.1 ≠ e)) } }
    setEngine d e {}
  else d

/-- MOVER_CLEAR (R305, R326). -/
def execMoverClear (engine : Nat) (s : State) : Host.Outcome State Fault Refusal :=
  runDev s (fun _ d => if 96 ≤ engine then .fault .noSuchUnit else .next (moverClear engine d))

end Sys2Proof.Machine
end

