-- ==== Sys2Proof/Machine/HedgeOps.lean ====
section
/-!
DEFINITION. Routes, escape links and reachability of the hedge (15 R387, R392 to R396) and the partition of a job (04 R130).
-/

namespace Sys2Proof.Machine

open Sys2Proof

/-- A hedge link is verified (15 R387): it is up and the identity exchange passed. -/
def Link.isVerified (l : Link) : Bool := l.up && l.peer.verified

/-- A hedge link is admitted (15 R387): approved at both ends. -/
def Link.isAdmitted (l : Link) : Bool := l.isVerified && l.peer.approved && l.peer.peerApproves

/-- Every job slot is FREE. -/
def allFree (d : Dev) : Bool := d.jobs.all (fun j => decide (j.state = .free))

/-- This device's own record of its links (15 R390, R395). -/
def ownRecord (d : Dev) : TopoRec :=
  { digest := ownDigest d, addr := d.hedge.addr, level := d.hedge.level, seqNo := d.hedge.ownSeq, root := strapHedgeRoot d.root.straps, free := allFree d,
    links := (d.links.zipIdx.filter (fun x => x.1.isVerified)).map (fun x => { link := x.2, peer := x.1.peer.digest, verified := true, admitted := x.1.isAdmitted }) }

/-- An edge of the hedge graph: from and to node, link number at the near end, admitted. -/
structure Edge where
  a : Nat
  b : Nat
  link : Nat
  admitted : Bool
  deriving DecidableEq, Repr

/-- The known devices, this one first. -/
def hedgeNodes (d : Dev) : List TopoRec := ownRecord d :: d.hedge.topo.filter (fun t => !(t.digest == ownDigest d))

/-- The edges among known devices. -/
def hedgeEdges (ns : List TopoRec) : List Edge :=
  (ns.zipIdx.map (fun (n, i) => n.links.filterMap (fun k =>
    match ns.findIdx? (fun m => m.digest == k.peer) with
    | some j => if k.verified then some { a := i, b := j, link := k.link, admitted := k.admitted } else none
    | none => none))).flatten

/-- The smaller of two optional numbers. -/
def minOpt (x y : Option Nat) : Option Nat :=
  match x, y with
  | some a, some b => some (min a b)
  | some a, none => some a
  | none, y => y

/-- One round of relaxation: each node's distance by its edges. -/
def relax (es : List Edge) (ds : List (Option Nat)) : List (Option Nat) :=
  ds.zipIdx.map (fun (x, i) => es.foldl (fun acc e => if e.a = i then minOpt acc ((ds.getD e.b none).map (· + 1)) else acc) x)

/-- Distances to a node over edges, in as many rounds as there are nodes. -/
def distances (es : List Edge) : Nat → List (Option Nat) → List (Option Nat)
  | 0, ds => ds
  | n + 1, ds => distances es n (relax es ds)

/-- Distance 0 at one node. -/
def startAt (n j : Nat) : List (Option Nat) := (List.range n).map (fun i => if i = j then some 0 else none)

/-- The rank of a device (15 R393): level, then address. -/
def rankOf (n : TopoRec) : Nat := n.level * 0x10000 + n.addr.getD 0xFFFF

/-- An edge leads to a lower rank. -/
def edgeUp (ns : List TopoRec) (e : Edge) : Bool := decide (rankOf (ns.getD e.b { digest := [] }) < rankOf (ns.getD e.a { digest := [] }))

/-- Of candidates (distance, link) the nearest, ties to the lowest link. -/
def bestLink (cs : List (Option Nat × Nat)) : Option Nat :=
  (cs.foldl (fun acc c =>
    match c.1 with
    | none => acc
    | some x =>
      match acc with
      | none => some (x, c.2)
      | some (y, l) => if x < y ∨ (x = y ∧ c.2 < l) then some (x, c.2) else acc) (none : Option (Nat × Nat))).map (·.2)

/-- The escape link toward node `j` (15 R393): zero or more up links, then zero or more down links, over admitted links. -/
def escapeLink (ns : List TopoRec) (es : List Edge) (j : Nat) : Option Nat :=
  let es := es.filter (fun e => e.admitted && (ns.getD e.a { digest := [] }).addr.isSome && (ns.getD e.b { digest := [] }).addr.isSome)
  let downs := es.filter (fun e => !edgeUp ns e)
  let ups := es.filter (edgeUp ns)
  let dd := distances downs ns.length (startAt ns.length j)
  let du := distances ups ns.length dd
  bestLink ((es.filter (fun e => e.a = 0)).map (fun e => ((if edgeUp ns e then du else dd).getD e.b none, e.link)))

/-- The adaptive alternatives toward node `j` (15 R392): up to 4 links, from the lowest, on shortest paths over verified links. -/
def altLinks (ns : List TopoRec) (es : List Edge) (j : Nat) : List Nat :=
  let ds := distances es ns.length (startAt ns.length j)
  match ds.getD 0 none with
  | none => []
  | some n => (sortBy id ((es.filter (fun e => e.a = 0 && (ds.getD e.b none).map (· + 1) == some n)).map (·.link))).take 4

/-- A link still serves as an escape link: it has not gone down (15 R393). -/
def escapeHolds (d : Dev) (r : Route) : Bool :=
  match r.escape with
  | some l => (d.links.getD l {}).isAdmitted
  | none => false

/-- The routing entries (15 R392, R393, R395): manual alternatives stay; an escape link stays until it goes down. -/
def routesOf (d : Dev) : List (Nat × Route) :=
  let ns := hedgeNodes d
  let es := hedgeEdges ns
  let fromTopo := (ns.zipIdx.drop 1).filterMap (fun (n, j) =>
    match n.addr with
    | none => none
    | some a =>
      let old := (assocGet d.hedge.routes a).getD {}
      some (a, { alts := if old.manual then old.alts else altLinks ns es j, manual := old.manual,
                 escape := if escapeHolds d old then old.escape else escapeLink ns es j : Route }))
  fromTopo ++ d.hedge.routes.filter (fun r => r.2.manual && !(fromTopo.any (fun x => x.1 == r.1)))

/-- The address conflicts a set of records shows (15 R391): an address held by two digests. -/
def conflictsOf (ns : List TopoRec) : List Nat :=
  (ns.filterMap (·.addr)).eraseDups.filter (fun a => decide (1 < (ns.filter (fun n => n.addr == some a)).length))

/-- The reachable addresses (15 R396): the own address always; others with an escape path over admitted links; a conflicting address is not (R391). -/
def reachOf (d : Dev) (routes : List (Nat × Route)) : List Nat :=
  sortBy id ((d.hedge.addr.toList ++ (routes.filter (fun r => r.2.escape.isSome && !d.hedge.conflicts.contains r.1)).map (·.1)).eraseDups)

/-- The lowest participant of a job that is not reachable. -/
def lostPeer (d : Dev) (j : Job) : Option Nat :=
  if j.participants.length ≤ 1 then none else (sortBy id (j.participants.filter (fun a => !d.hedge.reach.contains a))).head?

/-- Jobs whose participant became unreachable stop at their last commit (04 R130). -/
def partitionJobs (d : Dev) : Dev :=
  (List.range 64).foldl (fun d s =>
    let j := getJob d s
    if j.state = .running ∨ j.state = .suspended then
      match lostPeer d j with
      | some a => jobFault d { code := 0x0C26, slot := s, fflags := 4, detail := a }
      | none => d
    else d) d

/-- Recomputes routes and reachability after a change (15 R391, R395, R396): a change of bits writes a REACHABILITY event; then jobs may be partitioned. -/
def reroute (d : Dev) : Dev :=
  let routes := routesOf d
  let d := { d with hedge := { d.hedge with conflicts := conflictsOf (hedgeNodes d) } }
  let reach := reachOf d routes
  let old := d.hedge.reach
  let changed := ((reach.filter (fun a => !old.contains a)) ++ (old.filter (fun a => !reach.contains a))).length
  let d := { d with hedge := { d.hedge with routes := routes, reach := reach } }
  if changed = 0 then d else partitionJobs (event d 7 0xFF (le 4 changed))

/-- Sends IDENT 1 on a hedge link: this end's key and a fresh nonce (15 R386; the nonce is a free value). -/
def sendIdent (d : Dev) (l : Nat) : Dev :=
  let n := d.free
  let d := modLink { d with free := n + 1 } l (fun k => { k with peer := { k.peer with nonce := n } })
  sendOn d l { ptype := 0x38, src := srcAddr d, aux := 1, data := padTo 1952 identityKeys.1 ++ padTo 32 (Config.freeBytes n) }

/-- The links that are verified. -/
def verifiedLinks (d : Dev) : List Nat := (List.range 48).filter (fun l => (d.links.getD l {}).isVerified)

/-- Floods this device's own LINK_STATE record (15 R395). -/
def floodOwn (d : Dev) : Dev :=
  let d := { d with hedge := { d.hedge with ownSeq := d.hedge.ownSeq + 1 } }
  (verifiedLinks d).foldl (fun d l => send d (.record l (ownRecord d))) d

/-- A change of a link of this device: its record is flooded and routes are recomputed (15 R395). -/
def linkChanged (d : Dev) : Dev := reroute (floodOwn d)

end Sys2Proof.Machine
end

