-- ==== Sys2Proof/Machine/Links.lean ====
section
/-!
DEFINITION. The physical and link layers of Emtor ports and hedge links: training, flits, replay, credits, going down (14 R355 to R376, 15 R379, R380).
-/

namespace Sys2Proof.Machine

open Sys2Proof

/-- A link named by a command exists. -/
def linkRefOk (r : LinkRef) : Bool := if r.hedge then decide (r.num < 48) else decide (r.num < 2)

/-- The identifier of a link. -/
def linkId (r : LinkRef) : LinkId := if r.hedge then .hedge r.num else .emtor r.num

/-- The link. -/
def getLink (d : Dev) (r : LinkRef) : Link := if r.hedge then d.links.getD r.num {} else d.ports.getD r.num {}

/-- Changes a link. -/
def modAny (d : Dev) (r : LinkRef) (f : Link → Link) : Dev := if r.hedge then modLink d r.num f else modPort d r.num f

/-- Link dies: port p lies on link die p, hedge link L on link die L div 4 (14 R355, 15 R379); numbers by 16 R414. -/
def linkDie (r : LinkRef) : Nat := 56 + (if r.hedge then r.num / 4 else r.num)

/-- Widest width of a link: 4 for a hedge link, the strap's for a port. -/
def linkLanes (d : Dev) (r : LinkRef) : Nat := if r.hedge then 4 else emtorLanes d.root.straps

/-- The lane-off bit of a link in the POWER_SET mask: [47:0] hedge links, [49:48] ports. -/
def laneBit (r : LinkRef) : Nat := if r.hedge then r.num else 48 + r.num

/-- The link may train: its lanes are in use, its die is powered, its lane-off bit is clear, and in RECOVERY it is no hedge link (17 R440) and STRAP_BOOT is
not 01. -/
def linkEnabled (d : Dev) (r : LinkRef) : Bool :=
  decide (linkLanes d r ≠ 0) && !bit d.power.laneOff (laneBit r) && !bit d.power.gates (linkDie r) && decide (d.power.state ≠ .d3) &&
  d.root.railsOn && d.root.mainOn && d.root.refOk && !d.root.tripped &&
  !(d.power.state = .recovery && (r.hedge || decide (strapBoot d.root.straps = 1)))

/-- Credits the HY-2 grants at INIT by class (14 R364, 15 R383); none is unlimited. -/
def initGrants (hedge : Bool) : List (Option Nat) := if hedge then [some 1024, some 8192, some 2096, some 4096, some 1024] else [some 4096, some 256, none, some 0]

/-- What a link keeps when it stops carrying traffic (14 R375): replay buffer, credits, reads and training progress go; counters stay. -/
def Link.cleared (l : Link) : Link := { counts := l.counts, retrainTimes := l.retrainTimes, failures := l.failures }

/-- Every job with a packet in the discarded replay buffer or queued (15 R380). -/
def trafficLost (lost : List Packet) (l : Link) (num : Nat) (d : Dev) : Dev :=
  let tags := lost.map (·.jobTag)
  (List.range 64).foldl (fun d s =>
    let j := getJob d s
    if j.state ≠ .free ∧ tags.contains j.image.jobTag then
      jobFault d { code := 0x0702, slot := s, die := linkDie ⟨true, num⟩, detail := num, detail2 := l.peer.addr.getD 0xFFFF }
    else d) d

/-- Lost coordination messages are sent again on the new route (15 R380). -/
def resendCoord (lost : List Packet) (d : Dev) : Dev :=
  (lost.filter (fun p => p.ptype == 0x20)).foldl (fun d p => (escapeTo d p.dest).elim d (fun l => sendOn d l p)) d

/-- The traffic of a hedge link that went down (15 R380): messages sent from now on take the new routes. -/
def hedgeLost (l : Link) (num : Nat) (d : Dev) : Dev :=
  let lost := (l.replay.filter (fun x => decide (l.txAcked < x.1))).map (·.2)
  let d := { d with hedge := { d.hedge with routes := routesOf d } }
  resendCoord lost (linkChanged (trafficLost lost l num d))

/-- The bus errors of movers whose reads were outstanding on a port (14 R376). -/
def readsLost (d : Dev) (reads : List ReadReq) (source : Nat) : Dev :=
  reads.foldl (fun d r =>
    match r.reader with
    | .mover e _ => if (getEngine d e).stopped then d else busError d e source r.addr
    | _ => d) d

/-- Changes a feed. -/
def modFeed (d : Dev) (id : Nat) (f : Feed → Feed) : Dev := { d with feeds := d.feeds.map (fun x => if x.id = id then f x else x) }

/-- The port that grants a feed's credits: the one that has granted some, else port 0, or port 1 when port 0 is down (14 R366). -/
def feedPort (d : Dev) (id : Nat) : Option Nat :=
  match (List.range 2).find? (fun p => (d.ports.getD p {}).up && decide (0 < (assocGet (d.ports.getD p {}).feedGranted id).getD 0)) with
  | some p => some p
  | none => hostPort d

/-- Grants feed credits on a port (14 R365, R366). -/
def grantFeed (d : Dev) (p id slots : Nat) : Dev :=
  send (modPort d p (fun l => { l with feedGranted := assocSet l.feedGranted id ((assocGet l.feedGranted id).getD 0 + slots) })) (.control (.emtor p) [(2, id, slots)])

/-- Grants a feed the credits it has in all less those unused and those that whole messages hold; none in the states HELD, SUSPENDED and STOPPED
(14 R366, 05 R141). -/
def topUp (d : Dev) (id : Nat) : Dev :=
  match d.feeds.find? (fun f => f.id == id), feedPort d id with
  | some f, some p =>
    let out := (d.ports.map (fun l => (assocGet l.feedGranted id).getD 0)).foldl (· + ·) 0
    let n := f.total - out - ceilDiv f.whole 16
    let st := (getJob d f.slot).state
    if n = 0 ∨ f.waits.any (fun w => w.2.isClose) ∨ !(st = .loaded ∨ st = .running ∨ st = .restarting) then d else grantFeed d p id n
  | _, _ => d

/-- Tells the adapter that a feed identifier is closed (14 R365 kind 3). -/
def sendClosed (d : Dev) (id : Nat) : Dev :=
  match feedPort d id with
  | some p => send d (.control (.emtor p) [(3, id, 0)])
  | none => d

/-- Every open feed has its credits granted, where a port is up. -/
def topUpAll (d : Dev) : Dev := d.feeds.foldl (fun d f => topUp d f.id) d

/-- Feeds whose port went down lose the partial message they had received; their credits are granted afresh on the other port (14 R366). -/
def moveFeeds (d : Dev) (had : List (Nat × Nat)) : Dev :=
  topUpAll ((d.feeds.filter (fun f => (assocGet had f.id).isSome)).foldl (fun d f => modFeed d f.id (fun x => { x with partBuf := x.partBuf.take x.whole })) d)

/-- A channel wrote through a port and no read-back has covered it. -/
def writesOpen (c : Chan) (port : Nat) : Option Await := (c.since ++ c.allPaths).find? (fun a => a.path == .emtor port && !a.answered)

/-- The bus errors of movers whose writes through a port no read-back has covered (14 R376). -/
def writesLost (d : Dev) (port : Nat) : Dev :=
  d.movers.chans.foldl (fun d x =>
    match writesOpen x.2 port with
    | some a => if (getEngine d x.1.1).stopped then d else busError d x.1.1 3 a.last
    | none => d) d

/-- A link goes down for a reason (14 R375, R376, 15 R380): one fault at most; reason 4 starts training at step 1 at once. -/
def linkDown (d : Dev) (r : LinkRef) (reason detail2 : Nat) : Dev :=
  let l := getLink d r
  let d := modAny d r (fun l =>
    let k := l.cleared
    { k with counts := { k.counts with linkDown := k.counts.linkDown + 1 }, downReason := reason, step := if reason = 4 then 1 else 0,
             failures := if reason = 4 then 0 else k.failures })
  let code (a b : Nat) : Nat := if r.hedge then b else a
  let d := if reason = 5 then d
    else if reason = 3 then deviceFault d (code 0x0602 0x0703) r.num detail2 (linkDie r)
    else deviceFault d (code 0x0601 0x0701) r.num reason (linkDie r)
  if r.hedge then hedgeLost l r.num d else moveFeeds (writesLost (readsLost d l.reads 3) r.num) l.feedGranted

/-- A protocol error of the partner takes the link down with reason 3 (14 R378, 15 R399). -/
def protocolError (d : Dev) (r : LinkRef) (rule : Nat) : Dev := linkDown d r 3 rule

/-- A training fails (14 R358): the third failure takes the link down with reason 1. -/
def trainingFails (d : Dev) (r : LinkRef) : Dev :=
  let n := (getLink d r).failures + 1
  if 3 ≤ n then modAny (linkDown d r 1 0) r (fun l => { l with failures := n })
  else modAny d r (fun l => { l with step := 0, failures := n, fast := false, eqDone := [], lanes := [], up := false })

/-- The link comes up (14 R358 step 6): credits at INIT, SEQ from 0 unless a fast retrain kept the replay buffer. -/
def linkUp (d : Dev) (r : LinkRef) : Dev :=
  let was := (getLink d r).fast
  let d := modAny d r (fun l =>
    if l.fast then { l with up := true, step := 0, fast := false, failures := 0, discarding := false }
    else { l with up := true, step := 0, failures := 0, downReason := 0, rxSeq := 0, discarding := false, txSent := 0, txAcked := 0, granted := initGrants r.hedge,
                  credits := if r.hedge then List.replicate 5 (some 0) else [some 0, some 0, none, some 0] })
  let d := if was then send d (.resend (linkId r) ((getLink d r).txAcked % 4096)) else send d (.control (linkId r) [])
  let d := if r.hedge && !was then sendIdent d r.num else d
  topUpAll (flushHeld d)

/-- The widest width both ends offer whose lanes all pass (14 R358 step 4, R360). -/
def agreedWidth (own offered : Nat) (lanes : List Nat) (hedge : Bool) : Option Nat :=
  let ws := if hedge then [4] else [16, 8, 4]
  ws.find? (fun w => decide (w ≤ own) && decide (w ≤ offered) && (List.range w).all (fun i => lanes.contains i))

/-- A training frame is well formed (14 R359). -/
def frameOk (bs : Bytes) : Bool := decide (bs.length = 32) && decide (u32at bs 0 = 0x52544D45) && decide (crc32c (bs.take 28) = u32at bs 28)

/-- A training frame advances a link's training (14 R358): the step in progress takes the frames of its own step, and WIDTH those of step 4. -/
def trainFrame (d : Dev) (r : LinkRef) (bs : Bytes) : Dev :=
  let l := getLink d r
  let st := u8at bs 4
  let lane := u8at bs 5
  let go (n : Nat) (d : Dev) : Dev := send (modAny d r (fun l => { l with step := n })) (.train (linkId r) n)
  let d := if r.hedge then modAny d r (fun l => { l with peer := { l.peer with peerLink := some (u8at bs 0x0A) } }) else d
  if l.step ≤ 1 then (if lane = 0 then go 2 (modAny d r (fun l => { l with eqDone := [], lanes := [] })) else d)
  else if l.step = 2 then
    let done := if bit (u8at bs 8) 4 ∧ !l.eqDone.contains lane then lane :: l.eqDone else l.eqDone
    let d := modAny d r (fun l => { l with eqDone := done })
    if (List.range (linkLanes d r)).all (fun i => done.contains i) ∨ 3 ≤ st then go 3 d else d
  else if l.step = 3 then
    let lanes := if l.lanes.contains lane then l.lanes else lane :: l.lanes
    let d := modAny d r (fun l => { l with lanes := lanes })
    if (List.range (linkLanes d r)).all (fun i => lanes.contains i) ∨ 4 ≤ st then go 4 d else d
  else if l.step = 4 then
    (if st < 4 then d
     else match agreedWidth (linkLanes d r) (u8at bs 6) l.lanes r.hedge with
      | none => trainingFails d r
      | some w =>
        let d := modAny d r (fun l => { l with width := w })
        let d := if w < linkLanes d r then deviceFault d 0x0603 r.num w (linkDie r) else d
        go 5 (modAny d r (fun l => { l with rxBits := [], rxWords := 0 })))
  else if l.step = 5 then (if 5 ≤ st then go 6 d else d)
  else d

/-- TRAINING_FRAME (14 R358, R359): a frame whose CHECK fails is ignored, as is one on a link that may not train or is up. -/
def execTrainingFrame (link : LinkRef) (bs : Bytes) (s : State) : Host.Outcome State Fault Refusal :=
  runDev s (fun _ d =>
    if !linkRefOk link then .fault .noSuchUnit
    else .next (if frameOk bs && linkEnabled d link && !(getLink d link).up && !([1, 2, 3].contains (getLink d link).downReason) then trainFrame d link bs else d))

/-- TRAINING_STEP_TIMEOUT (14 R358): a step over its limit fails the training. Step 1 has none until the partner is detected. -/
def execTrainingStepTimeout (link : LinkRef) (s : State) : Host.Outcome State Fault Refusal :=
  runDev s (fun _ d => if !linkRefOk link then .fault .noSuchUnit else onlyIf (decide (1 ≤ (getLink d link).step)) (trainingFails d link))

/-- TRAINING_RETRY (14 R358): 10 ms after a failure training starts again at step 1. -/
def execTrainingRetry (link : LinkRef) (s : State) : Host.Outcome State Fault Refusal :=
  runDev s (fun _ d =>
    if !linkRefOk link then .fault .noSuchUnit
    else
      let l := getLink d link
      onlyIf (decide (1 ≤ l.failures) && decide (l.failures < 3) && decide (l.step = 0) && !l.up && linkEnabled d link)
        (send (modAny d link (fun l => { l with step := 1 })) (.train (linkId link) 1)))

/-- A fast retrain starts (14 R357, R358, R363): steps 3 to 6 with the replay buffer kept; the third within 1 s takes the link down with reason 2. -/
def fastRetrain (d : Dev) (r : LinkRef) : Dev :=
  let l := getLink d r
  let times := (l.retrainTimes.filter (fun t => decide (d.time < t + 1000000000))) ++ [d.time]
  let d := modAny d r (fun l => { l with retrainTimes := times, counts := { l.counts with retrains := l.counts.retrains + 1 } })
  if 3 ≤ times.length then linkDown d r 2 0
  else send (modAny d r (fun l => { l with up := false, step := 3, fast := true, lanes := [] })) (.train (linkId r) 3)

/-- FAST_RETRAIN: more than 8 uncorrectable codewords in 1 ms, or sixteen NAKs of one SEQ. -/
def execFastRetrain (link : LinkRef) (s : State) : Host.Outcome State Fault Refusal :=
  runDev s (fun _ d => if !linkRefOk link then .fault .noSuchUnit else onlyIf (getLink d link).up (fastRetrain d link))

/-- CODEWORD_LOCK_LOSS (14 R375): the link goes down with reason 4 and trains at once. -/
def execCodewordLockLoss (link : LinkRef) (s : State) : Host.Outcome State Fault Refusal :=
  runDev s (fun _ d => if !linkRefOk link then .fault .noSuchUnit else onlyIf (getLink d link).up (linkDown d link 4 0))

/-- LOW_POWER_IDLE (14 R374): in D2, a link idle for 10 µs. -/
def execLowPowerIdle (link : LinkRef) (s : State) : Host.Outcome State Fault Refusal :=
  runDev s (fun _ d =>
    if !linkRefOk link then .fault .noSuchUnit
    else onlyIf ((getLink d link).up && decide (d.power.state = .d2) && !(getLink d link).lowPower) (modAny d link (fun l => { l with lowPower := true })))

/-- WAKE (14 R374): SEQ and credits are unchanged. -/
def execWake (link : LinkRef) (s : State) : Host.Outcome State Fault Refusal :=
  runDev s (fun _ d =>
    if !linkRefOk link then .fault .noSuchUnit
    else onlyIf (getLink d link).lowPower (send (modAny d link (fun l => { l with lowPower := false })) (.wake (linkId link))))

/-- Adds credits: unlimited stays so (14 R365). -/
def addCredits (cs : List (Option Nat)) (cls n : Nat) : List (Option Nat) := modifyAt cs cls (fun c => c.map (· + n))

/-- One entry of a CONTROL flit: kind, identifier, count (14 R365). -/
def controlEntry (r : LinkRef) (d : Dev) (e : Nat × Nat × Nat) : Dev :=
  match e with
  | (1, cls, n) => modAny d r (fun l => { l with credits := addCredits l.credits cls n })
  | (4, cls, _) => modAny d r (fun l => { l with credits := modifyAt l.credits cls (fun _ => none) })
  | _ => d

/-- CONTROL_FLIT (14 R358 step 6, R365): the initial credits bring the link up; later ones add credits. Kinds 2 and 3 are sent by the HY-2 only: from the
partner they are a protocol error. -/
def controlFlit (r : LinkRef) (entries : List (Nat × Nat × Nat)) (d : Dev) : Dev :=
  let d := if (getLink d r).step = 6 then linkUp d r else d
  if entries.any (fun e => decide (e.1 ≠ 1 ∧ e.1 ≠ 4)) || decide (30 < entries.length) then protocolError d r 1
  else entries.foldl (controlEntry r) d

/-- CONTROL_FLIT. -/
def execControlFlit (link : LinkRef) (entries : List (Nat × Nat × Nat)) (s : State) : Host.Outcome State Fault Refusal :=
  runDev s (fun _ d =>
    if !linkRefOk link then .fault .noSuchUnit
    else onlyIf ((getLink d link).up || decide ((getLink d link).step = 6)) (controlFlit link entries d))

/-- The number of flits an ACK newly covers; none when it names a SEQ not sent (14 R363, R378 rule 4). -/
def ackCovers (l : Link) (ack : Nat) : Option Nat :=
  let k := (ack + 1 + 4096 - l.txAcked % 4096) % 4096
  if l.txAcked + k ≤ l.txSent then some k else none

/-- The acknowledgement fields of a flit header (14 R361 to R363). -/
def takeAck (d : Dev) (r : LinkRef) (flags ack : Nat) : Dev :=
  let l := getLink d r
  if !bit flags 0 && !bit flags 1 then d
  else match ackCovers l ack with
  | none => protocolError d r (4)
  | some k =>
    let d := modAny d r (fun l => { l with
      txAcked := l.txAcked + k, nakSame := if k = 0 then l.nakSame else 0, replay := l.replay.filter (fun x => decide (l.txAcked + k < x.1)) })
    if bit flags 1 then
      let same := if (getLink d r).nakSeq = ack then (getLink d r).nakSame + 1 else 1
      let pend := (getLink d r).txSent - (getLink d r).txAcked
      let d := modAny d r (fun l => { l with nakSame := same, nakSeq := ack, counts := { l.counts with nakReceived := l.counts.nakReceived + 1, flitsReplayed := l.counts.flitsReplayed + pend } })
      let d := send d (.resend (linkId r) ((ack + 1) % 4096))
      if 16 ≤ same then fastRetrain d r else d
    else d

/-- A NAK for the last SEQ accepted (14 R362): not twice for the same SEQ within 2 µs. -/
def sendNak (d : Dev) (r : LinkRef) : Dev :=
  let l := getLink d r
  let a := (l.rxSeq + 4095) % 4096
  let recent := match l.naked with
    | some (sq, t) => decide (sq = a) && decide (d.time < t + 2000)
    | none => false
  let d := modAny d r (fun l => { l with discarding := true })
  if recent then d
  else send (modAny d r (fun l => { l with naked := some (a, d.time), counts := { l.counts with nakSent := l.counts.nakSent + 1 } })) (.nak (linkId r) a)

/-- Transaction types the adapter sends, with their credit class (14 R369). -/
def emtorClass (t : Nat) : Option Nat :=
  match t with
  | 0x03 => some 2 | 0x11 => some 0 | 0x12 => some 1 | 0x21 => some 3 | _ => none

/-- Packet types and their credit class (15 R382, R383), by the STRICT and ESCAPE flags. -/
def hedgeClass (t pflags : Nat) : Option Nat :=
  let esc := bit pflags 1
  match t with
  | 0x01 | 0x02 => some (if esc then 2 else 1)
  | 0x03 | 0x04 | 0x12 => some (if esc then 4 else 3)
  | 0x10 | 0x11 => some (if esc || bit pflags 2 then 2 else 1)
  | 0x20 | 0x30 | 0x31 | 0x38 | 0x39 | 0x3A => some 0
  | _ => none

/-- Takes granted credits for a transaction; none when it goes beyond them (14 R367, R378 rule 2). -/
def useCredit (l : Link) (cls n : Nat) : Option Link :=
  match l.granted.getD cls none with
  | none => some l
  | some g => if n ≤ g then some { l with granted := l.granted.set cls (some (g - n)) } else none

/-- FEED slots that arrive for an identifier, against the credits it holds on this port less those of FEEDs accepted and not yet served (14 R364, R378
rules 2 and 5). -/
def useFeedCredit (l : Link) (id n : Nat) : Nat ⊕ Link :=
  let due := (assocGet l.feedDue id).getD 0
  let held := (assocGet l.feedGranted id).getD 0 - due
  if held = 0 then .inl 5 else if held < n then .inl 2 else .inr { l with feedDue := assocSet l.feedDue id (due + n) }

/-- Walks the 15 slots of a DATA flit (14 R368): answers the slots still open, or the number of the protocol rule broken. -/
def walkSlots (hedge : Bool) : Nat → Link → Bytes → Nat ⊕ Link
  | 0, l, _ => .inr l
  | n + 1, l, bs =>
    let h := bs.take 16
    if 0 < l.rxSlots then walkSlots hedge n { l with rxSlots := l.rxSlots - 1 } (bs.drop 16)
    else if u8at h 0 = 0 then (if bs.all (· == 0) then .inr l else .inl 1)
    else
      let cls := if hedge then hedgeClass (u8at h 0) (u8at h 1) else emtorClass (u8at h 0)
      match cls with
      | none => .inl 1
      | some c =>
        let len := if hedge then u16at h 0x0E else u16at h 4
        let error := bit (u8at h 1) 0
        let dataSlots := if hedge then 1 + ceilDiv len 16 else if u8at h 0 = 0x12 ∨ error then 0 else ceilDiv len 16
        let n' := if !hedge ∧ c = 1 then 1 else 1 + dataSlots
        let reservedBad := if hedge then
            decide (8 ≤ u8at h 1) || decide (0x4000 ≤ u16at h 2) || bit (u16at h 4) 14 || (bit (u16at h 4) 15 && decide (u16at h 4 ≠ 0x8000))
          else decide (2 ≤ u8at h 1)
        if reservedBad then .inl 1
        else if !hedge ∧ c = 3 then
          match useFeedCredit l (u16at h 6) n' with
          | .inl rule => .inl rule
          | .inr l => walkSlots hedge n { l with rxSlots := dataSlots } (bs.drop 16)
        else match useCredit l c n' with
          | none => .inl 2
          | some l => walkSlots hedge n { l with rxSlots := dataSlots } (bs.drop 16)

/-- An accepted sequenced flit (14 R361, R362): its transactions lie within the credits granted, else nothing of it is accepted (01 R25, 14 R378). -/
def acceptFlit (d : Dev) (r : LinkRef) (bs : Bytes) : Dev :=
  let l := getLink d r
  let credit := u16at bs 6
  let accept (k : Link) : Dev :=
    send (modAny d r (fun l => { l with rxSeq := (l.rxSeq + 1) % 4096, discarding := false, naked := none,
                                        credits := addCredits l.credits (credit / 8192) (credit % 8192),
                                        rxSlots := k.rxSlots, granted := k.granted, feedDue := k.feedDue })) (.ack (linkId r) l.rxSeq)
  if u8at bs 0 = 1 then
    match walkSlots r.hedge 15 l (slice bs 8 240) with
    | .inl rule => protocolError d r rule
    | .inr k => accept k
  else accept l

/-- One codeword time on the active lanes (14 R356, R357): after 16,383 data codewords an alignment marker, which carries no data; else a codeword, whose
corrected symbols are counted by lane and whose 5,140 data bits join the stream. -/
def codewordTime (l : Link) (lanes : List (List Nat)) : Link :=
  if l.rxWords = 16383 then { l with rxWords := 0 }
  else
    let word := fromLanes lanes
    match rsErrors word with
    | none =>
      { l with rxWords := l.rxWords + 1, rxBits := l.rxBits ++ [⟨dataBits word, 5140, true⟩],
               counts := { l.counts with fecUncorrectable := l.counts.fecUncorrectable + 1 } }
    | some errors =>
      let perLane := (List.range 16).map (fun k => l.counts.laneSymbols.getD k 0 + (errors.filter (fun e => decide (e.1 % lanes.length = k))).length)
      { l with rxWords := l.rxWords + 1, rxBits := l.rxBits ++ [⟨dataBits (rsCorrect word errors), 5140, false⟩],
               counts := if errors.isEmpty then l.counts else { l.counts with
                 fecCorrected := l.counts.fecCorrected + 1, fecSymbols := l.counts.fecSymbols + errors.length, laneSymbols := perLane } }

/-- The next flit of the stream: its 256 bytes, whether it overlaps an uncorrectable codeword, and the link without its bits (14 R356, R357). -/
def nextFlit (l : Link) : Option (Bytes × Bool × Link) :=
  (takeBits 2048 l.rxBits).map (fun x => (le x.1 256, x.2.1, { l with rxBits := x.2.2 }))

/-- A flit as the stream gives it (14 R357, R361 to R363): `bad` marks a flit that overlaps an uncorrectable codeword. -/
def flitReceive (r : LinkRef) (bs : Bytes) (bad : Bool) (d : Dev) : Dev :=
  let l := getLink d r
  if bad || decide (crc64 (slice bs 0 248) ≠ u64at bs 248) then
    sendNak (modAny d r (fun l => { l with counts := { l.counts with crcErrors := l.counts.crcErrors + 1 } })) r
  else
    let ftype := u8at bs 0
    let flags := u8at bs 1
    if 2 < ftype ∨ 8 ≤ flags ∨ 4096 ≤ u16at bs 2 ∨ 4096 ≤ u16at bs 4 then protocolError d r 1
    else
      let d := takeAck d r flags (u16at bs 4)
      if !(getLink d r).up then d
      else if ftype = 0 then (if u16at bs 6 ≠ 0 ∨ !allZero bs 8 240 then protocolError d r 1 else d)
      else if u16at bs 2 ≠ l.rxSeq then (if l.discarding then d else sendNak d r)
      else if l.discarding ∧ !bit flags 2 then d
      else acceptFlit d r bs

/-- The codeword times since the last flit join the stream, and its next flit is received, if it is whole (14 R356, R362). -/
def flitArrive (r : LinkRef) (times : List (List (List Nat))) (d : Dev) : Dev :=
  let d := modAny d r (fun l => times.foldl codewordTime l)
  match nextFlit (getLink d r) with
  | none => d
  | some (bs, bad, k) => flitReceive r bs bad (modAny d r (fun _ => k))

/-- FLIT_RECEIVE: `times` are the codeword times since the last flit, each with the symbols of every active lane (log entry 120). -/
def execFlitReceive (link : LinkRef) (times : List (List (List Nat))) (s : State) : Host.Outcome State Fault Refusal :=
  runDev s (fun _ d =>
    if !linkRefOk link then .fault .noSuchUnit
    else onlyIf ((getLink d link).up && times.all (lanesOk (getLink d link).width)) (flitArrive link times d))

end Sys2Proof.Machine
end

