-- ==== Sys2Proof/Machine/Monitors.lean ====
section
/-!
DEFINITION. Monitors, alarms and the 1 ms sample (16 R418, R420 to R425; 01 R22; 13 R350; 14 counters).
-/

namespace Sys2Proof.Machine

open Sys2Proof

/-- Die of a temperature monitor 0x000 to 0x1BF (16 R421): compute 8 per die, link 4, tier 4, match 8, codec 4, select 2, image 2, control 4, root 4. -/
def tempDie (i : Nat) : Nat :=
  if i < 0x100 then i / 8
  else if i < 0x130 then 56 + (i - 0x100) / 4
  else if i < 0x150 then 68 + (i - 0x130) / 4
  else if i < 0x190 then 76 + (i - 0x150) / 8
  else if i < 0x1A8 then 84 + (i - 0x190) / 4
  else if i < 0x1B0 then 90 + (i - 0x1A8) / 2
  else if i < 0x1B8 then 94 + (i - 0x1B0) / 2
  else if i < 0x1BC then 98
  else 99

/-- Unit class of a monitor (R421, R423): 1 temperature, 2 voltage, 3 frequency, 4 power, 5 count; 0 for an index not listed. -/
def monClass (i : Nat) : Nat :=
  if i ≤ 0x01D7 then 1
  else if i ≤ 0x02C3 then 2
  else if i ≤ 0x035B then 3
  else if i = 0x035C then 4
  else if i ≤ 0x0361 then 5
  else if 0x0400 ≤ i ∧ i ≤ 0x0477 then 5
  else if 0x0800 ≤ i ∧ i ≤ 0x0835 then 5
  else if 0x0840 ≤ i ∧ i ≤ 0x0E3F then 5
  else if 0x1000 ≤ i ∧ i ≤ 0x2FFF then 5
  else if 0x8000 ≤ i ∧ i ≤ 0xFFFF then 5
  else 0

/-- The counters of a link in table order (14, Counters and faults): without FEED_DISCARDED and with the hedge's three for a hedge link. -/
def linkCountList (c : LinkCounts) (hedge : Bool) : List Nat :=
  [c.fecCorrected, c.fecSymbols, c.fecUncorrectable] ++ (List.range 16).map (fun i => c.laneSymbols.getD i 0) ++
  [c.crcErrors, c.nakSent, c.nakReceived, c.flitsReplayed, min c.retrains 0xFFFFFFFF, min c.linkDown 0xFFFFFFFF] ++
  (if hedge then [min c.regRefused 0xFFFFFFFF, c.escaped, c.hopDiscards, c.noRoute] else [c.feedDiscarded, min c.regRefused 0xFFFFFFFF])

/-- How many counters a station keeps (R422). -/
def stationCounters (t : SType) : Nat :=
  match t with
  | .matchSt => 6 | .unpack | .parse | .image | .align | .shuffle => 1 | .shale => 2 | _ => 0

/-- A job slot's block of counters (R422): valve openings, watermarks ignored, then from 16 the stations' in station order. -/
def jobCounters (j : Job) : List Nat :=
  if j.state = .free then []
  else
    [j.valveOpenings, j.marksIgnored] ++ List.replicate 14 0 ++
    ((j.image.stations.zipIdx.map (fun (s, i) => (List.range (stationCounters s.stype)).map (fun k => (j.rt.stations.getD i {}).counts.getD k 0))).flatten.take 496)

/-- The count monitors that are not zero now. -/
def countReadings (d : Dev) : List (Nat × Int) :=
  let nz (xs : List (Nat × Nat)) : List (Nat × Int) := (xs.filter (fun x => decide (x.2 ≠ 0))).map (fun x => (x.1, (x.2 : Int)))
  nz d.power.counts ++
  (d.ports.zipIdx.map (fun (l, p) => nz ((linkCountList l.counts false).zipIdx.map (fun (v, k) => (0x800 + 27 * p + k, v))))).flatten ++
  (d.links.zipIdx.map (fun (l, p) => nz ((linkCountList l.counts true).zipIdx.map (fun (v, k) => (0x840 + 32 * p + k, v))))).flatten ++
  (d.jobs.zipIdx.map (fun (j, s) => nz ((jobCounters j).zipIdx.map (fun (v, k) => (0x8000 + 512 * s + k, v))))).flatten

/-- The alarm of a monitor: the driver's, else the default of R425. -/
def alarmOf (d : Dev) (i : Nat) : Alarm :=
  match assocGet d.power.alarms i with
  | some a => a
  | none =>
    if i ≤ 0x1BF then { enabled := true, low := -2147483648, high := ((tripTemp d.root.straps - 10) * 1000 : Nat) }
    else if i ≤ 0x1D7 then { enabled := true, low := -2147483648, high := 95000 }
    else {}

/-- One sample of an alarm (R424): the new state and the event code, 1 above, 2 below, 3 back inside for 10 samples; at most one event per 10 ms. -/
def alarmStep (a : Alarm) (x : Int) (sample : Nat) : Alarm × Option Nat :=
  let quiet := match a.lastEvent with
    | some n => decide (sample < n + 10)
    | none => false
  let beyond := decide (a.high < x)
  let under := decide (x < a.low)
  if beyond && !a.above then (if quiet then ({ a with inside := 0 }, none) else ({ a with above := true, inside := 0, lastEvent := some sample }, some 1))
  else if under && !a.below then (if quiet then ({ a with inside := 0 }, none) else ({ a with below := true, inside := 0, lastEvent := some sample }, some 2))
  else if beyond || under then ({ a with inside := 0 }, none)
  else if a.above || a.below then
    (if 9 ≤ a.inside && !quiet then ({ a with above := false, below := false, inside := 0, lastEvent := some sample }, some 3) else ({ a with inside := a.inside + 1 }, none))
  else (a, none)

/-- The reading an alarm compares (R424): for a count monitor its increase over the last sample, saturated. -/
def alarmReading (p : Power) (i : Nat) : Int :=
  let v := (assocGet p.snap i).getD 0
  if monClass i = 5 then min (max 0 (v - (assocGet p.prev i).getD 0)) 2147483647 else v

/-- Runs the alarm of one monitor. -/
def runAlarm (d : Dev) (i : Nat) : Dev :=
  let a := alarmOf d i
  if !a.enabled then d
  else
    let x := alarmReading d.power i
    let (b, ev) := alarmStep a x d.power.sampleNo
    let d := if b = a then d else { d with power := { d.power with alarms := assocSet d.power.alarms i b } }
    match ev with
    | some n => event d 5 0xFF (le 2 i ++ le 1 n ++ [0] ++ le 4 (ofSigned 32 x))
    | none => d

/-- Saturation counters (01 R22): one for each resource that ran at 95 % or more of its rate in the sample. -/
def addSaturation (counts : List (Nat × Nat)) (sat : List Bool) : List (Nat × Nat) :=
  (sat.take 5).zipIdx.foldl (fun cs x => if x.1 then assocSet cs (0x35D + x.2) ((assocGet cs (0x35D + x.2)).getD 0 + 1) else cs) counts

/-- The power cap's notice (R418): above a non-zero cap in every sample of 100 ms, once until the power has returned below. -/
def capStep (d : Dev) : Dev :=
  let p := d.power
  let mw := (assocGet p.snap 0x35C).getD 0
  if p.cap = 0 ∨ mw ≤ (p.cap * 1000 : Nat) then { d with power := { p with overCap := 0, overSum := 0, overRaised := false } }
  else
    let n := p.overCap + 1
    let sum := p.overSum + mw.toNat
    let d := { d with power := { p with overCap := n, overSum := sum } }
    if n = 100 ∧ !p.overRaised then { (deviceFault d 0x0D04 p.cap (sum / 100) 98) with power := { d.power with overRaised := true } } else d

/-- Rails out of tolerance (R420): 10 consecutive samples raise the notice 0x0D02. -/
def railStep (d : Dev) (out : List Nat) : Dev :=
  let counts := out.map (fun i => (i, (assocGet d.power.railOut i).getD 0 + 1))
  let d := { d with power := { d.power with railOut := counts } }
  (counts.filter (fun c => decide (c.2 = 10))).foldl (fun d c => deviceFault d 0x0D02 c.1 (ofSigned 64 ((assocGet d.power.snap c.1).getD 0)) 98) d

/-- The monitor hub runs: the control die is powered and out of reset. -/
def hubOn (d : Dev) : Bool := d.root.railsOn && d.root.mainOn && d.root.refOk && !d.root.tripped && decide (d.power.state ≠ .d3)

/-- MONITOR_SAMPLE (R421): analogue readings as the outside gives them, counts as the device holds them, then alarms, rails and the cap. -/
def monitorSample (readings : List (Nat × Int)) (sat : List Bool) (railsOut : List Nat) (d : Dev) : Dev :=
  let p := d.power
  let p := { p with counts := addSaturation p.counts sat }
  let d := { d with power := p }
  let analog := readings.foldl (fun acc r => if decide (1 ≤ monClass r.1) && decide (monClass r.1 ≤ 4) then assocSet acc r.1 r.2 else acc)
    (p.snap.filter (fun x => decide (monClass x.1 ≤ 4)))
  let d := { d with power := { p with prev := p.snap.filter (fun x => decide (monClass x.1 = 5)), snap := analog ++ countReadings d, sampleNo := p.sampleNo + 1 } }
  let ids := List.range 0x1D8 ++ (d.power.alarms.map (·.1)).filter (fun i => decide (0x1D8 ≤ i))
  let d := ids.foldl runAlarm d
  capStep (railStep d railsOut)

/-- MONITOR_SAMPLE. -/
def execMonitorSample (readings : List (Nat × Int)) (sat : List Bool) (railsOut : List Nat) (s : State) : Host.Outcome State Fault Refusal :=
  runDev s (fun _ d => onlyIf (hubOn d) (monitorSample readings sat railsOut d))

/-- Compute, match, codec, select and image dies: power-gated in D2, and, without a resource of a job that is RUNNING, SUSPENDED or RESTARTING,
clock-gated in D1 (R411). -/
def isWorkDie (die : Nat) : Bool := decide (die < 32) || (decide (76 ≤ die) && decide (die ≤ 97))

/-- The domains of a die are gated: by the gate mask (R415), by the power state (R411), in RECOVERY (17 R440), or as a tier die with the strap low
(01 R19). -/
def dieGated (d : Dev) (die : Nat) : Bool :=
  bit d.power.gates die || (isTierDie die && !strapTier d.root.straps) ||
  (match d.power.state with
   | .d1 => isWorkDie die && !d.jobs.any (fun j => j.state.live && j.units.any (fun u => u.die == die))
   | .d2 => isWorkDie die
   | .recovery => !([56, 57, 98, 99].contains die)
   | _ => false)

/-- The die that a monitor lies on, where the index tells it (R421): temperatures, tier channels, ports, links and clusters. Stack reports and cache slices
stay powered (R415); which die a voltage or ring oscillator lies on is not told (log entry 122). -/
def monDie (i : Nat) : Option Nat :=
  if i ≤ 0x01BF then some (tempDie i)
  else if 0x0438 ≤ i ∧ i ≤ 0x0477 then some (68 + (i - 0x0438) / 8)
  else if 0x0800 ≤ i ∧ i ≤ 0x0835 then some (56 + (i - 0x0800) / 27)
  else if 0x0840 ≤ i ∧ i ≤ 0x0E3F then some (56 + (i - 0x0840) / 128)
  else if 0x1000 ≤ i ∧ i ≤ 0x2FFF then some ((i - 0x1000) / 256)
  else none

/-- A monitor's die is gated, or it measures what is not present (R423 status [3]). -/
def monAbsent (d : Dev) (i : Nat) : Bool := decide (monClass i = 0) || (monDie i).any (dieGated d)

/-- A MONITOR_READ record (R423). -/
def monRecord (d : Dev) (i : Nat) : Bytes :=
  let a := alarmOf d i
  let v := if monClass i = 0 then 0 else (assocGet d.power.snap i).getD 0
  let x := alarmReading d.power i
  let st := b2n a.enabled + (if a.enabled then 2 * b2n (decide (x < a.low)) + 4 * b2n (decide (a.high < x)) else 0) + 8 * b2n (monAbsent d i)
  le 2 i ++ le 1 (monClass i) ++ le 1 st ++ le 4 d.power.sampleNo ++ le 8 (ofSigned 64 v)

/-- MONITOR_READ's own checks (R421). -/
def monitorReadCheck (c : Cmd) : Option (Nat × Nat) :=
  let n := u16at c.body 2
  if n = 0 ∨ 4096 < n then badField 2
  else if c.respBytes < 16 * n then some (0x0008, 16 * n)
  else none

/-- MONITOR_READ (R421, R423). -/
def monitorRead : Service :=
  { opcode := 0x0050, check := fun _ _ c => monitorReadCheck c,
    act := fun _ d c => (d, some ((List.range (u16at c.body 2)).map (fun k => monRecord d ((u16at c.body 0 + k) % 0x10000))).flatten) }

/-- MONITOR_READ. -/
def execMonitorRead (idx : Nat) (s : State) : Host.Outcome State Fault Refusal := runDev s (serve monitorRead idx)

/-- MONITOR_ALARM_SET's own checks (R424). -/
def alarmSetCheck (c : Cmd) : Option (Nat × Nat) :=
  if monClass (u16at c.body 0) = 0 then badField 0
  else if 1 < u8at c.body 2 then badField 2
  else if toSigned 32 (u32at c.body 8) < toSigned 32 (u32at c.body 4) then badField 4
  else none

/-- The alarm a request arms or disarms; a monitor writes at most one event per 10 ms whatever is armed (R424). -/
def alarmOfCmd (d : Dev) (c : Cmd) : Alarm := { lastEvent := (alarmOf d (u16at c.body 0)).lastEvent, enabled := decide (u8at c.body 2 = 1), low := toSigned 32 (u32at c.body 4), high := toSigned 32 (u32at c.body 8) }

/-- MONITOR_ALARM_SET (R424). -/
def alarmSet : Service :=
  { opcode := 0x0051, check := fun _ _ c => alarmSetCheck c,
    act := fun _ d c => ({ d with power := { d.power with alarms := assocSet d.power.alarms (u16at c.body 0) (alarmOfCmd d c) } }, some []) }

/-- MONITOR_ALARM_SET. -/
def execMonitorAlarmSet (idx : Nat) (s : State) : Host.Outcome State Fault Refusal := runDev s (serve alarmSet idx)

end Sys2Proof.Machine
end

