-- ==== Sys2Proof/Machine/Power.lean ====
section
/-!
DEFINITION. Power states, die gates, lane-off bits, clock step and power cap (16 R410 to R418; 03 R85; 14 R377).
-/

namespace Sys2Proof.Machine

open Sys2Proof

/-- A device state of POWER_SET: 0 to 3 for D0 to D3. -/
def powerTarget (n : Nat) : DState :=
  match n with
  | 0 => .d0 | 1 => .d1 | 2 => .d2 | _ => .d3

/-- The request's die gate mask and lane-off mask. -/
def powerGates (c : Cmd) : Nat := uat c.body 8 16
/-- The lane-off mask. -/
def powerLanes (c : Cmd) : Nat := u64at c.body 0x18

/-- Dies that may not be gated: HBM stacks, control, root (R415). -/
def ungateable (die : Nat) : Bool := (decide (32 ≤ die) && decide (die ≤ 55)) || decide (die = 98) || decide (die = 99)

/-- A die gate that no command may set, or that the rings may not (R415). -/
def gateForbidden (d : Dev) (c : Cmd) : Bool :=
  (List.range 128).any (fun i => bit (powerGates c) i &&
    (decide (100 ≤ i) || ungateable i || (!c.chain && (decide (i = 56) || decide (i = 57)) && (d.ports.getD (i - 56) {}).up)))

/-- The lane-off mask would turn off every port that is up (14 R377). -/
def lanesForbidden (d : Dev) (c : Cmd) : Bool :=
  !c.chain && (d.ports.any (·.up)) && (List.range 2).all (fun p => !(d.ports.getD p {}).up || bit (powerLanes c) (48 + p))

/-- A job holds a resource of a die that the mask gates (03 R85). -/
def gateHeld (d : Dev) (c : Cmd) : Option Nat :=
  (List.range 64).find? (fun s => let j := getJob d s
    j.state ≠ .free && j.units.any (fun u => bit (powerGates c) u.die))

/-- A job that is RUNNING, SUSPENDED or RESTARTING. -/
def liveJob (d : Dev) : Option Nat := (List.range 64).find? (fun s => (getJob d s).state.live)

/-- Compute dies that a gate mask gates. -/
def gatedCompute (gates : Nat) : Nat := ((List.range 32).filter (fun i => bit gates i)).length

/-- Clusters of compute dies that the mask leaves powered, which no job holds and the bramble lane does not use, in ascending die and index. -/
def spareClusters (d : Dev) (gates : Nat) : List (Nat × Nat) :=
  ((List.range 32).filter (fun e => !bit gates e)).flatMap (fun e => ((List.range 255).map (fun i => (e, i))).filter (fun r =>
    !d.power.moved.contains r && !d.jobs.any (fun j => j.units.any (fun u => u.kind == 1 && u.die == r.1 && u.index == r.2))))

/-- Where the bramble clusters of gated dies run: those moved before that stay powered, then the lowest spare ones (R415; log entry 31). -/
def brambleMoved (d : Dev) (gates : Nat) : List (Nat × Nat) :=
  ((d.power.moved.filter (fun r => !bit gates r.1)) ++ spareClusters d gates).take (gatedCompute gates)

/-- POWER_SET's own checks (R415, 14 R377, 03 R85). -/
def powerSetCheck (d : Dev) (c : Cmd) : Option (Nat × Nat) :=
  if 3 < u8at c.body 0 then badField 0
  else if gateForbidden d c then badField 8
  else if pow2 50 ≤ powerLanes c ∨ lanesForbidden d c then badField 0x18
  else match gateHeld d c with
  | some s => badState d s
  | none =>
    match (if 2 ≤ u8at c.body 0 then liveJob d else none) with
    | some s => badState d s
    | none => if u8at c.body 0 < 3 ∧ (brambleMoved d (powerGates c)).length < gatedCompute (powerGates c) then badState d 0xFF else none

/-- Takes a link down for a lane-off bit or a gated die, or starts its training when the bit clears (R415, R416, 14 R375). -/
def applyLane (d : Dev) (r : LinkRef) (was : Bool) : Dev :=
  let now := linkEnabled d r
  let l := getLink d r
  if was && !now then (if l.up ∨ l.step ≠ 0 then linkDown d r 5 0 else d)
  else if !was && now then send (modAny d r (fun l => { l.cleared with step := 1, failures := 0 })) (.train (linkId r) 1)
  else d

/-- Every link of the device. -/
def allLinks : List LinkRef := (List.range 2).map (fun p => ⟨false, p⟩) ++ (List.range 48).map (fun l => ⟨true, l⟩)

/-- Applies gates and lane-off bits after the state change (R413, R415, R416). Ungated dies are waking until power-good. -/
def applyGates (d : Dev) (gates lanes : Nat) : Dev :=
  let was := allLinks.map (linkEnabled d)
  let waking := (List.range 100).filter (fun i => bit d.power.gates i && !bit gates i && (strapTier d.root.straps || !isTierDie i))
  let d := { d with power := { d.power with gates := gates, laneOff := lanes, waking := waking, moved := brambleMoved d gates } }
  (allLinks.zip was).foldl (fun d x => applyLane d x.1 x.2) d

/-- Frees a slot: the job and what it held go; a JOB_STATE event is written (03 R88, 16 R412). -/
def freeSlot (d : Dev) (s : Nat) : Dev :=
  let j := getJob d s
  if j.state = .free then d
  else
    let d := setJState d s .free 0
    { modJob d s (fun _ => {}) with feeds := d.feeds.filter (fun f => decide (f.slot ≠ s)) }

/-- Powers the device down to D3 (R411 to R413): what is not kept is lost; the always-on island stays. The command's masks apply after the change. -/
def enterD3 (d : Dev) (gates lanes : Nat) : Dev :=
  let d := keepTierStore (resetDies d d.win.lastCause false true)
  { d with power := { d.power with state := .d3, gates := gates, laneOff := lanes }, root := { d.root with bootStep := 0 } }

/-- An exit from D3 (R412, R413, 17 R449): the boot sequence runs with LAST_CAUSE 0 and ends in the commanded state with the commanded masks; the
timestamp restarts at 0. -/
def exitD3 (d : Dev) (target : DState) (gates lanes : Nat) : Dev :=
  let d := resetDies d 0 false true
  { d with time := 0, root := { d.root with bootStep := 2, bootTarget := some target, bootMask := (gates, lanes), mainOn := true } }

/-- POWER_SET's effect before its completion: in D2 the compute dies are power-gated, so that cluster SRAM is lost (R411). -/
def powerSetAct (d : Dev) (c : Cmd) : Dev :=
  if !served d then d
  else match powerTarget (u8at c.body 0) with
  | .d3 => (List.range 64).foldl freeSlot d
  | st =>
    let d := if st = .d2 ∧ d.power.state ≠ .d2 then loseSram d else d
    applyGates { d with power := { d.power with state := st } } (powerGates c) (powerLanes c)

/-- What follows POWER_SET's completion: the fall to D3, the exit from D3, or, during a boot, the state the boot is to end in. -/
def powerSetAfter (d : Dev) (c : Cmd) : Dev :=
  let st := powerTarget (u8at c.body 0)
  if st = .d3 then (if d.power.state = .d3 then d else enterD3 d (powerGates c) (powerLanes c))
  else if d.power.state = .d3 then exitD3 d st (powerGates c) (powerLanes c)
  else if d.power.state = .booting then { d with root := { d.root with bootTarget := some st, bootMask := (powerGates c, powerLanes c) } }
  else d

/-- POWER_SET (R411 to R416): the completion of a change to D3 is written before the steward is powered down. -/
def powerSet : Service :=
  { opcode := 0x0040, check := fun _ d c => powerSetCheck d c, act := fun _ d c => (powerSetAct d c, some []), after := powerSetAfter }

/-- POWER_SET. -/
def execPowerSet (idx : Nat) (s : State) : Host.Outcome State Fault Refusal := runDev s (serve powerSet idx)

/-- POWER_QUERY's response: the power is the snapshot's. -/
def powerReport (d : Dev) : Bytes :=
  let st := match d.power.state with
    | .d0 => 0 | .d1 => 1 | .d2 => 2 | .d3 => 3 | _ => 0
  let mw := (assocGet d.power.snap 0x35C).getD 0
  padTo 64 (le 1 st ++ le 1 d.power.step ++ le 2 d.power.cap ++ le 4 (ofSigned 32 mw) ++ le 16 d.power.gates ++ le 8 d.power.laneOff)

/-- POWER_QUERY. -/
def powerQuery : Service := { opcode := 0x0041, check := fun _ _ _ => none, act := fun _ d _ => (d, some (powerReport d)) }

/-- POWER_QUERY. -/
def execPowerQuery (idx : Nat) (s : State) : Host.Outcome State Fault Refusal := runDev s (serve powerQuery idx)

/-- CLOCK_SET (R410): no station is drained, no job changes state. -/
def clockSet : Service :=
  { opcode := 0x0042, check := fun _ _ c => if 2 < u8at c.body 0 then badField 0 else none,
    act := fun _ d c => ({ d with power := { d.power with step := u8at c.body 0 } }, some []) }

/-- CLOCK_SET. -/
def execClockSet (idx : Nat) (s : State) : Host.Outcome State Fault Refusal := runDev s (serve clockSet idx)

/-- POWER_CAP (R417): 0, or 600 to 2,800 W. -/
def powerCap : Service :=
  { opcode := 0x0043, check := fun _ _ c => if u16at c.body 0 ≠ 0 ∧ outside (u16at c.body 0) (600, 2800) then badField 0 else none,
    act := fun _ d c => ({ d with power := { d.power with cap := u16at c.body 0, overCap := 0, overSum := 0 } }, some []) }

/-- POWER_CAP. -/
def execPowerCap (idx : Nat) (s : State) : Host.Outcome State Fault Refusal := runDev s (serve powerCap idx)

/-- The issue-rate fraction f of R417 as numerator and denominator, from the cap and the arithmetic step. -/
def capFraction (p : Power) : Nat × Nat :=
  let full := match p.step with
    | 0 => 2800 | 1 => 2520 | _ => 2380
  if p.cap = 0 ∨ full ≤ p.cap then (1, 1) else (p.cap - 560, full - 560)

/-- DOMAIN_WAKE_TIMEOUT (R415): a domain not power-good 5 ms after ungating raises 0x0D03, which requires a full reset. -/
def execDomainWakeTimeout (die domain : Nat) (s : State) : Host.Outcome State Fault Refusal :=
  runDev s (fun _ d =>
    if 100 ≤ die then .fault .noSuchUnit
    else onlyIf (d.power.waking.contains die)
      (deviceFaultReset { d with power := { d.power with waking := d.power.waking.filter (· != die) } } { code := 0x0D03, die := die, detail := die, detail2 := domain }))

end Sys2Proof.Machine
end

