-- ==== Sys2Proof/Machine/Hedge.lean ====
section
/-!
DEFINITION. The hedge: identity and approval, discovery and numbering, routes, forwarding, remote memory at the destination, time alignment
(15 R381 to R399; 13 R348).
-/

namespace Sys2Proof.Machine

open Sys2Proof

/-- The packet a command carries. -/
def pktOf (ptype : Nat) (p : PktArg) : Packet :=
  { ptype := ptype, pflags := p.pflags, dest := p.dest, src := p.src, hops := p.hops, engine := p.engine, jobTag := p.jobTag, tag := p.tag, addr := p.addr,
    aux := p.aux, data := p.data }

/-- The hedge address of a digest, where a record tells it. -/
def digestAddr (d : Dev) (dg : Bytes) : Option Nat := (d.hedge.topo.find? (fun t => t.digest == dg)).bind (·.addr)

/-- Sends ADMIT on a link (R387). -/
def sendAdmit (d : Dev) (l : Nat) (yes : Bool) : Dev := sendOn d l { ptype := 0x39, src := srcAddr d, aux := b2n yes }

/-- The presented digest is compared with the peer table (R387): approved and ADMIT, or PEER_IDENTITY and ADMIT clear. -/
def judgePeer (d : Dev) (l : Nat) : Dev :=
  let dg := (d.links.getD l {}).peer.digest
  if assocGet d.root.peers l = some dg then sendAdmit (modLink d l (fun k => { k with peer := { k.peer with approved := true } })) l true
  else
    let a := (digestAddr d dg).getD 0xFFFF
    sendAdmit (event d 6 0xFF (le 1 l ++ [0] ++ le 2 a ++ zeros 4 ++ dg.take 16)) l false

/-- The message an IDENT signature covers (R386): signer's digest, the verifier's nonce, signer's link, verifier's link. -/
def identMessage (digest nonce : Bytes) (signerLink peerLink : Nat) : Bytes := ascii "HYPEER01" ++ digest ++ nonce ++ le 1 signerLink ++ le 1 peerLink

/-- IDENT 1 (R386): the peer's key and nonce; this end answers with its signature. -/
def identKey (l : Nat) (data : Bytes) (d : Dev) : Dev :=
  let nonce := slice data 1952 32
  let d := modLink d l (fun k => { k with peer := { k.peer with key := slice data 0 1952, peerNonce := nonce } })
  let far := ((d.links.getD l {}).peer.peerLink).getD 0
  sendOn d l { ptype := 0x38, src := srcAddr d, aux := 2, data := padTo 3309 (mldsaSign identityKeys.2 (Config.signRandom (identMessage identityDigest nonce l far))
    (identMessage identityDigest nonce l far)) }

/-- IDENT 2 (R386): a good signature verifies the link; a bad one raises 0x0704. -/
def identSign (l : Nat) (data : Bytes) (d : Dev) : Dev :=
  let p := (d.links.getD l {}).peer
  let dg := shake256 p.key 32
  let nonce := padTo 32 (Config.freeBytes p.nonce)
  if mldsaVerify p.key (identMessage dg nonce (p.peerLink.getD 0) l) (slice data 0 3309) then
    let d := modLink d l (fun k => { k with peer := { k.peer with verified := true, digest := dg } })
    linkChanged (judgePeer d l)
  else deviceFault d 0x0704 l 1 (linkDie ⟨true, l⟩)

/-- IDENT. -/
def execIdent (link aux : Nat) (data : Bytes) (s : State) : Host.Outcome State Fault Refusal :=
  runDev s (fun _ d =>
    if 48 ≤ link then .fault .noSuchUnit
    else if !(d.links.getD link {}).up then noEvent
    else if aux = 1 ∧ data.length = 1984 then .next (identKey link data d)
    else if aux = 2 ∧ data.length = 3309 ∧ (d.links.getD link {}).peer.key ≠ [] then .next (identSign link data d)
    else .next (protocolError d ⟨true, link⟩ 1))

/-- A link is up and its identity exchange has not passed. -/
def unverified (d : Dev) (l : Nat) : Bool := (d.links.getD l {}).up && !(d.links.getD l {}).peer.verified

/-- IDENT_TIMEOUT (R386): the exchange not complete within 5 ms. -/
def execIdentTimeout (link : Nat) (s : State) : Host.Outcome State Fault Refusal :=
  runDev s (fun _ d => if 48 ≤ link then .fault .noSuchUnit else onlyIf (unverified d link) (deviceFault d 0x0704 link 3 (linkDie ⟨true, link⟩)))

/-- IDENT_RETRY (R386): the exchange is repeated every 1 s. -/
def execIdentRetry (link : Nat) (s : State) : Host.Outcome State Fault Refusal :=
  runDev s (fun _ d => if 48 ≤ link then .fault .noSuchUnit else onlyIf (unverified d link) (sendIdent d link))

/-- ADMIT (R387). -/
def execAdmit (link : Nat) (approve : Bool) (s : State) : Host.Outcome State Fault Refusal :=
  runDev s (fun _ d =>
    if 48 ≤ link then .fault .noSuchUnit
    else onlyIf ((d.links.getD link {}).isVerified) (linkChanged (modLink d link (fun k => { k with peer := { k.peer with peerApproves := approve } }))))

/-- PEER_APPROVE (R388): rejected when the link is not verified or the digest differs from the presented one (03 R83). -/
def peerApprove : Service :=
  { opcode := 0x0064,
    check := fun _ d c =>
      let l := u8at c.body 0
      if 48 ≤ l ∨ !(d.links.getD l {}).isVerified then badField 0
      else if slice c.body 8 32 ≠ (d.links.getD l {}).peer.digest then badField 8
      else none,
    act := fun _ d c =>
      let l := u8at c.body 0
      let d := { d with root := { d.root with peers := assocSet d.root.peers l (slice c.body 8 32) } }
      let d := sendAdmit (modLink d l (fun k => { k with peer := { k.peer with approved := true } })) l true
      (linkChanged d, some []) }

/-- PEER_APPROVE. -/
def execPeerApprove (idx : Nat) (s : State) : Host.Outcome State Fault Refusal := runDev s (serve peerApprove idx)

/-- HEDGE_ADDRESS (R389). -/
def hedgeAddress : Service :=
  { opcode := 0x0061,
    check := fun _ d c => if !allFree d then badState d 0xFF else if 0x4000 ≤ u16at c.body 0 then badField 0 else none,
    act := fun _ d c => (linkChanged { d with hedge := { d.hedge with addr := some (u16at c.body 0), aligned := false } }, some []) }

/-- HEDGE_ADDRESS. -/
def execHedgeAddress (idx : Nat) (s : State) : Host.Outcome State Fault Refusal := runDev s (serve hedgeAddress idx)

/-- The link numbers of a HEDGE_ROUTE_SET. -/
def routeLinks (c : Cmd) : List Nat := (List.range (u8at c.body 2)).map (fun i => u8at c.body (4 + i))

/-- HEDGE_ROUTE_SET (R392): never changes an escape link. -/
def routeSet : Service :=
  { opcode := 0x0062,
    check := fun _ d c =>
      if 0x4000 ≤ u16at c.body 0 ∨ d.hedge.addr = some (u16at c.body 0) then badField 0
      else if 4 < u8at c.body 2 then badField 2
      else if (routeLinks c).any (fun l => decide (47 < l)) || !nodup (routeLinks c) then badField 4
      else none,
    act := fun _ d c =>
      let a := u16at c.body 0
      let old := (assocGet d.hedge.routes a).getD {}
      let new : Route := if u8at c.body 2 = 0 then { old with alts := [], manual := false } else { old with alts := routeLinks c, manual := true }
      ({ d with hedge := { d.hedge with routes := assocSet d.hedge.routes a new } }, some []) }

/-- HEDGE_ROUTE_SET. -/
def execHedgeRouteSet (idx : Nat) (s : State) : Host.Outcome State Fault Refusal := runDev s (serve routeSet idx)

/-- The reachability bitmap (R396): 2,048 bytes, bit a for address a; the own address is always set. -/
def reachBitmap (d : Dev) : Bytes :=
  let n := (d.hedge.reach ++ d.hedge.addr.toList).foldl (fun acc a => acc ||| pow2 (a % 0x4000)) 0
  le 2048 n

/-- HEDGE_STATUS's response. -/
def hedgeReport (d : Dev) : Bytes :=
  padTo 8 (le 2 (ownAddr d)) ++ padTo 248 ((d.jobs.map (fun j => le 2 (if j.state = .free then 0xFFFF else j.anchor))).flatten) ++ reachBitmap d

/-- HEDGE_STATUS. -/
def hedgeStatus : Service := { opcode := 0x0063, check := fun _ _ _ => none, act := fun _ d _ => (d, some (hedgeReport d)) }

/-- HEDGE_STATUS. -/
def execHedgeStatus (idx : Nat) (s : State) : Host.Outcome State Fault Refusal := runDev s (serve hedgeStatus idx)

/-- The lowest free address among records. -/
def freeAddr (rs : List TopoRec) : Nat := ((List.range (rs.length + 1)).find? (fun a => !(rs.any (fun r => r.addr == some a)))).getD 0

/-- Numbers the unaddressed peers of one device, its links from 0 to 47 (R390). -/
def numberPeers (rs : List TopoRec) (x : TopoRec) : List TopoRec :=
  (sortBy TopoLink.link x.links).foldl (fun rs k =>
    rs.map (fun r => if r.digest == k.peer && r.addr.isNone then { r with addr := some (freeAddr rs), level := x.level + 1 } else r)) rs

/-- The breadth-first numbering from the addresses held so far: devices in address order, each once; fuel is the number of addresses looked at. -/
def numberFrom : Nat → Nat → List TopoRec → List TopoRec
  | 0, _, rs => rs
  | n + 1, a, rs =>
    match rs.find? (fun r => r.addr == some a) with
    | some x => numberFrom n (a + 1) (numberPeers rs x)
    | none => numberFrom n (a + 1) rs

/-- The lowest level among a record's addressed neighbours, plus one; its own level where it has none. -/
def levelAbove (old rs : List TopoRec) (r : TopoRec) : Nat :=
  let ls := r.links.filterMap (fun k => (old.find? (fun o => o.digest == k.peer && o.addr.isSome)).map (·.level))
  match (sortBy id ls).head? with
  | some l => l + 1
  | none => (rs.find? (fun x => x.digest == r.digest)).elim r.level (·.level)

/-- Levels recomputed breadth-first from the root (R390). -/
def relevel (rs : List TopoRec) : List TopoRec :=
  let es := hedgeEdges rs
  let ds := distances es rs.length (startAt rs.length 0)
  rs.zipIdx.map (fun (r, i) => { r with level := (ds.getD i none).getD r.level })

/-- The numbering of R390, the root's record first. -/
def numberHedge (rs : List TopoRec) : List TopoRec :=
  let fuel := rs.length + (rs.foldl (fun a r => max a (r.addr.getD 0)) 0) + 1
  if rs.all (fun r => r.addr.isNone) then
    numberFrom fuel 0 (rs.zipIdx.map (fun (r, i) => if i = 0 then { r with addr := some 0, level := 0 } else r))
  else
    let old := rs
    let rs := rs.zipIdx.map (fun (r, i) => if i = 0 ∧ r.addr.isNone then { r with addr := some (freeAddr rs) } else r)
    let out := numberFrom (2 * fuel) 0 rs
    let out := out.map (fun r => if (old.find? (fun o => o.digest == r.digest)).any (fun o => o.addr.isNone) then { r with level := levelAbove old out r } else r)
    if rs.all (·.free) then relevel out else out

/-- Every device named by a collected record is collected (R390 phase 2). -/
def collected (rs : List TopoRec) : Bool := rs.all (fun r => r.links.all (fun k => !k.verified || rs.any (fun x => x.digest == k.peer)))

/-- A level above 40 raises the notice 0x0709 once (R397). -/
def checkBound (d : Dev) : Dev :=
  if 40 < d.hedge.level ∧ !d.hedge.boundRaised then
    deviceFault { d with hedge := { d.hedge with boundRaised := true } } 0x0709 d.hedge.level (5 * d.hedge.level) 98
  else d

/-- Takes the complete set of records (R390 phase 4): own address and level, topology, routes. -/
def takeRecords (d : Dev) (rs : List TopoRec) : Dev :=
  let own := ownDigest d
  let d := match rs.find? (fun r => r.digest == own) with
    | some r => { d with hedge := { d.hedge with addr := r.addr, level := r.level, aligned := d.hedge.aligned && decide (d.hedge.addr = r.addr) } }
    | none => d
  let d := { d with hedge := { d.hedge with topo := rs.filter (fun r => !(r.digest == own)), discIn := none, discRoot := false } }
  checkBound (reroute d)

/-- The root ends discovery (R390): it numbers, floods the records and completes the command with the count. -/
def endDiscovery (d : Dev) : Dev :=
  let rs := numberHedge (hedgeNodes d)
  let d := takeRecords d rs
  let d := (verifiedLinks d).foldl (fun d l => send d (.discovery l 4 rs)) d
  let cmd := d.hedge.discCmd
  let d := { d with hedge := { d.hedge with discCmd := none } }
  match cmd with
  | some i => completeIdx d i 0 0 (le 4 rs.length ++ zeros 4)
  | none => d

/-- HEDGE_DISCOVER's start (R390 phase 1): records held before are forgotten; with nothing to collect it ends at once. -/
def startDiscovery (d : Dev) (c : Cmd) : Dev × Option Bytes :=
  let d := { d with hedge := { d.hedge with topo := [], discRoot := true, discIn := none, discCmd := some c.index } }
  if (verifiedLinks d).isEmpty then
    let d := endDiscovery { d with hedge := { d.hedge with discCmd := none } }
    (d, some (le 4 1 ++ zeros 4))
  else ((verifiedLinks d).foldl (fun d l => send d (.discovery l 1 [])) d, none)

/-- HEDGE_DISCOVER (R389, R390). -/
def hedgeDiscover : Service :=
  { opcode := 0x0060, check := fun _ d _ => if strapHedgeRoot d.root.straps then none else badState d 0xFF, act := fun _ d c => startDiscovery d c }

/-- HEDGE_DISCOVER. -/
def execHedgeDiscover (idx : Nat) (s : State) : Host.Outcome State Fault Refusal := runDev s (serve hedgeDiscover idx)

/-- A second root (R390): 0x0706 and INVALID_FIELD. -/
def rootConflict (d : Dev) (r : TopoRec) (l : Nat) : Dev :=
  let cmd := d.hedge.discCmd
  let d := deviceFault { d with hedge := { d.hedge with discRoot := false, discCmd := none } } 0x0706 (r.addr.getD 0xFFFF) l 98
  match cmd with
  | some i => completeIdx d i 0x0002 (pow2 59) []
  | none => d

/-- DISCOVERY (R390): 1 flood, 2 collect, 4 the records. A flood that comes again on the link it first came on is the next run's: each neighbour sends it
once in a run (log entry 121). -/
def discovery (l phase : Nat) (recs : List TopoRec) (d : Dev) : Dev :=
  match phase with
  | 1 =>
    if d.hedge.discRoot ∨ d.hedge.discIn.any (· != l) then d
    else
      let d := { d with hedge := { d.hedge with discIn := some l } }
      let d := ((verifiedLinks d).filter (· != l)).foldl (fun d k => send d (.discovery k 1 [])) d
      send d (.discovery l 2 [ownRecord d])
  | 2 =>
    if d.hedge.discRoot then
      match recs.find? (fun r => r.root && !(r.digest == ownDigest d)) with
      | some r => rootConflict d r l
      | none =>
        let d := { d with hedge := { d.hedge with topo := recs.foldl (fun t r => (t.filter (fun x => !(x.digest == r.digest))) ++ [r]) d.hedge.topo } }
        if collected (hedgeNodes d) then endDiscovery d else d
    else
      match d.hedge.discIn with
      | some k => send d (.discovery k 2 recs)
      | none => d
  | _ =>
    if d.hedge.discIn.isNone ∧ recs.filter (fun r => !(r.digest == ownDigest d)) = d.hedge.topo then d
    else
      let d := ((verifiedLinks d).filter (· != l)).foldl (fun d k => send d (.discovery k 4 recs)) d
      takeRecords d recs

/-- DISCOVERY: it crosses verified links only. -/
def execDiscovery (link phase : Nat) (recs : List TopoRec) (s : State) : Host.Outcome State Fault Refusal :=
  runDev s (fun _ d =>
    if 48 ≤ link then .fault .noSuchUnit
    else if !(d.links.getD link {}).isVerified then noEvent
    else if phase = 1 ∨ phase = 2 ∨ phase = 4 then .next (discovery link phase recs d)
    else .next (protocolError d ⟨true, link⟩ 1))

/-- LINK_STATE (R391, R395): a newer record is taken, flooded on, and routes follow; a new conflict with the own address raises 0x0705, and a device
whose slots are all FREE clears its address and floods that. -/
def linkState (l : Nat) (r : TopoRec) (d : Dev) : Dev :=
  let old := d.hedge.topo.find? (fun t => t.digest == r.digest)
  let newer := match old with
    | some o => decide (o.seqNo < r.seqNo)
    | none => true
  if r.digest = ownDigest d ∨ !newer then d
  else
    let d := { d with hedge := { d.hedge with topo := (d.hedge.topo.filter (fun t => !(t.digest == r.digest))) ++ [r] } }
    let d := ((verifiedLinks d).filter (· != l)).foldl (fun d k => send d (.record k r)) d
    let d := if d.hedge.addr.isSome ∧ r.addr = d.hedge.addr then
        let a := ownAddr d
        let d := if d.hedge.conflicts.contains a then d else deviceFault d 0x0705 a l 98
        if allFree d then floodOwn { d with hedge := { d.hedge with addr := none } } else d
      else d
    reroute d

/-- LINK_STATE. -/
def execLinkState (link : Nat) (r : TopoRec) (s : State) : Host.Outcome State Fault Refusal :=
  runDev s (fun _ d => if 48 ≤ link then .fault .noSuchUnit else onlyIf ((d.links.getD link {}).isVerified) (linkState link r d))

/-- HEDGE_LINK_DOWN (R380). -/
def execHedgeLinkDown (link reason : Nat) (s : State) : Host.Outcome State Fault Refusal :=
  runDev s (fun _ d =>
    if 48 ≤ link then .fault .noSuchUnit
    else onlyIf ((d.links.getD link {}).up && decide (1 ≤ reason) && decide (reason ≤ 5)) (linkDown d ⟨true, link⟩ reason 0))

/-- Credits of a class held on a link; unlimited counts as many. -/
def creditOf (l : Link) (cls : Nat) : Nat :=
  match l.credits.getD cls (some 0) with
  | some n => n
  | none => 0x100000000

/-- Takes credits of a class. -/
def takeCredit (l : Link) (cls n : Nat) : Link := { l with credits := modifyAt l.credits cls (fun c => c.map (· - n)) }

/-- The alternative with the most free credits, ties to the earlier (R394). -/
def bestAlt (d : Dev) (alts : List Nat) (cls : Nat) : Option Nat :=
  alts.foldl (fun acc l =>
    match acc with
    | none => some l
    | some k => if creditOf (d.links.getD k {}) cls < creditOf (d.links.getD l {}) cls then some l else acc) none

/-- The link a packet takes at this hop (R394): escape for ESCAPE, STRICT and class 0, else an alternative that is up and, for job traffic, admitted. -/
def nextLink (d : Dev) (p : Packet) : Option Nat :=
  let r := (assocGet d.hedge.routes p.dest).getD {}
  let cls := (hedgeClass p.ptype p.pflags).getD 0
  if bit p.pflags 1 ∨ bit p.pflags 2 ∨ cls = 0 then r.escape
  else bestAlt d (r.alts.filter (fun l => (d.links.getD l {}).up && (p.jobTag = 0xFFFFFFFF || (d.links.getD l {}).isAdmitted))) cls

/-- Counts on a link. -/
def countLink (d : Dev) (l : Nat) (f : LinkCounts → LinkCounts) : Dev := modLink d l (fun k => { k with counts := f k.counts })

/-- The job of a tag on this device. -/
def slotOfTag (d : Dev) (tag : Nat) : Option Nat := (List.range 64).find? (fun s => (getJob d s).state ≠ .free && (getJob d s).image.jobTag == tag)

/-- Forwards a packet on a link with credit; without credit it waits and nothing changes. -/
def forwardOn (d : Dev) (l : Nat) (p : Packet) : Dev :=
  let cls := (hedgeClass p.ptype p.pflags).getD 0
  let n := 2 + ceilDiv p.data.length 16
  if creditOf (d.links.getD l {}) cls < n then d
  else sendOn (modLink d l (fun k => takeCredit k cls n)) l p

/-- PACKET_FORWARD (R381, R394, R387): a packet is forwarded only while its HOPS is below 64; each forwarding counts one link more (log entry 94). -/
def packetForward (l : Nat) (p : Packet) (d : Dev) : Dev :=
  if p.jobTag ≠ 0xFFFFFFFF ∧ !(d.links.getD l {}).isAdmitted then protocolError d ⟨true, l⟩ 5
  else if 64 ≤ p.hops then
    let d := countLink d l (fun c => { c with hopDiscards := c.hopDiscards + 1 })
    match slotOfTag d p.jobTag with
    | some s => jobFault d { code := 0x0707, slot := s, die := linkDie ⟨true, l⟩, detail := p.dest, detail2 := p.src }
    | none => d
  else
    match nextLink d p with
    | none => countLink d l (fun c => { c with noRoute := c.noRoute + 1 })
    | some k => forwardOn d k { p with hops := p.hops + 1 }

/-- A packet may be forwarded: a known type that is not link-local, not for this device. -/
def forwardable (d : Dev) (ptype : Nat) (p : PktArg) : Bool :=
  (hedgeClass ptype p.pflags).isSome && !([0x38, 0x39, 0x3A].contains ptype) && decide (d.hedge.addr ≠ some p.dest)

/-- PACKET_FORWARD. -/
def execPacketForward (link ptype : Nat) (p : PktArg) (s : State) : Host.Outcome State Fault Refusal :=
  runDev s (fun _ d =>
    if 48 ≤ link then .fault .noSuchUnit
    else onlyIf ((d.links.getD link {}).isVerified && forwardable d ptype p) (packetForward link (pktOf ptype p) d))

/-- ESCAPE_TIMEOUT (R394 item 3): a packet that waited 2 µs for credits goes on the escape path for the rest of its way. -/
def escapeTimeout (l : Nat) (p : Packet) (d : Dev) : Dev :=
  let d := countLink d l (fun c => { c with escaped := c.escaped + 1 })
  packetForward l { p with pflags := p.pflags ||| 2 } d

/-- ESCAPE_TIMEOUT. -/
def execEscapeTimeout (link ptype : Nat) (p : PktArg) (s : State) : Host.Outcome State Fault Refusal :=
  runDev s (fun _ d =>
    if 48 ≤ link then .fault .noSuchUnit
    else onlyIf ((d.links.getD link {}).isVerified && forwardable d ptype p && !bit p.pflags 1) (escapeTimeout link (pktOf ptype p) d))

/-- The end of the region, or of the extent, that holds a whole range of this device's memory (13 R348). -/
def regionEnd (d : Dev) (a n : Nat) : Option Nat :=
  d.jobs.findSome? (fun j => j.regions.findSome? (fun b =>
    if b.whereCode = 1 ∨ b.whereCode = 2 then
      (b.extents.find? (fun e => decide (e.1 ≤ a) && decide (a < e.1 + e.2) && decide (0 < n))).map (fun e => e.1 + e.2)
    else none))

/-- A range holds a poisoned sector (13 R351). -/
def poisoned (d : Dev) (a n : Nat) : Bool := d.facts.poison.any (fun s => decide (s < a + n) && decide (a < s + 64))

/-- A write that covers a whole poisoned sector clears its poison (13 R351). -/
def clearPoison (d : Dev) (a n : Nat) : Dev :=
  { d with facts := { d.facts with
      poison := d.facts.poison.filter (fun s => !(decide (a ≤ s) && decide (s + 64 ≤ a + n)))
      dirty := d.facts.dirty.filter (fun s => !(decide (a ≤ s.1) && decide (s.1 + 64 ≤ a + n))) } }

/-- Writes device memory. -/
def devWrite (d : Dev) (a : Nat) (bs : Bytes) : Dev := post (clearPoison d a bs.length) a bs

/-- Sends a reply to a packet's source, on the way its class has. -/
def reply (d : Dev) (p : Packet) (q : Packet) : Dev :=
  let q := { q with dest := p.src, src := srcAddr d, engine := p.engine, jobTag := p.jobTag, tag := p.tag }
  match nextLink d q with
  | some l => sendOn d l q
  | none => d

/-- Applies one memory packet at the destination (R384, 13 R348). -/
def applyPacket (m : Memory) (d : Dev) (p : Packet) : Dev :=
  let len := if p.ptype = 1 then p.data.length else p.aux >>> 32
  match regionEnd d p.addr len with
  | some e =>
    if e < p.addr + len then reply d p { ptype := if p.ptype = 1 then 4 else 3, pflags := 1, addr := e, aux := p.aux % pow2 32 }
    else if p.ptype = 1 then devWrite d p.addr p.data
    else if poisoned d p.addr len then reply d p { ptype := 3, pflags := 1, addr := e, aux := p.aux % pow2 32 }
    else reply d p { ptype := 3, addr := e, aux := p.aux % pow2 32, data := memRead (seen m d) p.addr len }
  | none => reply d p { ptype := if p.ptype = 1 then 4 else 3, pflags := 1, aux := p.aux % pow2 32 }

/-- The order bookkeeping of a source pair. -/
def getRx (d : Dev) (e src : Nat) : OseqRx := (d.hedge.rx.find? (fun x => x.engine == e && x.src == src)).getD { engine := e, src := src }

/-- Writes it. -/
def setRx (d : Dev) (x : OseqRx) : Dev :=
  { d with hedge := { d.hedge with rx := (d.hedge.rx.filter (fun y => !(y.engine == x.engine && y.src == x.src))) ++ [x] } }

/-- Acknowledges the writes applied in order (R384). -/
def sendAck (d : Dev) (x : OseqRx) : Dev :=
  let d := setRx d { x with unacked := 0 }
  reply d { ptype := 1, src := x.src, engine := x.engine } { ptype := 4, addr := x.endAddr, aux := (x.next + pow2 32 - 1) % pow2 32 }

/-- Applies the packets of a pair that are next in OSEQ order. -/
def drainRx (m : Memory) : Nat → Dev → OseqRx → Dev
  | 0, d, x => setRx d x
  | n + 1, d, x =>
    match x.waiting.find? (fun p => p.aux % pow2 32 == x.next % pow2 32) with
    | none => setRx d x
    | some p =>
      let d := applyPacket m d p
      let lastEnd := if p.ptype = 1 then (regionEnd d p.addr p.data.length).getD 0 else x.endAddr
      let x := { x with
        next := x.next + 1, waiting := x.waiting.filter (fun q => !(q.aux % pow2 32 == x.next % pow2 32)), unacked := x.unacked + b2n (p.ptype = 1), endAddr := lastEnd }
      if 64 ≤ x.unacked then drainRx m n (sendAck d x) { x with unacked := 0 } else drainRx m n d x

/-- A memory packet arrives (R384): applied in OSEQ order, which counts modulo 2^32; one applied before is dropped, one beyond the window is a protocol
error. -/
def memPacket (l : Nat) (p : Packet) (m : Memory) (d : Dev) : Dev :=
  let x := getRx d p.engine p.src
  let ahead := (p.aux % pow2 32 + pow2 32 - x.next % pow2 32) % pow2 32
  if p.jobTag ≠ 0xFFFFFFFF ∧ !(d.links.getD l {}).isAdmitted then protocolError d ⟨true, l⟩ 5
  else if pow2 31 ≤ ahead then d
  else if 1024 ≤ ahead then protocolError d ⟨true, l⟩ 4
  else drainRx m (x.waiting.length + 1) d { x with waiting := x.waiting ++ [p] }

/-- A packet addressed to this device on a verified link. -/
def forThis (d : Dev) (l : Nat) (p : PktArg) : Bool := (d.links.getD l {}).isVerified && decide (d.hedge.addr = some p.dest)

/-- HEDGE_MEM_WRITE (R384): 1 to 4,096 bytes. -/
def execHedgeMemWrite (link : Nat) (p : PktArg) (s : State) : Host.Outcome State Fault Refusal :=
  runDev s (fun m d =>
    if 48 ≤ link then .fault .noSuchUnit
    else onlyIf (forThis d link p && decide (1 ≤ p.data.length) && decide (p.data.length ≤ 4096)) (memPacket link (pktOf 1 p) m d))

/-- HEDGE_MEM_READ (R384): the LENGTH of the read stands in AUX above the OSEQ in this model's command (log entry 12). -/
def execHedgeMemRead (link : Nat) (p : PktArg) (s : State) : Host.Outcome State Fault Refusal :=
  runDev s (fun m d =>
    if 48 ≤ link then .fault .noSuchUnit
    else onlyIf (forThis d link p && decide (1 ≤ p.aux >>> 32) && decide (p.aux >>> 32 ≤ 4096)) (memPacket link (pktOf 2 p) m d))

/-- WRITE_ACK_TIMER (R384): 1 µs after the last write applied. -/
def execWriteAckTimer (engine src : Nat) (s : State) : Host.Outcome State Fault Refusal :=
  runDev s (fun _ d => onlyIf (decide (0 < (getRx d engine src).unacked)) (sendAck d (getRx d engine src)))

/-- The time parent's link (R397): the verified neighbour of lowest rank, below this device, ties to the lowest link. -/
def timeParent (d : Dev) : Option Nat :=
  let own := rankOf (ownRecord d)
  let cs := (verifiedLinks d).filterMap (fun l =>
    match d.hedge.topo.find? (fun t => t.digest == (d.links.getD l {}).peer.digest) with
    | some t => if t.addr.isSome && decide (rankOf t < own) then some (some (rankOf t), l) else none
    | none => none)
  if d.hedge.addr.isNone then none else bestLink cs

/-- TIME_SYNC_TICK (R397): every 1 ms a request to the time parent. -/
def timeSyncTick (d : Dev) : Dev :=
  match timeParent d with
  | some l => sendOn { d with hedge := { d.hedge with t1 := some d.time } } l { ptype := 0x3A, src := srcAddr d, aux := 1, data := le 8 d.time }
  | none => d

/-- TIME_SYNC_TICK. -/
def execTimeSyncTick (s : State) : Host.Outcome State Fault Refusal := runDev s (fun _ d => .next (timeSyncTick d))

/-- Applies an offset (R397): the first alignment with every slot FREE steps the timestamp; every other correction slews it by at most 100 ppm of the
1 ms between requests, and it never decreases. -/
def applyOffset (d : Dev) (off : Int) : Dev :=
  if allFree d ∧ !d.hedge.aligned then { d with time := ((d.time : Int) + off).toNat, hedge := { d.hedge with aligned := true, slew := 0 } }
  else
    let k := if off < -100 then -100 else if 100 < off then 100 else off
    { d with time := d.time + k.toNat, hedge := { d.hedge with aligned := true, slew := k } }

/-- TIME_SYNC (R397): a request is answered with the times of its arrival and of the reply; a reply corrects the timestamp. -/
def timeSync (l kind t1 t2 t3 : Nat) (d : Dev) : DevOut :=
  if kind = 1 then .next (sendOn d l { ptype := 0x3A, src := srcAddr d, aux := 2, data := le 8 t1 ++ le 8 d.time ++ le 8 d.time })
  else if kind = 2 then
    match d.hedge.t1 with
    | some t => onlyIf (decide (t = t1))
        (checkBound (applyOffset { d with hedge := { d.hedge with t1 := none } } ((((t2 : Int) - t1) - ((d.time : Int) - t3)) / 2)))
    | none => noEvent
  else .next (protocolError d ⟨true, l⟩ 1)

/-- TIME_SYNC. -/
def execTimeSync (link kind t1 t2 t3 : Nat) (s : State) : Host.Outcome State Fault Refusal :=
  runDev s (fun _ d => if 48 ≤ link then .fault .noSuchUnit else if (d.links.getD link {}).isVerified then timeSync link kind t1 t2 t3 d else noEvent)

end Sys2Proof.Machine
end

