-- ==== Sys2Proof/Machine/Regions.lean ====
section
/-!
DEFINITION. Device memory held by jobs, region bindings and accesses to regions (13 R331, R332, R335, R345 to R348, R351, R452; 03 REGION_MAP).
-/

namespace Sys2Proof.Machine

open Sys2Proof

/-- A page of device memory. -/
def pageBytes : Nat := 0x200000
/-- Bytes of a stack, and of its reserve (R331, R335). -/
def stackBytes : Nat := 0xC00000000
/-- The reserve Oluat holds at the bottom of each stack. -/
def stackReserve : Nat := 0x10000000

/-- Two ranges share a byte. -/
def rangesMeet (a n b k : Nat) : Bool := decide (a < b + k) && decide (b < a + n)

/-- Ranges of HBM taken from the free pool: pages of where 1 regions and private areas (R345, R346), shale areas (06 R169), and the checkpoint store where the
tier is absent (R344). -/
def hbmHeld (d : Dev) : List (Nat × Nat) :=
  (d.jobs.map (fun j => (j.regions.map (·.pages)).flatten ++ j.areas ++ (j.saved.map (·.2.2)).flatten ++ ((j.shaleAreas.map (·.2)).flatten.filter (fun x => decide (x.1 < tierBase))))).flatten ++
    (d.ckpts.map (·.area)).flatten

/-- Ranges that an allocation must avoid: those taken and those mapped at a given address. -/
def hbmUsed (d : Dev) : List (Nat × Nat) :=
  hbmHeld d ++ (d.jobs.map (fun j => ((j.regions.filter (fun b => decide (b.whereCode = 2))).map (·.extents)).flatten)).flatten

/-- First address of a stack that jobs may hold. -/
def stackLow (s : Nat) : Nat := s * stackBytes + stackReserve
/-- End of a stack. -/
def stackHigh (s : Nat) : Nat := (s + 1) * stackBytes

/-- A run of free bytes starts here and stays in its stack. -/
def runFree (used : List (Nat × Nat)) (s a n : Nat) : Bool :=
  decide (stackLow s ≤ a) && decide (a + n ≤ stackHigh s) && !(used.any (fun u => rangesMeet a n u.1 u.2))

/-- Where a free run may begin: the bottom of the stack, or behind a taken range. -/
def runStarts (used : List (Nat × Nat)) (s : Nat) : List Nat :=
  sortBy id (stackLow s :: (used.map (fun u => roundUp (u.1 + u.2) pageBytes)).filter (fun a => decide (stackLow s ≤ a) && decide (a < stackHigh s)))

/-- The lowest free run of a length in a stack. -/
def findRun (used : List (Nat × Nat)) (s n : Nat) : Option Nat := (runStarts used s).find? (fun a => runFree used s a n)

/-- Bytes free from an address of a stack upward. -/
def runLength (used : List (Nat × Nat)) (s a : Nat) : Nat :=
  let hi := used.foldl (fun h u => if a ≤ u.1 ∧ u.1 < h then u.1 else h) (stackHigh s)
  if used.any (fun u => decide (u.1 ≤ a) && decide (a < u.1 + u.2)) then 0 else (hi - a) / pageBytes * pageBytes

/-- The longest free run of a stack. -/
def bestRun (used : List (Nat × Nat)) (s : Nat) : Nat × Nat :=
  ((runStarts used s).map (fun a => (a, runLength used s a))).foldl (fun b x => if b.2 < x.2 then x else b) (stackLow s, 0)

/-- Extents on consecutive stacks from `s` upward that give `n` bytes (R452). -/
def extentsFrom (used : List (Nat × Nat)) : Nat → Nat → Nat → Option (List (Nat × Nat))
  | 0, _, n => if n = 0 then some [] else none
  | k + 1, s, n =>
    if n = 0 then some []
    else if 24 ≤ s then none
    else
      let (a, l) := bestRun used s
      if l = 0 then none
      else
        let t := min l n
        match extentsFrom used k (s + 1) (n - t) with
        | some r => some ((a, t) :: r)
        | none => none

/-- The pseudo-channel of an address within its stack (R334). Nothing the model shows depends on it. -/
def pseudoChannel (off : Nat) : Nat := Nat.xor (off >>> 8) (off >>> 13) % 32

/-- The tier channel of an address of the tier, and its die (R341). -/
def tierChannel (a : Nat) : Nat := (a - tierBase) / 4096 % 64
/-- The tier die of a channel (16 R414). -/
def tierDie (ch : Nat) : Nat := 68 + ch / 8

/-- Allocates device memory in whole pages: in one stack where one can hold it, the preferred one first, else in extents on consecutive stacks (R345,
R452). -/
def allocNear (d : Dev) (near : Option Nat) (n : Nat) : Option (List (Nat × Nat)) :=
  let used := hbmUsed d
  let n := roundUp n pageBytes
  match (near.toList ++ List.range 24).findSome? (fun s => (findRun used s n).map (fun a => [(a, n)])) with
  | some r => some r
  | none => (List.range 24).findSome? (fun s => extentsFrom used 24 s n)

/-- Allocates device memory with no stack preferred. -/
def allocHbm (d : Dev) (n : Nat) : Option (List (Nat × Nat)) := allocNear d none n

/-- The stack that a hint of kind 2 asks for: its station runs near the region, on the first compute die that the job holds, which borders the stack of its
own number (R345; 02, The job image; 16 R414; log entry 123). -/
def hintStack (j : Job) (id : Nat) : Option Nat :=
  if j.image.hints.any (fun h => h.kind == 2 && h.value == id) then
    ((sortBy (fun e => e) ((j.units.filter (fun u => u.kind == 1)).map (·.die))).head?).filter (fun e => decide (e < 24))
  else none

/-- Tier bytes IDENTIFY reports: seven eighths of the raw capacity, or 0 (01 R19, R341). -/
def tierBytes (d : Dev) : Nat := if strapTier d.root.straps then 64 * d.facts.tierGib * pow2 30 / 8 * 7 else 0

/-- Bytes of the tier that areas may use: all but Oluat's own part, the intake logs and the tables placed there (R341; 04 R117, R123; 06 R184). -/
def storeTotal (d : Dev) : Nat :=
  tierBytes d - 4 * pow2 30 -
    d.jobs.foldl (fun a j => a + (if j.state = .free then 0 else j.image.intakeLogBytes) + (j.tierTables.map (·.2)).foldl (· + ·) 0) 0

/-- Free gaps of a range between taken ones, which ascend. -/
def gapsOf (hi : Nat) : Nat → List (Nat × Nat) → List (Nat × Nat)
  | lo, [] => if lo < hi then [(lo, hi - lo)] else []
  | lo, (a, n) :: us => (if lo < a then [(lo, a - lo)] else []) ++ gapsOf hi (max lo (a + n)) us

/-- Takes bytes from gaps, lowest first. -/
def fromGaps : List (Nat × Nat) → Nat → Option (List (Nat × Nat))
  | [], n => if n = 0 then some [] else none
  | (a, k) :: gs, n => if n = 0 then some [] else if n ≤ k then some [(a, n)] else (fromGaps gs (n - k)).map (fun r => (a, k) :: r)

/-- Extents of the tier that are taken: checkpoints, areas of shale stations, join tables (04 R117; 06 R169, 07 R209). -/
def tierHeld (d : Dev) : List (Nat × Nat) :=
  ((d.ckpts.map (·.area)).flatten ++ (d.jobs.map (fun j => ((j.shaleAreas ++ j.joinAreas).map (·.2)).flatten)).flatten).filter (fun x => decide (tierBase ≤ x.1))

/-- Bytes of the tier that no area, log or table takes. -/
def tierFree (d : Dev) : Nat := storeTotal d - ((tierHeld d).map (·.2)).foldl (· + ·) 0

/-- Allocates an area of the tier in units of 1 MiB (R341), above Oluat's own part. -/
def allocTier (d : Dev) (n : Nat) : Option (List (Nat × Nat)) :=
  let n := roundUp n 0x100000
  if tierFree d < n then none else fromGaps (gapsOf (tierBase + tierBytes d) (tierBase + 4 * pow2 30) (sortBy (·.1) (tierHeld d))) n

/-- Allocates a private area for a job (R346). -/
def takeArea (d : Dev) (slot n : Nat) : Option Dev :=
  if n = 0 then some d
  else (allocHbm d n).map (fun e => modJob d slot (fun j => { j with areas := j.areas ++ e }))

/-- The reference to a region in a job's image. -/
def regionRef (j : Job) (id : Nat) : Option RegionD := j.image.regions.find? (fun r => r.id == id)

/-- A job's binding of a region. -/
def binding (j : Job) (id : Nat) : Option Binding := j.regions.find? (fun b => b.id == id)

/-- The remote window's hedge address and local address (R331). -/
def remoteParts (a : Nat) : Nat × Nat := (field a 61 48, field a 47 0)

/-- An address lies in the remote window. -/
def isRemote (a : Nat) : Bool := decide (field a 63 62 = 1) && decide (a < pow2 64)

/-- A local address of the local window: HBM, the tier or cluster SRAM (R331). -/
def inLocal (d : Dev) (a : Nat) : Bool :=
  decide (a < hbmEnd) || (decide (tierBase ≤ a) && decide (a < tierBase + 64 * d.facts.tierGib * pow2 30 / 8 * 7) && strapTier d.root.straps) ||
  (decide (sramBase ≤ a) && decide (a < sramEnd))

/-- An address that some device's local window may hold: HBM, the tier's range or cluster SRAM (R331). A peer's tier capacity is known to the peer only. -/
def inWindow (a : Nat) : Bool := decide (a < hbmEnd) || (decide (tierBase ≤ a) && decide (a < sramEnd))

/-- Why an access failed: refused, with the first address outside; poisoned, with the sector; a bus error, with its source and address. -/
inductive AccErr where
  | refused (addr : Nat)
  | poison (addr : Nat)
  | bus (source addr : Nat)
  deriving DecidableEq, Repr

/-- The pieces of a range of region offsets, split at extent boundaries (R452); short where the region ends. -/
def pieces : List (Nat × Nat) → Nat → Nat → List (Nat × Nat)
  | [], _, _ => []
  | (a, n) :: es, off, len =>
    if len = 0 then []
    else if n ≤ off then pieces es (off - n) len
    else
      let t := min len (n - off)
      (a + off, t) :: pieces es 0 (len - t)

/-- The device address of a region offset; the end of the last extent for one past it. -/
def Binding.addrOf (b : Binding) (off : Nat) : Nat :=
  match pieces b.extents off 1 with
  | p :: _ => p.1
  | [] => match b.extents.getLast? with
    | some (a, n) => a + n
    | none => b.addr + off

/-- Reads a range of a region: within the region, not poisoned, in host memory that answers. -/
def regRead (m : Memory) (d : Dev) (b : Binding) (off len : Nat) : Except AccErr Bytes :=
  if b.bytes < off + len then .error (.refused (b.addrOf b.bytes))
  else if b.whereCode = 0 then
    (if hostOk d (b.addr - hostBase + off) len then .ok (memRead (seen m d) (b.addr + off) len) else .error (.bus 3 (b.addr + off)))
  else if b.whereCode = 3 then .ok (padTo len (Config.remoteBytes d.free (b.addr + off) len))
  else
    let ps := pieces b.extents off len
    match ps.findSome? (fun p => d.facts.poison.find? (fun s => decide (s < p.1 + p.2) && decide (p.1 < s + 64))) with
    | some s => .error (.poison s)
    | none => .ok ((ps.map (fun p => memRead (seen m d) p.1 p.2)).flatten)

/-- The order bookkeeping of a pair as a source. -/
def getTx (d : Dev) (e dest : Nat) : OseqTx := (d.hedge.tx.find? (fun x => x.engine == e && x.dest == dest)).getD { engine := e, dest := dest }

/-- Writes it. -/
def setTx (d : Dev) (x : OseqTx) : Dev :=
  { d with hedge := { d.hedge with tx := (d.hedge.tx.filter (fun y => !(y.engine == x.engine && y.dest == x.dest))) ++ [x] } }

/-- Sends a packet where its route goes; without one it is discarded (15 R394). -/
def sendRouted (d : Dev) (p : Packet) : Dev :=
  match nextLink d p with
  | some l => sendOn d l p
  | none => d

/-- Sends the waiting packets of a pair that its window of 1,024 unacknowledged OSEQs admits (15 R384). -/
def releaseTx (d : Dev) (x : OseqTx) : Dev :=
  let n := 1024 + x.waiting.length + x.acked - x.next
  (x.waiting.take n).foldl sendRouted (setTx d { x with waiting := x.waiting.drop n })

/-- Issues one memory packet of an engine to a peer, with the next OSEQ of the pair; beyond the window it waits (15 R384). -/
def sendMem (d : Dev) (ptype e tag jobTag addr len : Nat) (bs : Bytes) : Dev :=
  let (dest, la) := remoteParts addr
  let x := getTx d e dest
  let p : Packet := { ptype := ptype, dest := dest, src := srcAddr d, engine := e, jobTag := jobTag, tag := tag, addr := la,
                      aux := x.next % pow2 32 + (if ptype = 2 then len * pow2 32 else 0), data := bs }
  releaseTx d { x with next := x.next + 1, waiting := x.waiting ++ [p] }

/-- Writes to a peer in packets of at most 4,096 bytes. -/
def sendWrites (e jobTag : Nat) : Nat → Dev → Nat → Bytes → Dev
  | 0, d, _, _ => d
  | n + 1, d, a, bs =>
    if bs.length = 0 then d
    else sendWrites e jobTag n (sendMem d 1 e 0 jobTag a 0 (bs.take 4096)) (a + 4096) (bs.drop 4096)

/-- Posts the bytes of a range's pieces. -/
def writePieces (d : Dev) : List (Nat × Nat) → Bytes → Dev
  | [], _ => d
  | p :: ps, bs => writePieces (devWrite d p.1 (bs.take p.2)) ps (bs.drop p.2)

/-- Writes a range of a region; nothing is written past its end. The engine is the mover engine that issues remote writes. -/
def regWrite (d : Dev) (b : Binding) (engine jobTag off : Nat) (bs : Bytes) : Except AccErr Dev :=
  if b.bytes < off + bs.length then .error (.refused (b.addrOf b.bytes))
  else if b.whereCode = 0 then
    (if hostOk d (b.addr - hostBase + off) bs.length then .ok (hostWrite d (b.addr - hostBase + off) bs) else .error (.bus 3 (b.addr + off)))
  else if b.whereCode = 3 then .ok (sendWrites engine jobTag (bs.length / 4096 + 1) d (b.addr + off) bs)
  else .ok (writePieces d (pieces b.extents off bs.length) bs)

/-- Another job's binding that overlaps a range, one of the two with write access (R345). -/
def overlapsOther (d : Dev) (slot a n : Nat) (write : Bool) : Bool :=
  d.jobs.zipIdx.any (fun (j, s) => s != slot && j.regions.any (fun b =>
    (write || ((regionRef j b.id).map (fun r => bit r.access 1)).getD false) && b.extents.any (fun e => rangesMeet a n e.1 e.2)))

/-- A page range lies in the HBM free pool or in pages already mapped to this job (R345). -/
def pagesAvailable (d : Dev) (slot a n : Nat) : Bool :=
  let own := ((getJob d slot).regions.map (·.pages)).flatten
  let s := a / stackBytes
  (runFree (hbmHeld d) s a n) || own.any (fun e => decide (e.1 ≤ a) && decide (a + n ≤ e.1 + e.2))

/-- REGION_MAP's own checks (R345, R332). -/
def regionMapCheck (d : Dev) (c : Cmd) : Option (Nat × Nat) :=
  let j := getJob d c.slot
  let id := u16at c.body 0
  let w := u8at c.body 2
  let a := u64at c.body 8
  let n := u64at c.body 0x10
  match regionRef j id with
  | none => badField 0
  | some r =>
    if (binding j id).isSome then badField 0
    else match w with
    | 0 => if a % 64 ≠ 0 then badField 8 else if n % 64 ≠ 0 ∨ n = 0 then badField 0x10 else if pow2 57 < a + n then badField 8 else none
    | 1 => if a ≠ 0 then badField 8 else if n = 0 then badField 0x10 else if (allocHbm d n).isNone then some (0x0005, 0x09) else none
    | 2 =>
      if a % pageBytes ≠ 0 then badField 8
      else if n % pageBytes ≠ 0 then badField 0x10
      else if !pagesAvailable d c.slot a n ∨ overlapsOther d c.slot a n (bit r.access 1) then badField 8
      else none
    | 3 =>
      if !isRemote a ∨ d.hedge.addr = some (remoteParts a).1 then badField 8
      else if pow2 48 ≤ (remoteParts a).2 + n ∨ !inWindow (remoteParts a).2 then badField 8
      else none
    | _ => badField 2

/-- The binding a REGION_MAP makes. -/
def newBinding (d : Dev) (c : Cmd) : Binding :=
  let id := u16at c.body 0
  let a := u64at c.body 8
  let n := u64at c.body 0x10
  match u8at c.body 2 with
  | 0 => { id := id, whereCode := 0, addr := hostBase + a, bytes := n, extents := [(hostBase + a, n)] }
  | 1 =>
    let ps := (allocNear d (hintStack (getJob d c.slot) id) n).getD []
    { id := id, whereCode := 1, addr := (ps.head?.map (·.1)).getD 0, bytes := n, extents := pieces ps 0 n, pages := ps }
  | w => { id := id, whereCode := w, addr := a, bytes := n, extents := [(a, n)] }

/-- REGION_MAP's response: 8 bytes, or 400 with the extents (R452). -/
def mapReport (b : Binding) (resp : Nat) : Bytes :=
  if resp < 400 then le 8 b.addr
  else padTo 400 (le 8 b.addr ++ le 4 b.extents.length ++ zeros 4 ++ (b.extents.map (fun e => le 8 e.1 ++ le 8 e.2)).flatten)

/-- REGION_MAP (R345). -/
def regionMap : Service :=
  { opcode := 0x0030, check := fun _ d c => regionMapCheck d c,
    act := fun _ d c =>
      let b := newBinding d c
      (modJob d c.slot (fun j => { j with regions := j.regions ++ [b] }), some (mapReport b c.respBytes)) }

/-- REGION_MAP. -/
def execRegionMap (idx : Nat) (s : State) : Host.Outcome State Fault Refusal := runDev s (serve regionMap idx)

/-- Removes a binding: pages of where 1 return to the pool and their contents are lost (R345, 03 R91). -/
def unmapRegion (d : Dev) (slot : Nat) (b : Binding) : Dev :=
  let d := modJob d slot (fun j => { j with regions := j.regions.filter (fun x => x.id != b.id) })
  { d with posted := d.posted ++ b.pages.map (fun p => .lose p.1 (p.1 + p.2)) }

/-- REGION_UNMAP (R345). -/
def regionUnmap : Service :=
  { opcode := 0x0031,
    check := fun _ d c =>
      let j := getJob d c.slot
      if (regionRef j (u16at c.body 0)).isNone then badField 0
      else if (binding j (u16at c.body 0)).isNone then some (0x0006, u16at c.body 0)
      else none,
    act := fun _ d c =>
      match binding (getJob d c.slot) (u16at c.body 0) with
      | some b => (unmapRegion d c.slot b, some [])
      | none => (d, some []) }

/-- REGION_UNMAP. -/
def execRegionUnmap (idx : Nat) (s : State) : Host.Outcome State Fault Refusal := runDev s (serve regionUnmap idx)

/-- The memory fault of a poisoned read that no mover made (R351, R354): code and DETAIL. -/
def poisonFault (d : Dev) (a : Nat) : Nat × Nat :=
  match d.facts.dirty.find? (fun s => s.1 == a / 64 * 64) with
  | some s => (0x0502, s.2)
  | none =>
  if a < hbmEnd then (0x0501, a / stackBytes)
  else if sramBase ≤ a ∧ a < sramEnd then (0x0504, (a - sramBase) / 0x40000)
  else (0x0503, tierChannel a)

/-- A fixed-function engine's failed access (R347, R351): refused is 0x0505, which requires a full reset; poison is the memory's fault. -/
def engineFault (d : Dev) (f : FaultInfo) (e : AccErr) : Dev :=
  match e with
  | .refused a => jobFaultReset d { f with code := 0x0505, detail := f.die, detail2 := a }
  | .poison a => jobFault d { f with code := (poisonFault d a).1, detail := (poisonFault d a).2, detail2 := a }
  | .bus s a => jobFault d { f with code := 0x0401, detail := moverDetail s 0 0 0, detail2 := a }

end Sys2Proof.Machine
end

