-- ==== Sys2Proof/Machine/SelectParam.lean ====
section
/-!
DEFINITION. The parameter block of a select station and the type checks it makes of a tile (09 R246, R260; 02 R455).
-/

namespace Sys2Proof.Machine

open Sys2Proof

/-- The select parameter block (R246). -/
structure SelP where
  k : Nat
  valueCol : Nat
  ty : Ty
  groupCol : Nat
  indexCol : Nat
  ties : Nat
  nan : Nat
  deriving DecidableEq, Repr

/-- Reads the block. -/
def selP (p : Bytes) : SelP :=
  { k := u8at p 0, valueCol := u8at p 1, ty := (Ty.ofCode (u8at p 2)).getD .u8, groupCol := u8at p 3, indexCol := u8at p 4, ties := u8at p 5, nan := u8at p 6 }

/-- Merge mode: an index column is named (R246). -/
def SelP.merge (q : SelP) : Bool := decide (q.indexCol ≠ 0xFF)

/-- A column of a tile with a type other than the one asked (R260). -/
def wrongType (t : Tile) (c : Nat) (ty : Ty) : Bool := t.cols.any (fun x => x.num == c && decide (x.ty ≠ ty))

/-- The type checks of R260 on a tile, given the types that the queue's earlier tiles fixed: the failing column. A column that the station does not use is
checked by 02 R455 as well. -/
def selTypes (q : SelP) (known : List (Nat × Ty)) (t : Tile) : Option Nat :=
  if t.format ≠ TFmt.columns.code then none
  else if wrongType t q.valueCol q.ty then some q.valueCol
  else if q.merge && wrongType t q.indexCol .u32 then some q.indexCol
  else
    let changed (c : Nat) (ty : Ty) : Bool := ((assocGet known c).map (fun k => decide (k ≠ ty))).getD false
    if t.cols.any (fun x => x.num == q.groupCol && changed x.num x.ty) then some q.groupCol
    else (t.cols.find? (fun x => changed x.num x.ty)).map (·.num)

end Sys2Proof.Machine
end

