-- ==== Sys2Proof/Machine/Stations.lean ====
section
/-!
DEFINITION. Queues and stations at run time: sealing, credits, the spill valve, the watchdog (02 R27 to R55, R455).
-/

namespace Sys2Proof.Machine

open Sys2Proof

/-- A queue of a running job. -/
def getQ (d : Dev) (slot n : Nat) : QRun := (getJob d slot).rt.queues.getD n {}

/-- Changes a queue. -/
def modQ (d : Dev) (slot n : Nat) (f : QRun → QRun) : Dev := modJob d slot (fun j => { j with rt := { j.rt with queues := modifyAt j.rt.queues n f } })

/-- A station of a running job. -/
def getSt (d : Dev) (slot st : Nat) : StRun := (getJob d slot).rt.stations.getD st {}

/-- Changes a station. -/
def modSt (d : Dev) (slot st : Nat) (f : StRun → StRun) : Dev := modJob d slot (fun j => { j with rt := { j.rt with stations := modifyAt j.rt.stations st f } })

/-- Changes an input port. -/
def modIn (d : Dev) (slot st p : Nat) (f : InPort → InPort) : Dev := modSt d slot st (fun s => { s with ins := modifyAt s.ins p f })

/-- Changes an output port. -/
def modOut (d : Dev) (slot st p : Nat) (f : OutPort → OutPort) : Dev := modSt d slot st (fun s => { s with outs := modifyAt s.outs p f })

/-- An input port. -/
def getIn (d : Dev) (slot st p : Nat) : InPort := (getSt d slot st).ins.getD p {}

/-- An output port. -/
def getOut (d : Dev) (slot st p : Nat) : OutPort := (getSt d slot st).outs.getD p {}

/-- Writes what a station keeps of its own. -/
def setKind (d : Dev) (slot st : Nat) (k : KindSt) : Dev := modSt d slot st (fun s => { s with kind := k })

/-- Adds to a counter of a station (16 R422). -/
def countSt (d : Dev) (slot st i n : Nat) : Dev := modSt d slot st (fun s => { s with counts := (List.range (max s.counts.length (i + 1))).map (fun k => s.counts.getD k 0 + (if k = i then n else 0)) })

/-- A station's descriptor. -/
def descSt (d : Dev) (slot st : Nat) : StationD := (getJob d slot).image.stations.getD st {}

/-- A station's parameter block. -/
def paramSt (d : Dev) (slot st : Nat) : Bytes := (getJob d slot).image.param st

/-- The number of the queue an output port produces. -/
def outQueueNo (j : Job) (st p : Nat) : Nat := (j.image.queues.findIdx? (fun q => q.producer == st && q.producerPort == p)).getD j.image.queues.length

/-- The queue an input port consumes, and which of its consumers the port is. -/
def inQueueNo (j : Job) (st p : Nat) : Option (Nat × Nat) :=
  match j.image.queues.findIdx? (fun q => q.ends.contains (st, p)) with
  | some n => ((j.image.queues.getD n {}).ends.findIdx? (· == (st, p))).map (fun k => (n, k))
  | none => none

/-- The die of a station's first instance, as placed; the control die for none. -/
def stationDie (j : Job) (st : Nat) : Nat :=
  match j.placed.find? (fun r => r.station == st) with
  | some r => r.res.die
  | none => 98

/-- A fault report about a station. -/
def stFault (d : Dev) (slot st code detail detail2 : Nat) : FaultInfo :=
  { code := code, slot := slot, die := stationDie (getJob d slot) st, consumer := st, detail := detail, detail2 := detail2 }

/-- A job fault that a station raises. -/
def stationFault (d : Dev) (slot st code detail detail2 : Nat) : Dev := jobFault d (stFault d slot st code detail detail2)

/-- The mover engine that acts for a station: that of its first placed channel. -/
def stationEngine (j : Job) (st : Nat) : Nat :=
  match j.placed.find? (fun r => r.station == st && decide (r.res.kind = 6)) with
  | some r => 4 * r.res.die + r.res.index / 64
  | none => 0

/-- The channel of that engine. -/
def stationChan (j : Job) (st : Nat) : Nat :=
  match j.placed.find? (fun r => r.station == st && decide (r.res.kind = 6)) with
  | some r => r.res.index % 64
  | none => 0

/-- A mover's failed access: refused is the bound fault 0x0402, poisoned data and a failed answer are bus errors of the engine (12 R312, R325, R330; 13 R351). -/
def moverAccess (d : Dev) (slot st : Nat) (e : AccErr) : Dev :=
  let j := getJob d slot
  let eng := stationEngine j st
  match e with
  | .refused a => jobFault d { code := 0x0402, slot := slot, die := engineDie eng, consumer := st, detail := moverDetail 0 eng (stationChan j st) 0, detail2 := a }
  | .poison a => busError d eng (memSource a) a
  | .bus s a => busError d eng s a

/-- A notice that a station writes: a FAULT event, the job's state unchanged. -/
def stationNotice (d : Dev) (slot st code detail detail2 : Nat) : Dev := jobNotice d (stFault d slot st code detail detail2)

/-- Tiles of a job in its spill areas (R54). -/
def spillTiles (j : Job) : Nat := j.rt.queues.foldl (fun a q => a + q.spilled.length) 0

/-- A queue's slots are all in use. -/
def queueFull (j : Job) (n : Nat) (q : QRun) : Bool := decide ((j.image.queues.getD n {}).depth ≤ q.tiles.length)

/-- A station is a shale station that has received bytes of a block without a header (06 R186). -/
def headerless (j : Job) (st : Nat) : Bool :=
  match (j.rt.stations.getD st {}).kind with
  | .shale x => decide (4096 * x.block < x.received)
  | _ => false

/-- A queue is blocked (R51): full, and its producer holds a tile that waits, or waits in the middle of one (06 R182); or its producer is a shale station with
a tile that lies partly in a block without a header, which counts as held in a full queue (06 R186). -/
def queueBlocked (j : Job) (n : Nat) (q : QRun) : Bool :=
  (queueFull j n q && (!q.held.isEmpty || q.wants)) || headerless j (j.image.queues.getD n {}).producer

/-- Puts a sealed tile where it goes: a free slot, the spill area while the valve is open, or the producer waits with it (R45, R53, R54). -/
def placeTile (d : Dev) (slot n : Nat) (t : Tile) : Dev :=
  let j := getJob d slot
  let q := getQ d slot n
  if q.valve && (queueFull j n q || !q.spilled.isEmpty) then
    if j.image.spillBudget < 4160 * (spillTiles j + 1) then
      jobFault d { code := 0x0112, slot := slot, queue := n, producer := (j.image.queues.getD n {}).producer, seqNo := t.seq }
    else modQ d slot n (fun q => { q with spilled := q.spilled ++ [t], moved := true })
  else if queueFull j n q || !q.held.isEmpty then modQ d slot n (fun q => { q with held := q.held ++ [t], moved := q.moved || q.held.isEmpty })
  else modQ d slot n (fun q => { q with tiles := q.tiles ++ [t], moved := true })

/-- Moves waiting tiles into free slots, oldest first; spilled tiles come before them (R53). -/
def pump : Nat → Dev → Nat → Nat → Dev
  | 0, d, _, _ => d
  | k + 1, d, slot, n =>
    let q := getQ d slot n
    match q.held with
    | [] => d
    | t :: r =>
      if q.valve then pump k (placeTile (modQ d slot n (fun q => { q with held := r })) slot n t) slot n
      else if queueFull (getJob d slot) n q then d
      else pump k (modQ d slot n (fun q => { q with tiles := q.tiles ++ [t], held := r, moved := true })) slot n

/-- Seals a tile onto an output port's queue (R27 to R32); SEQ or FIRST_ROW beyond 48 bits is 0x0113. -/
def sealTile (d : Dev) (slot st port rows columns : Nat) (payload : Bytes) (eos : Bool) : Dev :=
  let j := getJob d slot
  let n := outQueueNo j st port
  let q := getQ d slot n
  if pow2 48 ≤ q.nextSeq ∨ pow2 48 ≤ q.nextRow then
    jobFault d { code := 0x0113, slot := slot, queue := n, producer := st, seqNo := q.nextSeq % pow2 48 }
  else
    let t : Tile := { format := (j.image.queues.getD n {}).format, jobSlot := slot, flags := b2n eos + 2 + 4 * b2n j.replaying, jobTag := j.image.jobTag,
                      producer := st, rowCount := rows, queue := n, seq := q.nextSeq, epoch := j.openEpoch, payloadBytes := payload.length,
                      columns := columns, firstRow := q.nextRow, payload := padTo 4096 payload }
    let d := modQ d slot n (fun q => { q with nextSeq := q.nextSeq + 1, nextRow := q.nextRow + rows, eos := q.eos || eos })
    let d := modJob d slot (fun j => { j with provisional := true })
    placeTile (if eos then modOut d slot st port (fun o => { o with eos := true }) else d) slot n t.sealed

/-- Seals the rows gathered on a COLUMNS port. -/
def sealRows (d : Dev) (slot st port : Nat) (eos : Bool) : Dev :=
  let rows := (getOut d slot st port).rows
  let cols := rowsToCols rows
  sealTile (modOut d slot st port (fun o => { o with rows := [] })) slot st port rows.length (colsMask cols) (encodeCols cols) eos

/-- Puts a row on a COLUMNS port: as many rows as fit go into each tile (R43). -/
def addRow (slot st port : Nat) (d : Dev) (r : Row) : Dev :=
  let o := getOut d slot st port
  if o.rows.isEmpty || rowsFit (o.rows ++ [r]) then modOut d slot st port (fun o => { o with rows := o.rows ++ [r] })
  else modOut (sealRows d slot st port false) slot st port (fun o => { o with rows := [r] })

/-- Puts rows on a COLUMNS port. -/
def addRows (d : Dev) (slot st port : Nat) (rs : List Row) : Dev := rs.foldl (addRow slot st port) d

/-- Seals the records gathered on a port: a RECORDS tile (R39), or the packed results of another format, each a row. -/
def sealRecs (d : Dev) (slot st port : Nat) (eos : Bool) : Dev :=
  let rs := (getOut d slot st port).recs
  let j := getJob d slot
  let records := decide ((j.image.queues.getD (outQueueNo j st port) {}).format = TFmt.records.code)
  sealTile (modOut d slot st port (fun o => { o with recs := [] })) slot st port rs.length 0 (if records then encodeRecords rs else rs.flatten) eos

/-- Puts a fixed-size result on a port: as many as fit go into each tile (09 R254, 07 R195, 04 R109). -/
def addResult (d : Dev) (slot st port : Nat) (bs : Bytes) : Dev :=
  let o := getOut d slot st port
  if o.recs.isEmpty || decide (o.recs.flatten.length + bs.length ≤ 4096) then modOut d slot st port (fun o => { o with recs := o.recs ++ [bs] })
  else modOut (sealRecs d slot st port false) slot st port (fun o => { o with recs := [bs] })

/-- Fragment tiles of a record of more than 4,094 bytes and the last piece (05 R142). -/
def sealFragments (slot st port : Nat) : Nat → Dev → Bytes → Dev × Bytes
  | 0, d, bs => (d, bs)
  | n + 1, d, bs =>
    if bs.length ≤ 4094 then (d, bs)
    else
      let k := min 4096 (bs.length - 1)
      sealFragments slot st port n (sealTile d slot st port 0 0 (bs.take k) false) (bs.drop k)

/-- Puts a record on a RECORDS port (R39, 05 R142). -/
def addRec (d : Dev) (slot st port : Nat) (bs : Bytes) : Dev :=
  let o := getOut d slot st port
  if bs.length ≤ 4094 then
    let size := 2 * (o.recs.length + 1) + o.recs.flatten.length + bs.length
    if o.recs.isEmpty || (decide (size ≤ 4096) && decide (o.recs.length < 4096)) then modOut d slot st port (fun o => { o with recs := o.recs ++ [bs] })
    else modOut (sealRecs d slot st port false) slot st port (fun o => { o with recs := [bs] })
  else
    let d := if o.recs.isEmpty then d else sealRecs d slot st port false
    let (d, rest) := sealFragments slot st port (bs.length / 4095 + 1) d bs
    modOut d slot st port (fun o => { o with recs := [rest] })

/-- The tiles of one BYTES object (05 R136): full tiles, then one below 4,096 bytes. -/
def sealObject (slot st port : Nat) : Nat → Dev → Bytes → Dev
  | 0, d, _ => d
  | n + 1, d, bs =>
    if bs.length < 4096 then sealTile d slot st port 0 0 bs false
    else sealObject slot st port n (sealTile d slot st port 0 0 (bs.take 4096) false) (bs.drop 4096)

/-- Puts an object on a BYTES port. -/
def addObject (d : Dev) (slot st port : Nat) (bs : Bytes) : Dev := sealObject slot st port (bs.length / 4096 + 1) d bs

/-- Puts a whole tile on a port of another format: it is sealed when it is known not to be the last (R50). -/
def addTile (d : Dev) (slot st port rows columns : Nat) (payload : Bytes) : Dev :=
  let d := match (getOut d slot st port).pend with
    | some x => sealTile d slot st port x.rows x.columns x.payload false
    | none => d
  modOut d slot st port (fun o => { o with pend := some { rows := rows, columns := columns, payload := payload } })

/-- Ends an output port's stream (R50): END_OF_STREAM stands on the last tile, or on an empty one where none waits. -/
def endPort (d : Dev) (slot st port : Nat) : Dev :=
  let o := getOut d slot st port
  if o.eos then d
  else if !o.rows.isEmpty then sealRows d slot st port true
  else if !o.recs.isEmpty then sealRecs d slot st port true
  else match o.pend with
  | some x => sealTile (modOut d slot st port (fun o => { o with pend := none })) slot st port x.rows x.columns x.payload true
  | none => sealTile d slot st port 0 0 [] true

/-- A station reaches end of stream: its last tiles are sealed on every output port (R50). -/
def endStation (d : Dev) (slot st : Nat) : Dev :=
  let d := (List.range (descSt d slot st).outPorts).foldl (fun d p => endPort d slot st p) d
  modSt d slot st (fun s => { s with ended := true })

/-- A producer waits: an output queue of the station has a tile without a slot (R45). -/
def outBlocked (d : Dev) (slot st : Nat) : Bool :=
  let j := getJob d slot
  (List.range (descSt d slot st).outPorts).any (fun p => !(getQ d slot (outQueueNo j st p)).held.isEmpty)

/-- An input port has nothing consumed left to process. -/
def InPort.idle (p : InPort) : Bool := p.inbox.isEmpty && p.objs.isEmpty && p.ktiles.isEmpty

/-- The port ended and everything consumed is processed. -/
def InPort.done (p : InPort) : Bool := p.eos && p.idle

/-- Every input port of a station is done. -/
def inputsDone (d : Dev) (slot st : Nat) : Bool := (List.range (descSt d slot st).inPorts).all (fun p => (getIn d slot st p).done)

/-- Stations that read the columns of their input and raise 0x0108 for a column of another type (R455); a select station raises 0x0905 (09 R260). -/
def SType.checksTypes (t : SType) : Bool := t = .align || t = .matchSt || t = .hashjoin || t = .kernel || t = .shuffle || t = .batch

/-- What the consumer of a queue expects of its next tile (R35). -/
def expectOf (j : Job) (slot n k : Nat) (q : QRun) : Expect :=
  let qd := j.image.queues.getD n {}
  let ty := (j.image.stations.getD ((qd.ends.getD k (0, 0)).1) {}).stype
  { jobTag := j.image.jobTag, jobSlot := slot, queue := n, seq := q.taken.getD k 0, firstRow := q.rows.getD k 0, format := qd.format,
    columns := qd.columns, types := if ty.checksTypes then q.types else [] }

/-- The objects of a BYTES tile (05 R136): bytes added to the open object, which a tile below 4,096 bytes closes. -/
def InPort.takeBytes (p : InPort) (t : Tile) : InPort :=
  if t.eos && decide (t.payloadBytes = 0) then { p with finished := p.finished + 1, eos := true }
  else
    let cur := p.cur ++ t.used
    if t.payloadBytes < 4096 then { p with objs := p.objs ++ [cur], cur := [], finished := p.finished + 1, eos := p.eos || t.eos }
    else { p with cur := cur, finished := p.finished + 1, eos := p.eos || t.eos }

/-- The records of a RECORDS tile (R39, 05 R142): fragments gather until row 0 completes them. -/
def InPort.takeRecords (p : InPort) (t : Tile) : InPort :=
  if t.rowCount = 0 then { p with cur := p.cur ++ t.used, finished := p.finished + 1, eos := p.eos || t.eos }
  else
    match (decodeRecords t.rowCount t.used).getD [] with
    | [] => { p with finished := p.finished + 1, eos := p.eos || t.eos }
    | r :: rs => { p with objs := p.objs ++ ((p.cur ++ r) :: rs), cur := [], finished := p.finished + 1, eos := p.eos || t.eos }

/-- The rows a tile presents to a kernel, whose first record begins with earlier fragments (08 R215). -/
def kernelRows (t : Tile) (cur : Bytes) : List KRow :=
  let row (i : Nat) (r : Row) : KRow := { ord := t.firstRow + i, seq := t.seq, row := r }
  match TFmt.ofCode t.format with
  | some .columns => t.rows.zipIdx.map (fun (r, i) => row i r)
  | some .records =>
    let rs := (decodeRecords t.rowCount t.used).getD []
    rs.zipIdx.map (fun (r, i) =>
      let r := if i = 0 then cur ++ r else r
      row i [{ col := 0, ty := .str, val := some (.str r) }, { col := 1, ty := .u32, val := some (.bits r.length) }])
  | some .matchResults =>
    (List.range t.rowCount).map (fun i => row i
      [{ col := 0, ty := .u32, val := some (.bits (u32at t.used (8 * i))) }, { col := 1, ty := .u16, val := some (.bits (u16at t.used (8 * i + 4))) },
       { col := 2, ty := .u8, val := some (.bits (u8at t.used (8 * i + 6))) }])
  | some .accum => (List.range t.rowCount).map (fun i => { ord := t.firstRow + i, seq := t.seq, acc := slice t.used (64 * i) 64 })
  | _ => if t.eos && decide (t.payloadBytes = 0) then [] else [row 0 []]

/-- A kernel stages a tile and is done with its slot (02 R45, 08 R212). `ord` counts the rows received. -/
def InPort.takeKernel (p : InPort) (t : Tile) : InPort :=
  let p := { p with finished := p.finished + 1, eos := p.eos || t.eos }
  if t.format = TFmt.records.code ∧ t.rowCount = 0 then { p with cur := p.cur ++ t.used }
  else
    let rows := kernelRows t p.cur
    let rows := rows.zipIdx.map (fun (r, i) => { r with n := p.ord + i })
    { p with cur := [], ord := p.ord + rows.length, ktiles := if rows.isEmpty then p.ktiles else p.ktiles ++ [{ seq := t.seq, rows := rows, payload := padTo 4096 t.used }] }

/-- The port of a station takes a checked tile: unpack, parse and image stations read objects and records through, the others keep the tile. -/
def takeTile (ty : SType) (p : InPort) (t : Tile) : InPort :=
  if ty = .kernel then p.takeKernel t
  else if (ty = .unpack ∨ ty = .parse ∨ ty = .image) ∧ t.format = TFmt.bytes.code then p.takeBytes t
  else if ty = .parse ∧ t.format = TFmt.records.code then p.takeRecords t
  else { p with inbox := p.inbox ++ [t], eos := p.eos || t.eos }

/-- The first tile of an input port is processed in full: the next begins, its credit may return (R45, R48). -/
def InPort.drop (p : InPort) : InPort := { p with inbox := p.inbox.drop 1, pos := 0, finished := p.finished + 1 }

/-- Tiles without rows at the head of a row port are finished at once. -/
def InPort.skip : Nat → InPort → InPort
  | 0, p => p
  | n + 1, p =>
    match p.inbox with
    | [] => p
    | t :: _ => if t.rowCount ≤ p.pos then InPort.skip n p.drop else p

/-- The next row of a COLUMNS port with its FIRST_ROW ordinal. -/
def InPort.row? (p : InPort) : Option (Row × Nat) :=
  match p.inbox with
  | [] => none
  | t :: _ => (t.rows[p.pos]?).map (fun r => (r, t.firstRow + p.pos))

/-- The row is processed. -/
def InPort.nextRow (p : InPort) : InPort :=
  let q := { p with pos := p.pos + 1, ord := p.ord + 1 }
  q.skip (q.inbox.length + 1)

/-- A row command finds its station: the slot and station exist, the job runs, the station is of the type. -/
def onStation (slot st : Nat) (ok : SType → Bool) (s : State) (f : Memory → Dev → DevOut) : Host.Outcome State Fault Refusal :=
  runDev s (fun m d =>
    if 64 ≤ slot then .fault .noSuchUnit
    else
      let j := getJob d slot
      if j.state ≠ .running then noEvent
      else if j.image.stations.length ≤ st then .fault .noSuchUnit
      else if !ok (descSt d slot st).stype then noEvent
      else f m { d with free := d.free + 1 })

/-- Whether a job's fault stopped it during a command: its runtime is gone. -/
def stopped (d : Dev) (slot : Nat) : Bool := !decide ((getJob d slot).state = .running)

/-- A kernel's program holds a paired match write (08 R213). -/
def writesPairs (im : Image) (s : StationD) : Bool := (List.range s.programWords).any (fun i => u8at im.program (s.programOffset + 8 * i + 7) == 0x16)

/-- Rows staged at a port. -/
def InPort.staged (p : InPort) : Nat := p.ktiles.foldl (fun a t => a + t.rows.length) 0

/-- The last driving row staged. -/
def InPort.lastRow (p : InPort) : Option KRow := p.ktiles.getLast?.bind (fun t => t.rows.getLast?)

/-- A kernel takes a tile at a port (08 R213, R216): its driving port until a row group is gathered, a STEP or MERGE port until it covers that group, a
PRELOAD port to its end. -/
def kernelTakes (d : Dev) (slot st port : Nat) (x : KernelSt) : Bool :=
  let s := descSt d slot st
  let p := paramSt d slot st
  let i := getIn d slot st port
  let drive := getIn d slot st 0
  let mode := u8at p (8 + port)
  if i.eos then false
  else if mode = 1 then
    (if s.dist = 0 && !writesPairs (getJob d slot).image s then decide (i.staged < u16at p 4) else i.ktiles.isEmpty)
  else if mode = 4 then true
  else match drive.lastRow with
  | none => i.ktiles.isEmpty || drive.eos
  | some last =>
    if mode = 2 then decide (i.ord ≤ last.n)
    else match assocGet x.keys port with
    | some k => decide (k < last.ord)
    | none => true

/-- A station can take a tile at a port: it has nothing consumed left, no tile it made waits for a slot (R45), a match station's table is built (07 R202), a
hashjoin station has ended its build input before it takes probe tiles. -/
def takesTile (d : Dev) (slot st port : Nat) : Bool :=
  let idle := (getIn d slot st port).idle
  !outBlocked d slot st &&
  match (getSt d slot st).kind with
  | .matchSt x => idle && x.built
  | .join _ => idle && (port = 0 || (getIn d slot st 0).done)
  | .kernel x => kernelTakes d slot st port x
  | _ => idle

/-- The checks of R216 on a tile that a MERGE or PRELOAD port takes: the new last key, or the fault. -/
def kernelPortCheck (p : Bytes) (port : Nat) (x : KernelSt) (i : InPort) (t : Tile) : Except (Nat × Nat) KernelSt :=
  let mode := u8at p (8 + port)
  if mode = 4 ∧ t.eos ∧ i.ord ≠ 1 then .error (0x0804, i.ord)
  else if mode = 3 then
    let rows := t.rows.zipIdx
    rows.foldl (fun (acc : Except (Nat × Nat) KernelSt) (r : Row × Nat) =>
      match acc with
      | .error e => .error e
      | .ok x =>
        match Row.get r.1 (u8at p (0x10 + port)) with
        | none => .error (0x0803, t.firstRow + r.2)
        | some v =>
          if ((assocGet x.keys port).map (fun k => decide (v.n ≤ k))).getD false then .error (0x0803, t.firstRow + r.2)
          else .ok { x with keys := assocSet x.keys port v.n }) (Except.ok x)
  else .ok x

/-- Participant indices of a job. -/
def allParts (j : Job) : List Nat := List.range (max 1 j.participants.length)

/-- The hedge address a participant index stands for; this device's own where the list is empty. -/
def partAddr (d : Dev) (j : Job) (part : Nat) : Nat := j.participants.getD part (ownAddr d)

/-- Queues of the job whose tiles this participant sends to the others: the inputs of its batch stations (11 R287; log entry 24). -/
def farQueues (j : Job) : List Nat :=
  if j.participants.length ≤ 1 then []
  else j.image.stations.zipIdx.filterMap (fun (s, i) => if s.stype = .batch then (inQueueNo j i 0).map (·.1) else none)

/-- Sends a packet of a job toward a hedge address, on the way its class has. -/
def sendJob (d : Dev) (p : Packet) : Dev :=
  match nextLink d p with
  | some l => sendOn d l p
  | none => d

/-- A batch station hands each tile it takes to the other participants, whose batch stations form the same batches (11 R278, R287; log entry 24). -/
def forwardTile (d : Dev) (slot n : Nat) (t : Tile) : Dev :=
  let j := getJob d slot
  if !(farQueues j).contains n then d
  else
    let strict := if bit (j.image.queues.getD n {}).qflags 0 then 4 else 0
    ((allParts j).filter (· ≠ j.partIndex)).foldl (fun d p =>
      sendJob d { ptype := 0x10, pflags := strict, dest := partAddr d j p, src := srcAddr d, jobTag := j.image.jobTag, data := t.bytes }) d

/-- TILE_CONSUME (R33 to R35, R455): the next tile in SEQ order is checked before any byte is used; while the port holds an unprocessed tile, or the
station a tile that waits for a slot, it waits. -/
def tileConsume (slot st port : Nat) (d : Dev) : DevOut :=
  let j := getJob d slot
  match inQueueNo j st port with
  | none => .fault .noSuchUnit
  | some (n, k) =>
    let q := getQ d slot n
    match q.tiles.find? (fun t => t.seq == q.taken.getD k 0) with
    | none => noEvent
    | some t =>
      if !takesTile d slot st port then .next d
      else match checkTile (expectOf j slot n k q) t with
      | some code => .next (jobFault d { code := code, slot := slot, die := stationDie j st, queue := n, producer := t.producer, consumer := st, seqNo := t.seq })
      | none =>
        let ty := (descSt d slot st).stype
        match (if ty = .select then selTypes (selP (paramSt d slot st)) q.types t else none) with
        | some c => .next (stationFault d slot st 0x0905 c t.seq)
        | none =>
        let d := modQ d slot n (fun q => { q with
          taken := setAt q.taken k (t.seq + 1), rows := setAt q.rows k (t.firstRow + t.rowCount), types := (mergeTypes q.types t).getD q.types, moved := true })
        let d := modIn d slot st port (fun p =>
          let p := takeTile ty p t
          if t.format = TFmt.columns.code ∧ ty ≠ .kernel ∧ ty ≠ .emit ∧ ty ≠ .shale then p.skip (p.inbox.length + 1) else p)
        match (getSt d slot st).kind with
        | .kernel x =>
          (match kernelPortCheck (paramSt d slot st) port x (getIn d slot st port) t with
           | .ok x => .next (setKind d slot st (.kernel x))
           | .error e => .next (stationFault d slot st e.1 port e.2))
        | _ => .next (forwardTile d slot n t)

/-- TILE_CONSUME. -/
def execTileConsume (slot station port : Nat) (s : State) : Host.Outcome State Fault Refusal :=
  onStation slot station (fun _ => true) s (fun _ d => tileConsume slot station port d)

/-- The lowest SEQ that some consumer still holds. -/
def heldFrom (q : QRun) : Nat := q.returned.foldl min (q.returned.headD q.nextSeq)

/-- The valve closes when no spilled tile remains and the queue is at or below half its depth (R53). -/
def closeValve (d : Dev) (slot n : Nat) : Dev :=
  let j := getJob d slot
  let q := getQ d slot n
  if q.valve && q.spilled.isEmpty && decide (2 * q.tiles.length ≤ (j.image.queues.getD n {}).depth) then modQ d slot n (fun q => { q with valve := false }) else d

/-- The fault of a credit returned for a slot that was not held (R37). -/
def creditError (d : Dev) (slot st n k : Nat) : Dev :=
  let j := getJob d slot
  jobFault d { code := 0x0111, slot := slot, die := stationDie j st, queue := n, producer := (j.image.queues.getD n {}).producer, consumer := st,
               seqNo := (getQ d slot n).returned.getD k 0 }

/-- CREDIT_RETURN (R37, R45): a slot is freed when every consumer has returned it; a waiting producer writes. A consumer that holds no slot has none to
return; one that has not finished with the tile it holds returns none yet. -/
def creditReturn (slot st port : Nat) (d : Dev) : DevOut :=
  match inQueueNo (getJob d slot) st port with
  | none => .fault .noSuchUnit
  | some (n, k) =>
    if (getIn d slot st port).finished = 0 then
      (if (getQ d slot n).taken.getD k 0 ≤ (getQ d slot n).returned.getD k 0 then .next (creditError d slot st n k) else noEvent)
    else
      let d := modIn d slot st port (fun p => { p with finished := p.finished - 1 })
      let d := modQ d slot n (fun q => let q := { q with returned := setAt q.returned k (q.returned.getD k 0 + 1) }; { q with tiles := q.tiles.filter (fun t => decide (heldFrom q ≤ t.seq)) })
      .next (closeValve (pump ((getQ d slot n).held.length + 1) d slot n) slot n)

/-- CREDIT_RETURN. -/
def execCreditReturn (slot station port : Nat) (s : State) : Host.Outcome State Fault Refusal :=
  onStation slot station (fun _ => true) s (fun _ d => creditReturn slot station port d)

/-- SPILL_REFILL (R53): the oldest spilled tile returns when a slot is free; its seal is checked again. -/
def spillRefill (slot n : Nat) (d : Dev) : DevOut :=
  let j := getJob d slot
  let q := getQ d slot n
  match q.spilled with
  | [] => noEvent
  | t :: r =>
    if queueFull j n q then noEvent
    else if t.computeSeal ≠ t.crc then .next (jobFault d { code := 0x0101, slot := slot, queue := n, producer := t.producer, seqNo := t.seq })
    else .next (closeValve (modQ d slot n (fun q => { q with tiles := q.tiles ++ [t], spilled := r, moved := true })) slot n)

/-- A row command about a queue of a running job. -/
def onQueue (slot queue : Nat) (s : State) (f : Dev → DevOut) : Host.Outcome State Fault Refusal :=
  runDev s (fun _ d =>
    if 64 ≤ slot then .fault .noSuchUnit
    else if (getJob d slot).state ≠ .running then noEvent
    else if (getJob d slot).image.queues.length ≤ queue then .fault .noSuchUnit
    else f d)

/-- SPILL_REFILL. -/
def execSpillRefill (slot queue : Nat) (s : State) : Host.Outcome State Fault Refusal := onQueue slot queue s (spillRefill slot queue)

/-- An input port waits for a tile: nothing is left to process and its queue has no tile for it (R51). -/
def portWaits (d : Dev) (j : Job) (slot n k : Nat) (e : Nat × Nat) : Bool :=
  let q := getQ d slot n
  !(getIn d slot e.1 e.2).eos && takesTile d slot e.1 e.2 && !(q.tiles.any (fun t => t.seq == q.taken.getD k 0)) && decide (n < j.image.queues.length)

/-- The wait edges of this device (R51, R52): station, queue, and true for a producer that waits for a slot. -/
def ownEdges (d : Dev) (slot : Nat) : List (Nat × Nat × Bool) :=
  let j := getJob d slot
  (j.image.queues.zipIdx.map (fun (qd, n) =>
    (if queueBlocked j n (getQ d slot n) then [(qd.producer, n, true)] else []) ++
    (qd.ends.zipIdx.filterMap (fun (e, k) => if portWaits d j slot n k e then some (e.1, n, false) else none)))).flatten

/-- Wait edges of a job, with those its other participants reported. -/
def waitEdges (d : Dev) (slot : Nat) : List (Nat × Nat × Bool) :=
  (ownEdges d slot ++ ((getJob d slot).farEdges.map (·.2)).flatten).eraseDups

/-- Stations an edge waits on: a slot waits on the consumers, a tile on the producer. -/
def edgeHeads (j : Job) (e : Nat × Nat × Bool) : List Nat :=
  let qd := j.image.queues.getD e.2.1 {}
  if e.2.2 then qd.ends.map (·.1) else [qd.producer]

/-- Stations reached from some stations along wait edges. -/
def waitReach (j : Job) (es : List (Nat × Nat × Bool)) : Nat → List Nat → List Nat
  | 0, xs => xs
  | n + 1, xs => waitReach j es n ((xs ++ ((es.filter (fun e => xs.contains e.1)).map (edgeHeads j)).flatten).eraseDups)

/-- The edges of the wait cycle through a blocked queue; none where it is in none (R51): edges whose two ends reach each other. -/
def cycleEdges (j : Job) (es : List (Nat × Nat × Bool)) (n : Nat) : List (Nat × Nat × Bool) :=
  let k := j.image.stations.length
  let reach (a : Nat) : List Nat := waitReach j es k [a]
  match es.find? (fun e => e.2.1 == n && e.2.2) with
  | none => []
  | some e0 =>
    let heads := (edgeHeads j e0).filter (fun h => (reach h).contains e0.1)
    if heads.isEmpty then []
    else
      let comp := (reach e0.1).filter (fun x => (reach x).contains e0.1)
      es.filter (fun e => comp.contains e.1 && (edgeHeads j e).any (fun h => comp.contains h))

/-- The queues of the wait cycle through a blocked queue. -/
def cycleQueues (j : Job) (es : List (Nat × Nat × Bool)) (n : Nat) : List Nat := ((cycleEdges j es n).map (·.2.1)).eraseDups

/-- The wait edges of this device on queues without progress since the last sample: what it reports to the anchor (R52). -/
def stillEdges (d : Dev) (slot : Nat) : List (Nat × Nat × Bool) := (ownEdges d slot).filter (fun e => !(getQ d slot e.2.1).moved)

/-- A WAIT_EDGES message. -/
def edgeBytes (es : List (Nat × Nat × Bool)) : Bytes := (es.map (fun e => le 2 e.1 ++ le 4 e.2.1 ++ le 1 (b2n e.2.2))).flatten

/-- One watchdog sample of a job (R52): a cycle counts anew where one of its queues made progress, or one of its waits began, since the last sample. -/
def watchJob (d : Dev) (slot : Nat) : Dev :=
  let j := getJob d slot
  if j.state ≠ .running then d
  else
    let es := waitEdges d slot
    let d' := (List.range j.image.queues.length).foldl (fun x n =>
      let c := cycleEdges j es n
      modQ x slot n (fun q => { q with stuck := if c.isEmpty || c.any (fun e => (getQ d slot e.2.1).moved || !j.lastEdges.contains e) then 0 else q.stuck + 1 })) d
    let d' := (List.range j.image.queues.length).foldl (fun x n => modQ x slot n (fun q => { q with moved := false })) d'
    let d' := modJob d' slot (fun j => { j with lastEdges := es })
    if j.participants.length ≤ 1 ∨ isAnchor d j then d' else sendCoord d' slot 7 j.anchor (edgeBytes (stillEdges d slot))

/-- WATCHDOG_SAMPLE (R52). -/
def execWatchdogSample (s : State) : Host.Outcome State Fault Refusal :=
  runDev s (fun _ d => onlyIf (served d) ((List.range 64).foldl watchJob d))

/-- Opens the valve of a queue: the tiles that wait go to the spill area (R53). -/
def openValve (d : Dev) (slot n : Nat) : Dev :=
  let d := modQ d slot n (fun q => { q with valve := true, stuck := 0 })
  let d := modJob d slot (fun j => { j with valveOpenings := j.valveOpenings + 1 })
  pump ((getQ d slot n).held.length + 1) d slot n

/-- SPILL_VALVE_OPEN (R52, R53): 100 µs, ten samples, without progress; the lowest-numbered blocked queue of the cycle. Participants that reported the
queue as blocked are told by WAIT_EDGES with that edge (log entry 104). -/
def spillValveOpen (slot n : Nat) (d : Dev) : DevOut :=
  let j := getJob d slot
  let es := waitEdges d slot
  let blocked := ((cycleEdges j es n).filter (fun e => e.2.2)).map (·.2.1)
  let q := getQ d slot n
  if q.valve || !blocked.contains n || decide (q.stuck < 10) || blocked.any (fun k => decide (k < n)) then noEvent
  else
    let here := (ownEdges d slot).any (fun e => e.2.1 == n && e.2.2)
    let d := if here then openValve d slot n else modQ d slot n (fun q => { q with stuck := 0 })
    .next (j.farEdges.foldl (fun d p =>
      match p.2.find? (fun e => e.2.1 == n && e.2.2) with
      | some e => sendCoord d slot 7 (partAddr d j p.1) (edgeBytes [e])
      | none => d) d)

/-- SPILL_VALVE_OPEN. -/
def execSpillValveOpen (slot queue : Nat) (s : State) : Host.Outcome State Fault Refusal := onQueue slot queue s (spillValveOpen slot queue)

/-- WAIT_EDGES (R52): the anchor keeps the edges a participant reports; a participant opens the valves of the queues that the anchor's message names as
blocked (log entry 104). -/
def execWaitEdges (slot part : Nat) (edges : List (Nat × Nat × Bool)) (s : State) : Host.Outcome State Fault Refusal :=
  runDev s (fun _ d =>
    if 64 ≤ slot then .fault .noSuchUnit
    else
      let j := getJob d slot
      if j.state ≠ .running ∨ j.participants.length ≤ part ∨ part = j.partIndex then noEvent
      else
        let d := modJob d slot (fun j => { j with heard := assocSet j.heard part d.time })
        if isAnchor d j then .next (modJob d slot (fun j => { j with farEdges := assocSet j.farEdges part edges }))
        else if partAddr d j part ≠ j.anchor then .next d
        else .next ((edges.filter (fun e => e.2.2 && queueBlocked j e.2.1 (getQ d slot e.2.1) && !(getQ d slot e.2.1).valve)).foldl (fun d e => openValve d slot e.2.1) d))

end Sys2Proof.Machine
end

