-- ==== Sys2Proof/Machine/Align.lean ====
section
/-!
DEFINITION. Align stations: classification, release, watermarks (05 R159 to R165).
-/

namespace Sys2Proof.Machine

open Sys2Proof

/-- The infinite event time (R162). -/
def alignInf : Nat := pow2 64 - 1

/-- The align station's own state. -/
def alignSt (d : Dev) (slot st : Nat) : AlignSt :=
  match (getSt d slot st).kind with
  | .align x => x
  | _ => {}

/-- Changes it. -/
def modAlign (d : Dev) (slot st : Nat) (f : AlignSt → AlignSt) : Dev := setKind d slot st (.align (f (alignSt d slot st)))

/-- The lateness threshold of a watermark (R162). -/
def thrOf (lat w : Nat) : Nat := if w = alignInf then alignInf else w - lat

/-- The lowest threshold of all ports (R162). -/
def frontierOf (lat : Nat) (ws : List Nat) : Nat := ws.foldl (fun f w => min f (thrOf lat w)) alignInf

/-- Order of keys as triples (R162). -/
def keyLt (a b : AlignKey) : Bool :=
  decide (a.1 < b.1) || (decide (a.1 = b.1) && (decide (a.2.1 < b.2.1) || (decide (a.2.1 = b.2.1) && decide (a.2.2 < b.2.2))))

/-- Inserts into a list in key order, behind equal keys. -/
def keyInsert (k : AlignKey) (r : Row) : List (AlignKey × Row) → List (AlignKey × Row)
  | [] => [(k, r)]
  | x :: xs => if keyLt k x.1 then (k, r) :: x :: xs else x :: keyInsert k r xs

/-- Input ports of a live feed's align station: the intake that feeds a port has SOURCE 2 (R160). -/
def feedIntake (im : Image) (st port : Nat) : Option Nat :=
  im.stations.findIdx? (fun s => s.stype = .intake && decide (u8at (im.paramBlock s) 0 = 2) && decide (u16at (im.paramBlock s) 8 = st) && decide (u8at (im.paramBlock s) 0x0A = port))

/-- Seals the rows gathered on the merged and the late port (R163). -/
def sealPartial (d : Dev) (slot st : Nat) : Dev :=
  (List.range (descSt d slot st).outPorts).foldl (fun d p => if (getOut d slot st p).rows.isEmpty then d else sealRows d slot st p false) d

/-- FEED_COLUMN and FSEQ_COLUMN filled from a row's key: feed number and feed sequence (R163). -/
def feedCols (p : Bytes) (k : AlignKey) (r : Row) : Row :=
  let r := if u8at p 1 = 0xFF then r else r.put { col := u8at p 1, ty := .u8, val := some (.bits k.2.1) }
  if u8at p 2 = 0xFF then r else r.put { col := u8at p 2, ty := .u64, val := some (.bits k.2.2) }

/-- Emits the rows of both queues whose key's time is below a bound; all of them where there is none (R162). -/
def emitBelow (d : Dev) (slot st : Nat) (bound : Option Nat) : Dev :=
  let x := alignSt d slot st
  let below (e : AlignKey × Row) : Bool := match bound with
    | some b => decide (e.1.1 < b)
    | none => true
  let d := modAlign d slot st (fun y => { y with hold := x.hold.filter (fun e => !below e), late := x.late.filter (fun e => !below e) })
  let out (es : List (AlignKey × Row)) : List Row := (es.filter below).map (fun e => feedCols (paramSt d slot st) e.1 e.2)
  let d := addRows d slot st 0 (out x.hold)
  addRows d slot st 1 (out x.late)

/-- The multiples of FLUSH_US that the frontier crosses and that seal something, ascending (R162, R163). -/
def flushPoints (flush lastF f : Nat) (x : AlignSt) : List Nat :=
  if flush = 0 then []
  else
    let points := ((lastF / flush + 1) * flush) :: ((x.hold ++ x.late).map (fun e => (e.1.1 / flush + 1) * flush))
    (sortBy id (points.filter (fun m => decide (lastF < m) && decide (m ≤ f)))).eraseDups

/-- release() (R162), and the end of the stream when every port is at infinity. -/
def alignRelease (d : Dev) (slot st : Nat) : Dev :=
  let x := alignSt d slot st
  let flush := u64at (paramSt d slot st) 8
  let f := frontierOf (getJob d slot).image.latenessUs x.w
  let d := (flushPoints flush x.lastF f x).foldl (fun d m => sealPartial (emitBelow d slot st (some m)) slot st) d
  let d := modAlign (emitBelow d slot st (some f)) slot st (fun y => { y with lastF := f })
  if x.w.all (· == alignInf) && !(getSt d slot st).ended then endStation (emitBelow d slot st none) slot st else d

/-- Blank records of a feed among its first `k`: parse stations on the way from the intake to the align port make no row of them (R133). -/
def blanksBefore (d : Dev) (slot : Nat) : Nat → Nat → Nat → Nat → Nat
  | 0, _, _, _ => 0
  | n + 1, st, port, k =>
    match inQueueNo (getJob d slot) st port with
    | none => 0
    | some (q, _) =>
      let p := ((getJob d slot).image.queues.getD q {}).producer
      match (getSt d slot p).kind with
      | .parse x => (x.blanks.filter (fun b => decide (b < k))).length
      | .intake _ => 0
      | _ => blanksBefore d slot n p 0 k

/-- Applies the waiting watermarks whose records before them are all classified, in order (R161). -/
def applyMarks (slot st : Nat) : Nat → Dev → Dev
  | 0, d => d
  | n + 1, d =>
    let x := alignSt d slot st
    let ready (m : Nat × Nat × Nat) : Bool := decide (m.2.1 ≤ x.classified.getD m.1 0 + blanksBefore d slot (getJob d slot).image.stations.length st m.1 m.2.1)
    match x.marks.find? ready with
    | none => d
    | some m =>
      let w := max (x.w.getD m.1 0) m.2.2
      applyMarks slot st n (alignRelease (modAlign d slot st (fun y => { y with w := setAt y.w m.1 w, marks := y.marks.erase m })) slot st)

/-- Puts a watermark behind `k` records of a live port. -/
def addMark (d : Dev) (slot st port k v : Nat) : Dev :=
  let d := modAlign d slot st (fun y => { y with marks := y.marks ++ [(port, k, v)] })
  applyMarks slot st ((alignSt d slot st).marks.length + 1) d

/-- Tiles of the input format that rows take when packed in order (R43, R164). -/
def tilesOf : List Row → List Row → Nat
  | [], cur => if cur.isEmpty then 0 else 1
  | r :: rs, cur => if cur.isEmpty || rowsFit (cur ++ [r]) then tilesOf rs (cur ++ [r]) else 1 + tilesOf rs [r]

/-- on_row (R162). -/
def alignRow (slot st port : Nat) (d : Dev) (r : Row) (fs : Nat) : Dev :=
  let p := paramSt d slot st
  let x := alignSt d slot st
  let w := x.w.getD port 0
  let thr := thrOf (getJob d slot).image.latenessUs w
  let live := (feedIntake (getJob d slot).image st port).isSome
  let number := x.feedNo.getD port port
  let t := r.get (u8at p 0)
  let isLate := match t with
    | some v => decide (v.n < thr)
    | none => true
  let d :=
    if isLate then
      (if (descSt d slot st).outPorts < 2 then countSt d slot st 0 1
       else modAlign d slot st (fun y => { y with late := keyInsert (thr, number, fs) r y.late }))
    else modAlign d slot st (fun y => { y with hold := keyInsert ((t.map Val.n).getD 0, number, fs) r y.hold })
  let d := modAlign d slot st (fun y => { y with
    classified := setAt y.classified port (y.classified.getD port 0 + 1),
    w := if live then y.w else setAt y.w port (max w ((t.map Val.n).getD 0)) })
  let d := alignRelease d slot st
  applyMarks slot st ((alignSt d slot st).marks.length + 1) d

/-- ALIGN_ROW (R162, R164): the next row of a port, or the port's end of stream. -/
def alignStep (slot st port : Nat) (d : Dev) : DevOut :=
  if (descSt d slot st).inPorts ≤ port then .fault .noSuchUnit
  else if outBlocked d slot st then .next d
  else
    let x := alignSt d slot st
    let lat := (getJob d slot).image.latenessUs
    let i := getIn d slot st port
    match i.row? with
    | some (r, fs) =>
      let full := decide (u32at (paramSt d slot st) 4 ≤ tilesOf (x.hold.map (·.2)) [])
      if full ∧ thrOf lat (x.w.getD port 0) ≠ frontierOf lat x.w then .next d
      else .next (alignRow slot st port (modIn d slot st port InPort.nextRow) r fs)
    | none =>
      if i.done && x.w.getD port 0 != alignInf then
        .next (alignRelease (modAlign d slot st (fun y => { y with w := setAt y.w port alignInf })) slot st)
      else noEvent

/-- ALIGN_ROW. -/
def execAlignRow (slot station port : Nat) (s : State) : Host.Outcome State Fault Refusal :=
  onStation slot station (· = .align) s (fun _ d => alignStep slot station port d)

/-- The columns a queue declares. -/
def queueCols (im : Image) (st port : Nat) : Nat := ((outQueues im st port).head?.map (·.columns)).getD 0

/-- The columns of the queue at an input port. -/
def inCols (im : Image) (st port : Nat) : Nat := ((portQueues im st port).head?.map (·.columns)).getD 0

/-- The rules of R159 that an image shows. -/
def alignOk (im : Image) (s : StationD) : Bool :=
  let p := im.paramBlock s
  let c := inCols im s.index 0
  let outs := (List.range s.outPorts).map (queueCols im s.index)
  let extra (x : Nat) : Bool := x = 0xFF || (decide (x < 64) && outs.all (fun o => bit o x))
  (List.range s.inPorts).all (fun i => inCols im s.index i == c) && decide (u8at p 0 < 64) && bit c (u8at p 0) && extra (u8at p 1) && extra (u8at p 2) &&
  decide (64 ≤ u32at p 4) && decide (u32at p 4 ≤ 16777216) && allZero p 3 1 && allZero p 0x10 16 &&
  (decide (s.outPorts < 2) || (outQueues im s.index 1).all (fun q => bit q.qflags 1))

end Sys2Proof.Machine
end

