-- ==== Sys2Proof/Machine/ShaleCodec.lean ====
section
/-!
DEFINITION. The shale block format: code words, the compressor, the decompressor of one block, the charge of a stream (06 R168 to R179).
-/

namespace Sys2Proof.Machine

/-- Byte `p` of the kept stream bytes, as a number. -/
def sAt (a : Array Byte) (p : Nat) : Nat := (a.getD p 0).toNat

/-- The hash of the four bytes at a position (R175). -/
def h4 (a : Array Byte) (p : Nat) : Nat :=
  let v := sAt a p + 0x100 * sAt a (p + 1) + 0x10000 * sAt a (p + 2) + 0x1000000 * sAt a (p + 3)
  (v * 0x9E3779B1) % 0x100000000 / 0x10000

/-- How many bytes from `q` and from `p` agree, up to a number. -/
def matchLen (a : Array Byte) (q p : Nat) : Nat → Nat → Nat
  | 0, l => l
  | n + 1, l => if sAt a (q + l) = sAt a (p + l) then matchLen a q p n (l + 1) else l

/-- The search of R175 over the positions below `wlo + k`, newest first, among `c` candidates; the best length and distance so far. -/
def bestMatch (a : Array Byte) (pos endp wlo h : Nat) : Nat → Nat → Nat → Nat → Nat × Nat
  | 0, _, len, dist => (len, dist)
  | k + 1, c, len, dist =>
    if c = 0 then (len, dist)
    else
      let q := wlo + k
      if h4 a q ≠ h then bestMatch a pos endp wlo h k c len dist
      else
        let l := matchLen a q pos (endp - pos) 0
        if len < l then bestMatch a pos endp wlo h k (c - 1) l (pos - q) else bestMatch a pos endp wlo h k (c - 1) len dist

/-- `n` kept bytes from a position. -/
def sBytes (a : Array Byte) (p n : Nat) : Bytes := (a.extract p (p + n)).toList

/-- A literal run (R173). -/
def putLit (a : Array Byte) (p n : Nat) : Bytes := byteOf (n - 1) :: sBytes a p n

/-- A match (R173). -/
def putMatch (len d : Nat) : Bytes :=
  if len ≤ 67 then byteOf (0x80 + (len - 4)) :: le 2 (d - 1) else [byteOf (0xC0 + (len - 68) / 256), byteOf ((len - 68) % 256)] ++ le 2 (d - 1)

/-- The loop of encode_block (R175): code so far, position, first byte not yet coded; the flag tells that a code word did not fit. -/
def encodeLoop (a : Array Byte) (endp wlo c cap : Nat) : Nat → Bytes → Nat → Nat → Bytes × Nat × Nat × Bool
  | 0, code, pos, ls => (code, pos, ls, false)
  | n + 1, code, pos, ls =>
    if endp ≤ pos then (code, pos, ls, false)
    else
      let m := if 4 ≤ endp - pos then bestMatch a pos endp wlo (h4 a pos) (pos - wlo) c 0 0 else (0, 0)
      if 4 ≤ m.1 then
        if ls < pos ∧ cap < code.length + (pos - ls) + 1 then (code, pos, ls, true)
        else
          let code := if ls < pos then code ++ putLit a ls (pos - ls) else code
          let ls := pos
          if cap < code.length + (if m.1 ≤ 67 then 3 else 4) then (code, pos, ls, true)
          else encodeLoop a endp wlo c cap n (code ++ putMatch m.1 m.2) (pos + m.1) (pos + m.1)
      else
        let pos := pos + 1
        if pos - ls = 128 then
          (if cap < code.length + 129 then (code, pos, ls, true) else encodeLoop a endp wlo c cap n (code ++ putLit a ls 128) pos pos)
        else encodeLoop a endp wlo c cap n code pos ls

/-- encode_block (R175) on kept bytes: block start, length, window start, candidates, code area. Answers the code words and CODED_IN. -/
def encodeBlock (a : Array Byte) (bs n wlo c cap : Nat) : Bytes × Nat :=
  let (code, _, ls, cut) := encodeLoop a (bs + n) wlo c cap (n + 1) [] bs bs
  if !cut && decide (ls < bs + n) && decide (code.length + (bs + n - ls) + 1 ≤ cap) then (code ++ putLit a ls (bs + n - ls), n) else (code, ls - bs)

/-- Bytes of a slot (R169). -/
def slotBytes (ratio : Nat) : Nat := if ratio = 0 then 2048 else 3072

/-- HISTORY_RESET of a block (R174). -/
def resetAt (restart i : Nat) : Bool := i = 0 || (decide (restart ≠ 0) && decide (i % restart = 0))

/-- The stream position of a block's reset point (R174). -/
def resetPos (restart i : Nat) : Nat := if restart = 0 then 0 else 4096 * (i / restart * restart)

/-- The window's start for a block (R174). -/
def windowAt (restart i : Nat) : Nat := max (resetPos restart i) (4096 * i - 61440)

/-- The block header (R170). -/
def shaleHeader (restart i n codedIn codeBytes granule : Nat) (last : Bool) (data : Bytes) : Bytes :=
  let ovf := decide (codedIn < n)
  let h := [0xA7, byteOf (b2n ovf + 2 * b2n last + 4 * b2n (resetAt restart i))] ++ le 2 (i % 65536) ++ le 2 n ++ le 2 codedIn ++ le 2 codeBytes ++
    le 2 0 ++ le 4 (if ovf then granule else 0) ++ le 4 (crc32c data)
  h ++ le 4 (crc32c h)

/-- Codes block `i` of `n` bytes of a stream whose bytes from `base` on are kept: code words and CODED_IN. -/
def codeBlock (a : Array Byte) (base restart level ratio i n : Nat) : Bytes × Nat :=
  encodeBlock a (4096 * i - base) n (max (windowAt restart i) base - base) (pow2 (level - 1)) (slotBytes ratio - 24)

/-- Where a block's extent goes in the ring (R171): start and granules charged, the head behind it; none where it cannot fit the pool at all. -/
def placeExtent (head g total : Nat) : Nat × Nat × Nat :=
  if head + g ≤ total then (head, g, head + g) else (0, g + (total - head), g)

/-- Slot bytes and overflow bytes of a whole stream at level 1, 2:1, no restarts: what the intake log is charged (04 R123, R184). -/
def streamCharge (data : Bytes) : Nat :=
  let a := data.toArray
  let blocks := ceilDiv data.length 4096
  (List.range blocks).foldl (fun acc i =>
    let n := min 4096 (data.length - 4096 * i)
    acc + 2048 + (n - (codeBlock a 0 0 1 0 i n).2)) 0

/-- The decoder's context within a block (R183). -/
structure DCtx where
  cpos : Nat := 0
  done : Nat := 0
  litLeft : Nat := 0
  matchLeft : Nat := 0
  dist : Nat := 0
  deriving DecidableEq, Repr

/-- What decoding of a block's code words comes to. -/
inductive DRes where
  | codesDone
  | full
  | fault (code : Nat) (off : Nat)
  deriving DecidableEq, Repr

/-- decode_codes (R178): history (all bytes delivered, `delivered` of them dropped at the front), room left in the buffer, output so far.
`pos0` is the stream position of the block, `wlo` the window's start. -/
def decodeCodes (code : Bytes) (codedIn pos0 wlo dropped : Nat) : Nat → DCtx → Nat → Array Byte → DCtx × Array Byte × DRes
  | 0, t, _, hist => (t, hist, .fault 0x0243 24)
  | n + 1, t, room, hist =>
    if codedIn ≤ t.done ∧ t.litLeft = 0 ∧ t.matchLeft = 0 then (t, hist, if t.cpos ≠ code.length then .fault 0x0243 (24 + t.cpos) else .codesDone)
    else if t.litLeft ≠ 0 ∨ t.matchLeft ≠ 0 then
      if room = 0 then (t, hist, .full)
      else if t.litLeft ≠ 0 then
        decodeCodes code codedIn pos0 wlo dropped n { t with cpos := t.cpos + 1, litLeft := t.litLeft - 1, done := t.done + 1 } (room - 1) (hist.push (code.getD t.cpos 0))
      else
        decodeCodes code codedIn pos0 wlo dropped n { t with matchLeft := t.matchLeft - 1, done := t.done + 1 } (room - 1)
          (hist.push (hist.getD (pos0 + t.done - t.dist - dropped) 0))
    else if code.length ≤ t.cpos then (t, hist, .fault 0x0243 (24 + t.cpos))
    else
      let op := u8at code t.cpos
      if 0xD0 ≤ op then (t, hist, .fault 0x0241 (24 + t.cpos))
      else
        let size := if op < 0x80 then 2 + op else if op < 0xC0 then 3 else 4
        if code.length < t.cpos + size then (t, hist, .fault 0x0244 (24 + t.cpos))
        else
          let len := if op < 0x80 then op + 1 else if op < 0xC0 then op % 64 + 4 else (op % 16) * 256 + u8at code (t.cpos + 1) + 68
          if codedIn < t.done + len then (t, hist, .fault 0x0243 (24 + t.cpos))
          else if op < 0x80 then decodeCodes code codedIn pos0 wlo dropped n { t with litLeft := len, cpos := t.cpos + 1 } room hist
          else
            let dist := u16at code (t.cpos + size - 2) + 1
            if pos0 + t.done < wlo + dist then (t, hist, .fault 0x0242 (24 + t.cpos))
            else decodeCodes code codedIn pos0 wlo dropped n { t with dist := dist, matchLeft := len, cpos := t.cpos + size } room hist

/-- The header checks of R178 and R179 in order: the failing field's offset for 0x0245, or the code and offset of a later check. -/
def headerCheck (h : Bytes) (restart i ratio poolGranules : Nat) : Option (Nat × Nat) :=
  let flags := u8at h 1
  let n := u16at h 4
  let ci := u16at h 6
  let cb := u16at h 8
  let ovf := bit flags 0
  if u8at h 0 ≠ 0xA7 then some (0x0245, 0)
  else if u32at h 0x14 ≠ crc32c (h.take 20) then some (0x0245, 0x14)
  else if 8 ≤ flags then some (0x0245, 1)
  else if u16at h 0x0A ≠ 0 then some (0x0245, 0x0A)
  else if u16at h 2 ≠ i % 65536 then some (0x0245, 2)
  else if n = 0 ∨ 4096 < n ∨ (n < 4096 ∧ !bit flags 1) then some (0x0245, 4)
  else if n < ci then some (0x0245, 6)
  else if ovf ≠ decide (ci < n) ∨ bit flags 2 ≠ resetAt restart i then some (0x0245, 1)
  else if !ovf ∧ u32at h 0x0C ≠ 0 then some (0x0245, 0x0C)
  else if slotBytes ratio - 24 < cb then some (0x0244, 8)
  else if ovf ∧ poolGranules < u32at h 0x0C + ceilDiv (n - ci) 64 then some (0x0247, 0x0C)
  else none

/-- A coded block whole: header, code words, overflow. -/
structure Coded where
  hdr : Bytes
  code : Bytes
  ovf : Bytes
  deriving DecidableEq, Repr

/-- Decodes a whole block behind the stream bytes of `hist`, of which the first is stream byte `base` (R178): the bytes with the block's, or the fault and its
offset. -/
def decodeWhole (restart ratio granules base i : Nat) (c : Coded) (hist : Array Byte) : Except (Nat × Nat) (Array Byte) :=
  match headerCheck c.hdr restart i ratio granules with
  | some e => .error e
  | none =>
    match decodeCodes c.code (u16at c.hdr 6) (4096 * i) (windowAt restart i) base (4 * 4096 + 8) {} 4096 hist with
    | (_, out, .codesDone) =>
      let all := out ++ c.ovf.toArray
      if crc32c (all.extract hist.size all.size).toList = u32at c.hdr 0x10 then .ok all else .error (0x0246, 0x10)
    | (_, _, .full) => .error (0x0243, 24)
    | (_, _, .fault e off) => .error (e, off)

/-- The first block that primes a random read of block `i` (R174): the later of its reset point and block i − 15. -/
def primeFrom (restart i : Nat) : Nat := max (resetPos restart i / 4096) (i - 15)

/-- Blocks from `k` on decoded one behind the other. -/
def decodeRun (restart ratio granules base : Nat) : List Coded → Nat → Array Byte → Except (Nat × Nat) (Array Byte)
  | [], _, hist => .ok hist
  | c :: cs, k, hist =>
    match decodeWhole restart ratio granules base k c hist with
    | .ok out => decodeRun restart ratio granules base cs (k + 1) out
    | .error e => .error e

/-- A stream read at random (R174): block `i` of a stream whose coded blocks `at_` gives, decoded after the blocks that prime it. -/
def readBlock (restart ratio granules : Nat) (at_ : Nat → Coded) (i : Nat) : Except (Nat × Nat) Bytes :=
  let k := primeFrom restart i
  match decodeRun restart ratio granules (4096 * k) ((List.range (i + 1 - k)).map (fun n => at_ (k + n))) k #[] with
  | .ok out => .ok (out.extract (4096 * (i - k)) out.size).toList
  | .error e => .error e

end Sys2Proof.Machine
end

