-- ==== Sys2Proof/Machine/Intake.lean ====
section
/-!
DEFINITION. Intake stations, live feeds, the intake log and the replay check (05 R134 to R142, R160, R161, R165, R454; 04 R123 to R125; 14 R366).
-/

namespace Sys2Proof.Machine

open Sys2Proof

/-- The intake station's own state. -/
def intakeSt (d : Dev) (slot st : Nat) : IntakeSt :=
  match (getSt d slot st).kind with
  | .intake x => x
  | _ => {}

/-- Changes it. -/
def modIntake (d : Dev) (slot st : Nat) (f : IntakeSt → IntakeSt) : Dev := setKind d slot st (.intake (f (intakeSt d slot st)))

/-- The rules of R134: the combinations of SOURCE, FORM and OBJECT_KIND, the output's format, the regions named. -/
def intakeOk (im : Image) (s : StationD) : Bool :=
  let p := im.paramBlock s
  let src := u8at p 0
  let form := u8at p 1
  let has (id : Nat) : Bool := im.regions.any (fun r => r.id == id)
  let fmt := ((outQueues im s.index 0).head?.map (·.format)).getD 0
  ((src = 1 && decide (form ≤ 2)) || (src = 2 && form = 2) || (src = 3 && form = 1)) &&
  (u8at p 2 = 0 || (u8at p 2 = 1 && form = 0)) &&
  (form = 1 || (form = 0 && fmt = TFmt.bytes.code) || (form = 2 && fmt = TFmt.records.code)) &&
  (src = 2 || (has (u16at p 4) && (u16at p 6 = 0xFFFF || has (u16at p 6)))) && allZero p 3 1 && allZero p 0x0B 5

/-- The bytes an item adds to the intake log's stream (R123; log entry 16). -/
def LogItem.bytes : LogItem → Bytes
  | .record _ bs => le 4 bs.length ++ bs
  | .mark _ t => le 8 t
  | .close _ => le 8 alignInf
  | .opened _ _ t => le 8 t
  | .region _ bs => bs
  | .update _ _ _ bs => bs

/-- The log, with what a commit in progress has still to discard (R118 step 7, R123). -/
def Job.fullLog (j : Job) : List LogItem :=
  match j.commit with
  | some c => c.oldLog ++ j.log
  | none => j.log

/-- What a log is charged: 2,048 bytes a block and its overflow (R123). -/
def logCharge (items : List LogItem) : Nat := streamCharge ((items.map LogItem.bytes).flatten)

/-- The log has room for more items (R124, R141). -/
def logRoom (j : Job) (items : List LogItem) : Bool := decide (logCharge (j.fullLog ++ items) ≤ j.image.intakeLogBytes)

/-- Captures items (R123); where the log cannot take them, capture stops until the next commit and 0x0C22 is reported (R124). -/
def capture (d : Dev) (slot : Nat) (items : List LogItem) : Dev :=
  let j := getJob d slot
  if j.logOver then d
  else if logRoom j items then modJob d slot (fun j => { j with log := j.log ++ items })
  else jobNotice (modJob d slot (fun j => { j with logOver := true })) { code := 0x0C22, slot := slot }

/-- The replay check of a host-replayable region (R125): bytes read in order, a mark at the first read that ends 10 ms after the last, and the marks that
a replay must meet. -/
def noteRead (d : Dev) (slot id : Nat) (bs : Bytes) : Dev :=
  let j := getJob d slot
  let x := (j.replays.find? (fun r => r.region == id)).getD { region := id, lastMark := j.cutTime }
  let data := x.data ++ bs
  let x := { x with data := data }
  let x := if x.lastMark + 10000000 ≤ d.time then { x with marks := x.marks ++ [(data.length, crc64 data)], lastMark := d.time } else x
  let before := data.length - bs.length
  let due := j.mustMeet.filter (fun m => decide (m.1 = id) && decide (before < m.2.1) && decide (m.2.1 ≤ data.length))
  let d := modJob d slot (fun j => { j with replays := j.replays.filter (fun r => r.region != id) ++ [x] })
  if due.any (fun m => crc64 (data.take m.2.1) != m.2.2) then jobFault d { code := 0x0C25, slot := slot, detail := id } else d

/-- A region the host keeps unchanged from commit to commit: RFLAGS[0] (R61). -/
def hostReplayable (j : Job) (id : Nat) : Bool := ((regionRef j id).map (fun r => bit r.rflags 0)).getD false

/-- A binding of a job, or one of no bytes. -/
def bindingOr (j : Job) (id : Nat) : Binding := (binding j id).getD { id := id, whereCode := 0, addr := hostBase, bytes := 0, extents := [] }

/-- What an intake station reads of a region can be read again from the host (R123): RFLAGS[0], and no hedge inbox. -/
def replayable (d : Dev) (slot st id : Nat) : Bool :=
  let p := paramSt d slot st
  hostReplayable (getJob d slot) id && !(decide (u8at p 0 = 3) && decide (id = u16at p 4))

/-- Intake reads input bytes: noted for the replay check where the host can give them again, else from the log where it replays one, else from the
region and captured (R123, R125). -/
def readInput (m : Memory) (d : Dev) (slot st id off n : Nat) : Except AccErr (Bytes × Dev) :=
  let src := regRead m d (bindingOr (getJob d slot) id) off n
  if replayable d slot st id then src.map (fun bs => (bs, noteRead d slot id bs))
  else match (intakeSt d slot st).todo with
  | .region _ bs :: r => .ok (padTo n bs, modIntake d slot st (fun x => { x with todo := r }))
  | _ => src.map (fun bs => (bs, capture d slot [.region st bs]))

/-- Reads the manifest before the first object: its header and as many of the entries it declares as the region holds (R135; log entry 107). -/
def readManifest (m : Memory) (d : Dev) (slot st : Nat) : Except AccErr Dev :=
  let id := u16at (paramSt d slot st) 6
  let size := (bindingOr (getJob d slot) id).bytes
  let keep (d : Dev) (bs : Bytes) : Dev := modIntake d slot st (fun x => { x with man := some bs })
  if id = 0xFFFF ∨ (intakeSt d slot st).man.isSome then .ok d
  else if size < 16 then .ok (keep d [])
  else match readInput m d slot st id 0 16 with
  | .error e => .error e
  | .ok (h, d) =>
    let n := min (u64at h 0) (size / 16 - 1)
    if n = 0 then .ok (keep d h)
    else (readInput m d slot st id 16 (16 * n)).map (fun x => keep x.2 (h ++ x.1))

/-- Where an intake station finds its next object (R135). -/
inductive ObjRef where
  | none
  | at (off n : Nat)
  | bad (detail : Nat)
  deriving DecidableEq, Repr

/-- Object `k` of an intake station (R135, R138): without a manifest the region is one, of FORM 1 its whole tiles; an entry beyond the region, one that the
manifest lacks, and a run of FORM 1 that is not of whole tiles are bad. -/
def objectRef (d : Dev) (slot st k : Nat) : ObjRef :=
  let p := paramSt d slot st
  let size := (bindingOr (getJob d slot) (u16at p 4)).bytes
  let tiles := decide (u8at p 1 = 1)
  if u16at p 6 = 0xFFFF then (if k = 0 then .at 0 (if tiles then size / 4160 * 4160 else size) else .none)
  else
    let man := (intakeSt d slot st).man.getD []
    let off := u64at man (16 * (k + 1))
    let n := u64at man (16 * (k + 1) + 8)
    if man.length < 16 then .bad 0xFFFFFFFF
    else if u64at man 0 ≤ k then .none
    else if man.length < 16 * (k + 2) ∨ size < off + n ∨ (tiles ∧ n % 4160 ≠ 0) then .bad k
    else .at off n

/-- The framed segments of an object (R136, R137): a Parquet object gives its footer and its whole, or one empty segment. -/
def segments (kind : Nat) (bs : Bytes) : List Bytes :=
  if kind = 0 then [bs]
  else
    let n := bs.length
    let f := u32at (bs.drop (n - 8)) 0
    if n < 12 ∨ n < f + 12 then [[]] else [bs.drop (n - 8 - f), bs]

/-- The length-prefixed records of an object (R454), and where the record starts that the object's end cuts off. -/
def splitRecords : Nat → Bytes → Nat → List Bytes × Option Nat
  | 0, _, _ => ([], none)
  | n + 1, bs, off =>
    if bs.isEmpty then ([], none)
    else
      let k := u32at bs 0
      if bs.length < 4 + k then ([bs], some off)
      else
        let (rs, c) := splitRecords n (bs.drop (4 + k)) (off + 4 + k)
        ((bs.drop 4).take k :: rs, c)

/-- The checks of R138 on a tile that the host wrote. -/
def checkHostTile (x : Expect) (t : Tile) : Option Nat :=
  if t.computeSeal ≠ t.crc then some 0x0101
  else if t.version ≠ 0x02 then some 0x0102
  else if 0x40 ≤ t.jobSlot ∨ t.flags ≠ 0 ∨ 0x10000 ≤ t.queue ∨ pow2 48 ≤ t.seq ∨ t.rsv1 ≠ 0 ∨ pow2 48 ≤ t.firstRow ∨ t.rsv2 ≠ 0 then some 0x0103
  else if t.jobTag ≠ x.jobTag then some 0x0104
  else if t.queue ≠ x.queue then some 0x0105
  else if t.seq ≠ x.seq then some 0x0106
  else if t.format ≠ x.format ∨ (TFmt.ofCode t.format).isNone then some 0x0107
  else if !shapeOk t x.columns ∨ (mergeTypes x.types t).isNone then some 0x0108
  else none

/-- Hands one host tile on: checked, its fields written, resealed; the last of a stream of `total` tiles ends it (R138). -/
def passTile (slot st : Nat) (total : Option Nat) (d : Dev) (t : Tile) : Dev :=
  if stopped d slot then d
  else
    let j := getJob d slot
    let n := outQueueNo j st 0
    let q := getQ d slot n
    let x := intakeSt d slot st
    let qd := j.image.queues.getD n {}
    let e : Expect := { jobTag := j.image.jobTag, jobSlot := slot, queue := n, seq := x.tiles, firstRow := q.nextRow, format := qd.format, columns := qd.columns, types := x.types }
    match checkHostTile e t with
    | some c => jobFault d { code := c, slot := slot, die := stationDie j st, queue := n, producer := t.producer, consumer := st, seqNo := t.seq % pow2 48 }
    | none =>
      let eos := decide (total = some (x.tiles + 1))
      if pow2 48 ≤ q.nextRow then jobFault d { code := 0x0113, slot := slot, queue := n, producer := st, seqNo := q.nextSeq % pow2 48 }
      else
        let t2 : Tile := { t with jobSlot := slot, producer := st, epoch := j.openEpoch, firstRow := q.nextRow, flags := b2n eos + 2 + 4 * b2n j.replaying }
        let d := modQ d slot n (fun q => { q with nextSeq := x.tiles + 1, nextRow := q.nextRow + t.rowCount, eos := eos })
        let d := modJob d slot (fun j => { j with provisional := true })
        let d := modIntake d slot st (fun x => { x with tiles := x.tiles + 1, types := (mergeTypes x.types t).getD x.types })
        let d := placeTile d slot n t2.sealed
        if eos then modSt (modOut d slot st 0 (fun o => { o with eos := true })) slot st (fun s => { s with ended := true }) else d

/-- The tiles of a run. -/
def tilesIn : Nat → Bytes → List Tile
  | 0, _ => []
  | n + 1, bs => Tile.ofBytes (bs.take 4160) :: tilesIn n (bs.drop 4160)

/-- Whole tiles of a station's whole stream (R138): of its region, or of every run that the manifest lists; none where an entry is bad, so that its fault
and no end of stream follows the tiles before it. -/
def totalTiles (d : Dev) (slot st : Nat) : Nat → Nat → Option Nat
  | 0, _ => none
  | n + 1, k =>
    match objectRef d slot st k with
    | .at _ b => (totalTiles d slot st n (k + 1)).map (b / 4160 + ·)
    | .none => some 0
    | .bad _ => none

/-- How many objects a station's manifest lists, at most, and one more. -/
def objectBound (d : Dev) (slot st : Nat) : Nat := ((intakeSt d slot st).man.getD []).length / 16 + 2

/-- One item of a feed goes the way a new one would (R141): a record becomes a row, a watermark goes to the align station at its position. -/
def feedItem (d : Dev) (slot st : Nat) (it : LogItem) : Dev :=
  let p := paramSt d slot st
  let a := u16at p 8
  let port := u8at p 0x0A
  let k := (intakeSt d slot st).fseq
  match it with
  | .record _ bs => modIntake (addRec d slot st 0 bs) slot st (fun x => { x with fseq := x.fseq + 1 })
  | .mark _ t => addMark (modIntake d slot st (fun x => { x with mark := max x.mark t })) slot a port k t
  | .opened _ number t => modAlign d slot a (fun y => { y with feedNo := setAt y.feedNo port number, w := setAt y.w port (max (y.w.getD port 0) t) })
  | .close _ =>
    let d := addMark d slot a port k alignInf
    if stopped d slot then d else endStation d slot st
  | .region _ _ => d
  | .update _ _ _ _ => d

/-- A region station's next object (R135 to R138, R454). -/
def regionObject (slot st : Nat) (m : Memory) (d : Dev) : Dev :=
  let p := paramSt d slot st
  let x := intakeSt d slot st
  match objectRef d slot st x.obj with
  | .none => endStation d slot st
  | .bad k => stationFault d slot st 0x0B01 k 0
  | .at off n =>
    let total := totalTiles d slot st (objectBound d slot st) 0
    match readInput m d slot st (u16at p 4) off n with
    | .error e => moverAccess d slot st e
    | .ok (bs, d) =>
      if stopped d slot then d
      else
        let d := modIntake d slot st (fun x => { x with obj := x.obj + 1 })
        match u8at p 1 with
        | 0 => (segments (u8at p 2) bs).foldl (fun d b => addObject d slot st 0 b) d
        | 1 => (tilesIn (n / 4160) bs).foldl (passTile slot st total) d
        | _ =>
          let (rs, cut) := splitRecords (bs.length + 1) bs 0
          let d := rs.foldl (fun d r => addRec d slot st 0 r) d
          match cut with
          | some o => stationNotice d slot st 0x0B02 x.obj o
          | none => d

/-- An open feed, or one whose close waits behind its messages. -/
def getFeed (d : Dev) (id : Nat) : Option Feed := d.feeds.find? (fun f => f.id == id)

/-- FEED_CLOSE was accepted: the identifier is no longer open. -/
def Feed.closing (f : Feed) : Bool := f.waits.any (fun w => w.2.isClose)

/-- Takes an item in at the job's state (R141, R161): captured; processed at once where the job runs and no replay is ahead of it. -/
def takeItem (d : Dev) (slot st : Nat) (it : LogItem) : Dev :=
  let d := capture d slot [it]
  if (getJob d slot).state = .running then
    (if (intakeSt d slot st).todo.isEmpty then feedItem d slot st it else modIntake d slot st (fun x => { x with todo := x.todo ++ [it] }))
  else d

/-- Whether intake takes messages of a feed now (R141): running with a free output queue, or into a log with room; `items` is what would be captured. -/
def feedTakes (d : Dev) (f : Feed) (items : List LogItem) : Bool :=
  let j := getJob d f.slot
  match j.state with
  | .running => !outBlocked d f.slot f.station
  | .loaded | .restarting => !j.logOver && logRoom j items
  | _ => false

/-- Marks and the close that no message is ahead of are taken in, as intake takes messages; a feed whose close is taken is gone (R161, R165). -/
def settleFeed (id : Nat) : Nat → Dev → Dev
  | 0, d => d
  | n + 1, d =>
    match getFeed d id with
    | none => d
    | some f =>
      match f.waits with
      | (0, it) :: r =>
        if !feedTakes d f [it] then d
        else
          let d := if it.isClose then { d with feeds := d.feeds.filter (fun x => x.id != id) } else modFeed d id (fun x => { x with waits := r })
          settleFeed id n (takeItem d f.slot f.station it)
      | _ => d

/-- Puts a mark or the close of a command behind every whole message received (R161). -/
def feedWait (d : Dev) (f : Feed) (it : LogItem) : Dev :=
  settleFeed f.id (f.waits.length + 1) (modFeed d f.id (fun x => { x with waits := x.waits ++ [(x.whole, it)] }))

/-- A feed of a station whose first mark or close no message is ahead of. -/
def feedDue (d : Dev) (slot st : Nat) : Option Feed :=
  d.feeds.find? (fun f => f.slot == slot && f.station == st && (f.waits.head?.any (fun w => w.1 == 0)))

/-- INTAKE_OBJECT (R135 to R138, R141, R454): an item of a feed's log, or what a command put in its place, or a region's next object. -/
def intakeObject (slot st : Nat) (m : Memory) (d : Dev) : DevOut :=
  if (getSt d slot st).ended then noEvent
  else if outBlocked d slot st then .next d
  else if u8at (paramSt d slot st) 0 = 2 then
    match (intakeSt d slot st).todo, feedDue d slot st with
    | it :: r, _ => .next (feedItem (modIntake d slot st (fun x => { x with todo := r })) slot st it)
    | [], some f => .next (settleFeed f.id f.waits.length d)
    | [], none => noEvent
  else match readManifest m d slot st with
  | .error e => .next (moverAccess d slot st e)
  | .ok d => .next (if stopped d slot then d else regionObject slot st m d)

/-- INTAKE_OBJECT. -/
def execIntakeObject (slot station : Nat) (s : State) : Host.Outcome State Fault Refusal :=
  onStation slot station (· = .intake) s (intakeObject slot station)

/-- Feed slots that the job's state lets intake take at opening (R141, 14 R366): whole before JOB_START only as the log has room. -/
def openSlots (j : Job) : Nat :=
  if j.state = .running then 4096 else min 4096 ((j.image.intakeLogBytes - logCharge j.fullLog) / 2048 * 256)

/-- The sequence and watermark a feed continues from (R141): the station's, or the adopted checkpoint's, and what its log holds behind them. -/
def feedBase (d : Dev) (slot st : Nat) : Nat × Nat :=
  let j := getJob d slot
  let own := j.log.filter (fun i => i.station == st)
  let recs := (own.filter (fun i => match i with
    | .record _ _ => true
    | _ => false)).length
  let mark := own.foldl (fun a i => match i with
    | .mark _ t => max a t
    | _ => a) 0
  let rt := if j.state = .running then j.rt else ((d.ckpts.find? (fun c => c.final && c.tag == j.image.jobTag && c.part == j.partIndex)).map (·.rt)).getD {}
  let x := match (rt.stations.getD st {}).kind with
    | .intake x => x
    | _ => {}
  if j.state = .running then (x.fseq + (x.todo.filter (fun i => match i with
    | .record _ _ => true
    | _ => false)).length, max x.mark mark) else (x.fseq + recs, max x.mark mark)

/-- FEED_OPEN (R160, R165, 14 R366). -/
def feedOpen : Service :=
  { opcode := 0x0020,
    check := fun _ d c =>
      let j := getJob d c.slot
      let a := u16at c.body 0
      let port := u8at c.body 2
      let n := u8at c.body 3
      let al := j.image.stations.getD a {}
      match feedIntake j.image a port with
      | none => badField 0
      | some st =>
        if al.stype ≠ .align then badField 0
        else if 15 < n then badField 3
        else if 1 < u8at c.body 4 then badField 4
        else if d.feeds.any (fun f => f.slot == c.slot && f.align == a && (f.number == n || f.port == port)) then badField 3
        else if decide (n < al.inPorts) && (feedIntake j.image a n).isNone then badField 3
        else if (getSt d c.slot st).ended then badField 0
        else if 1024 ≤ (d.feeds.filter (fun f => !f.closing)).length then some (0x0005, 0x0E)
        else none,
    act := fun _ d c =>
      let j := getJob d c.slot
      let a := u16at c.body 0
      let port := u8at c.body 2
      let n := u8at c.body 3
      let st := (feedIntake j.image a port).getD 0
      let id := d.nextFeed % 65536
      let (sq, mk) := feedBase d c.slot st
      let w0 := frontierOf j.image.latenessUs (alignSt d c.slot a).w + j.image.latenessUs
      let mk := if j.state = .running then max mk w0 else mk
      let d := { d with feeds := d.feeds ++ [{ id := id, slot := c.slot, station := st, align := a, port := port, number := n, mode := u8at c.body 4, nextSeq := sq, mark := mk }], nextFeed := d.nextFeed + 1 }
      let d := topUp (modFeed d id (fun f => { f with total := openSlots j })) id
      let d :=
        if j.state = .running then
          let it := LogItem.opened st n w0
          feedItem (capture d c.slot [it]) c.slot st it
        else d
      (d, some (padTo 8 (le 2 id))) }

/-- FEED_OPEN. -/
def execFeedOpen (idx : Nat) (s : State) : Host.Outcome State Fault Refusal := runDev s (serve feedOpen idx)

/-- The feed that a command names, open for its job. -/
def ownFeed (d : Dev) (c : Cmd) : Option Feed := d.feeds.find? (fun f => f.id == u16at c.body 0 && f.slot == c.slot && !f.closing)

/-- FEED_CLOSE (R161, R165; 14 R365 kind 3): the adapter discards what it has not delivered; the close stands behind the messages delivered whole
(log entry 109). -/
def feedClose : Service :=
  { opcode := 0x0021,
    check := fun _ d c => if (ownFeed d c).isNone then badField 0 else none,
    act := fun _ d c =>
      match ownFeed d c with
      | none => (d, some [])
      | some f =>
        let d := modFeed (sendClosed d f.id) f.id (fun x => { x with partBuf := x.partBuf.take x.whole })
        (feedWait d f (.close f.station), some []) }

/-- FEED_CLOSE. -/
def execFeedClose (idx : Nat) (s : State) : Host.Outcome State Fault Refusal := runDev s (serve feedClose idx)

/-- FEED_WATERMARK (R161; 03, Feeds and regions): behind every message received. -/
def feedWatermark : Service :=
  { opcode := 0x0022,
    check := fun _ d c =>
      match ownFeed d c with
      | none => badField 0
      | some f => if f.mode = 1 then badField 0 else if u64at c.body 8 < f.mark then badField 8 else none,
    act := fun _ d c =>
      match ownFeed d c with
      | none => (d, some [])
      | some f =>
        let v := u64at c.body 8
        (feedWait (modFeed d f.id (fun x => { x with mark := v })) f (.mark f.station v), some []) }

/-- FEED_WATERMARK. -/
def execFeedWatermark (idx : Nat) (s : State) : Host.Outcome State Fault Refusal := runDev s (serve feedWatermark idx)

/-- The records of a RECORDS body: COUNT of them, filling it exactly (R139). -/
def feedRecords : Nat → Bytes → Option (List Bytes)
  | 0, bs => if bs.isEmpty then some [] else none
  | n + 1, bs =>
    let k := u32at bs 0
    if bs.length < 4 + k then none else (feedRecords n (bs.drop (4 + k))).map (fun r => (bs.drop 4).take k :: r)

/-- The first message of a feed's stream: not all there, malformed, records with the sequence of the first, or a watermark; and its bytes (R139). -/
inductive FeedMsg where
  | part
  | bad
  | recs (first : Nat) (rs : List Bytes)
  | mark (v : Nat)
  deriving DecidableEq, Repr

/-- Reads the first message. -/
def feedMsg (b : Bytes) : FeedMsg × Nat :=
  if b.length < 16 then (.part, 0)
  else
    let kind := u8at b 0
    let n := u32at b 4
    let count := u16at b 2
    if feedHeadBad b then (.bad, 16)
    else if b.length < 16 + n then (.part, 0)
    else if kind = 2 then (.mark (u64at b 8), 16)
    else match feedRecords count ((b.drop 16).take n) with
    | some rs => (.recs (u64at b 8) rs, 16 + n)
    | none => (.bad, 16 + n)

/-- A message leaves the feed's buffer and its credits are granted again (14 R366). -/
def feedTaken (d : Dev) (f : Feed) (n : Nat) : Dev :=
  topUp (modFeed d f.id (fun x => { x with partBuf := x.partBuf.drop n, waits := x.waits.map (fun w => (w.1 - n, w.2)) })) f.id

/-- One message of a feed (R139 to R141, R161): none while the next is not whole or a command's mark or close is due before it; `use` says what it does to
a feed that takes it. -/
def feedEvent (d : Dev) (id : Nat) (use : Feed → Option Dev) : DevOut :=
  match getFeed d id with
  | none => noEvent
  | some f =>
    if f.waits.head?.any (fun w => w.1 == 0) then .next (settleFeed id f.waits.length d)
    else match use f with
    | none => noEvent
    | some d => .next (settleFeed id (f.waits.length + 1) d)

/-- A feed's message breaks a rule: a job fault of the class 0x0B. -/
def feedFault (d : Dev) (f : Feed) (code detail detail2 : Nat) : Dev := stationFault d f.slot f.station code detail detail2

/-- Records of a message (R139, R140, R141): those below the sequence expected are discarded; a gap is a fault. -/
def feedTake (d : Dev) (f : Feed) (first : Nat) (rs : List Bytes) (n : Nat) : Dev :=
  if f.nextSeq < first then feedFault (feedTaken d f n) f 0x0B04 f.number f.nextSeq
  else
    let items := (rs.drop (f.nextSeq - first)).map (LogItem.record f.station)
    if !feedTakes d f items then d
    else items.foldl (fun d it => takeItem d f.slot f.station it) (modFeed (feedTaken d f n) f.id (fun x => { x with nextSeq := max x.nextSeq (first + rs.length) }))

/-- FEED_RECORDS (R139, R140, R141). -/
def feedRecordsMsg (id : Nat) (d : Dev) : DevOut :=
  feedEvent d id (fun f =>
    match feedMsg f.partBuf with
    | (.bad, n) => some (feedFault (feedTaken d f n) f 0x0B03 f.number 0)
    | (.recs first rs, n) => some (feedTake d f first rs n)
    | _ => none)

/-- FEED_RECORDS. -/
def execFeedRecords (feed : Nat) (s : State) : Host.Outcome State Fault Refusal := runDev s (fun _ d => feedRecordsMsg feed d)

/-- A watermark message (R161): below the watermark it is ignored and counted; on a mode 0 feed it is a fault. -/
def feedMark (d : Dev) (f : Feed) (v n : Nat) : Dev :=
  if f.mode = 0 then feedFault (feedTaken d f n) f 0x0B05 f.number 0
  else if v < f.mark then modJob (feedTaken d f n) f.slot (fun j => { j with marksIgnored := j.marksIgnored + 1 })
  else if !feedTakes d f [.mark f.station v] then d
  else takeItem (modFeed (feedTaken d f n) f.id (fun x => { x with mark := v })) f.slot f.station (.mark f.station v)

/-- FEED_WATERMARK_MESSAGE (R161). -/
def feedMarkMsg (id : Nat) (d : Dev) : DevOut :=
  feedEvent d id (fun f =>
    match feedMsg f.partBuf with
    | (.mark v, n) => some (feedMark d f v n)
    | _ => none)

/-- FEED_WATERMARK_MESSAGE. -/
def execFeedWatermarkMessage (feed : Nat) (s : State) : Host.Outcome State Fault Refusal := runDev s (fun _ d => feedMarkMsg feed d)

end Sys2Proof.Machine
end

