-- ==== Sys2Proof/Machine/Inflate.lean ====
section
/-!
DEFINITION. DEFLATE, zlib and gzip as the unpack engine decodes them (05 R144, R146, R147; RFC 1950, 1951, 1952).
-/

namespace Sys2Proof.Machine

/-- What a decoder gives: the output of the blocks or members that stand, and the fault with its byte offset, if any. -/
structure Unpacked where
  out : Bytes
  err : Option (Nat × Nat) := none
  deriving DecidableEq, Repr

/-- The output where nothing failed. -/
def Unpacked.whole (u : Unpacked) : Option Bytes := if u.err.isNone then some u.out else none

/-- Bit `pos` of the input, least significant first; none past the end. -/
def inBit (bs : Bytes) (pos : Nat) : Option Nat := (bs[pos / 8]?).map (fun b => b.toNat / pow2 (pos % 8) % 2)

/-- `n` bits from bit `pos`, least significant first. -/
def inBits (bs : Bytes) (n pos : Nat) : Option Nat :=
  if 8 * bs.length < pos + n then none else some ((uat bs (pos / 8) (n / 8 + 2)) / pow2 (pos % 8) % pow2 n)

/-- A canonical code: how many codes of each length, and the symbols in code order. -/
structure Huff where
  counts : List Nat
  syms : List Nat
  deriving DecidableEq, Repr

/-- The canonical code of lengths. -/
def mkHuff (lens : List Nat) : Huff :=
  { counts := (List.range 16).map (fun n => lens.count n)
    syms := ((List.range 15).map (fun n => (lens.zipIdx.filter (fun x => x.1 == n + 1)).map (·.2))).flatten }

/-- Codes left over (positive) or too many (negative) for lengths. -/
def huffLeft (lens : List Nat) : Int := (List.range 15).foldl (fun left n => 2 * left - ((lens.count (n + 1) : Nat) : Int)) 1

/-- Lengths give a usable code: complete, or one code of length 1 alone (RFC 1951, 3.2.7). -/
def huffOk (lens : List Nat) : Bool := decide (huffLeft lens = 0) || (decide (0 < huffLeft lens) && (lens.filter (· ≠ 0)).all (· == 1) && decide ((lens.filter (· ≠ 0)).length ≤ 1))

/-- Reads one symbol: an error code, or the symbol and the next position. -/
def huffRead (h : Huff) (bs : Bytes) : Nat → Nat → Nat → Nat → Nat → Nat → Except Nat (Nat × Nat)
  | 0, _, _, _, _, _ => .error 0x0201
  | n + 1, len, code, first, index, pos =>
    match inBit bs pos with
    | none => .error 0x0208
    | some b =>
      let code := code + b
      let c := h.counts.getD len 0
      if code < first + c then .ok (h.syms.getD (index + (code - first)) 0, pos + 1)
      else huffRead h bs n (len + 1) (2 * code) (2 * (first + c)) (index + c) (pos + 1)

/-- Reads a symbol from a position. -/
def readSym (h : Huff) (bs : Bytes) (pos : Nat) : Except Nat (Nat × Nat) := huffRead h bs 15 1 0 0 0 pos

/-- Base lengths of symbols 257 to 285. -/
def lenBase : List Nat := [3, 4, 5, 6, 7, 8, 9, 10, 11, 13, 15, 17, 19, 23, 27, 31, 35, 43, 51, 59, 67, 83, 99, 115, 131, 163, 195, 227, 258]
/-- Their extra bits. -/
def lenExtra : List Nat := [0, 0, 0, 0, 0, 0, 0, 0, 1, 1, 1, 1, 2, 2, 2, 2, 3, 3, 3, 3, 4, 4, 4, 4, 5, 5, 5, 5, 0]
/-- Base distances of symbols 0 to 29. -/
def distBase : List Nat := [1, 2, 3, 4, 5, 7, 9, 13, 17, 25, 33, 49, 65, 97, 129, 193, 257, 385, 513, 769, 1025, 1537, 2049, 3073, 4097, 6145, 8193, 12289, 16385, 24577]
/-- Their extra bits. -/
def distExtra : List Nat := [0, 0, 0, 0, 1, 1, 2, 2, 3, 3, 4, 4, 5, 5, 6, 6, 7, 7, 8, 8, 9, 9, 10, 10, 11, 11, 12, 12, 13, 13]

/-- Copies a match byte by byte: the newest byte stands first in `out`. -/
def copyMatch : Nat → Nat → Bytes → Bytes
  | 0, _, out => out
  | n + 1, dist, out => copyMatch n dist (out.getD (dist - 1) 0 :: out)

/-- An error with the byte that holds a bit position. -/
def errByte (e pos : Nat) : Nat × Nat := (e, pos / 8)

/-- Decodes the symbols of one block. `out` is newest first and begins with the history of `hist` bytes. -/
def inflateSyms (lh dh : Huff) (window : Nat) (bs : Bytes) : Nat → Nat → Bytes → Except (Nat × Nat) (Nat × Bytes)
  | 0, pos, _ => .error (errByte 0x0208 pos)
  | n + 1, pos, out =>
    match readSym lh bs pos with
    | .error e => .error (if e = 0x0208 then (e, bs.length) else errByte e pos)
    | .ok (s, p) =>
      if s < 256 then inflateSyms lh dh window bs n p (byteOf s :: out)
      else if s = 256 then .ok (p, out)
      else if 285 < s then .error (errByte 0x0201 pos)
      else match inBits bs (lenExtra.getD (s - 257) 0) p with
      | none => .error (0x0208, bs.length)
      | some x =>
        let len := lenBase.getD (s - 257) 0 + x
        let p := p + lenExtra.getD (s - 257) 0
        match readSym dh bs p with
        | .error e => .error (if e = 0x0208 then (e, bs.length) else errByte e p)
        | .ok (ds, p2) =>
          if 29 < ds then .error (errByte 0x0201 p)
          else match inBits bs (distExtra.getD ds 0) p2 with
          | none => .error (0x0208, bs.length)
          | some y =>
            let dist := distBase.getD ds 0 + y
            if out.length < dist ∨ window < dist then .error (errByte 0x0202 p)
            else inflateSyms lh dh window bs n (p2 + distExtra.getD ds 0) (copyMatch len dist out)

/-- Code lengths of the fixed code. -/
def fixedLens : List Nat := List.replicate 144 8 ++ List.replicate 112 9 ++ List.replicate 24 7 ++ List.replicate 8 8

/-- Order of the code length code's lengths. -/
def clOrder : List Nat := [16, 17, 18, 0, 8, 7, 9, 6, 10, 5, 11, 4, 12, 3, 13, 2, 14, 1, 15]

/-- Reads `want` code lengths with the code length code; `acc` is newest first. -/
def readLens (h : Huff) (bs : Bytes) (want : Nat) : Nat → Nat → List Nat → Except (Nat × Nat) (Nat × List Nat)
  | 0, pos, _ => .error (errByte 0x0201 pos)
  | n + 1, pos, acc =>
    if acc.length = want then .ok (pos, acc.reverse)
    else match readSym h bs pos with
    | .error e => .error (if e = 0x0208 then (e, bs.length) else errByte e pos)
    | .ok (s, p) =>
      if s < 16 then readLens h bs want n p (s :: acc)
      else
        let (k, base, v) := if s = 16 then (2, 3, acc.headD 0) else if s = 17 then (3, 3, 0) else (7, 11, 0)
        match inBits bs k p with
        | none => .error (0x0208, bs.length)
        | some x =>
          if (s = 16 ∧ acc.isEmpty) ∨ want < acc.length + base + x then .error (errByte 0x0201 pos)
          else readLens h bs want n (p + k) (List.replicate (base + x) v ++ acc)

/-- The two codes of a dynamic block and the position behind them. -/
def dynamicCodes (bs : Bytes) (pos : Nat) : Except (Nat × Nat) (Huff × Huff × Nat) :=
  match inBits bs 14 pos with
  | none => .error (0x0208, bs.length)
  | some x =>
    let hlit := x % 32 + 257
    let hdist := x / 32 % 32 + 1
    let hclen := x / 1024 + 4
    if 286 < hlit ∨ 30 < hdist then .error (errByte 0x0201 pos)
    else match inBits bs (3 * hclen) (pos + 14) with
    | none => .error (0x0208, bs.length)
    | some y =>
      let given := (clOrder.take hclen).zipIdx.map (fun o => (o.1, y / pow2 (3 * o.2) % 8))
      let cl := (List.range 19).map (fun i => (assocGet given i).getD 0)
      if huffLeft cl ≠ 0 then .error (errByte 0x0201 (pos + 14))
      else match readLens (mkHuff cl) bs (hlit + hdist) (hlit + hdist + 1) (pos + 14 + 3 * hclen) [] with
      | .error e => .error e
      | .ok (p, lens) =>
        let ll := lens.take hlit
        let dl := lens.drop hlit
        if !huffOk ll || decide (ll.getD 256 0 = 0) || !huffOk dl then .error (errByte 0x0201 pos)
        else .ok (mkHuff ll, mkHuff dl, p)

/-- Decodes one block after its header bits: position and output. -/
def inflateBlock (window : Nat) (bs : Bytes) (ty pos : Nat) (out : Bytes) : Except (Nat × Nat) (Nat × Bytes) :=
  match ty with
  | 0 =>
    let a := (pos + 7) / 8
    if bs.length < a + 4 then .error (0x0208, bs.length)
    else
      let len := u16at bs a
      if u16at bs (a + 2) ≠ 0xFFFF - len then .error (0x0205, a)
      else if bs.length < a + 4 + len then .error (0x0208, bs.length)
      else .ok (8 * (a + 4 + len), (slice bs (a + 4) len).reverse ++ out)
  | 1 => inflateSyms (mkHuff fixedLens) (mkHuff (List.replicate 30 5)) window bs (8 * bs.length + 1) pos out
  | 2 =>
    match dynamicCodes bs pos with
    | .error e => .error e
    | .ok (lh, dh, p) => inflateSyms lh dh window bs (8 * bs.length + 1) p out
  | _ => .error (errByte 0x0201 pos)

/-- Decodes blocks until the final one: the position behind it, the output newest first, and the error; after an error the output of the last good block. -/
def inflateBlocks (window : Nat) (bs : Bytes) : Nat → Nat → Bytes → Nat × Bytes × Option (Nat × Nat)
  | 0, pos, out => (pos, out, some (0x0208, bs.length))
  | n + 1, pos, out =>
    match inBits bs 3 pos with
    | none => (pos, out, some (0x0208, bs.length))
    | some h =>
      match inflateBlock window bs (h / 2) (pos + 3) out with
      | .error e => (pos, out, some e)
      | .ok (p, out) => if h % 2 = 1 then (p, out, none) else inflateBlocks window bs n p out

/-- Raw DEFLATE after a dictionary: output in order, position in bytes rounded up. -/
def inflateFrom (window : Nat) (dict bs : Bytes) (start : Nat) : Bytes × Nat × Option (Nat × Nat) :=
  let (p, out, e) := inflateBlocks window bs (8 * bs.length + 1) (8 * start) dict.reverse
  (out.reverse.drop dict.length, (p + 7) / 8, e)

/-- Format 1: raw DEFLATE. -/
def unpackDeflate (bs : Bytes) : Unpacked :=
  let (out, p, e) := inflateFrom 32768 [] bs 0
  match e with
  | some x => ⟨out, some x⟩
  | none => ⟨out, if p < bs.length then some (0x0205, p) else none⟩

/-- A big-endian u32. -/
def be32 (bs : Bytes) (i : Nat) : Nat := leNat (slice bs i 4).reverse

/-- Format 2: zlib (R144). The dictionary is found by its Adler-32. -/
def unpackZlib (dict : Nat → Option Bytes) (bs : Bytes) : Unpacked :=
  if bs.length < 2 then ⟨[], some (0x0208, bs.length)⟩
  else
    let cmf := u8at bs 0
    let flg := u8at bs 1
    if cmf % 16 ≠ 8 then ⟨[], some (0x0207, 0)⟩
    else if 7 < cmf / 16 ∨ (256 * cmf + flg) % 31 ≠ 0 then ⟨[], some (0x0205, 0)⟩
    else
      let fd := bit flg 5
      if fd ∧ bs.length < 6 then ⟨[], some (0x0208, bs.length)⟩
      else match (if fd then dict (be32 bs 2) else some []) with
      | none => ⟨[], some (0x0209, 2)⟩
      | some dc =>
        let (out, p, e) := inflateFrom (pow2 (8 + cmf / 16)) dc bs (if fd then 6 else 2)
        match e with
        | some x => ⟨out, some x⟩
        | none =>
          if bs.length < p + 4 then ⟨out, some (0x0208, bs.length)⟩
          else if be32 bs p ≠ adler32 out then ⟨out, some (0x0206, p)⟩
          else ⟨out, if p + 4 < bs.length then some (0x0205, p + 4) else none⟩

/-- Skips a zero-terminated field from a position. -/
def skipZ (bs : Bytes) : Nat → Nat → Option Nat
  | 0, _ => none
  | n + 1, p => match bs[p]? with
    | none => none
    | some b => if b = 0 then some (p + 1) else skipZ bs n (p + 1)

/-- The end of a gzip member's header, or the fault (RFC 1952): extra field, name and comment skipped, FHCRC checked. -/
def gzipHeader (bs : Bytes) (a : Nat) : Except (Nat × Nat) Nat :=
  if bs.length < a + 10 then .error (0x0208, bs.length)
  else if u8at bs a ≠ 0x1F ∨ u8at bs (a + 1) ≠ 0x8B then .error (0x0205, a)
  else if u8at bs (a + 2) ≠ 8 then .error (0x0207, a + 2)
  else
    let flg := u8at bs (a + 3)
    if 32 ≤ flg then .error (0x0205, a + 3)
    else
      let cut : Except (Nat × Nat) Nat := .error (0x0208, bs.length)
      let p := a + 10
      let p1 : Option Nat := if bit flg 2 then (if bs.length < p + 2 then none else if bs.length < p + 2 + u16at bs p then none else some (p + 2 + u16at bs p)) else some p
      match p1 with
      | none => cut
      | some p =>
        match (if bit flg 3 then skipZ bs bs.length p else some p) with
        | none => cut
        | some p =>
          match (if bit flg 4 then skipZ bs bs.length p else some p) with
          | none => cut
          | some p =>
            if !bit flg 1 then .ok p
            else if bs.length < p + 2 then cut
            else if u16at bs p ≠ crc32 (slice bs a (p - a)) % 0x10000 then .error (0x0206, p)
            else .ok (p + 2)

/-- Members from a position on; after an error the output of the whole members stands (R147), but one that fails only its checksum was emitted. DESIGN CHOICE
(log entry 108): a member whose CRC-32 or ISIZE differs was decoded to its end and counts as whole, so its output stays. -/
def gzipMembers (bs : Bytes) : Nat → Nat → Bytes → Unpacked
  | 0, _, out => ⟨out, none⟩
  | n + 1, a, out =>
    match gzipHeader bs a with
    | .error e => ⟨out, some e⟩
    | .ok p =>
      let (o, p, e) := inflateFrom 32768 [] bs p
      match e with
      | some x => ⟨out, some x⟩
      | none =>
        if bs.length < p + 8 then ⟨out, some (0x0208, bs.length)⟩
        else if u32at bs p ≠ crc32 o then ⟨out ++ o, some (0x0206, p)⟩
        else if u32at bs (p + 4) ≠ o.length % pow2 32 then ⟨out ++ o, some (0x0204, p + 4)⟩
        else if p + 8 = bs.length then ⟨out ++ o, none⟩
        else gzipMembers bs n (p + 8) (out ++ o)

/-- Format 3: gzip, its members decoded in turn. -/
def unpackGzip (bs : Bytes) : Unpacked := gzipMembers bs (bs.length + 1) 0 []

end Sys2Proof.Machine
end

