-- ==== Sys2Proof/Machine/Lz.lean ====
section
/-!
DEFINITION. Snappy and LZ4 as the bramble lane decodes them for Parquet pages, Avro blocks and Arrow bodies (05 R153, R156). PRESUMED (log entry 110): the
codecs' own formats.
-/

namespace Sys2Proof.Machine

/-- A variable-length integer, seven bits a byte, least significant first: its value and the rest. -/
def leb : Nat → Bytes → Option (Nat × Bytes)
  | 0, _ => none
  | _, [] => none
  | n + 1, b :: r =>
    if b.toNat < 0x80 then some (b.toNat, r)
    else (leb n r).map (fun x => (b.toNat - 0x80 + 128 * x.1, x.2))

/-- Copies a match where it lies in the output, newest byte first. -/
def lzCopy (len dist : Nat) (out : Bytes) : Option Bytes := if dist = 0 ∨ out.length < dist then none else some (copyMatch len dist out)

/-- Snappy elements: literals and copies; the output newest first. -/
def snappyRun : Nat → Bytes → Bytes → Option Bytes
  | 0, _, _ => none
  | n + 1, bs, out =>
    match bs with
    | [] => some out
    | b :: r =>
      let tag := b.toNat
      let hi := tag / 4
      match tag % 4 with
      | 0 =>
        let k := if hi < 60 then 0 else hi - 59
        let len := (if hi < 60 then hi else uat r 0 k) + 1
        if r.length < k + len then none else snappyRun n (r.drop (k + len)) ((slice r k len).reverse ++ out)
      | 1 => if r.isEmpty then none else (lzCopy (hi % 8 + 4) (hi / 8 * 256 + u8at r 0) out).bind (snappyRun n (r.drop 1))
      | 2 => if r.length < 2 then none else (lzCopy (hi + 1) (u16at r 0) out).bind (snappyRun n (r.drop 2))
      | _ => if r.length < 4 then none else (lzCopy (hi + 1) (u32at r 0) out).bind (snappyRun n (r.drop 4))

/-- A Snappy block: its length, then its elements. -/
def unpackSnappy (bs : Bytes) : Option Bytes :=
  match leb 5 bs with
  | none => none
  | some (n, r) =>
    match snappyRun (r.length + 1) r [] with
    | some out => if out.length = n then some out.reverse else none
    | none => none

/-- A length of LZ4: bytes of 255 go on. -/
def lz4Len : Nat → Bytes → Option (Nat × Bytes)
  | k, [] => if k = 15 then none else some (k, [])
  | k, b :: r => if k = 15 then lz4More 15 (b :: r) else some (k, b :: r)
where
  /-- The bytes behind a length of 15. -/
  lz4More (a : Nat) : Bytes → Option (Nat × Bytes)
    | [] => none
    | b :: r => if b = 0xFF then lz4More (a + 255) r else some (a + b.toNat, r)

/-- LZ4 sequences; the output newest first. The last sequence has literals only. -/
def lz4Run : Nat → Bytes → Bytes → Option Bytes
  | 0, _, _ => none
  | n + 1, bs, out =>
    match bs with
    | [] => some out
    | b :: r =>
      match lz4Len (b.toNat / 16) r with
      | none => none
      | some (lits, r) =>
        if r.length < lits then none
        else
          let out := (r.take lits).reverse ++ out
          let r := r.drop lits
          if r.isEmpty then some out
          else if r.length < 2 then none
          else match lz4Len (b.toNat % 16) (r.drop 2) with
          | none => none
          | some (m, r2) => (lzCopy (m + 4) (u16at r 0) out).bind (lz4Run n r2)

/-- An LZ4 block behind a history, both in order; the block's own bytes. -/
def lz4Block (hist bs : Bytes) : Option Bytes :=
  (lz4Run (bs.length + 1) bs hist.reverse).map (fun o => o.reverse.drop hist.length)

/-- Blocks of LZ4 with lengths before them, both big-endian: raw and coded bytes (the LZ4 codec of Parquet). -/
def lz4Framed : Nat → Bytes → Option Bytes
  | 0, _ => none
  | n + 1, bs =>
    if bs.isEmpty then some []
    else if bs.length < 8 ∨ bs.length < 8 + be32 bs 4 then none
    else match lz4Block [] (slice bs 8 (be32 bs 4)), lz4Framed n (bs.drop (8 + be32 bs 4)) with
    | some a, some r => if a.length = be32 bs 0 then some (a ++ r) else none
    | _, _ => none

/-- The LZ4 codec of Parquet: framed blocks, else one raw block. -/
def unpackLz4 (bs : Bytes) : Option Bytes :=
  match lz4Framed (bs.length + 1) bs with
  | some o => some o
  | none => lz4Block [] bs

/-- The blocks of an LZ4 frame (`sums`: each has a checksum behind it; `linked`: each may refer to those before): the output and the bytes behind the end
mark. -/
def lz4Blocks (sums linked : Bool) : Nat → Bytes → Bytes → Option (Bytes × Bytes)
  | 0, _, _ => none
  | n + 1, bs, out =>
    if bs.length < 4 then none
    else
      let h := u32at bs 0
      let k := h % pow2 31
      if h = 0 then some (out, bs.drop 4)
      else if bs.length < 4 + k + (if sums then 4 else 0) then none
      else
        let data := slice bs 4 k
        match (if pow2 31 ≤ h then some data else lz4Block (if linked then out else []) data) with
        | none => none
        | some o => lz4Blocks sums linked n (bs.drop (4 + k + (if sums then 4 else 0))) (out ++ o)

/-- An LZ4 frame (Arrow's LZ4_FRAME); its checksums are not compared (log entry 110). -/
def unpackLz4Frame (bs : Bytes) : Option Bytes :=
  let flg := u8at bs 4
  let p := 7 + (if bit flg 3 then 8 else 0) + (if bit flg 0 then 4 else 0)
  if u32at bs 0 ≠ 0x184D2204 ∨ flg / 64 ≠ 1 ∨ bs.length < p then none
  else (lz4Blocks (bit flg 4) (!bit flg 5) (bs.length + 1) (bs.drop p) []).map (·.1)

end Sys2Proof.Machine
end

