-- ==== Sys2Proof/Machine/Zstd.lean ====
section
/-!
DEFINITION. Zstandard frames as the unpack engine decodes them (05 R144, R146, R147; RFC 8878).
-/

namespace Sys2Proof.Machine

/-- A backward bit stream: its bits as a number and how many are left; below zero it has been read past its start. -/
structure Back where
  bits : Nat
  pos : Int
  deriving DecidableEq, Repr

/-- Opens a backward stream: the highest set bit of the last byte marks its end; none where that byte is zero. -/
def Back.ofBytes (bs : Bytes) : Option Back :=
  if bs.isEmpty ∨ bs.getLastD 0 = 0 then none else some { bits := leNat bs, pos := (bitLen (leNat bs) : Int) - 1 }

/-- Looks at the next `n` bits, the first the most significant; zeros stand past the start. -/
def Back.peek (b : Back) (n : Nat) : Nat :=
  let p := b.pos - (n : Int)
  if 0 ≤ p then b.bits / pow2 p.toNat % pow2 n else (b.bits % pow2 b.pos.toNat) * pow2 (-p).toNat % pow2 n

/-- Moves on by `n` bits. -/
def Back.skip (b : Back) (n : Nat) : Back := { b with pos := b.pos - (n : Int) }

/-- An FSE decoding table: for each state the symbol, the bits to read and the base of the next state. -/
abbrev FseTable := List (Nat × Nat × Nat)

/-- Counts below one in FSE descriptions are written −1: the symbol takes one state. -/
def fsePlaceLow (probs : List Int) (size : Nat) : List Nat × Nat :=
  (probs.zipIdx).foldl (fun acc p => if p.1 = -1 then (acc.1.set acc.2 p.2, acc.2 - 1) else acc) (List.replicate size 0, size - 1)

/-- The next position of the spread that is not above `high`. -/
def fseStep (size high : Nat) : Nat → Nat → Nat
  | 0, p => p
  | n + 1, p =>
    let q := (p + size / 2 + size / 8 + 3) % size
    if high < q then fseStep size high n q else q

/-- Spreads a symbol over its states. -/
def fseSpread (size high sym : Nat) : Nat → List Nat × Nat → List Nat × Nat
  | 0, x => x
  | n + 1, (t, p) => fseSpread size high sym n (t.set p sym, fseStep size high size p)

/-- Builds a decoding table from counts and the accuracy. -/
def fseTable (probs : List Int) (al : Nat) : FseTable :=
  let size := pow2 al
  let (t, high) := fsePlaceLow probs size
  let t := ((probs.zipIdx).foldl (fun x p => if 0 < p.1 then fseSpread size high p.2 p.1.toNat x else x) (t, 0)).1
  (t.foldl (fun (acc : FseTable × List Nat) s =>
    let ns := acc.2.getD s 1
    let nb := al + 1 - bitLen ns
    ((s, nb, ns * pow2 nb - size) :: acc.1, acc.2.set s (ns + 1))) ([], probs.map (fun p => if p = -1 then 1 else p.toNat))).1.reverse

/-- Zero counts repeated by 2-bit run lengths. -/
def fseZeros (bs : Bytes) : Nat → Nat → Option (Nat × Nat)
  | 0, _ => none
  | n + 1, pos =>
    match inBits bs 2 pos with
    | none => none
    | some r => if r = 3 then (fseZeros bs n (pos + 2)).map (fun x => (x.1 + 3, x.2)) else some (r, pos + 2)

/-- Reads the counts of an FSE description: the counts newest first and the bit position behind them. -/
def fseCounts (bs : Bytes) (maxSym : Nat) : Nat → Nat → Nat → List Int → Option (List Int × Nat)
  | 0, _, _, _ => none
  | n + 1, remaining, pos, acc =>
    if remaining = 0 then some (acc, pos)
    else if maxSym < acc.length then none
    else
      let k := bitLen (remaining + 1)
      let low := pow2 (k - 1)
      let thr := pow2 k - 1 - (remaining + 1)
      let raw := uat bs (pos / 8) 4 / pow2 (pos % 8) % pow2 k
      let (v, used) := if raw % low < thr then (raw % low, k - 1) else if low ≤ raw then (raw - thr, k) else (raw, k)
      if 8 * bs.length < pos + used then none
      else
        let p : Int := (v : Int) - 1
        if remaining < p.natAbs then none
        else if p = 0 then
          match fseZeros bs 100 (pos + used) with
          | none => none
          | some (z, q) => fseCounts bs maxSym n remaining q (List.replicate z 0 ++ (0 :: acc))
        else fseCounts bs maxSym n (remaining - p.natAbs) (pos + used) (p :: acc)

/-- Reads an FSE table description from a byte: the table, its accuracy and the byte behind it. -/
def fseRead (bs : Bytes) (at0 maxAl maxSym : Nat) : Option (FseTable × Nat × Nat) :=
  let b := bs.drop at0
  match inBits b 4 0 with
  | none => none
  | some x =>
    let al := x + 5
    if maxAl < al then none
    else match fseCounts b maxSym (maxSym + 3) (pow2 al) 4 [] with
    | none => none
    | some (acc, pos) => if maxSym + 1 < acc.length then none else some (fseTable acc.reverse al, al, at0 + (pos + 7) / 8)

/-- Decodes weights with two interleaved states until the stream is exhausted. -/
def fseWeights (t : FseTable) : Nat → Nat → Nat → Back → List Nat
  | 0, _, _, _ => []
  | n + 1, s1, s2, b =>
    let e := t.getD s1 (0, 0, 0)
    let nx := e.2.2 + b.peek e.2.1
    let b2 := b.skip e.2.1
    if b2.pos < 0 then [e.1, (t.getD s2 (0, 0, 0)).1] else e.1 :: fseWeights t n s2 nx b2

/-- A Huffman table of a literals section: greatest length and, for each index of that many bits, symbol and length. -/
structure HufTable where
  bits : Nat
  table : List (Nat × Nat)
  deriving DecidableEq, Repr

/-- The Huffman table of weights; the last weight is implied. None where the weights give no complete code of at most 11 bits. -/
def hufTable (ws : List Nat) : Option HufTable :=
  let sum := ws.foldl (fun a w => if w = 0 then a else a + pow2 (w - 1)) 0
  if sum = 0 ∨ ws.any (fun w => decide (11 < w)) then none
  else
    let maxBits := bitLen sum
    let left := pow2 maxBits - sum
    if 11 < maxBits ∨ left ≠ pow2 (bitLen left - 1) then none
    else
      let all := ws ++ [bitLen left]
      let t := ((List.range maxBits).map (fun i => ((all.zipIdx.filter (fun x => x.1 == i + 1)).map (fun x => List.replicate (pow2 i) (x.2, maxBits - i))).flatten)).flatten
      if (all.filter (· == 1)).length < 2 ∨ (all.filter (· == 1)).length % 2 = 1 then none else some { bits := maxBits, table := t }

/-- Reads a Huffman tree description: the table and the byte behind it. -/
def hufRead (bs : Bytes) (a : Nat) : Option (HufTable × Nat) :=
  if bs.length ≤ a then none
  else
    let h := u8at bs a
    if 128 ≤ h then
      let n := h - 127
      let len := (n + 1) / 2
      if bs.length < a + 1 + len then none
      else
        let ws := (List.range n).map (fun i => let x := u8at bs (a + 1 + i / 2); if i % 2 = 0 then x / 16 else x % 16)
        (hufTable ws).map (fun t => (t, a + 1 + len))
    else if bs.length < a + 1 + h then none
    else
      let b := slice bs (a + 1) h
      match fseRead b 0 6 255 with
      | none => none
      | some (t, al, p) =>
        match Back.ofBytes (b.drop p) with
        | none => none
        | some k =>
          let s1 := k.peek al
          let k := k.skip al
          let s2 := k.peek al
          (hufTable (fseWeights t 256 s1 s2 (k.skip al))).map (fun x => (x, a + 1 + h))

/-- Decodes one Huffman stream that must end exactly at its start. -/
def hufStream (t : HufTable) : Nat → Back → Option Bytes
  | 0, b => if b.pos = 0 then some [] else none
  | n + 1, b =>
    if b.pos < 0 then none
    else if b.pos = 0 then some []
    else
      let e := t.table.getD (b.peek t.bits) (0, t.bits)
      match hufStream t n (b.skip e.2) with
      | some r => some (byteOf e.1 :: r)
      | none => none

/-- Decodes a Huffman stream of bytes into `n` literals. -/
def hufLits (t : HufTable) (bs : Bytes) (n : Nat) : Option Bytes :=
  match Back.ofBytes bs with
  | none => none
  | some b =>
    match hufStream t (n + 1) b with
    | some r => if r.length = n then some r else none
    | none => none

/-- What a frame carries from block to block: tables and repeated offsets. -/
structure ZState where
  huf : Option HufTable := none
  ll : Option (FseTable × Nat) := none
  off : Option (FseTable × Nat) := none
  ml : Option (FseTable × Nat) := none
  reps : List Nat := [1, 4, 8]
  deriving DecidableEq, Repr

/-- Reads a literals section of a block: the literals, the Huffman table kept, and the bytes used; or the fault and the byte of the block it lies at
(log entry 108). Literals that go past the block's end are 0x0203 (R146). -/
def zLiterals (z : ZState) (b : Bytes) (maxBlock : Nat) : Except (Nat × Nat) (Bytes × Option HufTable × Nat) :=
  if b.isEmpty then .error (0x0203, 0)
  else
    let ty := u8at b 0 % 4
    let sf := u8at b 0 / 4 % 4
    if ty ≤ 1 then
      let (hl, n) := if sf % 2 = 0 then (1, u8at b 0 / 8) else if sf = 1 then (2, u16at b 0 / 16) else (3, uat b 0 3 / 16)
      if maxBlock < n then .error (0x0204, 0)
      else
        let len := if ty = 0 then n else 1
        if b.length < hl + len then .error (0x0203, 0)
        else .ok (if ty = 0 then slice b hl n else List.replicate n (b.getD hl 0), z.huf, hl + len)
    else
      let (hl, k) := if sf ≤ 1 then (3, 10) else if sf = 2 then (4, 14) else (5, 18)
      let h := uat b 0 5
      let n := h / 16 % pow2 k
      let cl := h / pow2 (4 + k) % pow2 k
      if b.length < hl + cl then .error (0x0203, 0)
      else if maxBlock < n then .error (0x0204, 0)
      else
        let c := slice b hl cl
        match (if ty = 2 then hufRead c 0 else z.huf.map (fun t => (t, 0))) with
        | none => .error (0x0201, hl)
        | some (t, p) =>
          let s := c.drop p
          let lits :=
            if sf = 0 then hufLits t s n
            else if s.length < 6 then none
            else
              let q := (n + 3) / 4
              let a1 := u16at s 0
              let a2 := u16at s 2
              let a3 := u16at s 4
              if s.length < 6 + a1 + a2 + a3 ∨ n < 3 * q then none
              else do
                let l1 ← hufLits t (slice s 6 a1) q
                let l2 ← hufLits t (slice s (6 + a1) a2) q
                let l3 ← hufLits t (slice s (6 + a1 + a2) a3) q
                let l4 ← hufLits t (s.drop (6 + a1 + a2 + a3)) (n - 3 * q)
                some (l1 ++ l2 ++ l3 ++ l4)
          match lits with
          | some l => .ok (l, some t, hl + cl)
          | none => .error (0x0201, hl + p)

/-- Default counts of literal lengths, match lengths and offsets. -/
def llDefault : List Int := [4, 3, 2, 2, 2, 2, 2, 2, 2, 2, 2, 2, 2, 1, 1, 1, 2, 2, 2, 2, 2, 2, 2, 2, 2, 3, 2, 1, 1, 1, 1, 1, -1, -1, -1, -1]
/-- Match lengths. -/
def mlDefault : List Int := [1, 4, 3, 2, 2, 2, 2, 2, 2, 1, 1, 1, 1, 1, 1, 1, 1, 1, 1, 1, 1, 1, 1, 1, 1, 1, 1, 1, 1, 1, 1, 1, 1, 1, 1, 1, 1, 1, 1, 1, 1, 1, 1, 1, 1, 1, -1, -1, -1, -1, -1, -1, -1]
/-- Offset codes. -/
def ofDefault : List Int := [1, 1, 1, 1, 1, 1, 2, 2, 2, 1, 1, 1, 1, 1, 1, 1, 1, 1, 1, 1, 1, 1, 1, 1, -1, -1, -1, -1, -1]

/-- Base and extra bits of a literal length code. -/
def llCode (c : Nat) : Nat × Nat :=
  if c < 16 then (c, 0)
  else [(16, 1), (18, 1), (20, 1), (22, 1), (24, 2), (28, 2), (32, 3), (40, 3), (48, 4), (64, 6), (128, 7), (256, 8), (512, 9), (1024, 10), (2048, 11),
        (4096, 12), (8192, 13), (16384, 14), (32768, 15), (65536, 16)].getD (c - 16) (0, 0)

/-- Base and extra bits of a match length code. -/
def mlCode (c : Nat) : Nat × Nat :=
  if c < 32 then (c + 3, 0)
  else [(35, 1), (37, 1), (39, 1), (41, 1), (43, 2), (47, 2), (51, 3), (59, 3), (67, 4), (83, 4), (99, 5), (131, 7), (259, 8), (515, 9), (1027, 10),
        (2051, 11), (4099, 12), (8195, 13), (16387, 14), (32771, 15), (65539, 16)].getD (c - 32) (0, 0)

/-- One table of a sequences section by its mode: the table and the byte behind its description; or where it cannot be read. -/
def seqTable (b : Bytes) (mode p maxAl maxSym : Nat) (dflt : List Int) (dal : Nat) (prev : Option (FseTable × Nat)) : Except (Nat × Nat) ((FseTable × Nat) × Nat) :=
  let read : Option ((FseTable × Nat) × Nat) :=
    match mode with
    | 0 => some ((fseTable dflt dal, dal), p)
    | 1 => if b.length ≤ p ∨ maxSym < u8at b p then none else some (([(u8at b p, 0, 0)], 0), p + 1)
    | 2 => (fseRead b p maxAl maxSym).map (fun x => ((x.1, x.2.1), x.2.2))
    | _ => prev.map (fun t => (t, p))
  match read with
  | some x => .ok x
  | none => .error (0x0201, p)

/-- One decoded sequence: literals, match length, offset value, and the byte of its stream at which its bits begin. -/
structure ZSeq where
  lits : Nat
  mlen : Nat
  off : Nat
  pos : Nat := 0
  deriving DecidableEq, Repr

/-- The byte of a backward stream that holds its next bit. -/
def Back.byte (b : Back) : Nat := (b.pos - 1).toNat / 8

/-- Decodes sequences from the backward stream; where a code is illegal or the stream does not end exactly, the byte at which it cannot be used. -/
def zSeqs (ll off ml : FseTable) : Nat → Nat → Nat → Nat → Back → Except Nat (List ZSeq)
  | 0, _, _, _, b => if b.pos = 0 then .ok [] else .error b.byte
  | n + 1, sl, so, sm, b =>
    let a := b.byte
    let el := ll.getD sl (0, 0, 0)
    let eo := off.getD so (0, 0, 0)
    let em := ml.getD sm (0, 0, 0)
    if 31 < eo.1 then .error a
    else
      let ov := pow2 eo.1 + b.peek eo.1
      let b := b.skip eo.1
      let (mb, mx) := mlCode em.1
      let mlen := mb + b.peek mx
      let b := b.skip mx
      let (lb, lx) := llCode el.1
      let lits := lb + b.peek lx
      let b := b.skip lx
      if b.pos < 0 then .error a
      else if n = 0 then (if b.pos = 0 then .ok [⟨lits, mlen, ov, a⟩] else .error b.byte)
      else
        let sl := el.2.2 + b.peek el.2.1
        let b := b.skip el.2.1
        let sm := em.2.2 + b.peek em.2.1
        let b := b.skip em.2.1
        let so := eo.2.2 + b.peek eo.2.1
        let b := b.skip eo.2.1
        (zSeqs ll off ml n sl so sm b).map (fun r => ⟨lits, mlen, ov, a⟩ :: r)

/-- The offset of a sequence and the repeated offsets after it; none for an offset of zero. -/
def repOffset (reps : List Nat) (lits ov : Nat) : Option (Nat × List Nat) :=
  let r (i : Nat) : Nat := reps.getD i 1
  if 3 < ov then some (ov - 3, [ov - 3, r 0, r 1])
  else
    let i := if lits = 0 then ov else ov - 1
    if i = 0 then some (r 0, reps)
    else if i = 1 then some (r 1, [r 1, r 0, r 2])
    else if i = 2 then some (r 2, [r 2, r 0, r 1])
    else if r 0 ≤ 1 then none
    else some (r 0 - 1, [r 0 - 1, r 0, r 1])

/-- Runs sequences. `out` is newest first and ends with the dictionary of `dict` bytes; `start` is its length at the block's start. A fault carries the byte
of its sequence in the stream; the literals behind the last sequence carry 0. -/
def zRun (window dict start maxBlock : Nat) : List ZSeq → Bytes → Bytes → List Nat → Except (Nat × Nat) (Bytes × List Nat)
  | [], lits, out, reps =>
    let out := lits.reverse ++ out
    if start + maxBlock < out.length then .error (0x0204, 0) else .ok (out, reps)
  | q :: qs, lits, out, reps =>
    if lits.length < q.lits then .error (0x0203, q.pos)
    else
      let out := (lits.take q.lits).reverse ++ out
      match repOffset reps q.lits q.off with
      | none => .error (0x0202, q.pos)
      | some (o, reps) =>
        if out.length < o ∨ (window < o ∧ o ≤ out.length - dict) ∨ (out.length - dict < o ∧ window < out.length - dict) then .error (0x0202, q.pos)
        else if start + maxBlock < out.length + q.mlen then .error (0x0204, q.pos)
        else zRun window dict start maxBlock qs (lits.drop q.lits) (copyMatch q.mlen o out) reps

/-- The sequences section of a compressed block from a byte on (RFC 8878): output and state, or the fault and the byte of the block. -/
def zSequences (z : ZState) (window dict maxBlock : Nat) (b lits out : Bytes) (p : Nat) : Except (Nat × Nat) (Bytes × ZState) := do
  let n0 := u8at b p
  let (n, q) := if n0 < 128 then (n0, p + 1) else if n0 < 255 then ((n0 - 128) * 256 + u8at b (p + 1), p + 2) else (u16at b (p + 1) + 0x7F00, p + 3)
  if n = 0 ∧ q ≤ b.length then
    (if q < b.length then .error (0x0201, q) else (zRun window dict out.length maxBlock [] lits out z.reps).map (fun x => (x.1, z)))
  else if b.length ≤ q then .error (0x0201, p)
  else if u8at b q % 4 ≠ 0 then .error (0x0205, q)
  else
    let m := u8at b q
    let (l, r) ← seqTable b (m / 64) (q + 1) 9 35 llDefault 6 z.ll
    let (o, r) ← seqTable b (m / 16 % 4) r 8 31 ofDefault 5 z.off
    let (k, r) ← seqTable b (m / 4 % 4) r 9 52 mlDefault 6 z.ml
    match Back.ofBytes (b.drop r) with
    | none => .error (0x0201, b.length - 1)
    | some s =>
      let sl := s.peek l.2
      let s := s.skip l.2
      let so := s.peek o.2
      let s := s.skip o.2
      let sm := s.peek k.2
      match zSeqs l.1 o.1 k.1 n sl so sm (s.skip k.2) with
      | .error a => .error (0x0201, r + a)
      | .ok qs =>
        match zRun window dict out.length maxBlock (qs.map (fun x => { x with pos := r + x.pos })) lits out z.reps with
        | .error e => .error e
        | .ok x => .ok (x.1, { z with ll := some l, off := some o, ml := some k, reps := x.2 })

/-- A compressed block: output and state, or the fault and the byte of the block. -/
def zBlock (z : ZState) (window dict maxBlock : Nat) (b out : Bytes) : Except (Nat × Nat) (Bytes × ZState) :=
  match zLiterals z b maxBlock with
  | .error e => .error e
  | .ok (lits, huf, p) => if b.length ≤ p then .error (0x0201, p) else zSequences { z with huf := huf } window dict maxBlock b lits out p

/-- Blocks of a frame from a position: output newest first, the position behind the last block, and the fault; output of the good blocks stays. -/
def zBlocks (window dict : Nat) (limit : Option Nat) (bs : Bytes) : Nat → Nat → ZState → Bytes → Bytes × Nat × Option (Nat × Nat)
  | 0, p, _, out => (out, p, some (0x0208, bs.length))
  | n + 1, p, z, out =>
    if bs.length < p + 3 then (out, p, some (0x0208, bs.length))
    else
      let h := uat bs p 3
      let size := h / 8
      let ty := h / 2 % 4
      let maxBlock := min window 131072
      let len := if ty = 1 then 1 else size
      if ty = 3 then (out, p, some (0x0201, p))
      else if maxBlock < size then (out, p, some (0x0204, p))
      else if bs.length < p + 3 + len then (out, p, some (0x0208, bs.length))
      else
        let body := slice bs (p + 3) len
        let r : Except (Nat × Nat) (Bytes × ZState) :=
          if ty = 0 then .ok (body.reverse ++ out, z) else if ty = 1 then .ok (List.replicate size (body.headD 0) ++ out, z)
          else zBlock z window dict maxBlock body out
        match r with
        | .error e => (out, p, some (e.1, p + 3 + e.2))
        | .ok (out2, z) =>
          let tooBig := match limit with
            | some l => decide (l < out2.length - dict)
            | none => false
          if tooBig then (out, p, some (0x0204, p))
          else if h % 2 = 1 then (out2, p + 3 + len, none)
          else zBlocks window dict limit bs n (p + 3 + len) z out2

/-- Entropy tables, offsets and content of a dictionary; a dictionary without the magic is raw content. -/
def zDict (d : Bytes) : Option (ZState × Bytes) :=
  if u32at d 0 ≠ 0xEC30A437 ∨ d.length < 8 then some ({}, d)
  else do
    let (h, p) ← hufRead d 8
    let (o, oa, p) ← fseRead d p 8 31
    let (m, ma, p) ← fseRead d p 9 52
    let (l, la, p) ← fseRead d p 9 35
    if d.length < p + 12 then none
    else some ({ huf := some h, off := some (o, oa), ml := some (m, ma), ll := some (l, la), reps := [u32at d p, u32at d (p + 4), u32at d (p + 8)] }, d.drop (p + 12))

/-- One frame from a position: its output, the position behind it, the fault. -/
def zFrame (dict : Nat → Option Bytes) (bs : Bytes) (p : Nat) : Bytes × Nat × Option (Nat × Nat) :=
  let fail (e a : Nat) : Bytes × Nat × Option (Nat × Nat) := ([], p, some (e, a))
  if bs.length < p + 5 then fail 0x0208 bs.length
  else
    let fh := u8at bs (p + 4)
    let single := bit fh 5
    let fcsLen := match fh / 64 with
      | 0 => if single then 1 else 0
      | 1 => 2 | 2 => 4 | _ => 8
    let didLen := match fh % 4 with
      | 0 => 0 | 1 => 1 | 2 => 2 | _ => 4
    let a := p + 5
    let wl := if single then 0 else 1
    let q := a + wl + didLen
    if bit fh 3 then fail 0x0205 (p + 4)
    else if bs.length < q + fcsLen then fail 0x0208 bs.length
    else
      let fcs0 := uat bs q fcsLen
      let fcs := if fcsLen = 2 then fcs0 + 256 else fcs0
      let wd := u8at bs a
      let base := pow2 (10 + wd / 8)
      let window := if single then fcs else base + base / 8 * (wd % 8)
      let did := uat bs (a + wl) didLen
      if pow2 28 < window then fail 0x0207 a
      else match (if did = 0 then some (({} : ZState), []) else (dict did).bind zDict) with
      | none => fail 0x0209 (a + wl)
      | some (z, dc) =>
        let (out, e, err) := zBlocks window dc.length (if fcsLen = 0 then none else some fcs) bs (bs.length + 1) (q + fcsLen) z dc.reverse
        let o := out.reverse.drop dc.length
        match err with
        | some x => (o, e, some x)
        | none =>
          if fcsLen ≠ 0 ∧ o.length ≠ fcs then (o, e, some (0x0204, e))
          else if !bit fh 2 then (o, e, none)
          else if bs.length < e + 4 then (o, e, some (0x0208, bs.length))
          else if u32at bs e ≠ xxhash64 o 0 % pow2 32 then (o, e, some (0x0206, e))
          else (o, e + 4, none)

/-- Magic numbers of the frame formats before RFC 8878 (R144), those of Zstandard 0.1 to 0.7. PRESUMED (log entry 108): the standard's own history. -/
def zLegacy (m : Nat) : Bool := m == 0xFD2FB51E || (decide (0xFD2FB522 ≤ m) && decide (m ≤ 0xFD2FB527))

/-- Frames and skippable frames until the object ends. -/
def zFrames (dict : Nat → Option Bytes) (bs : Bytes) : Nat → Nat → Bytes → Unpacked
  | 0, _, out => ⟨out, none⟩
  | n + 1, p, out =>
    if p = bs.length then ⟨out, none⟩
    else if bs.length < p + 4 then ⟨out, some (0x0208, bs.length)⟩
    else
      let m := u32at bs p
      if 0x184D2A50 ≤ m ∧ m ≤ 0x184D2A5F then
        (if bs.length < p + 8 ∨ bs.length < p + 8 + u32at bs (p + 4) then ⟨out, some (0x0208, bs.length)⟩
         else zFrames dict bs n (p + 8 + u32at bs (p + 4)) out)
      else if zLegacy m then ⟨out, some (0x0207, p)⟩
      else if m ≠ 0xFD2FB528 then ⟨out, some (0x0205, p)⟩
      else
        let (o, q, e) := zFrame dict bs p
        match e with
        | some x => ⟨out ++ o, some x⟩
        | none => zFrames dict bs n q (out ++ o)

/-- Format 4: Zstandard. -/
def unpackZstd (dict : Nat → Option Bytes) (bs : Bytes) : Unpacked :=
  if bs.isEmpty then ⟨[], some (0x0208, 0)⟩ else zFrames dict bs (bs.length + 1) 0 []

end Sys2Proof.Machine
end

