-- ==== Sys2Proof/Machine/Avro.lean ====
section
/-!
DEFINITION. Avro binary data under the image's schema: schema, datums, containers, paths (05 R148 to R150, R153).
-/

namespace Sys2Proof.Machine

/-- An Avro type. The logical types of R153 stand beside their base type. -/
inductive ATy where
  | null
  | bool
  | int
  | long
  | float
  | double
  | bytes
  | string
  /-- Days since 1970-01-01. -/
  | date
  /-- A timestamp: unit 0 µs, 1 ms, 2 ns as SRC_UNIT counts them (R149). -/
  | stamp (unit : Nat)
  /-- A decimal on bytes, or on a fixed of a size; its precision. -/
  | decimal (size : Option Nat) (precision : Nat)
  | fixed (size : Nat)
  | enum (syms : List Bytes)
  | array (item : ATy)
  | map (item : ATy)
  | record (fields : List (Bytes × ATy))
  | union (alts : List ATy)
  deriving Repr

/-- Types by full name. -/
abbrev ANames := List (Bytes × ATy)

/-- The text of a JSON string. -/
def Jv.text? : Jv → Option Bytes
  | .str b => some b
  | _ => none

/-- A number of a JSON value. -/
def Jv.nat? : Jv → Option Nat
  | .num d true => if d.neg then none else some d.digits
  | _ => none

/-- A string member of an object. -/
def Jv.strKey (v : Jv) (k : String) : Option Bytes := (v.key (ascii k)).bind Jv.text?

/-- A number member of an object. -/
def Jv.natKey (v : Jv) (k : String) : Option Nat := (v.key (ascii k)).bind Jv.nat?

/-- A primitive type by name. -/
def aPrim (n : Bytes) : Option ATy :=
  if n = ascii "null" then some .null else if n = ascii "boolean" then some .bool else if n = ascii "int" then some .int
  else if n = ascii "long" then some .long else if n = ascii "float" then some .float else if n = ascii "double" then some .double
  else if n = ascii "bytes" then some .bytes else if n = ascii "string" then some .string else none

/-- The namespace of a full name: what stands before its last point. -/
def nameSpaceOf (n : Bytes) : Bytes := ((n.reverse.dropWhile (· != 0x2E)).drop 1).reverse

/-- A full name: a name with a point stands alone, else the namespace goes before it. -/
def fullName (ns n : Bytes) : Bytes := if n.contains 0x2E ∨ ns.isEmpty then n else ns ++ [0x2E] ++ n

/-- A primitive with its logical type (R153); a logical type on another base is ignored. -/
def aLogical (base : ATy) (v : Jv) : ATy :=
  let l := (v.strKey "logicalType").getD []
  match base with
  | .int => if l = ascii "date" then .date else base
  | .long =>
    if l = ascii "timestamp-millis" then .stamp 1 else if l = ascii "timestamp-micros" then .stamp 0
    else if l = ascii "timestamp-nanos" then .stamp 2 else base
  | .bytes =>
    if l = ascii "decimal" then
      match v.natKey "precision" with
      | some p => .decimal none p
      | none => base
    else base
  | .fixed n =>
    if l = ascii "decimal" then
      match v.natKey "precision" with
      | some p => .decimal (some n) p
      | none => base
    else base
  | _ => base

mutual
/-- Reads a schema: names defined so far (none for a type still open: a recursive schema is refused), namespace, schema. -/
def aSchema : Nat → ANames → Bytes → Jv → Option (ATy × ANames)
  | 0, _, _, _ => none
  | n + 1, env, ns, v =>
    match v with
    | .str name =>
      match aPrim name with
      | some t => some (t, env)
      | none => (assocGet env (fullName ns name)).map (fun t => (t, env))
    | .arr alts => (aSchemas n env ns alts).map (fun x => (.union x.1, x.2))
    | .obj _ =>
      match v.key (ascii "type") with
      | none => none
      | some (.str ty) =>
        let name := (v.strKey "name").getD []
        let ns' := match v.strKey "namespace" with
          | some s => s
          | none => if name.contains 0x2E then nameSpaceOf name else ns
        let full := fullName ns' name
        if ty = ascii "record" ∨ ty = ascii "error" then
          match v.key (ascii "fields") with
          | some (.arr fs) =>
            match aFields n env ns' fs with
            | some (fields, env) => some (.record fields, env ++ [(full, .record fields)])
            | none => none
          | _ => none
        else if ty = ascii "enum" then
          match v.key (ascii "symbols") with
          | some (.arr ss) =>
            let t := ATy.enum (ss.filterMap Jv.text?)
            some (t, env ++ [(full, t)])
          | _ => none
        else if ty = ascii "fixed" then
          match v.natKey "size" with
          | some k =>
            let t := aLogical (.fixed k) v
            some (t, env ++ [(full, t)])
          | none => none
        else if ty = ascii "array" then (match v.key (ascii "items") with
          | some i => (aSchema n env ns i).map (fun x => (.array x.1, x.2))
          | none => none)
        else if ty = ascii "map" then (match v.key (ascii "values") with
          | some i => (aSchema n env ns i).map (fun x => (.map x.1, x.2))
          | none => none)
        else match aPrim ty with
        | some t => some (aLogical t v, env)
        | none => (assocGet env (fullName ns ty)).map (fun t => (t, env))
      | some inner => aSchema n env ns inner
    | _ => none

/-- Reads a list of schemas. -/
def aSchemas : Nat → ANames → Bytes → List Jv → Option (List ATy × ANames)
  | 0, _, _, _ => none
  | _, env, _, [] => some ([], env)
  | n + 1, env, ns, v :: vs =>
    match aSchema n env ns v with
    | none => none
    | some (t, env) => (aSchemas n env ns vs).map (fun x => (t :: x.1, x.2))

/-- Reads the fields of a record. -/
def aFields : Nat → ANames → Bytes → List Jv → Option (List (Bytes × ATy) × ANames)
  | 0, _, _, _ => none
  | _, env, _, [] => some ([], env)
  | n + 1, env, ns, v :: vs =>
    match v.strKey "name", v.key (ascii "type") with
    | some name, some ty =>
      match aSchema n env ns ty with
      | none => none
      | some (t, env) => (aFields n env ns vs).map (fun x => ((name, t) :: x.1, x.2))
    | _, _ => none
end

/-- The schema of a text; none where it is no schema, or a recursive one. -/
def avroSchema (bs : Bytes) : Option ATy :=
  match jsonText bs with
  | .ok v => (aSchema (2 * bs.length + 2) [] [] v).map (·.1)
  | .error _ => none

/-- A decoded value: a leaf's source, the elements of a list, the members of a record or map. -/
inductive Dv where
  | leaf (s : Src)
  | list (xs : List Dv)
  | members (kvs : List (Bytes × Dv))
  deriving Repr

/-- A zigzag integer. -/
def zigzagInt (v : Nat) : Int := if v % 2 = 0 then (v / 2 : Int) else -((v / 2 : Int) + 1)

/-- A long in zigzag form; none where it does not fit 64 bits. -/
def aLong (bs : Bytes) : Option (Int × Bytes) :=
  match leb 10 bs with
  | some (v, r) => if pow2 64 ≤ v then none else some (zigzagInt v, r)
  | none => none

/-- An int: a long that fits 32 bits. -/
def aInt (bs : Bytes) : Option (Int × Bytes) :=
  match aLong bs with
  | some (x, r) => if Ty.i32.inRange x then some (x, r) else none
  | none => none

/-- A number of bytes, taken off the front. -/
def aTake (n : Nat) (bs : Bytes) : Option (Bytes × Bytes) := if bs.length < n then none else some (bs.take n, bs.drop n)

/-- A run of bytes with its length before it. -/
def aRun (bs : Bytes) : Option (Bytes × Bytes) :=
  match aLong bs with
  | some (n, r) => if n < 0 then none else aTake n.toNat r
  | none => none

/-- A big-endian two's complement integer. -/
def bigSigned (bs : Bytes) : Int := if bs.isEmpty then 0 else toSigned (8 * bs.length) (leNat bs.reverse)

/-- Where the decoding of a datum stands: the bytes left, and whether it met what the bramble lane decodes: a map, or a union other than of null with one
type (R153). -/
structure ACur where
  bs : Bytes
  lane : Bool := false
  deriving DecidableEq, Repr

/-- A decoded part and where decoding stands; where it fails, whether the bramble lane had been met. -/
abbrev ARes (α : Type) := Except Bool (α × ACur)

/-- Reads a part of the bytes. -/
def ACur.read {α : Type} (c : ACur) (f : Bytes → Option (α × Bytes)) : ARes α :=
  match f c.bs with
  | some (x, r) => .ok (x, { c with bs := r })
  | none => .error c.lane

/-- Decodes a number of parts in turn. -/
def aTimes {β : Type} (f : ACur → ARes β) : Nat → ACur → ARes (List β)
  | 0, c => .ok ([], c)
  | n + 1, c =>
    match f c with
    | .error e => .error e
    | .ok (x, c) => (aTimes f n c).map (fun r => (x :: r.1, r.2))

/-- Decodes a part for each of a list in turn. -/
def aEach {α β : Type} (f : α → ACur → ARes β) : List α → ACur → ARes (List β)
  | [], c => .ok ([], c)
  | a :: as, c =>
    match f a c with
    | .error e => .error e
    | .ok (x, c) => (aEach f as c).map (fun r => (x :: r.1, r.2))

/-- The blocks of an array or map: a count, its size after a negative count, items; a count of 0 ends them. -/
def aBlocks {β : Type} (f : ACur → ARes β) : Nat → ACur → ARes (List β)
  | 0, c => .error c.lane
  | n + 1, c =>
    match c.read aLong with
    | .error e => .error e
    | .ok (k, c) =>
      if k = 0 then .ok ([], c)
      else
        match (if k < 0 then (c.read aLong).map (·.2) else .ok c) with
        | .error e => .error e
        | .ok c =>
          match aTimes f k.natAbs c with
          | .error e => .error e
          | .ok (xs, c) => (aBlocks f n c).map (fun r => (xs ++ r.1, r.2))

/-- An entry of a map: its key and its value. -/
def aEntry {β : Type} (f : ACur → ARes β) (c : ACur) : ARes (Bytes × β) :=
  match c.read aRun with
  | .error e => .error e
  | .ok (k, c) => (f c).map (fun r => ((k, r.1), r.2))

/-- A union of null with one type stands for that type. -/
def ATy.strip : ATy → ATy
  | .union [.null, t] => t
  | .union [t, .null] => t
  | t => t

/-- A datum of a type (R153), with fuel for the type's depth. -/
def aDatum : Nat → ATy → ACur → ARes Dv
  | 0, _, c => .error c.lane
  | n + 1, t, c =>
    let leaf {α : Type} (f : Bytes → Option (α × Bytes)) (g : α → Src) : ARes Dv := (c.read f).map (fun x => (.leaf (g x.1), x.2))
    match t with
    | .null => .ok (.leaf .null, c)
    | .bool => leaf (fun bs => (aTake 1 bs).bind (fun x => if (u8at x.1 0) ≤ 1 then some x else none)) (fun x => .bool (u8at x 0 = 1))
    | .int => leaf aInt .int
    | .long => leaf aLong .int
    | .float => leaf (aTake 4) (fun x => .float (fp32.decode (leNat x)))
    | .double => leaf (aTake 8) (fun x => .float (fp64.decode (leNat x)))
    | .bytes => leaf aRun (fun _ => .other)
    | .string => leaf aRun .text
    | .date => leaf aInt (fun x => .time (x * 86400000000))
    | .stamp u => leaf aLong (fun x => .time (unitTime u x))
    | .decimal none _ => leaf aRun (fun x => .decimal (bigSigned x))
    | .decimal (some k) _ => leaf (aTake k) (fun x => .decimal (bigSigned x))
    | .fixed k => leaf (aTake k) (fun _ => .other)
    | .enum syms =>
      leaf (fun bs => (aInt bs).bind (fun x => if x.1 < 0 then none else (syms[x.1.toNat]?).map (fun s => ((x.1.toNat, s), x.2)))) (fun x => .enum x.1 x.2)
    | .array item => (aBlocks (aDatum n item) (c.bs.length + 1) c).map (fun x => (.list x.1, x.2))
    | .map item => (aBlocks (aEntry (aDatum n item)) (c.bs.length + 1) { c with lane := true }).map (fun x => (.members x.1, x.2))
    | .record fs => (aEach (fun f c => (aDatum n f.2 c).map (fun x => ((f.1, x.1), x.2))) fs c).map (fun x => (.members x.1, x.2))
    | .union alts =>
      let lane := c.lane || (match ATy.strip t with
        | .union _ => true
        | _ => false)
      match ({ c with lane := lane } : ACur).read aLong with
      | .error e => .error e
      | .ok (i, c) =>
        if i < 0 then .error c.lane
        else match alts[i.toNat]? with
        | some t => aDatum n t c
        | none => .error c.lane

mutual
/-- Nesting depth of a type, for the fuel of its decoder. -/
def ATy.depth : ATy → Nat
  | .array t => 1 + t.depth
  | .map t => 1 + t.depth
  | .record fs => 1 + fieldDepth fs
  | .union ts => 1 + altDepth ts
  | _ => 1

/-- Greatest depth of fields. -/
def fieldDepth : List (Bytes × ATy) → Nat
  | [] => 0
  | (_, t) :: r => max t.depth (fieldDepth r)

/-- Greatest depth of alternatives. -/
def altDepth : List ATy → Nat
  | [] => 0
  | t :: r => max t.depth (altDepth r)
end

/-- One datum; `lane` tells that its block is the bramble lane's already. -/
def avroDatum (t : ATy) (lane : Bool) (bs : Bytes) : ARes Dv := aDatum (t.depth + 1) t { bs := bs, lane := lane }

/-- The value of a member. -/
def Dv.key (v : Dv) (k : Bytes) : Option Dv :=
  match v with
  | .members kvs => (kvs.reverse.find? (fun p => p.1 == k)).map (·.2)
  | _ => none

mutual
/-- A value with every list level flattened into one sequence (R149). -/
def Dv.flat : Dv → List Dv
  | .list xs => flatDvs xs
  | v => [v]

/-- The elements of a list flattened. -/
def flatDvs : List Dv → List Dv
  | [] => []
  | x :: xs => x.flat ++ flatDvs xs
end

/-- True for a list. -/
def Dv.isList : Dv → Bool
  | .list _ => true
  | _ => false

/-- A value as a source. -/
def Dv.src : Dv → Src
  | .leaf s => s
  | _ => .other

/-- The source of a column map entry in a decoded record (R149). -/
def Dv.source (v : Dv) (e : PathEnt) : Src :=
  let (vals, rep) := e.names.foldl (fun acc k =>
    let found := acc.1.filterMap (fun n => n.key k)
    ((found.map Dv.flat).flatten, acc.2 || found.any Dv.isList)) ([v], false)
  match e.mode with
  | 0 => if rep then .other else (match vals with
    | x :: _ => x.src
    | [] => .null)
  | 1 => ((vals[e.index]?).map Dv.src).getD .null
  | _ => if rep then .int vals.length else .null

/-- A row of a datum. -/
def Dv.row (ents : List PathEnt) (v : Dv) : RowSrc := .srcs (ents.map v.source)

/-- What a datum that cannot be decoded gives (R151, R156): a syntax error, or in the bramble lane status 6. -/
def failRow (lane : Bool) : RowSrc := .status (if lane then 6 else 1)

/-- A datum's row: status 7 where it took more bytes than a record may (R151). -/
def datumRow (ents : List PathEnt) (v : Dv) (used : Nat) : RowSrc := if recordMax < used then .status 7 else v.row ents

/-- The rows of `c` datums of one run, each with whether it goes through the bramble lane. DESIGN CHOICE (log entry 108): once one fails no boundary is left,
and every later one of the run fails with it. -/
def avroRun (t : ATy) (ents : List PathEnt) (lane : Bool) : Nat → Bytes → List (RowSrc × Bool)
  | 0, _ => []
  | c + 1, bs =>
    match avroDatum t lane bs with
    | .ok (v, r) => (datumRow ents v (bs.length - r.bs.length), r.lane) :: avroRun t ents lane c r.bs
    | .error l => (failRow l, l) :: List.replicate c (failRow lane, lane)

/-- FRAMING 1: datums to the end of the object; behind one that fails no boundary is left. -/
def avroConcat (t : ATy) (ents : List PathEnt) : Nat → Bytes → List (RowSrc × Bool)
  | 0, _ => []
  | n + 1, bs =>
    match bs with
    | [] => []
    | _ =>
      match avroDatum t false bs with
      | .ok (v, r) =>
        let row := (datumRow ents v (bs.length - r.bs.length), r.lane)
        if r.bs.length < bs.length then row :: avroConcat t ents n r.bs else [row]
      | .error l => [(failRow l, l)]

/-- FRAMING 2: one datum is the whole row. -/
def avroRow (t : ATy) (ents : List PathEnt) (bs : Bytes) : RowSrc × Bool :=
  if recordMax < bs.length then (.status 7, false)
  else match avroDatum t false bs with
  | .ok (v, r) => (if r.bs.isEmpty then v.row ents else failRow r.lane, r.lane)
  | .error l => (failRow l, l)

/-- Codecs of container blocks that the bramble lane decodes (R153). -/
def avroLaneCodecs : List Bytes := [ascii "snappy", ascii "bzip2", ascii "xz"]

/-- A snappy block of a container: its data, and the CRC-32 of what they decode to, big-endian, behind them. -/
def avroSnappy (bs : Bytes) : Option Bytes :=
  match unpackSnappy (bs.take (bs.length - 4)) with
  | some out => if be32 bs (bs.length - 4) = crc32 out ∧ 4 ≤ bs.length then some out else none
  | none => none

/-- A container block's data decoded by its codec: null, deflate, zstandard; another codec by the bramble lane (R153). None where it fails. -/
def avroBlock (codec bs : Bytes) : Option Bytes :=
  if codec = ascii "null" ∨ codec = [] then some bs
  else if codec = ascii "deflate" then (unpackDeflate bs).whole
  else if codec = ascii "zstandard" then (unpackZstd (fun _ => none) bs).whole
  else if codec = ascii "snappy" then avroSnappy bs
  else Config.brambleUnpack codec bs

/-- The blocks of a container behind its header: rows with whether the bramble lane decodes them, and true where the container is malformed. -/
def avroBlocks (t : ATy) (ents : List PathEnt) (codec sync : Bytes) : Nat → Bytes → List (RowSrc × Bool) × Bool
  | 0, _ => ([], true)
  | n + 1, bs =>
    match bs with
    | [] => ([], false)
    | _ =>
      match (do
        let (c, r) ← aLong bs
        if c < 0 then none
        let (data, r) ← aRun r
        let (mark, r) ← aTake 16 r
        some (c.toNat, data, mark, r)) with
      | none => ([], true)
      | some (c, data, mark, r) =>
        let lane := avroLaneCodecs.contains codec
        let rows := match avroBlock codec data with
          | some raw => avroRun t ents lane c raw
          | none => List.replicate c (failRow lane, lane)
        if mark ≠ sync then (rows, true)
        else
          let (more, bad) := avroBlocks t ents codec sync n r
          (rows ++ more, bad)

/-- Codecs of a container the parse stations handle, in the engine or in the bramble lane (R153). -/
def avroCodecs : List Bytes := [[], ascii "null", ascii "deflate", ascii "zstandard"] ++ avroLaneCodecs

/-- The metadata of a container's header: a map of bytes, and the bytes behind it. -/
def avroMeta (bs : Bytes) : Option (List (Bytes × Bytes) × Bytes) :=
  match aBlocks (aEntry (fun c => c.read aRun)) (bs.length + 1) { bs := bs } with
  | .ok (kvs, c) => some (kvs, c.bs)
  | .error _ => none

/-- FRAMING 0: an object container file; its rows and the object error, 0x0B11 or 0x0B12. -/
def avroFile (t : ATy) (ents : List PathEnt) (bs : Bytes) : List (RowSrc × Bool) × Option Nat :=
  if bs.take 4 ≠ ascii "Obj" ++ [1] then ([], some 0x0B11)
  else match avroMeta (bs.drop 4) with
  | none => ([], some 0x0B11)
  | some (kvs, r) =>
    let codec := (assocGet kvs (ascii "avro.codec")).getD []
    match aTake 16 r with
    | none => ([], some 0x0B11)
    | some (sync, r) =>
      if !avroCodecs.contains codec then ([], some 0x0B12)
      else
        let (rows, bad) := avroBlocks t ents codec sync (r.length + 1) r
        (rows, if bad then some 0x0B11 else none)

/-- A type behind its list levels, and whether there are any. -/
def ATy.unlist : Nat → ATy → ATy × Bool
  | 0, t => (t, false)
  | n + 1, t =>
    match t.strip with
    | .array i => ((i.unlist n).1, true)
    | u => (u, false)

/-- The type a path reaches, and whether it passes a repeated level; none where no field answers. A map or another union answers any name (R153:
their values are the bramble lane's). -/
def ATy.reach (t : ATy) (names : List Bytes) : Option (Option ATy × Bool) :=
  names.foldl (fun acc k =>
    match acc with
    | none => none
    | some (none, rep) => some (none, rep)
    | some (some t, rep) =>
      let (u, l) := t.unlist 32
      match u with
      | .record fs => (assocGet fs k).map (fun f => (some f, rep || l))
      | .map i => some (some i, rep || l)
      | .union _ => some (none, rep || l)
      | _ => none) (some (some t, false))

/-- A conversion of R150 exists from an Avro type to an element type. -/
def ATy.pairs (a : ATy) (t : Ty) : Bool :=
  match a.strip with
  | .null => true
  | .bool => t = .bool
  | .int | .long => t.isInt || t.isFloat
  | .float | .double => t.isFloat || (t.isInt && decide (t ≠ .time))
  | .string => decide (t ≠ .dict)
  | .date | .stamp _ => t = .time
  | .decimal _ p => decide (t = .i64) && decide (p ≤ 18)
  | .enum _ => t = .u32 || t = .str
  | .union _ => true
  | _ => false

/-- The schema can satisfy a column map entry (R149). -/
def ATy.serves (a : ATy) (e : PathEnt) (t : Ty) : Bool :=
  match a.reach e.names with
  | none => false
  | some (none, _) => true
  | some (some leaf, rep) =>
    let (u, l) := leaf.unlist 32
    match e.mode with
    | 0 => !(rep || l) && u.pairs t
    | 1 => (rep || l) && u.pairs t
    | _ => (rep || l) && (t.isInt || t.isFloat)

end Sys2Proof.Machine
end

