-- ==== Sys2Proof/Machine/Arrow.lean ====
section
/-!
DEFINITION. Apache Arrow IPC streams as parse reads them (05 R149 to R156). PRESUMED (log entry 110): the Arrow columnar and IPC formats.
-/

namespace Sys2Proof.Machine

/-- A column map entry's target in an object with a schema of its own: its path and its element type. -/
structure ColTarget where
  path : PathEnt
  ty : Ty
  deriving DecidableEq, Repr

/-- The position a flatbuffer offset leads to. -/
def fbFollow (b : Bytes) (p : Nat) : Option Nat := if b.length < p + 4 ∨ b.length < p + u32at b p + 4 then none else some (p + u32at b p)

/-- The position of field `i` of a flatbuffer table; none where it is absent. -/
def fbField (b : Bytes) (t i : Nat) : Option Nat :=
  let vt := (t : Int) - toSigned 32 (u32at b t)
  if vt < 0 ∨ (b.length : Int) < vt + 4 then none
  else
    let v := vt.toNat
    let o := if u16at b v < 6 + 2 * i then 0 else u16at b (v + 4 + 2 * i)
    if o = 0 ∨ b.length ≤ t + o then none else some (t + o)

/-- An unsigned scalar field of `k` bytes, or its default. -/
def fbNat (b : Bytes) (t i k dflt : Nat) : Nat := ((fbField b t i).map (fun p => uat b p k)).getD dflt

/-- A table or string that a field refers to. -/
def fbRef (b : Bytes) (t i : Nat) : Option Nat := (fbField b t i).bind (fbFollow b)

/-- A vector: where its elements of `k` bytes begin and how many there are; an absent one is empty, one beyond the buffer is none. -/
def fbVec (b : Bytes) (t i k : Nat) : Option (Nat × Nat) :=
  match fbField b t i with
  | none => some (0, 0)
  | some p => (fbFollow b p).bind (fun v => if b.length < v + 4 + k * u32at b v then none else some (v + 4, u32at b v))

/-- A string field. -/
def fbStr (b : Bytes) (t i : Nat) : Bytes := ((fbRef b t i).map (fun p => slice b (p + 4) (u32at b p))).getD []

/-- How the values of a field lie in its buffers. -/
inductive ArLay where
  | null
  | fixed (bits : Nat)
  | bytes (large : Bool)
  | view
  | list (large : Bool)
  | listView (large : Bool)
  | fixedList (n : Nat)
  | struct
  | union (dense : Bool)
  | runs
  deriving DecidableEq, Repr

/-- A field of an Arrow schema: name, layout, what a leaf's value is and whether it is signed, dictionary and width of its indices, whether the bramble lane
decodes it (R153), children. -/
inductive ArField where
  | mk (name : Bytes) (lay : ArLay) (leaf : ATy) (signed : Bool) (dict : Option (Nat × Nat)) (lane : Bool) (kids : List ArField)
  deriving Repr

/-- Its name. -/
def ArField.name : ArField → Bytes
  | .mk n _ _ _ _ _ _ => n

/-- Its children. -/
def ArField.kids : ArField → List ArField
  | .mk _ _ _ _ _ _ ks => ks

/-- Its dictionary and the width of its indices. -/
def ArField.dict : ArField → Option (Nat × Nat)
  | .mk _ _ _ _ d _ _ => d

/-- The bramble lane decodes it. -/
def ArField.lane : ArField → Bool
  | .mk _ _ _ _ _ l _ => l

/-- A type that R153 does not support, or with no pairing in R150: it answers any name and pairs with nothing. -/
def arNone : ATy := .map (.fixed 0)

/-- Layout, leaf type, signedness and the bramble lane of a type of the schema's union. -/
def arType (b : Bytes) (code t : Nat) : ArLay × ATy × Bool × Bool :=
  let plain (l : ArLay) (a : ATy) : ArLay × ATy × Bool × Bool := (l, a, true, false)
  match code with
  | 1 => plain .null .null
  | 2 => (.fixed (fbNat b t 0 4 0), .long, decide (fbNat b t 1 1 0 ≠ 0), false)
  | 3 => plain (.fixed (16 * pow2 (fbNat b t 0 2 0 % 3))) .double
  | 4 => plain (.bytes false) arNone
  | 5 => plain (.bytes false) .string
  | 6 => plain (.fixed 1) .bool
  | 7 => plain (.fixed (fbNat b t 2 4 128)) (if fbNat b t 2 4 128 = 128 then .decimal none (fbNat b t 0 4 0) else arNone)
  | 8 => plain (.fixed (if fbNat b t 0 2 1 = 0 then 32 else 64)) .date
  | 9 => plain (.fixed (fbNat b t 1 4 32)) arNone
  | 10 => plain (.fixed 64) (.stamp (match fbNat b t 0 2 0 with
    | 0 => 3 | 1 => 1 | 2 => 0 | _ => 2))
  | 11 => plain (.fixed (match fbNat b t 0 2 0 with
    | 0 => 32 | 1 => 64 | _ => 128)) arNone
  | 12 => plain (.list false) .null
  | 13 => plain .struct .null
  | 14 => plain (.union (decide (fbNat b t 0 2 0 = 1))) arNone
  | 15 => plain (.fixed (8 * fbNat b t 0 4 0)) arNone
  | 16 => plain (.fixedList (fbNat b t 0 4 0)) .null
  | 17 => (.list false, .null, true, true)
  | 18 => plain (.fixed 64) arNone
  | 19 => plain (.bytes true) arNone
  | 20 => plain (.bytes true) .string
  | 21 => plain (.list true) .null
  | 22 => (.runs, .null, true, true)
  | 23 => plain .view arNone
  | 24 => (.view, .string, true, true)
  | 25 => plain (.listView false) arNone
  | 26 => plain (.listView true) arNone
  | _ => plain .null arNone

/-- Reads a field of a schema message. -/
def arField (b : Bytes) : Nat → Nat → Option ArField
  | 0, _ => none
  | n + 1, t =>
    match fbVec b t 5 4 with
    | none => none
    | some (v, k) =>
      match (List.range k).mapM (fun i => (fbFollow b (v + 4 * i)).bind (arField b n)) with
      | none => none
      | some kids =>
        let (lay, leaf, signed, lane) := arType b (fbNat b t 2 1 0) ((fbRef b t 3).getD t)
        let dict := (fbRef b t 4).map (fun e => (fbNat b e 0 8 0, ((fbRef b e 1).map (fun x => fbNat b x 0 4 0)).getD 32))
        some (.mk (fbStr b t 0) lay leaf signed dict lane kids)

mutual
/-- The type of a field as paths and pairings see it: lists, structs, values of runs and dictionaries (R149, R150). -/
def ArField.aty : ArField → ATy
  | .mk _ lay leaf _ _ _ kids =>
    match lay with
    | .list _ | .fixedList _ => .array (arFirst kids)
    | .struct => .record (arFields kids)
    | .runs => arSecond kids
    | _ => leaf

/-- The type of a list's items. -/
def arFirst : List ArField → ATy
  | [] => arNone
  | k :: _ => k.aty

/-- The type of the values of runs. -/
def arSecond : List ArField → ATy
  | _ :: k :: _ => k.aty
  | _ => arNone

/-- The types of a struct's children. -/
def arFields : List ArField → List (Bytes × ATy)
  | [] => []
  | k :: ks => (k.name, k.aty) :: arFields ks
end

mutual
/-- A path into a field meets what the bramble lane decodes (R153). -/
def ArField.meets (names : List Bytes) : ArField → Bool
  | .mk _ lay _ _ _ lane kids =>
    lane || (match lay with
      | .struct => (match names with
        | [] => false
        | k :: ks => arMeetKey k ks kids)
      | _ => arMeetAny names kids)

/-- The same of a struct's child. -/
def arMeetKey (k : Bytes) (names : List Bytes) : List ArField → Bool
  | [] => false
  | f :: fs => if f.name = k then f.meets names else arMeetKey k names fs

/-- The same of any child. -/
def arMeetAny (names : List Bytes) : List ArField → Bool
  | [] => false
  | f :: fs => f.meets names || arMeetAny names fs
end

/-- The data of a field in a batch: its length, its buffers, its children's data. -/
inductive ArData where
  | mk (len : Nat) (bufs : List (Nat × Nat)) (kids : List ArData)
  deriving Repr

/-- What a batch lists and no field has taken: lengths of nodes, buffers, counts of view buffers. -/
structure ArRest where
  nodes : List Nat
  bufs : List (Nat × Nat)
  vars : List Nat
  deriving DecidableEq, Repr

/-- How many buffers a layout has, with the view buffers next in the batch's list. -/
def ArLay.bufCount (vars : List Nat) : ArLay → Nat
  | .null => 0
  | .fixed _ => 2
  | .bytes _ => 3
  | .view => 2 + vars.headD 0
  | .list _ => 2
  | .listView _ => 3
  | .fixedList _ => 1
  | .struct => 1
  | .union dense => if dense then 2 else 1
  | .runs => 0

/-- Takes a field's data off a batch's lists, depth first. -/
def arTake : Nat → ArField → ArRest → Option (ArData × ArRest)
  | 0, _, _ => none
  | n + 1, .mk _ lay _ _ dict _ kids, r =>
    match r.nodes with
    | [] => none
    | len :: nodes =>
      let lay := if dict.isSome then ArLay.fixed 0 else lay
      let k := lay.bufCount r.vars
      if r.bufs.length < k then none
      else
        let bufs := r.bufs.take k
        let r : ArRest := { nodes := nodes, bufs := r.bufs.drop k, vars := if lay = .view then r.vars.drop 1 else r.vars }
        let step (x : Option (List ArData × ArRest)) (f : ArField) : Option (List ArData × ArRest) :=
          x.bind (fun p => (arTake n f p.2).map (fun q => (p.1 ++ [q.1], q.2)))
        ((if dict.isSome then [] else kids).foldl step (some ([], r))).map (fun x => (.mk len bufs x.1, x.2))

/-- Dictionaries seen: their values, none where they could not be decoded, and whether the bramble lane decoded them. -/
abbrev ArDicts := List (Nat × Option (List Dv) × Bool)

/-- A buffer of a batch's body: plain, or coded behind its length, −1 for stored as it is (R153). -/
def arBuf (codec : Option Nat) (body : Bytes) (p : Nat × Nat) : Option Bytes :=
  let raw := slice body p.1 p.2
  if raw.length < p.2 then none
  else match codec with
  | none => some raw
  | some c =>
    if p.2 = 0 then some []
    else if p.2 < 8 then none
    else if u64at raw 0 = pow2 64 - 1 then some (raw.drop 8)
    else
      match (if c = 0 then unpackLz4Frame (raw.drop 8) else (unpackZstd (fun _ => none) (raw.drop 8)).whole) with
      | some o => if o.length = u64at raw 0 then some o else none
      | none => none

/-- A fixed-width value as a source (R150). -/
def arFixed (leaf : ATy) (signed : Bool) (bits x : Nat) : Src :=
  let v : Int := if signed then toSigned bits x else (x : Int)
  match leaf with
  | .bool => .bool (x ≠ 0)
  | .long => .int v
  | .double => .float ((if bits = 16 then fp16 else if bits = 32 then fp32 else fp64).decode x)
  | .stamp u => .time (unitTime u v)
  | .date => .time ((if bits = 32 then v else v / 86400000) * 86400000000)
  | .decimal _ _ => .decimal v
  | _ => .other

/-- Offset `i` of an offsets buffer. -/
def arOff (large : Bool) (b : Bytes) (i : Nat) : Nat := if large then u64at b (8 * i) else u32at b (4 * i)

/-- The offsets of `n` values rise and stay within `limit`; an empty field may have none. -/
def arOffsOk (large : Bool) (b : Bytes) (n limit : Nat) : Bool :=
  n == 0 || (decide ((if large then 8 else 4) * (n + 1) ≤ b.length) && (List.range n).all (fun i => decide (arOff large b i ≤ arOff large b (i + 1))) &&
    decide (arOff large b n ≤ limit))

/-- A view's bytes: inline up to 12, else in one of the field's buffers. -/
def arView (views : Bytes) (bufs : List Bytes) (i : Nat) : Option Bytes :=
  let n := u32at views (16 * i)
  if n ≤ 12 then some (slice views (16 * i + 4) n)
  else
    let b := bufs.getD (u32at views (16 * i + 8)) []
    let o := u32at views (16 * i + 12)
    if b.length < o + n then none else some (slice b o n)

/-- The values of a field in a batch; none where its data do not decode. -/
def arVals (dicts : ArDicts) (codec : Option Nat) (body : Bytes) : Nat → ArField → ArData → Option (List Dv)
  | 0, _, _ => none
  | n + 1, .mk _ lay leaf signed dict _ kids, .mk len bufs datas => do
    let bs ← bufs.mapM (arBuf codec body)
    let b0 := bs.getD 0 []
    let b1 := bs.getD 1 []
    let valid (i : Nat) : Bool := b0.isEmpty || bit (u8at b0 (i / 8)) (i % 8)
    let each (f : Nat → Option Dv) : Option (List Dv) :=
      if !b0.isEmpty && decide (8 * b0.length < len) then none else (List.range len).mapM (fun i => if valid i then f i else some (.leaf .null))
    let kid (i : Nat) : Option (List Dv) := (kids[i]?).bind (fun f => (datas[i]?).bind (arVals dicts codec body n f))
    match dict with
    | some (id, w) =>
      let vals ← ((assocGet dicts id).bind (·.1))
      if 8 * b1.length < len * w then none else each (fun i => vals[uat b1 (i * w / 8) (w / 8)]?)
    | none =>
      match lay with
      | .null => some (List.replicate len (.leaf .null))
      | .fixed w =>
        if 8 * b1.length < len * w then none
        else each (fun i => some (.leaf (if w = 1 then .bool (bit (u8at b1 (i / 8)) (i % 8)) else arFixed leaf signed w (uat b1 (i * w / 8) (w / 8)))))
      | .bytes large =>
        let data := bs.getD 2 []
        if !arOffsOk large b1 len data.length then none
        else each (fun i => some (.leaf (match leaf with
          | .string => .text (slice data (arOff large b1 i) (arOff large b1 (i + 1) - arOff large b1 i))
          | _ => .other)))
      | .view => if b1.length < 16 * len then none else each (fun i => (arView b1 (bs.drop 2) i).map (fun x => .leaf (match leaf with
          | .string => .text x
          | _ => .other)))
      | .list large =>
        let items ← kid 0
        if !arOffsOk large b1 len items.length then none
        else each (fun i => some (.list ((items.drop (arOff large b1 i)).take (arOff large b1 (i + 1) - arOff large b1 i))))
      | .fixedList k =>
        let items ← kid 0
        if items.length < k * len then none else each (fun i => some (.list ((items.drop (k * i)).take k)))
      | .struct =>
        let cols ← (List.range kids.length).mapM kid
        if cols.any (fun c => decide (c.length < len)) then none
        else each (fun i => some (.members ((kids.zip cols).map (fun c => (c.1.name, c.2.getD i (.leaf .null))))))
      | .runs =>
        let ends ← kid 0
        let vals ← kid 1
        (List.range len).mapM (fun i => (ends.findIdx? (fun e => match e with
          | .leaf (.int x) => decide ((i : Int) < x)
          | _ => false)).bind (fun k => vals[k]?))
      | .listView _ => none
      | .union _ => none

/-- A batch's metadata: rows, lists of nodes, buffers and view buffers, and its codec: 0 LZ4_FRAME, 1 ZSTD. -/
structure ArBatch where
  rows : Nat
  rest : ArRest
  codec : Option Nat

/-- Reads a RecordBatch table. -/
def arBatch (b : Bytes) (t : Nat) : Option ArBatch := do
  let (n, nk) ← fbVec b t 1 16
  let (u, uk) ← fbVec b t 2 16
  let (v, vk) ← fbVec b t 4 8
  let codec := (fbRef b t 3).map (fun c => fbNat b c 0 1 0)
  if (codec.map (fun c => decide (1 < c))).getD false then none
  else some { rows := fbNat b t 0 8 0, codec := codec,
              rest := { nodes := (List.range nk).map (fun i => u64at b (n + 16 * i)),
                        bufs := (List.range uk).map (fun i => (u64at b (u + 16 * i), u64at b (u + 16 * i + 8))),
                        vars := (List.range vk).map (fun i => u64at b (v + 8 * i)) } }

/-- Depth to which schemas are read. -/
def arDepth : Nat := 64

/-- Takes the data of fields off a batch's lists. -/
def arTakeAll (fs : List ArField) (r : ArRest) : Option (List ArData) :=
  (fs.foldl (fun (x : Option (List ArData × ArRest)) f => x.bind (fun p => (arTake arDepth f p.2).map (fun q => (p.1 ++ [q.1], q.2)))) (some ([], r))).map (·.1)

/-- The field of a schema that has a dictionary. -/
def arDictField (id : Nat) : Nat → List ArField → Option ArField
  | 0, _ => none
  | n + 1, fs => fs.findSome? (fun f => if f.dict.map (·.1) = some id then some f else arDictField id n f.kids)

/-- A field without its dictionary: the form its dictionary's values have. -/
def ArField.plain : ArField → ArField
  | .mk n l a s _ lane ks => .mk n l a s none lane ks

/-- Dictionaries of a field and its children. -/
def arDictIds : Nat → ArField → List Nat
  | 0, _ => []
  | n + 1, f => (f.dict.map (·.1)).toList ++ (f.kids.map (arDictIds n)).flatten

/-- The rows of a RecordBatch as one decode unit (R155): only columns that targets name are decoded; a batch that does not decode gives rows of status 9, or 6
from the bramble lane (R151, R156). -/
def arRows (fs : List ArField) (ts : List ColTarget) (dicts : ArDicts) (x : ArBatch) (body : Bytes) : RowUnit :=
  let heads := ts.map (fun t => t.path.names.headD [])
  let first := fs.zipIdx.filter (fun f => heads.contains f.1.name && !(fs.take f.2).any (fun g => g.name == f.1.name))
  let lane := !first.isEmpty && (decide (x.codec = some 0) ||
    ts.any (fun t => first.any (fun f => f.1.name == t.path.names.headD [] && f.1.meets (t.path.names.drop 1))) ||
    first.any (fun f => (arDictIds arDepth f.1).any (fun i => ((assocGet dicts i).map (·.2)).getD false)))
  let cols := (arTakeAll fs x.rest).bind (fun ds => first.mapM (fun f => (ds[f.2]?).bind (arVals dicts x.codec body arDepth f.1)))
  let bad : List RowSrc := List.replicate x.rows (.status (if lane then 6 else 9))
  { lane := lane,
    rows := match cols with
      | none => bad
      | some cs =>
        if cs.any (fun c => decide (c.length < x.rows)) then bad
        else (List.range x.rows).map (fun i => Dv.row (ts.map (·.path)) (.members ((first.zip cs).map (fun c => (c.1.1.name, c.2.getD i (.leaf .null)))))) }

/-- A DictionaryBatch: it replaces a dictionary, or a delta adds to it. -/
def arDictBatch (fs : List ArField) (dicts : ArDicts) (b : Bytes) (t : Nat) (body : Bytes) : ArDicts :=
  let id := fbNat b t 0 8 0
  let x := (fbRef b t 1).bind (arBatch b)
  let vals := do
    let f ← arDictField id arDepth fs
    let x ← x
    let (d, _) ← arTake arDepth f.plain x.rest
    arVals dicts x.codec body arDepth f.plain d
  let lane := decide ((x.bind (·.codec)) = some 0)
  let old := (assocGet dicts id).getD (some [], false)
  if fbNat b t 2 1 0 = 0 then assocSet dicts id (vals, lane)
  else assocSet dicts id ((old.1.bind (fun o => vals.map (o ++ ·))), lane || old.2)

/-- The messages behind the schema. -/
def arMessages (fs : List ArField) (ts : List ColTarget) : Nat → ArDicts → Bytes → List RowUnit × Option Nat
  | 0, _, _ => ([], none)
  | n + 1, dicts, bs =>
    if bs.isEmpty then ([], none)
    else if bs.length < 8 ∨ u32at bs 0 ≠ 0xFFFFFFFF then ([], some 0x0B11)
    else
      let k := u32at bs 4
      let b := slice bs 8 k
      if k = 0 then ([], none)
      else if bs.length < 8 + k then ([], some 0x0B11)
      else match fbFollow b 0 with
      | none => ([], some 0x0B11)
      | some t =>
        let size := fbNat b t 3 8 0
        let body := slice bs (8 + k) size
        let rest := bs.drop (8 + k + size)
        match fbNat b t 1 1 0, fbRef b t 2 with
        | 2, some h => arMessages fs ts n (arDictBatch fs dicts b h body) rest
        | 3, some h =>
          (match arBatch b h with
           | none => ([], some 0x0B11)
           | some x =>
             let (us, e) := arMessages fs ts n dicts rest
             (arRows fs ts dicts x body :: us, e))
        | _, _ => ([], some 0x0B11)

/-- The object's own schema serves a target (R149, R150); a path that it does not have gives null. -/
def ATy.takes (a : ATy) (t : ColTarget) : Bool := (a.reach t.path.names).isNone || a.serves t.path t.ty

/-- The rows of an Arrow IPC stream and its object error (R152, R153): a schema message that is missing or malformed is 0x0B11; the stream without
continuation markers, the file format, another byte order and pairings outside R150 are 0x0B12. -/
def arrowRows (ts : List ColTarget) (bs : Bytes) : List RowUnit × Option Nat :=
  let bad : List RowUnit × Option Nat := ([], some 0x0B11)
  let k := u32at bs 4
  let b := slice bs 8 k
  if bs.length < 8 then bad
  else if u32at bs 0 ≠ 0xFFFFFFFF then ([], some 0x0B12)
  else if k = 0 ∨ bs.length < 8 + k then bad
  else match fbFollow b 0 with
  | none => bad
  | some t =>
    match fbNat b t 1 1 0, fbRef b t 2 with
    | 1, some h =>
      (match fbVec b h 1 4 with
       | none => bad
       | some (v, n) =>
         match (List.range n).mapM (fun i => (fbFollow b (v + 4 * i)).bind (arField b arDepth)) with
         | none => bad
         | some fs =>
           if fbNat b h 0 2 0 ≠ 0 ∨ !(ts.all (ATy.takes (.record (arFields fs)))) then ([], some 0x0B12)
           else arMessages fs ts (bs.length + 1) [] (bs.drop (8 + k + fbNat b t 3 8 0)))
    | _, _ => bad

end Sys2Proof.Machine
end

