-- ==== Sys2Proof/Machine/Parquet.lean ====
section
/-!
DEFINITION. Apache Parquet objects as parse reads them: footer, row groups, pages, levels, encodings (05 R137, R149 to R156). PRESUMED (log entry 110): the
Parquet and Thrift compact formats.
-/

namespace Sys2Proof.Machine

/-- A value of the Thrift compact protocol. -/
inductive Th where
  | bool (b : Bool)
  | int (x : Int)
  | bin (b : Bytes)
  | list (xs : List Th)
  | struct (fs : List (Nat × Th))
  | other
  deriving Repr

/-- A zigzag integer at the front. -/
def thInt (bs : Bytes) : Option (Int × Bytes) := (leb 10 bs).map (fun x => (zigzagInt x.1, x.2))

/-- Reads a number of parts in turn. -/
def readTimes {α : Type} (f : Bytes → Option (α × Bytes)) : Nat → Bytes → Option (List α × Bytes)
  | 0, bs => some ([], bs)
  | n + 1, bs => (f bs).bind (fun x => (readTimes f n x.2).map (fun r => (x.1 :: r.1, r.2)))

/-- The fields of a struct up to its stop byte; `f` reads a value of a type. -/
def thFields (f : Nat → Bytes → Option (Th × Bytes)) : Nat → Nat → Bytes → Option (List (Nat × Th) × Bytes)
  | 0, _, _ => none
  | _, _, [] => none
  | n + 1, last, b :: r =>
    let ty := b.toNat % 16
    let delta := b.toNat / 16
    if b = 0 then some ([], r)
    else
      match (if delta = 0 then (thInt r).map (fun x => (x.1.toNat, x.2)) else some (last + delta, r)) with
      | none => none
      | some (id, r) =>
        match (if ty = 1 ∨ ty = 2 then some (Th.bool (ty = 1), r) else f ty r) with
        | none => none
        | some (v, r) => (thFields f n id r).map (fun x => ((id, v) :: x.1, x.2))

/-- A value of a type of the compact protocol, with fuel for its depth. -/
def thValue : Nat → Nat → Bytes → Option (Th × Bytes)
  | 0, _, _ => none
  | n + 1, ty, bs =>
    match ty with
    | 1 | 2 => (aTake 1 bs).map (fun x => (.bool (u8at x.1 0 = 1), x.2))
    | 3 => (aTake 1 bs).map (fun x => (.int (toSigned 8 (u8at x.1 0)), x.2))
    | 4 | 5 | 6 => (thInt bs).map (fun x => (.int x.1, x.2))
    | 7 => (aTake 8 bs).map (fun x => (.other, x.2))
    | 8 => (leb 10 bs).bind (fun x => (aTake x.1 x.2).map (fun y => (.bin y.1, y.2)))
    | 9 | 10 =>
      match bs with
      | [] => none
      | h :: r =>
        match (if h.toNat / 16 = 15 then leb 10 r else some (h.toNat / 16, r)) with
        | none => none
        | some (k, r) => (readTimes (thValue n (h.toNat % 16)) k r).map (fun x => (.list x.1, x.2))
    | 11 =>
      match leb 10 bs with
      | none => none
      | some (k, r) =>
        if k = 0 then some (.other, r)
        else match r with
        | [] => none
        | h :: r => (readTimes (fun b => (thValue n (h.toNat / 16) b).bind (fun x => thValue n (h.toNat % 16) x.2)) k r).map (fun x => (.other, x.2))
    | 12 => (thFields (thValue n) (bs.length + 1) 0 bs).map (fun x => (.struct x.1, x.2))
    | _ => none

/-- A struct at the front of the bytes. -/
def thStruct (bs : Bytes) : Option (Th × Bytes) := thValue 32 12 bs

/-- A field of a struct. -/
def Th.get (t : Th) (i : Nat) : Option Th :=
  match t with
  | .struct fs => assocGet fs i
  | _ => none

/-- An integer field. -/
def Th.int? (t : Th) (i : Nat) : Option Int :=
  match t.get i with
  | some (.int x) => some x
  | _ => none

/-- An integer field that is no negative number, or 0. -/
def Th.nat (t : Th) (i : Nat) : Nat := ((t.int? i).getD 0).toNat

/-- A list field. -/
def Th.items (t : Th) (i : Nat) : List Th :=
  match t.get i with
  | some (.list xs) => xs
  | _ => []

/-- A binary field. -/
def Th.str (t : Th) (i : Nat) : Bytes :=
  match t.get i with
  | some (.bin b) => b
  | _ => []

/-- What a leaf column's values are (R150). -/
inductive PqKind where
  | bool
  | int (signed : Bool) (bits : Nat)
  | float (bits : Nat)
  | text
  | decimal (precision : Nat)
  | date
  | stamp (unit : Nat)
  | int96
  | other
  deriving DecidableEq, Repr

/-- The type a pairing judges. -/
def PqKind.aty : PqKind → ATy
  | .bool => .bool
  | .int _ _ => .long
  | .float _ => .double
  | .text => .string
  | .decimal p => .decimal none p
  | .date => .date
  | .stamp _ => .stamp 0
  | .int96 => .stamp 0
  | .other => .fixed 0

/-- A leaf column of a schema: path, physical type and length, what its values are, greatest levels, and the definition levels at which its outermost and its
innermost repeated level hold an element; 0 for none. -/
structure PqLeaf where
  path : List Bytes
  phys : Nat
  len : Nat
  kind : PqKind
  maxRep : Nat
  maxDef : Nat
  outer : Nat
  inner : Nat
  deriving Repr

/-- What the values of a schema element are, from its physical, converted and logical type. -/
def pqKind (e : Th) : PqKind :=
  let phys := e.nat 1
  let base : PqKind := match phys with
    | 0 => .bool | 1 => .int true 32 | 2 => .int true 64 | 3 => .int96 | 4 => .float 32 | 5 => .float 64 | _ => .other
  let unitOf (u : Th) : PqKind := if (u.get 1).isSome then .stamp 1 else if (u.get 2).isSome then .stamp 0 else .stamp 2
  match e.get 10, e.int? 6 with
  | some (.struct ((k, x) :: _)), _ =>
    (match k with
     | 1 | 4 | 12 => if phys = 6 then .text else .other
     | 5 => .decimal (x.nat 2)
     | 6 => .date
     | 8 => unitOf ((x.get 2).getD .other)
     | 10 => (match x.get 2 with
       | some (.bool false) => .int false (x.nat 1)
       | _ => base)
     | 11 => base
     | 15 => .float 16
     | _ => .other)
  | _, some c =>
    (match c.toNat with
     | 0 | 4 | 19 => if phys = 6 then .text else .other
     | 5 => .decimal (e.nat 8)
     | 6 => .date
     | 9 => .stamp 1
     | 10 => .stamp 0
     | 11 => .int false 8 | 12 => .int false 16 | 13 => .int false 32 | 14 => .int false 64
     | 15 | 16 | 17 | 18 => base
     | _ => .other)
  | _, none => base

/-- Where a walk of the schema stands: path and levels of the parent. -/
structure PqAt where
  path : List Bytes := []
  rep : Nat := 0
  dfn : Nat := 0
  outer : Nat := 0
  inner : Nat := 0

/-- The leaves of one schema element and those below it, and the elements behind them. -/
def pqLeaves : Nat → PqAt → List Th → Option (List PqLeaf × List Th)
  | 0, _, _ => none
  | _, _, [] => none
  | n + 1, a, e :: es =>
    let r := e.nat 3
    let rep := a.rep + (if r = 2 then 1 else 0)
    let dfn := a.dfn + (if r = 0 then 0 else 1)
    let a : PqAt := { path := a.path ++ [e.str 4], rep := rep, dfn := dfn, outer := if r = 2 ∧ a.outer = 0 then dfn else a.outer, inner := if r = 2 then dfn else a.inner }
    if (e.get 1).isSome then
      some ([{ path := a.path, phys := e.nat 1, len := e.nat 2, kind := pqKind e, maxRep := rep, maxDef := dfn, outer := a.outer, inner := a.inner }], es)
    else
      (List.range (e.nat 5)).foldl (fun (x : Option (List PqLeaf × List Th)) _ =>
        x.bind (fun p => (pqLeaves n a p.2).map (fun q => (p.1 ++ q.1, q.2)))) (some ([], es))

/-- The leaves of a schema, whose first element is its root. -/
def pqSchema (es : List Th) : Option (List PqLeaf) :=
  match es with
  | [] => none
  | root :: r =>
    ((List.range (root.nat 5)).foldl (fun (x : Option (List PqLeaf × List Th)) _ =>
      x.bind (fun p => (pqLeaves 32 {} p.2).map (fun q => (p.1 ++ q.1, q.2)))) (some ([], r))).map (·.1)

/-- Packed integers of a width, least significant bit first. -/
def packedInts (w n : Nat) (bs : Bytes) : List Nat := (List.range n).map (fun i => uat bs (i * w / 8) (w / 8 + 2) / pow2 (i * w % 8) % pow2 w)

/-- Runs of the RLE and bit-packed hybrid until `want` values are there. -/
def rleRuns (w : Nat) : Nat → Nat → Bytes → Option (List Nat)
  | 0, _, _ => none
  | n + 1, want, bs =>
    if want = 0 then some []
    else match leb 5 bs with
    | none => none
    | some (h, r) =>
      if h % 2 = 1 then
        let k := h / 2 * 8
        if r.length < h / 2 * w then (if 8 * r.length < w * min k want then none else some (packedInts w (min k want) r))
        else (rleRuns w n (want - k) (r.drop (h / 2 * w))).map (fun x => packedInts w (min k want) r ++ x)
      else
        let b := (w + 7) / 8
        if r.length < b ∨ h = 0 then none
        else (rleRuns w n (want - h / 2) (r.drop b)).map (fun x => List.replicate (min (h / 2) want) (uat r 0 b) ++ x)

/-- The hybrid: `want` values of a width, none above `limit`. -/
def rleHybrid (w want limit : Nat) (bs : Bytes) : Option (List Nat) :=
  match rleRuns w (bs.length + 1) want bs with
  | some xs => if xs.all (fun x => decide (x ≤ limit)) then some xs else none
  | none => none

/-- Levels of a data page of version 1: RLE behind its length, or the deprecated BIT_PACKED with the most significant bit first; and the bytes behind. -/
def pqLevels (enc maxLevel n : Nat) (bs : Bytes) : Option (List Nat × Bytes) :=
  let w := bitLen maxLevel
  if maxLevel = 0 then some (List.replicate n 0, bs)
  else if enc = 3 then
    (if bs.length < 4 ∨ bs.length < 4 + u32at bs 0 then none
     else (rleHybrid w n maxLevel (slice bs 4 (u32at bs 0))).map (fun x => (x, bs.drop (4 + u32at bs 0))))
  else
    let k := (n * w + 7) / 8
    if bs.length < k then none
    else
      let total := leNat (bs.take k).reverse
      let xs := (List.range n).map (fun i => total / pow2 (8 * k - (i + 1) * w) % pow2 w)
      if xs.all (fun x => decide (x ≤ maxLevel)) then some (xs, bs.drop k) else none

/-- One miniblock after another of a DELTA_BINARY_PACKED block: values that go on from `last`, modulo 2^bits. -/
def deltaMini (bits per : Nat) (low : Int) : List Nat → Nat → Int → Bytes → Option (List Int × Bytes)
  | [], _, _, bs => some ([], bs)
  | w :: ws, want, last, bs =>
    if want = 0 then some ([], bs)
    else if bs.length < per * w / 8 ∨ 64 < w then none
    else
      let step (acc : List Int × Int) (d : Nat) : List Int × Int :=
        let v := toSigned bits ((acc.2 + low + (d : Int)) % (pow2 bits : Int)).toNat
        (v :: acc.1, v)
      let (vs, last) := (packedInts w (min per want) bs).foldl step ([], last)
      (deltaMini bits per low ws (want - per) last (bs.drop (per * w / 8))).map (fun r => (vs.reverse ++ r.1, r.2))

/-- The blocks behind the first value. -/
def deltaBlocks (bits size minis : Nat) : Nat → Nat → Int → Bytes → Option (List Int × Bytes)
  | 0, _, _, _ => none
  | n + 1, want, last, bs =>
    if want = 0 then some ([], bs)
    else do
      let (low, r) ← thInt bs
      let (ws, r) ← aTake minis r
      let (vs, r) ← deltaMini bits (size / minis) low (ws.map (·.toNat)) want last r
      let (more, r) ← deltaBlocks bits size minis n (want - vs.length) (vs.getLastD last) r
      some (vs ++ more, r)

/-- DELTA_BINARY_PACKED integers and the bytes behind them. -/
def deltaInts (bits : Nat) (bs : Bytes) : Option (List Int × Bytes) := do
  let (size, r) ← leb 10 bs
  let (minis, r) ← leb 10 r
  let (n, r) ← leb 10 r
  let (first, r) ← thInt r
  if minis = 0 ∨ size % minis ≠ 0 ∨ size / minis % 8 ≠ 0 ∨ size = 0 then none
  else if n = 0 then some ([], r)
  else (deltaBlocks bits size minis (r.length + 1) (n - 1) first r).map (fun x => (first :: x.1, x.2))

/-- Runs of bytes of given lengths. -/
def cutRuns : List Int → Bytes → Option (List Bytes × Bytes)
  | [], bs => some ([], bs)
  | k :: ks, bs => if k < 0 then none else (aTake k.toNat bs).bind (fun x => (cutRuns ks x.2).map (fun r => (x.1 :: r.1, r.2)))

/-- DELTA_LENGTH_BYTE_ARRAY. -/
def deltaLengths (bs : Bytes) : Option (List Bytes) := (deltaInts 32 bs).bind (fun x => (cutRuns x.1 x.2).map (·.1))

/-- DELTA_BYTE_ARRAY: each value takes a prefix of the one before it. -/
def deltaStrings (bs : Bytes) : Option (List Bytes) := do
  let (pre, r) ← deltaInts 32 bs
  let suf ← deltaLengths r
  if pre.length ≠ suf.length then none
  else
    let step (acc : Option (List Bytes)) (x : Int × Bytes) : Option (List Bytes) :=
      acc.bind (fun out =>
        let prev := out.headD []
        if x.1 < 0 ∨ (prev.length : Int) < x.1 then none else some ((prev.take x.1.toNat ++ x.2) :: out))
    ((pre.zip suf).foldl step (some [])).map List.reverse

/-- Bytes of a fixed-width physical type; 0 for the others. -/
def PqLeaf.width (l : PqLeaf) : Nat :=
  match l.phys with
  | 1 => 4 | 2 => 8 | 3 => 12 | 4 => 4 | 5 => 8 | 7 => l.len
  | _ => 0

/-- A value from its plain bytes (R150). -/
def PqLeaf.src (l : PqLeaf) (b : Bytes) : Src :=
  let v := leNat b
  match l.kind with
  | .bool => .bool (v ≠ 0)
  | .int true _ => .int (toSigned (8 * b.length) v)
  | .int false bits => .int ((v % pow2 bits : Nat) : Int)
  | .float bits => .float ((if bits = 16 then fp16 else if bits = 32 then fp32 else fp64).decode v)
  | .text => .text b
  | .decimal _ => .decimal (if l.phys = 1 ∨ l.phys = 2 then toSigned (8 * b.length) v else bigSigned b)
  | .date => .time (toSigned 32 v * 86400000000)
  | .stamp u => .time (unitTime u (toSigned 64 v))
  | .int96 => .time (((((u32at b 8 : Nat) : Int) - 2440588) * 86400000000000 + (u64at b 0 : Nat)) / 1000)
  | .other => .other

/-- Runs of one width. -/
def cutWidth (w : Nat) : Nat → Bytes → Option (List Bytes × Bytes) := readTimes (aTake w)

/-- BYTE_ARRAY values of PLAIN: each behind its length. -/
def plainRuns : Nat → Bytes → Option (List Bytes × Bytes) := readTimes (fun bs => if bs.length < 4 then none else aTake (u32at bs 0) (bs.drop 4))

/-- PLAIN values. -/
def pqPlain (l : PqLeaf) (n : Nat) (bs : Bytes) : Option (List Src) :=
  if l.phys = 0 then (if 8 * bs.length < n then none else some ((packedInts 1 n bs).map (fun x => .bool (x ≠ 0))))
  else (if l.phys = 6 then plainRuns n bs else cutWidth l.width n bs).map (fun x => x.1.map l.src)

/-- The values of a data page by its encoding (R153); none where they do not decode. `dict`: the chunk's dictionary. -/
def pqValues (l : PqLeaf) (dict : Option (List Src)) (enc n : Nat) (bs : Bytes) : Option (List Src) :=
  let ints (bits : Nat) : Option (List Src) := (deltaInts bits bs).map (fun x => x.1.map (fun v => l.src (le (bits / 8) (v % (pow2 bits : Int)).toNat)))
  match enc with
  | 0 => pqPlain l n bs
  | 2 | 8 =>
    if n = 0 then some []
    else
      let w := u8at bs 0
      if bs.isEmpty ∨ 32 < w then none
      else do
        let d ← dict
        let ix ← rleHybrid w n (d.length - 1) (bs.drop 1)
        ix.mapM (fun i => d[i]?)
  | 3 => if l.phys ≠ 0 ∨ bs.length < 4 then none else (rleHybrid 1 n 1 (slice bs 4 (u32at bs 0))).map (fun xs => xs.map (fun x => .bool (x ≠ 0)))
  | 5 => if l.phys = 1 then ints 32 else if l.phys = 2 then ints 64 else none
  | 6 => if l.phys ≠ 6 then none else (deltaLengths bs).map (fun xs => xs.map l.src)
  | 7 => if l.phys = 6 ∨ l.phys = 7 then (deltaStrings bs).map (fun xs => xs.map l.src) else none
  | 9 =>
    let k := l.width
    if k = 0 ∨ bs.length < k * n then none
    else some ((List.range n).map (fun i => l.src ((List.range k).map (fun b => bs.getD (b * (bs.length / k) + i) 0))))
  | _ => none

/-- The encodings that R153 lists for values. -/
def pqEncodings : List Nat := [0, 2, 3, 5, 6, 7, 8, 9]

/-- A page decompressed by its column chunk's codec. -/
def pqUnpack (codec size : Nat) (bs : Bytes) : Option Bytes :=
  let out : Option Bytes := match codec with
    | 0 => some bs
    | 1 => unpackSnappy bs
    | 2 => (unpackGzip bs).whole
    | 4 => Config.brambleUnpack (ascii "brotli") bs
    | 5 => unpackLz4 bs
    | 6 => (unpackZstd (fun _ => none) bs).whole
    | 7 => lz4Block [] bs
    | _ => none
  match out with
  | some o => if o.length = size then some o else none
  | none => none

/-- One row of a column: the page it begins in, whether that page is the bramble lane's, whether its data failed, and its entries: definition level and value. -/
structure PqRow where
  page : Nat
  lane : Bool
  bad : Bool := false
  ents : List (Nat × Src) := []

/-- Joins a page's entries to rows: a repetition level of 0 begins one. Rows newest first, each with its entries newest first. -/
def pqJoin (page : Nat) (lane : Bool) (rows : List PqRow) (e : Nat × Nat × Src) : List PqRow :=
  match rows with
  | r :: rs => if e.1 = 0 then { page := page, lane := lane, ents := [e.2] } :: r :: rs else { r with ents := e.2 :: r.ents } :: rs
  | [] => [{ page := page, lane := lane, ents := [e.2] }]

/-- Entries of levels and the values that stand. -/
def pqEntries (maxDef : Nat) : List Nat → List Nat → List Src → Option (List (Nat × Nat × Src))
  | [], _, _ => some []
  | r :: rs, ds, vs =>
    let d := ds.headD 0
    if d < maxDef then (pqEntries maxDef rs (ds.drop 1) vs).map ((r, d, .null) :: ·)
    else match vs with
    | [] => none
    | v :: vs => (pqEntries maxDef rs (ds.drop 1) vs).map ((r, d, v) :: ·)

/-- The entries of a data page: version 1, all of it packed, or version 2, with its levels plain in front. -/
def pqPage (l : PqLeaf) (codec : Nat) (dict : Option (List Src)) (h : Th) (bs : Bytes) : Option (List (Nat × Nat × Src)) :=
  let size := h.nat 2
  match h.get 5, h.get 8 with
  | some p, _ => do
    let raw ← pqUnpack codec size bs
    let (reps, r) ← pqLevels (p.nat 4) l.maxRep (p.nat 1) raw
    let (defs, r) ← pqLevels (p.nat 3) l.maxDef (p.nat 1) r
    let vals ← pqValues l dict (p.nat 2) (defs.filter (· == l.maxDef)).length r
    pqEntries l.maxDef reps defs vals
  | none, some p => do
    let dl := p.nat 5
    let rl := p.nat 6
    if bs.length < dl + rl ∨ size < dl + rl then none
    else do
      let reps ← rleHybrid (bitLen l.maxRep) (if l.maxRep = 0 then 0 else p.nat 1) l.maxRep (bs.take rl)
      let defs ← rleHybrid (bitLen l.maxDef) (if l.maxDef = 0 then 0 else p.nat 1) l.maxDef (slice bs rl dl)
      let reps := if l.maxRep = 0 then List.replicate (p.nat 1) 0 else reps
      let defs := if l.maxDef = 0 then List.replicate (p.nat 1) 0 else defs
      let plain := match p.get 7 with
        | some (.bool false) => true
        | _ => false
      let raw ← if plain then some (bs.drop (rl + dl)) else pqUnpack codec (size - dl - rl) (bs.drop (rl + dl))
      let vals ← pqValues l dict (p.nat 4) (defs.filter (· == l.maxDef)).length raw
      pqEntries l.maxDef reps defs vals
  | none, none => none

/-- Codecs that the bramble lane decodes: SNAPPY, BROTLI, LZ4 and LZ4_RAW (R153). -/
def pqLaneCodecs : List Nat := [1, 4, 5, 7]

/-- The pages of a column chunk: its rows newest first, and the object error that stops it (R152): a header that does not decode, rows that no header counts, or an
encoding that R153 does not list. -/
def pqPages (l : PqLeaf) (codec : Nat) : Nat → Nat → Nat → Option (List Src) → Bytes → List PqRow → List PqRow × Option Nat
  | 0, _, _, _, _, rows => (rows, none)
  | n + 1, page, left, dict, bs, rows =>
    if left = 0 ∨ bs.isEmpty then (rows, none)
    else match thStruct bs with
    | none => (rows, some 0x0B11)
    | some (h, r) =>
      let size := h.nat 3
      let data := r.take size
      let rest := r.drop size
      let whole := decide (data.length = size) && (match h.int? 4 with
        | some c => decide ((c % (pow2 32 : Int)).toNat = crc32 data)
        | none => true)
      if h.nat 1 = 2 then
        let d := (h.get 7).getD .other
        let vals := if whole then (pqUnpack codec (h.nat 2) data).bind (pqPlain l (d.nat 1)) else none
        pqPages l codec n page left vals rest rows
      else if h.nat 1 ≠ 0 ∧ h.nat 1 ≠ 3 then pqPages l codec n page left dict rest rows
      else
        let v1 := h.get 5
        let p := (v1.orElse (fun _ => h.get 8)).getD .other
        let enc := if v1.isSome then p.nat 2 else p.nat 4
        let packed := v1.isSome && ((decide (0 < l.maxRep) && decide (p.nat 4 = 4)) || (decide (0 < l.maxDef) && decide (p.nat 3 = 4)))
        let lane := pqLaneCodecs.contains codec || enc == 7 || packed
        if !pqEncodings.contains enc then (rows, some 0x0B12)
        else match (if whole then pqPage l codec dict h data else none) with
        | some es => pqPages l codec n (page + 1) (left - p.nat 1) dict rest (es.foldl (pqJoin page lane) rows)
        | none =>
          if v1.isSome ∧ 0 < l.maxRep then (rows, some 0x0B11)
          else
            let k := if v1.isSome then p.nat 1 else p.nat 3
            pqPages l codec n (page + 1) (left - p.nat 1) dict rest (List.replicate k { page := page, lane := lane, bad := true } ++ rows)

/-- A column chunk of an object: its rows in order and the object error. -/
def pqChunk (l : PqLeaf) (bs : Bytes) (c : Th) : List PqRow × Option Nat :=
  match c.get 3 with
  | none => ([], some (if (c.get 8).isSome then 0x0B12 else 0x0B11))
  | some m =>
    let codec := m.nat 4
    let dictAt := m.nat 11
    let start := if 0 < dictAt ∧ dictAt < m.nat 9 then dictAt else m.nat 9
    if (c.get 8).isSome ∨ (c.get 1).isSome ∨ codec = 3 ∨ 7 < codec then ([], some 0x0B12)
    else
      let (rows, e) := pqPages l codec (m.nat 7 + 1) 0 (m.nat 5) none (slice bs start (m.nat 7)) []
      (rows.reverse.map (fun r => { r with ents := r.ents.reverse }), e)

/-- A target's source in a row of its column (R149). -/
def pqSource (l : PqLeaf) (e : PathEnt) (r : PqRow) : Src :=
  let firstDef := (r.ents.head?.map (·.1)).getD 0
  let items := (r.ents.filter (fun x => decide (l.inner ≤ x.1))).map (·.2)
  match e.mode with
  | 0 => (r.ents.head?.map (·.2)).getD .null
  | 1 => if firstDef + 1 < l.outer then .null else items.getD e.index .null
  | _ => if firstDef + 1 < l.outer then .null else .int items.length

/-- The type of a leaf as a pairing judges it: a list under a repeated level. -/
def PqLeaf.aty (l : PqLeaf) : ATy := if 0 < l.maxRep then .array l.kind.aty else l.kind.aty

/-- Row `i` of a row group over its targets' columns: none where a target's path is absent. A failed page's row has status 9, or 6 from the bramble lane. -/
def pqRow (cols : List (PathEnt × Option (PqLeaf × List PqRow))) (i : Nat) : RowSrc :=
  let bads := cols.filterMap (fun c => c.2.bind (fun x => match x.2[i]? with
    | some r => if r.bad then some r.lane else none
    | none => some false))
  match bads with
  | lane :: _ => .status (if lane then 6 else 9)
  | [] => .srcs (cols.map (fun c => ((c.2.bind (fun x => (x.2[i]?).map (pqSource x.1 c.1))).getD .null)))

/-- Groups rows into decode units: rows that lie in the same pages of every column (R155). -/
def pqUnits : List (List Nat × RowUnit) → List RowUnit
  | [] => []
  | (k, u) :: xs =>
    match xs, pqUnits xs with
    | (k2, _) :: _, v :: vs => if k = k2 then { v with rows := u.rows ++ v.rows } :: vs else u :: v :: vs
    | _, vs => u :: vs

/-- The rows of a row group up to the first object error. -/
def pqGroup (leaves : List PqLeaf) (ts : List ColTarget) (bs : Bytes) (g : Th) : List RowUnit × Option Nat :=
  let n := g.nat 3
  let chunks := g.items 1
  let read (t : ColTarget) : Option (PqLeaf × List PqRow × Option Nat) :=
    ((leaves.zipIdx.find? (fun l => l.1.path == t.path.names))).map (fun l =>
      match chunks[l.2]? with
      | some c => (l.1, pqChunk l.1 bs c)
      | none => (l.1, [], some 0x0B11))
  let cols := ts.map (fun t => (t.path, read t))
  let errs := cols.filterMap (fun c => c.2.bind (fun x => x.2.2.map (fun e => (x.2.1.length, e))))
  let stop := (sortBy Prod.fst errs).head?
  let upTo := min n ((stop.map (·.1)).getD n)
  let data := cols.map (fun c => (c.1, c.2.map (fun x => (x.1, x.2.1))))
  let at' (i : Nat) : List PqRow := data.filterMap (fun c => c.2.bind (fun x => x.2[i]?))
  (pqUnits ((List.range upTo).map (fun i => ((at' i).map (·.page), { rows := [pqRow data i], lane := (at' i).any (·.lane) }))), stop.map (·.2))

/-- Row groups until an object error. -/
def pqGroups (leaves : List PqLeaf) (ts : List ColTarget) (bs : Bytes) : List Th → List RowUnit × Option Nat
  | [] => ([], none)
  | g :: gs =>
    match pqGroup leaves ts bs g with
    | (us, some e) => (us, some e)
    | (us, none) => (us ++ (pqGroups leaves ts bs gs).1, (pqGroups leaves ts bs gs).2)

/-- A schema serves a target (R149, R150): a leaf with a pairing, or no such path at all; a path that ends at a group serves none. -/
def pqTakes (leaves : List PqLeaf) (t : ColTarget) : Bool :=
  match leaves.find? (fun l => l.path == t.path.names) with
  | some l => l.aty.serves { t.path with names := [] } t.ty
  | none => !(leaves.any (fun l => l.path.take t.path.names.length == t.path.names))

/-- The rows of a Parquet object and its object error, from its footer segment and its bytes (R137, R152): a footer that does not decode is 0x0B11; modular
encryption of the footer and pairings outside R150 are 0x0B12. -/
def parquetRows (ts : List ColTarget) (footer bs : Bytes) : List RowUnit × Option Nat :=
  let tail := footer.drop (footer.length - 4)
  if footer.length < 8 then ([], some 0x0B11)
  else if tail = ascii "PARE" then ([], some 0x0B12)
  else if tail ≠ ascii "PAR1" then ([], some 0x0B11)
  else match thStruct (footer.take (footer.length - 8)) with
  | none => ([], some 0x0B11)
  | some (m, _) =>
    match pqSchema (m.items 2) with
    | none => ([], some 0x0B11)
    | some leaves => if !(ts.all (pqTakes leaves)) then ([], some 0x0B12) else pqGroups leaves ts bs (m.items 4)

end Sys2Proof.Machine
end

