-- ==== Sys2Proof/Machine/UnpackParse.lean ====
section
/-!
DEFINITION. Unpack, parse and emit stations, and the bramble lane (05 R143 to R158, R166).
-/

namespace Sys2Proof.Machine

open Sys2Proof

/-- Takes the next object or record off an input port. -/
def InPort.popObj (p : InPort) : InPort := { p with objs := p.objs.drop 1, ord := p.ord + 1 }

/-- The rules of R143. -/
def unpackOk (im : Image) (s : StationD) : Bool :=
  let p := im.paramBlock s
  decide (1 ≤ u8at p 0) && decide (u8at p 0 ≤ 4) && decide (u8at p 1 ≤ 1) && (u16at p 2 = 0xFFFF || im.regions.any (fun r => r.id == u16at p 2)) && allZero p 4 4

/-- A dictionary of the dictionary region by its identifier (R143). -/
def findDict (b : Bytes) (id : Nat) : Option Bytes :=
  ((List.range (u32at b 0)).find? (fun i => u32at b (8 + 32 * i) == id)).map (fun i => slice b (u64at b (16 + 32 * i)) (u64at b (24 + 32 * i)))

/-- Decompresses one object (R144). -/
def unpackBytes (format : Nat) (dict : Nat → Option Bytes) (bs : Bytes) : Unpacked :=
  match format with
  | 1 => unpackDeflate bs
  | 2 => unpackZlib dict bs
  | 3 => unpackGzip bs
  | _ => unpackZstd dict bs

/-- UNPACK_OBJECT (R143 to R147). -/
def unpackObject (slot st : Nat) (m : Memory) (d : Dev) : DevOut :=
  let j := getJob d slot
  let p := paramSt d slot st
  let i := getIn d slot st 0
  if (getSt d slot st).ended then noEvent
  else if outBlocked d slot st then .next d
  else match i.objs with
  | [] => if inputsDone d slot st then .next (endStation d slot st) else noEvent
  | b :: _ =>
    let reg := bindingOr j (u16at p 2)
    match (if u16at p 2 = 0xFFFF then .ok [] else regRead m d reg 0 reg.bytes) with
    | .error e => .next (engineFault d (stFault d slot st 0 0 0) e)
    | .ok dicts =>
      let u := unpackBytes (u8at p 0) (findDict dicts) b
      let d := modIn d slot st 0 InPort.popObj
      match u.err with
      | none => .next (addObject d slot st 0 u.out)
      | some (code, off) =>
        if u8at p 1 = 0 then .next (stationFault d slot st code i.ord off)
        else .next (stationNotice (addObject d slot st 0 u.out) slot st code i.ord (pow2 63 + off))

/-- UNPACK_OBJECT. -/
def execUnpackObject (slot station : Nat) (s : State) : Host.Outcome State Fault Refusal :=
  onStation slot station (· = .unpack) s (unpackObject slot station)

/-- A column map entry (R149). -/
structure ColMap where
  out : Nat
  ty : Ty
  cflags : Nat
  unit : Nat
  csvField : Nat
  path : PathEnt
  deriving DecidableEq, Repr

/-- Splits a path at the bytes 0x1F. -/
def splitPath (bs : Bytes) : List Bytes :=
  (bs.foldr (fun b acc =>
    match acc with
    | [] => [[b]]
    | x :: xs => if b = 0x1F then [] :: x :: xs else (b :: x) :: xs) [[]])

/-- The entry at an offset of a parameter block. -/
def readColMap (params p : Bytes) (i : Nat) : ColMap :=
  let e := slice p (32 + 32 * i) 32
  { out := u8at e 0, ty := (Ty.ofCode (u8at e 1)).getD .u8, cflags := u8at e 4, unit := u8at e 5, csvField := u16at e 6,
    path := { names := splitPath (slice params (u32at e 8) (u16at e 0x0C)), mode := u8at e 2, index := u8at e 3 } }

/-- The column map of a parse station. -/
def colMaps (im : Image) (p : Bytes) : List ColMap := (List.range (u8at p 1)).map (readColMap im.params p)

/-- The Avro schema of a parse station. -/
def parseSchema (im : Image) (p : Bytes) : Option ATy := avroSchema (slice im.params (u32at p 8) (u32at p 0x0C))

/-- The rules of R148 on the header of a parse parameter block. -/
def parseHeadOk (im : Image) (p : Bytes) (records : Bool) : Bool :=
  let f := u8at p 0
  let delim := u8at p 4
  let quote := u8at p 5
  decide (1 ≤ f) && decide (f ≤ 5) && decide (1 ≤ u8at p 1) && decide (u8at p 1 ≤ 64) && decide (u8at p 3 ≤ 1) &&
  (decide (u8at p 2 < 64) || u8at p 2 = 0xFF) &&
  (if f = 3 then (delim = 0x2C || delim = 0x09 || delim = 0x3B || delim = 0x7C) && decide (0x21 ≤ quote) && decide (quote ≤ 0x7E) && decide (quote ≠ delim) &&
      (!records || u8at p 6 = 0)
   else allZero p 4 3) &&
  (if f = 5 then decide (u8at p 7 ≤ 2) && decide ((u8at p 7 = 2) = records) && decide (u32at p 8 + u32at p 0x0C ≤ im.params.length) else allZero p 7 9) &&
  (if records then f = 3 || f = 4 || f = 5 else true) && allZero p 0x10 16

/-- The rules of R149 on one entry. -/
def colMapOk (im : Image) (p : Bytes) (schema : Option ATy) (i : Nat) : Bool :=
  let e := slice p (32 + 32 * i) 32
  let f := u8at p 0
  let x := readColMap im.params p i
  let names := x.path.names
  decide (u8at e 0 < 64) && (Ty.ofCode (u8at e 1)).isSome && decide (u8at e 1 ≠ Ty.dict.code) && decide (u8at e 2 ≤ 2) && decide (u8at e 4 < 4) && decide (u8at e 5 ≤ 3) &&
  allZero e 0x0E 18 &&
  (if f = 3 then u8at e 2 = 0 && u8at e 3 = 0 && u16at e 0x0C = 0
   else u16at e 6 = 0 && (u8at e 2 = 1 || u8at e 3 = 0) && decide (u32at e 8 + u16at e 0x0C ≤ im.params.length) &&
     decide (1 ≤ u16at e 0x0C) && decide (names.length ≤ 8) && names.all (fun n => !n.isEmpty && utf8Ok n)) &&
  (if f = 5 then (match schema with
     | some t => t.serves x.path x.ty
     | none => false)
   else true)

/-- The rules of R148 and R149. -/
def parseOk (im : Image) (s : StationD) : Bool :=
  let p := im.paramBlock s
  let records := ((portQueues im s.index 0).head?.map (·.format)).getD 0 = TFmt.records.code
  let maps := colMaps im p
  let st := u8at p 2
  let schema := if u8at p 0 = 5 then parseSchema im p else none
  parseHeadOk im p records && (List.range (u8at p 1)).all (colMapOk im p schema) && nodup (maps.map (·.out)) && !(maps.any (fun x => x.out == st)) &&
  decide (queueCols im s.index 0 = maps.foldl (fun a x => a ||| pow2 x.out) (if st = 0xFF then 0 else pow2 st))

/-- The parse station's own state. -/
def parseSt (d : Dev) (slot st : Nat) : ParseSt :=
  match (getSt d slot st).kind with
  | .parse x => x
  | _ => {}

/-- Changes it. -/
def modParse (d : Dev) (slot st : Nat) (f : ParseSt → ParseSt) : Dev := setKind d slot st (.parse (f (parseSt d slot st)))

/-- A text record is longer than 1 MiB, or a JSON one nests beyond 32 levels: the bramble lane decodes it (R153). -/
def textDiverts (json : Bool) (bs : Bytes) : Bool :=
  decide (0x100000 < bs.length) || (json && (match jsonText bs with
    | .ok v => decide (32 < v.depth)
    | .error _ => false))

/-- Units of one row each. -/
def rowUnits (rs : List (RowSrc × Bool)) : List RowUnit := rs.map (fun r => { rows := [r.1], lane := r.2 })

/-- The decode units of a BYTES object and its object error (R152 to R155). The footer is that of a Parquet object. -/
def parseObject (im : Image) (p footer bs : Bytes) : List RowUnit × Option Nat :=
  let maps := colMaps im p
  let ents := maps.map (·.path)
  let targets := maps.map (fun x => ({ path := x.path, ty := x.ty } : ColTarget))
  let schema := (parseSchema im p).getD .null
  match u8at p 0 with
  | 1 => parquetRows targets footer bs
  | 2 => arrowRows targets bs
  | 3 =>
    let rs := csvObject (byteOf (u8at p 4)) (byteOf (u8at p 5)) (bs.length + 1) bs
    (rowUnits ((rs.drop (u8at p 6)).map (fun r => (r.1.row (maps.map (·.csvField)), decide (0x100000 < r.2)))), none)
  | 4 => (rowUnits ((jsonObject ents (bs.length + 1) bs).map (fun r => (r.1, textDiverts true r.2))), none)
  | _ =>
    if u8at p 7 = 0 then (rowUnits (avroFile schema ents bs).1, (avroFile schema ents bs).2)
    else (rowUnits (avroConcat schema ents (bs.length + 1) bs), none)

/-- A RECORDS row; none for a blank line (R133, R153). -/
def parseRecord (im : Image) (p bs : Bytes) : Option (RowSrc × Bool) :=
  let maps := colMaps im p
  let ents := maps.map (·.path)
  match u8at p 0 with
  | 3 => (csvRow (byteOf (u8at p 4)) (byteOf (u8at p 5)) bs).map (fun r => (r.1.row (maps.map (·.csvField)), decide (0x100000 < r.2)))
  | 4 => if jsonBlank bs then none else some (jsonRow ents false bs, textDiverts true bs)
  | _ => some (avroRow ((parseSchema im p).getD .null) ents bs)

/-- Converts the sources in map order; the first failure's status (R150, R151). -/
def convertAll : List ColMap → List Src → Except Nat Row
  | [], _ => .ok []
  | x :: xs, ss =>
    match convert x.ty x.cflags x.unit (ss.headD .null) with
    | .error e => .error e
    | .ok v =>
      match convertAll xs (ss.drop 1) with
      | .error e => .error e
      | .ok r => .ok ({ col := x.out, ty := x.ty, val := v } :: r)

/-- A corrupt row (R151): null in nullable columns, zero in the others. -/
def corruptRow (maps : List ColMap) : Row := maps.map (fun x => { col := x.out, ty := x.ty, val := if bit x.cflags 0 then none else some x.ty.zero })

/-- STATUS_COLUMN filled in and the columns in ascending order. -/
def withStatus (st n : Nat) (r : Row) : Row :=
  sortBy Cell.col (if st = 0xFF then r else { col := st, ty := .u8, val := some (.bits n) } :: r)

/-- The output row of a record, and its status (R151). -/
def finishRow (maps : List ColMap) (st : Nat) (x : RowSrc) : Row × Nat :=
  let bad (n : Nat) : Row × Nat := (withStatus st n (corruptRow maps), n)
  match x with
  | .status n => bad n
  | .srcs ss =>
    match convertAll maps ss with
    | .error n => bad n
    | .ok r =>
      let r := withStatus st 0 r
      if rowsFit [r] then (r, 0) else bad 8

/-- Writes one row; without a STATUS_COLUMN a corrupt one is the fault 0x0B10 (R151). -/
def putParsed (slot st : Nat) (d : Dev) (x : RowSrc × Nat) : Dev :=
  if stopped d slot then d
  else
    let p := paramSt d slot st
    let (r, n) := finishRow (colMaps (getJob d slot).image p) (u8at p 2) x.1
    if n ≠ 0 ∧ u8at p 2 = 0xFF then stationFault d slot st 0x0B10 x.2 (parseSt d slot st).rows
    else addRow slot st 0 (modParse d slot st (fun y => { y with rows := y.rows + 1 })) r

/-- Rows of a reorder window that stand behind its oldest outstanding unit (R157). -/
def windowRows {α : Type} (w : List (Waiting α)) : Nat := (w.dropWhile (fun x => !x.away)).foldl (fun a x => a + x.rows.length) 0

/-- Units outstanding in the bramble lane, device-wide (R158): parse and image stations of every job. -/
def brambleAway (d : Dev) : Nat :=
  d.jobs.foldl (fun a j => j.rt.stations.foldl (fun a s =>
    match s.kind with
    | .parse x => a + (x.window.filter (·.away)).length
    | .image x => a + (x.window.filter (·.away)).length
    | _ => a) a) 0

/-- Writes the rows of the window's entries that no outstanding unit is ahead of. -/
def drainParse (slot st : Nat) : Nat → Dev → Dev
  | 0, d => d
  | n + 1, d =>
    match (parseSt d slot st).window with
    | [] => d
    | e :: r =>
      if e.away then d
      else drainParse slot st n (e.rows.foldl (putParsed slot st) (modParse d slot st (fun y => { y with window := r })))

/-- A decoded row goes out, or into the window behind an outstanding unit. -/
def emitParsed (slot st : Nat) (d : Dev) (x : RowSrc × Nat) : Dev :=
  if (parseSt d slot st).window.isEmpty then putParsed slot st d x
  else modParse d slot st (fun y => { y with window := y.window ++ [{ away := false, rows := [x] }] })

/-- A unit goes to the bramble lane: the window holds its rows, and the steward counts the diversion (R155, R157, R158). -/
def divertUnit (slot st : Nat) (d : Dev) (rows : List (RowSrc × Nat)) : Dev :=
  modParse (countSt d slot st 0 1) slot st (fun y => { y with window := y.window ++ [{ away := true, rows := rows }] })

/-- The object error of a finished object (R152). -/
def objectError (d : Dev) (slot st code obj : Nat) : Dev :=
  if u8at (paramSt d slot st) 3 = 0 then stationFault d slot st code obj 0 else stationNotice d slot st 0x0B13 obj 0

/-- Takes the next object or record into the station where none is in progress. -/
def openParse (d : Dev) (slot st : Nat) : Dev :=
  let x := parseSt d slot st
  let im := (getJob d slot).image
  let p := paramSt d slot st
  match (getIn d slot st 0).objs with
  | [] => d
  | b :: _ =>
    let d := modIn d slot st 0 InPort.popObj
    let records := ((portQueues im st 0).head?.map (·.format)).getD 0 = TFmt.records.code
    if records then
      match parseRecord im p b with
      | some r => modParse d slot st (fun y => { y with recs := y.recs + 1, todo := rowUnits [r], obj := 0xFFFFFFFF })
      | none => modParse d slot st (fun y => { y with recs := y.recs + 1, blanks := y.blanks ++ [x.recs] })
    else if u8at p 0 = 1 ∧ x.footer.isNone ∧ !b.isEmpty then modParse d slot st (fun y => { y with footer := some b })
    else
      let (rs, e) := parseObject im p (x.footer.getD []) b
      modParse d slot st (fun y => { y with footer := none, todo := rs, objErr := e, obj := x.nextObj, nextObj := x.nextObj + 1 })

/-- A finished object's error is raised once its rows are out. -/
def closeParse (d : Dev) (slot st : Nat) : Dev :=
  let x := parseSt d slot st
  match x.todo, x.objErr with
  | [], some c => objectError (modParse d slot st (fun y => { y with objErr := none })) slot st c x.obj
  | _, _ => d

/-- The unit in hand: its next row is decoded in the engine, or all of it is diverted, which a unit with a row out already no longer can be (R155). -/
def parseUnit (slot st : Nat) (away : Bool) (d : Dev) (u : RowUnit) (us : List RowUnit) : DevOut :=
  let obj := (parseSt d slot st).obj
  let done (d : Dev) : DevOut := .next (if stopped d slot then d else closeParse d slot st)
  if away || u.lane then
    if u.begun then noEvent
    else if 4096 ≤ brambleAway d then .next d
    else done (divertUnit slot st (modParse d slot st (fun y => { y with todo := us })) (u.rows.map (fun r => (r, obj))))
  else
    let rest := if u.rows.length ≤ 1 then us else { u with rows := u.rows.drop 1, begun := true } :: us
    let d := modParse d slot st (fun y => { y with todo := rest })
    match u.rows with
    | [] => done d
    | r :: _ => done (emitParsed slot st d (r, obj))

/-- One step of a parse station: the next object or record is taken where none is in hand, then its next unit. -/
def parseStep (slot st : Nat) (away : Bool) (d : Dev) : DevOut :=
  let x := parseSt d slot st
  if (getSt d slot st).ended then noEvent
  else if outBlocked d slot st || decide (65536 ≤ windowRows x.window) then .next d
  else
    let fresh := x.todo.isEmpty && x.objErr.isNone
    if fresh && (getIn d slot st 0).objs.isEmpty then
      (if !away && inputsDone d slot st && x.window.isEmpty && x.footer.isNone then .next (endStation d slot st) else noEvent)
    else
      let d := if fresh then openParse d slot st else d
      match (parseSt d slot st).todo with
      | [] => .next (closeParse d slot st)
      | u :: us => parseUnit slot st away d u us

/-- PARSE_RECORD (R150 to R153). -/
def execParseRecord (slot station : Nat) (s : State) : Host.Outcome State Fault Refusal :=
  onStation slot station (· = .parse) s (fun _ d => parseStep slot station false d)

/-- A diverted unit returns: its rows go out with everything no other outstanding unit is ahead of (R156, R157). -/
def parseReturn (slot st unit : Nat) (d : Dev) : DevOut :=
  let x := parseSt d slot st
  if outBlocked d slot st then .next d
  else match ((x.window.zipIdx.filter (fun e => e.1.away))[unit]?) with
  | none => noEvent
  | some (_, i) =>
    let d := modParse d slot st (fun y => { y with window := modifyAt y.window i (fun e => { e with away := false }) })
    .next (drainParse slot st (x.window.length + 1) d)

/-- The rules of R166. -/
def emitOk (im : Image) (s : StationD) : Bool :=
  let p := im.paramBlock s
  allZero p 4 4 && decide (u8at p 1 ≤ 1) &&
  ((u8at p 0 = 1 && im.regions.any (fun r => r.id == u16at p 2) && (u8at p 1 ≠ 0 || u64at p 8 % 64 = 0)) ||
   (u8at p 0 = 2 && im.channels.any (fun c => c.emitStation == s.index)))

/-- The emit station's own state. -/
def emitSt (d : Dev) (slot st : Nat) : EmitSt :=
  match (getSt d slot st).kind with
  | .emit x => x
  | _ => {}

end Sys2Proof.Machine
end

