-- ==== Sys2Proof/Machine/ColTypes.lean ====
section
/-!
DEFINITION. Element types of columns as far as a job image fixes them: what JOB_LOAD can know of a queue (02 R455, 07 R191, R207).
-/

namespace Sys2Proof.Machine

open Sys2Proof

/-- The opcode and fields of program word `i` of a program area (08 R221). -/
def progField (b : Bytes) (i byte : Nat) : Nat := u8at b (8 * i + byte)

/-- The type of the slot that a kernel stages as a column of an output port, from its first such STCOL (08 R219, R224 condition 6). -/
def kernelColTy (im : Image) (s : StationD) (port c : Nat) : Option Ty :=
  let b := (im.program.drop s.programOffset).take (8 * s.programWords)
  let types := u32at (im.paramBlock s) 0x18
  match (List.range s.programWords).find? (fun i => progField b i 7 == 0x02 && field (progField b i 1) 2 0 == port && field (progField b i 0) 5 0 == c) with
  | some i => Ty.ofCode (u8at im.params (types + progField b i 4))
  | none => none

/-- The type a parse station gives a column. -/
def parseColTy (im : Image) (p : Bytes) (c : Nat) : Option Ty :=
  if u8at p 2 = c then some .u8 else ((colMaps im p).find? (fun x => x.out == c)).map (·.ty)

/-- The type of a column of the queue at an output port; none where the image does not fix it. -/
def colTyOut (im : Image) : Nat → Nat → Nat → Nat → Option Ty
  | 0, _, _, _ => none
  | n + 1, st, port, c =>
    let s := im.stations.getD st {}
    let p := im.paramBlock s
    let inp (port c : Nat) : Option Ty :=
      match (portQueues im st port).head? with
      | some q => colTyOut im n q.producer q.producerPort c
      | none => none
    match s.stype with
    | .parse => parseColTy im p c
    | .align => if u8at p 1 = c then some .u8 else if u8at p 2 = c then some .u64 else inp 0 c
    | .matchSt =>
      if u8at p 0 = 2 ∧ u8at p 0x0E = c then some .dict
      else match (List.range (u8at p 0x0F)).find? (fun i => u8at p (32 + 4 * i) == c) with
      | some i => Ty.ofCode (u8at p (33 + 4 * i))
      | none => inp 0 c
    | .hashjoin =>
      (match (List.range (u8at p 2)).find? (fun i => u8at p (17 + 4 * i) == c) with
       | some i => inp 0 (u8at p (16 + 4 * i))
       | none => inp 1 c)
    | .kernel => kernelColTy im s port c
    | .shuffle => inp 0 c
    | .shale => inp 0 c
    | _ => none

/-- The type of a column at an input port, as far as the image fixes it. -/
def colTyIn (im : Image) (st port c : Nat) : Option Ty :=
  match (portQueues im st port).head? with
  | some q => colTyOut im (im.stations.length + 1) q.producer q.producerPort c
  | none => none

/-- The type rules of R159, as far as the image fixes types: equal in every input queue; TIME_COLUMN is TIME_US; input columns that FEED_COLUMN and FSEQ_COLUMN
name are U8 and U64. -/
def alignTypesOk (im : Image) (s : StationD) : Bool :=
  let p := im.paramBlock s
  let known (c : Nat) : List Ty := (List.range s.inPorts).filterMap (fun i => colTyIn im s.index i c)
  let are (c : Nat) (t : Ty) : Bool := (known c).all (· == t)
  (List.range 64).all (fun c => !bit (inCols im s.index 0) c || (known c).all (fun t => are c t)) && are (u8at p 0) .time && are (u8at p 1) .u8 && are (u8at p 2) .u64

end Sys2Proof.Machine
end

