-- ==== Sys2Proof/Machine/Match.lean ====
section
/-!
DEFINITION. Match stations: tables, searches and their verification, paired writes (07 R188 to R206, R211).
-/

namespace Sys2Proof.Machine

open Sys2Proof

/-- The match parameter block (R191). -/
structure MatchP where
  op : Nat
  w : Nat
  table : Nat
  keys : List Nat
  select : Nat
  miss : Nat
  resultBytes : Nat
  region : Nat
  out : Nat
  /-- Result columns: column, type, offset. -/
  cols : List (Nat × Ty × Nat)
  capacity : Nat
  writer : Nat
  hashMask : Nat
  deriving DecidableEq, Repr

/-- Reads the block. -/
def matchP (p : Bytes) : MatchP :=
  { op := u8at p 0, w := u8at p 1, table := u16at p 2, keys := ((List.range 4).map (fun i => u8at p (4 + i))).filter (· != 0xFF), select := u8at p 8,
    miss := u8at p 9, resultBytes := u16at p 0x0A, region := u16at p 0x0C, out := u8at p 0x0E,
    cols := (List.range (u8at p 0x0F)).map (fun i => (u8at p (32 + 4 * i), (Ty.ofCode (u8at p (33 + 4 * i))).getD .u8, u16at p (34 + 4 * i))),
    capacity := u32at p 0x10, writer := u16at p 0x14, hashMask := u64at p 0x18 }

/-- Bytes a type adds to a key (R192). -/
def Ty.keyBytes (t : Ty) : Nat := if t = .str then 32 else t.bytes

/-- The rules on one result column (R191). -/
def resultColOk (q : MatchP) (p : Bytes) (inp i : Nat) : Bool :=
  let c := u8at p (32 + 4 * i)
  match Ty.ofCode (u8at p (33 + 4 * i)) with
  | none => false
  | some t => t.isFixed && decide (c < 64) && !bit inp c && decide (u16at p (34 + 4 * i) % t.bytes = 0) && decide (u16at p (34 + 4 * i) + t.bytes ≤ q.resultBytes)

/-- WRITER is none, or a kernel station that takes the match station's input queue on its own input port 0 (R191). -/
def writerOk (im : Image) (s : StationD) (q : MatchP) : Bool :=
  q.writer = 0xFFFF || (s.dist = 0 && ((im.stations[q.writer]?).map (fun k => decide (k.stype = .kernel))).getD false &&
    (portQueues im s.index 0).any (fun x => x.ends.contains (q.writer, 0)))

/-- The rules of R191 that an image shows. -/
def matchOk (im : Image) (s : StationD) : Bool :=
  let p := im.paramBlock s
  let q := matchP p
  let inp := inCols im s.index 0
  let keyLen := q.keys.foldl (fun a c => a + ((colTyIn im s.index 0 c).map Ty.keyBytes).getD 1) 0
  let fmt := ((outQueues im s.index 0).head?.map (·.format)).getD 0
  let outs := queueCols im s.index 0
  decide (1 ≤ q.op) && decide (q.op ≤ 4) && [1, 2, 4].contains q.w && decide (q.table ≤ 1023) && !q.keys.isEmpty &&
  q.keys.all (fun c => decide (c < 64) && bit inp c) && decide (keyLen ≤ 8 * q.w) && decide (q.select ≤ 1) && ((q.select = 1) == (q.hashMask != 0)) &&
  (if 3 ≤ q.op then decide (q.miss ≤ 1) else q.miss = 0) && [0, 8, 16, 32, 64].contains q.resultBytes &&
  im.regions.any (fun r => r.id == q.region && r.kind == 3) && (if q.op = 2 then decide (q.out < 64) else q.out = 0xFF) &&
  (if q.op = 4 then decide (1 ≤ u8at p 0x0F) && decide (u8at p 0x0F ≤ 8) else u8at p 0x0F = 0) && (List.range (u8at p 0x0F)).all (resultColOk q p inp) &&
  nodup (q.cols.map (·.1)) && decide (1 ≤ q.capacity) && decide (q.capacity ≤ 0xFFFFFFFE) && writerOk im s q && u16at p 0x16 = 0 &&
  !(im.stations.any (fun t => t.index != s.index && decide (t.stype = .matchSt) && u16at (im.paramBlock t) 2 = q.table)) &&
  (if q.op = 1 then fmt = TFmt.matchResults.code else fmt = TFmt.columns.code &&
    outs = (if q.op = 2 then inp ||| pow2 q.out else q.cols.foldl (fun a c => a ||| pow2 c.1) inp))

/-- The match station's own state. -/
def matchSt (d : Dev) (slot st : Nat) : MatchSt :=
  match (getSt d slot st).kind with
  | .matchSt x => x
  | _ => {}

/-- Changes it. -/
def modMatch (d : Dev) (slot st : Nat) (f : MatchSt → MatchSt) : Dev := setKind d slot st (.matchSt (f (matchSt d slot st)))

/-- The bytes a key column contributes (R192). -/
def keyColBytes (t : Ty) (v : Val) : Bytes :=
  if t = .str then
    (if v.s.length ≤ 31 then padTo 32 (le 1 v.s.length ++ v.s) else padTo 32 (le 1 0xFF ++ le 8 (xxhash64 v.s 0)))
  else if t = .bool then le 1 (v.n % 2)
  else le t.bytes v.n

/-- The bytes of a row's search key; none where a key column is null (R192). -/
def rowKey (r : Row) : List Nat → Option Bytes
  | [] => some []
  | c :: cs =>
    match r.get c, rowKey r cs with
    | some v, some k => some (keyColBytes ((r.ty c).getD .u8) v ++ k)
    | _, _ => none

/-- The `n` u64 units at an offset of some bytes. -/
def unitsAt (b : Bytes) (off n : Nat) : List Nat := (List.range n).map (fun i => u64at b (off + 8 * i))

/-- An entry of a table; an ordinal not listed holds an invalid entry of zeros. -/
def MatchSt.entry (x : MatchSt) (w ord : Nat) : MEntry :=
  (x.entries.find? (fun e => e.ord == ord)).getD { ord := ord, key := List.replicate w 0, mask := List.replicate w 0 }

/-- R189: the entry matches the search key. -/
def MEntry.hits (e : MEntry) (s : List Nat) : Bool := e.valid && (s.zip (e.key.zip e.mask)).all (fun u => ((u.1 ^^^ u.2.1) &&& u.2.2) == 0)

/-- The bits of a cell group of a replica that are flipped now. -/
def MatchSt.flipOf (x : MatchSt) (copy ord unit part : Nat) : Nat :=
  (x.cells.filter (fun c => c.copy == copy && c.ord == ord && c.unit == unit && c.part == part)).foldl (fun a c => a ^^^ c.flip) 0

/-- The two match lines of one unit (R197): the first from key and mask as stored, the other from their complements. -/
def MatchSt.lines (x : MatchSt) (copy : Nat) (e : MEntry) (s : List Nat) (u : Nat) : Bool × Bool :=
  let ones := pow2 64 - 1
  let k := e.key.getD u 0
  let m := e.mask.getD u 0
  let k1 := k ^^^ x.flipOf copy e.ord u 0
  let m1 := m ^^^ x.flipOf copy e.ord u 1
  let k2 := (ones - k) ^^^ x.flipOf copy e.ord u 2
  let m2 := (ones - m) ^^^ x.flipOf copy e.ord u 3
  let key := s.getD u 0
  (((key ^^^ k1) &&& m1) == 0, (((ones - key) ^^^ k2) &&& (ones - m2)) == 0)

/-- The valid bit of an entry as the bank holds it. -/
def MatchSt.validNow (x : MatchSt) (copy : Nat) (e : MEntry) : Bool := e.valid != ((x.flipOf copy e.ord 0 4) % 2 == 1)

/-- The first match line of every unit of an entry whose valid bit in the bank is 1 is high. -/
def MatchSt.lineHit (x : MatchSt) (copy w : Nat) (e : MEntry) (s : List Nat) : Bool := x.validNow copy e && (List.range w).all (fun u => (x.lines copy e s u).1)

/-- The two lines of some unit disagree. -/
def MatchSt.disagrees (x : MatchSt) (copy w : Nat) (e : MEntry) (s : List Nat) : Bool := (List.range w).any (fun u => (x.lines copy e s u).1 != (x.lines copy e s u).2)

/-- The group of bank sets, of `n`, that the bits of a key's unit 0 choose (R194; log entry 30). -/
def MatchP.group (q : MatchP) (unit0 n : Nat) : Nat := if q.select = 0 ∨ n ≤ 1 then 0 else Config.matchGroup (unit0 &&& q.hashMask) n % n

/-- Rank of an ordinal among those that the CAM holds: its own number where the CAM takes them in order. -/
def MatchSt.rank (x : MatchSt) (ord : Nat) : Option Nat :=
  match x.cam with
  | none => some ord
  | some l => l.findIdx? (· == ord)

/-- The bank set, match die index, bank and entry address at which an entry lies in a replica (R188, R194): ordinals ascend with bank number, then entry
address, over the banks of the table, or with SELECT 1 over those of the entry's group; none for an entry that lies outside the CAM. -/
def MatchSt.place (x : MatchSt) (q : MatchP) (sets : List BankSet) (ord : Nat) : Option (Nat × Nat × Nat × Nat) :=
  let per := 16384 / q.w
  let unit0 (o : Nat) : Nat := (x.entry q.w o).key.getD 0 0
  let g := q.group (unit0 ord) sets.length
  let slots := ((sets.zipIdx.filter (fun b => q.select == 0 || b.2 == g)).map (fun b => b.1.banks.map (fun k => (b.2, b.1.die, k)))).flatten
  match x.rank ord with
  | none => none
  | some r =>
    let r := if q.select = 0 then r else (x.entries.filter (fun e => decide (e.ord < ord) && (x.rank e.ord).isSome && q.group (unit0 e.ord) sets.length == g)).length
    slots[r / per]?.map (fun b => (b.1, b.2.1, b.2.2, r % per))

/-- The replica that serves the next search: they take turns (log entry 30). -/
def MatchSt.copyNo (x : MatchSt) : Nat := x.searches % max 1 x.copies.length

/-- Its bank sets. -/
def MatchSt.sets (x : MatchSt) : List BankSet := x.copies.getD x.copyNo []

/-- What one search found (R194, R197): ordinals that match, on the CAM's lines or outside the CAM; the first match of each bank set; those of them that the
shadow does not confirm; entries whose lines disagree. -/
structure Found where
  hits : List Nat
  firsts : List Nat
  falseHits : List Nat
  apart : List Nat
  deriving DecidableEq, Repr

/-- Puts an entry into a list in ascending ordinal. -/
def putEntry (e : MEntry) (es : List MEntry) : List MEntry := insertBy MEntry.ord e (es.filter (fun x => x.ord != e.ord))

/-- The entries that a search of a replica can find: those written, and those whose valid bit a soft error has set. -/
def MatchSt.camEntries (x : MatchSt) (q : MatchP) (copy : Nat) : List MEntry :=
  ((x.cells.filter (fun c => c.copy == copy && c.part == 4 && decide (c.ord < q.capacity))).map (fun c => x.entry q.w c.ord)).foldl (fun es e => putEntry e es) x.entries

/-- A search of a table: every bank set that the key selects returns its first match and its count, the verify stage checks them, and what lies outside the
CAM is combined by ordinal (R190, R194, R197). -/
def MatchSt.search (x : MatchSt) (q : MatchP) (s : List Nat) : Found :=
  let sets := x.sets
  let g := q.group (s.getD 0 0) sets.length
  let setOf (o : Nat) : Option Nat := ((x.place q sets o).map (·.1)).filter (fun k => q.select == 0 || k == g)
  let camHit (e : MEntry) : Bool := (setOf e.ord).isSome && x.lineHit x.copyNo q.w e s
  let hits := (x.camEntries q x.copyNo).filter (fun e => if (x.place q sets e.ord).isSome then camHit e else e.hits s)
  let cam := hits.filter (fun e => (setOf e.ord).isSome)
  let firsts := ((cam.map (fun e => setOf e.ord)).eraseDups).filterMap (fun k => cam.find? (fun e => setOf e.ord == k))
  let flipped := (((x.cells.filter (fun c => c.copy == x.copyNo)).map (·.ord)).eraseDups).filter (fun o => (setOf o).isSome)
  { hits := hits.map (·.ord), firsts := firsts.map (·.ord), falseHits := (firsts.filter (fun e => !e.hits s)).map (·.ord),
    apart := flipped.filter (fun o => x.disagrees x.copyNo q.w (x.entry q.w o) s) }

/-- Clean by R197. -/
def Found.clean (f : Found) : Bool := f.falseHits.isEmpty && f.apart.isEmpty

/-- Where an entry lies: match die index, bank, entry address, in the replica that serves the next search, else in the first (R188, R194). -/
def placeOf (d : Dev) (slot st : Nat) (ord : Nat) : Nat × Nat × Nat :=
  let x := matchSt d slot st
  ((x.place (matchP (paramSt d slot st)) x.sets ord).map (fun p => p.2)).getD (0, 0, 0)

/-- A match fault about an entry: DETAIL [15:8] bank, [7:0] die; DETAIL2 entry address (R211). -/
def cellFault (d : Dev) (slot st code ord : Nat) : FaultInfo :=
  let (die, b, a) := placeOf d slot st ord
  stFault d slot st code (256 * b + die) a

/-- Soft errors arrive: cells flip, shadow words take errors. -/
def MatchSt.upset (x : MatchSt) (cells : List CellHit) (shadow : List ShadowHit) : MatchSt := { x with cells := x.cells ++ cells, shadow := x.shadow ++ shadow }

/-- The shadow words of an entry hold a double-bit error: one that came so, or two single ones (R199). -/
def MatchSt.shadowBad (x : MatchSt) (ord : Nat) : Bool :=
  let ws := x.shadow.filter (fun h => h.ord == ord)
  ws.any (fun h => h.double || decide (2 ≤ (ws.filter (fun g => g.word == h.word)).length))

/-- A read of an entry's shadow corrects its single-bit errors (R199). -/
def MatchSt.readShadow (x : MatchSt) (ord : Nat) : MatchSt :=
  { x with shadow := x.shadow.filter (fun h => h.ord != ord), corrected := x.corrected + (x.shadow.filter (fun h => h.ord == ord)).length }

/-- Rewrites the CAM cells of an entry from the shadow. -/
def MatchSt.rewrite (x : MatchSt) (ord : Nat) : MatchSt := { x with cells := x.cells.filter (fun c => c.ord != ord) }

/-- The row's answer goes out (R195, R196): ordinal and hits, none for a miss; null-key flag. -/
def matchDeliver (slot st : Nat) (q : MatchP) (d : Dev) (r : Row) (hit : Option (Nat × Nat)) (nullKey : Bool) : Dev :=
  let x := matchSt d slot st
  match q.op with
  | 1 => addResult d slot st 0 (le 4 ((hit.map (·.1)).getD 0xFFFFFFFF) ++ le 2 (min ((hit.map (·.2)).getD 0) 65535) ++ le 1 (b2n nullKey) ++ zeros 1)
  | 2 => addRow slot st 0 d (r.put { col := q.out, ty := .dict, val := hit.map (fun h => .bits h.1) })
  | 3 => if hit.isSome = (q.miss = 0) then addRow slot st 0 d r else d
  | _ =>
    match hit with
    | none => if q.miss = 0 then d else addRow slot st 0 d (q.cols.foldl (fun r c => Row.put r { col := c.1, ty := c.2.1, val := none }) r)
    | some h =>
      let rec' := (x.entry q.w h.1).result
      addRow slot st 0 d (q.cols.foldl (fun r c => Row.put r { col := c.1, ty := c.2.1, val := some (.bits (uat rec' c.2.2 c.2.1.bytes % pow2 c.2.1.width)) }) r)

/-- The writer has finished a tile of the shared queue: it took it and nothing of it is left (R204). -/
def writerDone (d : Dev) (slot st seq : Nat) (q : MatchP) : Bool :=
  let j := getJob d slot
  match inQueueNo j st 0, inQueueNo j q.writer 0 with
  | some _, some (n, k) => decide (seq < (getQ d slot n).taken.getD k 0) && ((getIn d slot q.writer 0).ktiles.all (fun t => decide (seq < t.seq)))
  | _, _ => true

/-- The searches of a tile may be issued: every pair of the tiles before it has committed (R204). -/
def pairsThrough (d : Dev) (slot st seq : Nat) (q : MatchP) : Bool :=
  q.writer = 0xFFFF || ((matchSt d slot st).held.all (fun h => decide (seq ≤ h.1)) && (seq = 0 || writerDone d slot st (seq - 1) q))

/-- Counts a search for the frequency sample: 1 in every 256 (R206). -/
def MatchSt.count (x : MatchSt) (hit : Option Nat) : MatchSt :=
  let x := { x with searches := x.searches + 1 }
  match hit with
  | some o => if x.searches % 256 = 0 then { x with freq := assocSet x.freq o ((assocGet x.freq o).getD 0 + 1) } else x
  | none => x

/-- The CAM cells of an entry are rewritten from its shadow, whose single-bit errors the read corrects (R197, R199). -/
def MatchSt.restore (x : MatchSt) (ord : Nat) : MatchSt := (x.readShadow ord).rewrite ord

/-- The bank of an entry is used no more until the self-test has passed (R198). -/
def retireBank (d : Dev) (slot st ord : Nat) : Dev :=
  let (die, b, _) := placeOf d slot st ord
  { d with root := { d.root with badBanks := d.root.badBanks ++ [(76 + die, b)] } }

/-- Issues the search of the row in hand, or its repeat (R190 to R198). `redone` are the entries rewritten for it before. -/
def searchRow (slot st : Nat) (q : MatchP) (redone : List Nat) (d : Dev) (r : Row) (key : Bytes) : Dev :=
  let key := padTo (8 * q.w) (if key.length ≤ 8 * q.w then key else Config.wideKey key q.w)
  let s := unitsAt key 0 q.w
  let x := matchSt d slot st
  let f := x.search q s
  let bad := (f.falseHits ++ f.apart).eraseDups
  match (f.firsts ++ bad).find? x.shadowBad with
  | some o => jobFault d (cellFault d slot st 0x0302 o)
  | none =>
    let first := f.hits.head?
    if f.clean then
      let d := modMatch d slot st (fun x => { (f.firsts.foldl MatchSt.readShadow x).count first with redo := none })
      let d := modIn d slot st 0 InPort.nextRow
      matchDeliver slot st q d r (first.map (fun o => (o, f.hits.length))) false
    else
      let d := countSt (countSt d slot st 0 f.falseHits.length) slot st 1 f.apart.length
      match bad.find? (fun o => redone.contains o) with
      | some o => jobFaultReset (retireBank d slot st o) (cellFault d slot st 0x0301 o)
      | none => modMatch d slot st (fun x => { bad.foldl MatchSt.restore (f.firsts.foldl MatchSt.readShadow x) with redo := some (redone ++ bad) })

/-- MATCH_SEARCH (R190 to R197): the next row's search. -/
def matchSearch (slot st : Nat) (cells : List CellHit) (shadow : List ShadowHit) (d : Dev) : DevOut :=
  let q := matchP (paramSt d slot st)
  let d := modMatch d slot st (fun x => x.upset cells shadow)
  let i := getIn d slot st 0
  if (getSt d slot st).ended || (matchSt d slot st).redo.isSome then noEvent
  else if outBlocked d slot st then .next d
  else match i.row?, i.inbox with
  | some (r, _), t :: _ =>
    if !pairsThrough d slot st t.seq q then .next d
    else match rowKey r q.keys with
    | none => .next (matchDeliver slot st q (modIn d slot st 0 InPort.nextRow) r none true)
    | some k => .next (searchRow slot st q [] (countSt d slot st (1 + (matchSt d slot st).step) 1) r k)
  | _, _ => if inputsDone d slot st then .next (endStation d slot st) else noEvent

/-- MATCH_SEARCH. -/
def execMatchSearch (slot station : Nat) (cells : List CellHit) (shadow : List ShadowHit) (s : State) : Host.Outcome State Fault Refusal :=
  onStation slot station (· = .matchSt) s (fun _ d => matchSearch slot station cells shadow d)

/-- SEARCH_REPEAT (R197, R198): the search that was not clean is issued again. -/
def searchRepeat (slot st : Nat) (cells : List CellHit) (shadow : List ShadowHit) (d : Dev) : DevOut :=
  let q := matchP (paramSt d slot st)
  match (matchSt d slot st).redo, (getIn d slot st 0).row? with
  | some redone, some (r, _) =>
    .next (searchRow slot st q redone (modMatch d slot st (fun x => x.upset cells shadow)) r ((rowKey r q.keys).getD []))
  | _, _ => noEvent

/-- SEARCH_REPEAT. -/
def execSearchRepeat (slot station : Nat) (cells : List CellHit) (shadow : List ShadowHit) (s : State) : Host.Outcome State Fault Refusal :=
  onStation slot station (· = .matchSt) s (fun _ d => searchRepeat slot station cells shadow d)

/-- SCRUB (R199): an entry that a built table holds in its banks is compared with its shadow; differences are rewritten and counted. -/
def scrubEntry (slot st ord : Nat) (cells : List CellHit) (shadow : List ShadowHit) (d : Dev) : DevOut :=
  let q := matchP (paramSt d slot st)
  let x := (matchSt d slot st).upset cells shadow
  if !x.built then noEvent
  else if q.capacity ≤ ord then .fault .noSuchUnit
  else if (x.copies.all (fun c => (x.place q c ord).isNone)) then noEvent
  else if x.shadowBad ord then .next (jobFault d (cellFault d slot st 0x0302 ord))
  else
    let differs := (List.range (max 1 x.copies.length)).any (fun c => (List.range q.w).any (fun u => (List.range 5).any (fun p => x.flipOf c ord u p != 0)))
    let x := x.restore ord
    .next (modMatch d slot st (fun _ => { x with scrubbed := x.scrubbed + b2n differs }))

/-- SCRUB. -/
def execScrub (slot station ord : Nat) (cells : List CellHit) (shadow : List ShadowHit) (s : State) : Host.Outcome State Fault Refusal :=
  onStation slot station (· = .matchSt) s (fun _ d => scrubEntry slot station ord cells shadow d)

/-- Applies one half, to shadow and CAM alike (R200, R201). -/
def MatchSt.half (x : MatchSt) (w : Nat) (h : Half) : MatchSt :=
  if h.kind = 0 then x
  else
    let e := x.entry w h.ordinal
    let e := match h.kind with
      | 1 => { e with valid := true, key := unitsAt h.bs 0 w, mask := unitsAt h.bs (8 * w) w }
      | 2 => { e with valid := false }
      | _ => { e with result := h.bs }
    let x := if h.kind = 1 then { x.rewrite h.ordinal with shadow := x.shadow.filter (fun s => s.ord != h.ordinal) }
      else if h.kind = 2 then { x with cells := x.cells.filter (fun c => !(c.ord == h.ordinal && c.part == 4)) }
      else x
    { x with entries := putEntry e x.entries, changed := x.changed.filter (fun c => !(c.kind == h.kind && c.ordinal == h.ordinal)) ++ [h] }

/-- Applies a pair at its commit (R201). -/
def MatchSt.pair (x : MatchSt) (w : Nat) (p : MPair) : MatchSt := (x.half w p.first).half w p.second

/-- Ordinals for a CAM of `room` entries, the hottest first, then in ascending order; all entries of one key go together (R206). -/
def MatchSt.hottest (x : MatchSt) (room : Nat) : List Nat :=
  let order := (x.hot.filter (fun o => x.entries.any (fun e => e.ord == o)) ++ x.entries.map (·.ord)).eraseDups
  sortBy id (order.foldl (fun got o =>
    if got.contains o then got
    else
      let key := (x.entries.find? (fun e => e.ord == o)).map (fun e => (e.key, e.mask))
      let more := (x.entries.filter (fun e => some (e.key, e.mask) == key)).map (·.ord)
      if got.length + more.length ≤ room then got ++ more else got) [])

/-- The CAM's choice of entries anew, where it holds only some (R206). -/
def MatchSt.rechoose (x : MatchSt) (q : MatchP) : MatchSt :=
  match x.cam with
  | none => x
  | some _ => { x with cam := some (x.hottest ((x.copies.getD 0 []).foldl (fun a b => a + b.banks.length) 0 * (16384 / q.w))) }

/-- PAIR_COMMIT (R201, R204): the oldest held pair, once the writer has finished its tile and every search of that tile is complete. -/
def pairCommit (slot st : Nat) (d : Dev) : DevOut :=
  let q := matchP (paramSt d slot st)
  let x := matchSt d slot st
  let i := getIn d slot st 0
  match x.held with
  | [] => noEvent
  | (seq, p) :: r =>
    let searched := match inQueueNo (getJob d slot) st 0 with
      | some (n, k) => decide (seq < (getQ d slot n).taken.getD k 0) && i.inbox.all (fun t => decide (seq < t.seq))
      | none => true
    if searched && writerDone d slot st seq q then .next (modMatch d slot st (fun x => ({ x with held := r }.pair q.w p).rechoose q)) else .next d

/-- PAIR_COMMIT. -/
def execPairCommit (slot station : Nat) (s : State) : Host.Outcome State Fault Refusal :=
  onStation slot station (· = .matchSt) s (fun _ d => pairCommit slot station d)

/-- Bytes of a record of a table region (R193). -/
def MatchP.recBytes (q : MatchP) : Nat := 16 * q.w + q.resultBytes

/-- The HASH_MASK rule of R193 on a mask unit 0. -/
def MatchP.maskOk (q : MatchP) (m : Nat) : Bool := q.select = 0 || (m &&& q.hashMask) == q.hashMask

/-- Record `i` of the records of a table as an entry. -/
def MatchP.record (q : MatchP) (b : Bytes) (i : Nat) : MEntry :=
  let o := q.recBytes * i
  { ord := i, valid := true, key := unitsAt b o q.w, mask := unitsAt b (o + 8 * q.w) q.w, result := slice b (o + 16 * q.w) q.resultBytes }

/-- The header of R193 agrees with the parameter block. -/
def MatchP.headerOk (q : MatchP) (h : Bytes) : Bool :=
  u32at h 0 = 0x544D5948 && u8at h 4 = q.w && u8at h 5 = 0 && u16at h 6 = q.resultBytes && decide (u32at h 8 ≤ q.capacity) && allZero h 0x0C 52

/-- Banks that hold a whole match table (07 R205 step 1). -/
def tableBanks (p : Bytes) : Nat := max 1 (ceilDiv ((matchP p).capacity * (matchP p).w) 16384)

/-- The banks a job's match station is placed on. -/
def bankPlaces (j : Job) (st : Nat) : List Res := (j.placed.filter (fun p => p.station == st && p.res.kind == 2)).map (·.res)
/-- Their number. -/
def banksOf (j : Job) (st : Nat) : Nat := (bankPlaces j st).length

/-- Bytes of HBM that no job holds. -/
def hbmFree (d : Dev) : Nat := 24 * (stackBytes - stackReserve) - (hbmHeld d).foldl (fun a u => a + u.2) 0

/-- Every valid entry has an all-ones mask: an exact table (R189; log entry 30). -/
def MatchSt.exact (x : MatchSt) : Bool := x.entries.all (fun e => !e.valid || e.mask.all (· == pow2 64 - 1))

/-- The bank sets of some banks, which ascend: at most 16 banks of one die each (R190). -/
def bankSets (rs : List Res) : List BankSet :=
  ((rs.map (·.die)).eraseDups).flatMap (fun e =>
    let bs := (rs.filter (fun r => r.die == e)).map (·.index)
    (List.range (ceilDiv bs.length 16)).map (fun i => { die := e - 76, banks := (bs.drop (16 * i)).take 16 }))

/-- Banks for replicas of a whole table, which share no die: each takes the lowest banks left, or with `oneDie` those of the lowest die that has enough
(R205, R206). -/
def copiesOf (need : Nat) (oneDie : Bool) : Nat → List Res → List (List Res)
  | 0, _ => []
  | n + 1, rs =>
    let pick : Option (List Res) :=
      if oneDie then (((List.range 8).map (fun e => rs.filter (fun r => r.die == 76 + e))).find? (fun g => decide (need ≤ g.length))).map (·.take need)
      else if need ≤ rs.length then some (rs.take need) else none
    match pick with
    | none => []
    | some g => g :: copiesOf need oneDie n (rs.filter (fun r => !(g.any (fun x => x.die == r.die))))

/-- The bytes of the tier that a remainder takes: blocks at 4:3 with restart 1 and 1,216 bytes of pool each (06 R184). -/
def tierCharge (n : Nat) : Nat := ceilDiv n 4096 * (3072 + 1216)

/-- A table on the banks it has (R205, R206; log entry 30): whole replicas where the banks hold it, a ternary table in one bank set where one die can;
else the part that fits, and the remainder in HBM, or in the tier where HBM has no room and the tier has. -/
def layTable (d : Dev) (slot st : Nat) (x : MatchSt) : MatchSt :=
  let j := getJob d slot
  let p := paramSt d slot st
  let q := matchP p
  let rs := sortBy (fun (r : Res) => 65536 * r.die + r.index) (bankPlaces j st)
  let need := tableBanks p
  let oneDie := !x.exact && decide (q.select = 0)
  let whole := if oneDie ∧ 16 < need then [] else copiesOf need oneDie 8 rs
  let whole := if q.writer = 0xFFFF then whole else whole.take 1
  let fits := decide (need ≤ rs.length)
  let rest := (q.capacity - rs.length * (16384 / q.w)) * q.recBytes
  let spare := tierFree d + (j.tierTables.filter (fun t => t.1 == st)).foldl (fun a t => a + t.2) 0
  let step :=
    if !whole.isEmpty then 1
    else if fits then 2
    else if hbmFree d < rest ∧ strapTier d.root.straps ∧ tierCharge rest ≤ spare then 4
    else if x.exact && !rs.isEmpty then 2
    else 3
  let y := { x with step := step, copies := if whole.isEmpty then [bankSets (rs.take need)] else whole.map bankSets, cam := if fits ∨ !x.exact then none else some [] }
  y.rechoose q

/-- A table moves to where `layTable` has it: the tier bytes it takes are charged, and a change of step is recorded in the placement history, of kind 2,
under a reason and a saturation counter (R205). -/
def setTable (d : Dev) (slot st reason counter : Nat) (x : MatchSt) : Dev :=
  let y := layTable d slot st x
  let j := getJob d slot
  let q := matchP (paramSt d slot st)
  let rest := (q.capacity - banksOf j st * (16384 / q.w)) * q.recBytes
  let d := modJob d slot (fun j => { j with tierTables := j.tierTables.filter (fun t => t.1 != st) ++ (if y.step = 4 then [(st, tierCharge rest)] else []) })
  let d := setKind d slot st (.matchSt y)
  if y.step = x.step then d
  else
    let p : PlaceRec := { station := st, inst := 0, res := ((bankPlaces j st).head?).getD { kind := 2, die := 0xFF, index := 0xFFFF },
                          reason := reason, counter := counter, time := d.time, index := j.histTotal }
    let d := modJob d slot (fun j => { j with hist := (j.hist ++ [p]).drop (j.hist.length + 1 - 65536), histTotal := j.histTotal + 1 })
    if reason = 1 then event d 4 slot (le 4 j.histTotal ++ le 2 counter) else d

/-- TABLE_BUILD_COMPLETE (R193, R202, R203): the table is built from its region, then the saved changes are laid over it; it stands at the step
of R205 that its banks give. -/
def tableBuild (slot st : Nat) (m : Memory) (d : Dev) : DevOut :=
  let j := getJob d slot
  let q := matchP (paramSt d slot st)
  let reg := bindingOr j q.region
  let x := matchSt d slot st
  let bad (i : Nat) : DevOut := .next (stationFault d slot st 0x0305 q.table i)
  if x.built then noEvent
  else if reg.bytes < 64 then bad (pow2 64 - 1)
  else match regRead m d reg 0 64 with
  | .error e => .next (engineFault d (stFault d slot st 0 0 0) e)
  | .ok h =>
    if !q.headerOk h then bad (pow2 64 - 1)
    else
      let n := u32at h 8
      if reg.bytes < 64 + n * q.recBytes then bad ((reg.bytes - 64) / q.recBytes)
      else match regRead m d reg 64 (n * q.recBytes) with
      | .error e => .next (engineFault d (stFault d slot st 0 0 0) e)
      | .ok b =>
        let es := (List.range n).map (q.record b)
        match es.find? (fun e => !q.maskOk (e.mask.getD 0 0)) with
        | some e => bad e.ord
        | none =>
          let y := x.changed.foldl (fun y h => y.half q.w h) { x with built := true, entries := es, cells := [], shadow := [] }
          .next (setTable d slot st (if j.replaying then 4 else 0) 0xFFFF y)

/-- TABLE_BUILD_COMPLETE. -/
def execTableBuildComplete (slot station : Nat) (s : State) : Host.Outcome State Fault Refusal :=
  onStation slot station (· = .matchSt) s (tableBuild slot station)

/-- FREQUENCY_SAMPLE (R206): by the counts of the last 100 ms the entries that the CAM holds at step 2 are chosen anew. -/
def frequencySample (slot st : Nat) (d : Dev) : DevOut :=
  let x := matchSt d slot st
  if !x.built then noEvent
  else
    let q := matchP (paramSt d slot st)
    .next (modMatch d slot st (fun _ => MatchSt.rechoose { x with hot := ((sortBy (fun (f : Nat × Nat) => f.2) x.freq).reverse).map (·.1), freq := [] } q))

/-- FREQUENCY_SAMPLE. -/
def execFrequencySample (slot station : Nat) (s : State) : Host.Outcome State Fault Refusal :=
  onStation slot station (· = .matchSt) s (fun _ d => frequencySample slot station d)

/-- The rules of R200, CAPACITY and the HASH_MASK rule on a half; `second` allows KIND 0. -/
def MatchP.halfOk (q : MatchP) (h : Half) (rsv bytes : Nat) (second : Bool) : Bool :=
  decide (h.kind ≤ 3) && (second || decide (h.kind ≠ 0)) && rsv = 0 && decide (h.ordinal < q.capacity) &&
  (match h.kind with
   | 1 => bytes = 16 * q.w && q.maskOk (u64at h.bs (8 * q.w))
   | 3 => bytes = q.resultBytes
   | _ => bytes = 0)

/-- Reads a half at an offset of an update list: the half and the offset behind it, or none where R200 is broken. -/
def MatchP.readHalf (q : MatchP) (b : Bytes) (off : Nat) (second : Bool) : Option (Half × Nat) :=
  let n := u16at b (off + 2)
  let h : Half := { kind := u8at b off, ordinal := u32at b (off + 4), bs := slice b (off + 8) n }
  let stop := off + 8 + roundUp n 8
  if b.length < stop ∨ !q.halfOk h (u8at b (off + 1)) n second ∨ !allZero b (off + 8 + n) (roundUp n 8 - n) then none else some (h, stop)

/-- Reads the pairs of an update list; the offset of the first half that fails (R203). -/
def MatchP.readPairs (q : MatchP) (b : Bytes) : Nat → Nat → Except Nat (List MPair)
  | 0, off => if b.length = off then .ok [] else .error off
  | n + 1, off =>
    match q.readHalf b off false with
    | none => .error off
    | some (h1, o1) =>
      match q.readHalf b o1 true with
      | none => .error o1
      | some (h2, o2) =>
        if h1.kind = h2.kind ∧ h1.ordinal = h2.ordinal then .error o1
        else match q.readPairs b n o2 with
        | .error e => .error e
        | .ok ps => .ok ({ first := h1, second := h2 } :: ps)

/-- The match station of a job's table. -/
def tableStation (j : Job) (table : Nat) : Option Nat :=
  j.image.stations.findIdx? (fun s => decide (s.stype = .matchSt) && u16at (j.image.paramBlock s) 2 = table)

/-- MATCH_TABLE_LOAD's own checks (R202). -/
def tableLoadCheck (m : Memory) (d : Dev) (c : Cmd) : Option (Nat × Nat) :=
  let j := getJob d c.slot
  let n := u32at c.body 4
  match tableStation j (u16at c.body 0) with
  | none => badField 0
  | some st =>
    let q := matchP (j.image.param st)
    match binding j q.region with
    | none => some (0x0006, q.region)
    | some b =>
      if ¬(b.whereCode = 1 ∨ b.whereCode = 2) ∨ b.bytes < 64 + n * q.recBytes then some (0x0006, q.region)
      else if c.dataBytes ≠ n * q.recBytes then badField 0x10
      else if q.capacity < n then badField 4
      else
        let data := cmdData m c
        match (List.range n).find? (fun i => !q.maskOk ((q.record data i).mask.getD 0 0)) with
        | some i => badField (q.recBytes * i)
        | none => none

/-- MATCH_TABLE_LOAD (R202). -/
def matchTableLoad : Service :=
  { opcode := 0x0080, check := tableLoadCheck,
    act := fun m d c =>
      let j := getJob d c.slot
      let q := matchP (j.image.param ((tableStation j (u16at c.body 0)).getD 0))
      let h := le 4 0x544D5948 ++ le 1 q.w ++ zeros 1 ++ le 2 q.resultBytes ++ le 4 (u32at c.body 4) ++ zeros 52
      match regWrite d (bindingOr j q.region) 0 0 0 (h ++ cmdData m c) with
      | .ok d => (d, some [])
      | .error _ => (d, some []) }

/-- MATCH_TABLE_LOAD. -/
def execMatchTableLoad (idx : Nat) (s : State) : Host.Outcome State Fault Refusal := runDev s (serve matchTableLoad idx)

/-- The epoch an update accepted now opens with (R203): the next that a commit beginning later opens, or the one JOB_START opens. -/
def updateEpoch (j : Job) : Nat :=
  if j.state = .loaded then j.openEpoch
  else match j.commit with
  | some c => if c.step < 4 then j.openEpoch + 2 else j.openEpoch + 1
  | none => j.openEpoch + 1

/-- MATCH_TABLE_UPDATE's own checks (R203). -/
def tableUpdateCheck (m : Memory) (d : Dev) (c : Cmd) : Option (Nat × Nat) :=
  let j := getJob d c.slot
  match tableStation j (u16at c.body 0) with
  | none => badField 0
  | some st =>
    let q := matchP (j.image.param st)
    let n := u32at c.body 4
    let data := cmdData m c
    match q.readPairs data (min n (data.length / 8 + 1)) 0 with
    | .error off => badField off
    | .ok ps =>
      if j.image.intakeLogBytes = 0 ∨ j.logOver ∨ !logRoom j [.update st (updateEpoch j) n data] then some (0x0005, 0x0B)
      else if 1048576 < j.pendingUpdates.length + ps.length then some (0x0005, 0x12)
      else none

/-- MATCH_TABLE_UPDATE (R203): captured in the intake log, pending for the next epoch. -/
def matchTableUpdate : Service :=
  { opcode := 0x0081, check := tableUpdateCheck,
    act := fun m d c =>
      let j := getJob d c.slot
      let st := (tableStation j (u16at c.body 0)).getD 0
      let data := cmdData m c
      let e := updateEpoch j
      match (matchP (j.image.param st)).readPairs data (u32at c.body 4) 0 with
      | .error _ => (d, some [])
      | .ok ps =>
        let d := capture d c.slot [.update st e (u32at c.body 4) data]
        (modJob d c.slot (fun j => { j with pendingUpdates := j.pendingUpdates ++ ps.map (fun p => { station := st, epoch := e, pair := p }) }), some []) }

/-- MATCH_TABLE_UPDATE. -/
def execMatchTableUpdate (idx : Nat) (s : State) : Host.Outcome State Fault Refusal := runDev s (serve matchTableUpdate idx)

/-- The job opens an epoch: the pairs due are applied in command and list order (R203, 04 R107). -/
def applyUpdates (d : Dev) (slot : Nat) : Dev :=
  let j := getJob d slot
  let due (p : PairWrite) : Bool := decide (p.epoch ≤ j.openEpoch)
  let d := modJob d slot (fun j => { j with pendingUpdates := j.pendingUpdates.filter (fun p => !due p) })
  (j.pendingUpdates.filter due).foldl (fun d p => 
    let q := matchP (paramSt d slot p.station)
    modMatch d slot p.station (fun x => (x.pair q.w p.pair).rechoose q)) d

/-- The updates that an intake log holds, pending again after a restart (04 R107). -/
def loggedUpdates (im : Image) (log : List LogItem) : List PairWrite :=
  (log.map (fun it =>
    match it with
    | .update st e n bs =>
      match (matchP (im.param st)).readPairs bs n 0 with
      | .ok ps => ps.map (fun p => { station := st, epoch := e, pair := p })
      | .error _ => []
    | _ => [])).flatten

end Sys2Proof.Machine
end

