-- ==== Sys2Proof/Machine/HashJoin.lean ====
section
/-!
DEFINITION. Hashjoin stations: build, probe, output order (07 R207 to R209; 02 R47).
-/

namespace Sys2Proof.Machine

open Sys2Proof

/-- The rules of R207 that an image shows. -/
def joinOk (im : Image) (s : StationD) : Bool :=
  let p := im.paramBlock s
  let n := u8at p 2
  let build := inCols im s.index 0
  let probe := inCols im s.index 1
  let outs := (List.range n).map (fun i => u8at p (17 + 4 * i))
  let same := match colTyIn im s.index 0 s.keyColumn, colTyIn im s.index 1 s.keyColumn with
    | some a, some b => decide (a = b)
    | _, _ => true
  decide (u8at p 0 ≤ 3) && decide (u8at p 1 ≤ 2) && decide (n ≤ 32) && allZero p 3 5 && (decide (u8at p 0 < 2) || n = 0) &&
  bit build s.keyColumn && bit probe s.keyColumn && same && nodup outs && outs.all (fun c => decide (c < 64) && !bit probe c) &&
  (List.range n).all (fun i => decide (u8at p (16 + 4 * i) < 64) && bit build (u8at p (16 + 4 * i)) && allZero p (18 + 4 * i) 2) &&
  decide (queueCols im s.index 0 = outs.foldl (fun a c => a ||| pow2 c) probe)

/-- The hashjoin station's own state. -/
def joinSt (d : Dev) (slot st : Nat) : JoinSt :=
  match (getSt d slot st).kind with
  | .join x => x
  | _ => {}

/-- Changes it. -/
def modJoin (d : Dev) (slot st : Nat) (f : JoinSt → JoinSt) : Dev := setKind d slot st (.join (f (joinSt d slot st)))

/-- The byte form of a row's key column; none for null (08 R232). -/
def keyForm (r : Row) (c : Nat) : Option Bytes := (r.get c).map (fun v => byteForm ((r.ty c).getD .u8) v)

/-- The partition of a row: its key's hash modulo the count, 0 for a null key (02 R47, 08 R232). -/
def partOf (r : Row) (c n : Nat) : Nat :=
  match keyForm r c with
  | some b => xxhash64 b 0 % n
  | none => 0

/-- Bytes a build row takes in its table: whole, from one 64-byte boundary to the next (R209; log entry 20). -/
def buildRowBytes (r : Row) : Nat := roundUp (packedSize [r]) 64

/-- Buckets of a partition's table (R209): the smallest power of two that is at least half its rows, 64 at least. -/
def bucketCount : Nat → Nat → Nat → Nat
  | 0, _, b => b
  | n + 1, rows, b => if rows ≤ 2 * b then b else bucketCount n rows (2 * b)

/-- Overflow buckets of a partition's table of `n` buckets: a bucket holds 7 rows (R209; log entry 20). -/
def overflowBuckets (rows : List BuildRow) (n : Nat) : Nat :=
  if rows.length ≤ 7 then 0
  else
    let at_ := rows.map (fun r => Config.joinBucket (r.key.getD []) n % n)
    at_.eraseDups.foldl (fun a b => a + (ceilDiv (at_.filter (· == b)).length 7 - 1)) 0

/-- Memory that a partition's table takes: bucket sectors, overflow buckets and rows (R209; log entry 20). -/
def partBytes (rows : List BuildRow) : Nat :=
  let n := bucketCount 64 rows.length 64
  64 * (n + overflowBuckets rows n) + rows.foldl (fun a r => a + buildRowBytes r.row) 0

/-- Memory that the tables of a station take. -/
def joinBytes (build : List BuildRow) : Nat :=
  (((build.map BuildRow.part).eraseDups).map (fun k => partBytes (build.filter (fun b => b.part == k)))).foldl (· + ·) 0

/-- Bytes of HBM and tier that jobs can hold and none holds. -/
def memoryFree (d : Dev) : Nat :=
  hbmFree d + tierFree d

/-- Table bytes that an extent has room for: in the tier, blocks at 4:3 with their pools (06 R184). -/
def joinRoom (x : Nat × Nat) : Nat := if x.1 < tierBase then x.2 else x.2 / (3072 + 1216) * 4096

/-- Memory for a station's tables of `n` bytes: what they have, and more of HBM where that is short, or of the tier (R209); none where neither can give it. -/
def growJoin (d : Dev) (slot st n : Nat) : Option Dev :=
  let j := getJob d slot
  let own := (j.joinAreas.find? (fun a => a.1 == st)).elim [] (·.2)
  let got := own.foldl (fun a x => a + joinRoom x) 0
  if n ≤ got then some d
  else
    let keep (e : List (Nat × Nat)) (d : Dev) : Dev := modJob d slot (fun j => { j with joinAreas := j.joinAreas.filter (fun a => a.1 != st) ++ [(st, own ++ e)] })
    match allocHbm d (n - got) with
    | some e => some (keep e (modJob d slot (fun j => { j with areas := j.areas ++ e })))
    | none => if strapTier d.root.straps then (allocTier d (tierCharge (n - got))).map (fun e => keep e d) else none

/-- HASHJOIN_BUILD_ROW (R207 to R209): the next build row is inserted into its partition's table. -/
def joinBuildRow (slot st : Nat) (d : Dev) : DevOut :=
  let s := descSt d slot st
  let p := paramSt d slot st
  let x := joinSt d slot st
  match (getIn d slot st 0).row? with
  | none => noEvent
  | some (r, ord) =>
    let row : BuildRow := { part := partOf r s.keyColumn s.partitions, key := keyForm r s.keyColumn, row := r }
    let mine := x.build.filter (fun b => b.part == row.part)
    if u8at p 1 = 2 ∧ row.key.isSome ∧ mine.any (fun b => b.key == row.key) then .next (stationFault d slot st 0x0321 row.part ord)
    else
      let need := joinBytes (x.build ++ [row])
      match growJoin d slot st need with
      | none => .next (stationFault d slot st 0x0320 row.part need)
      | some d => .next (modJoin (modIn d slot st 0 InPort.nextRow) slot st (fun x => { x with build := x.build ++ [row] }))

/-- HASHJOIN_BUILD_ROW. -/
def execHashjoinBuildRow (slot station : Nat) (s : State) : Host.Outcome State Fault Refusal :=
  onStation slot station (· = .hashjoin) s (fun _ d => joinBuildRow slot station d)

/-- The probe row with the appended columns of a build row, null where there is none (R208). -/
def joinRow (types : List (Nat × Ty)) (p : Bytes) (r : Row) (b : Option Row) : Row :=
  (List.range (u8at p 2)).foldl (fun r i =>
    let c := u8at p (16 + 4 * i)
    match assocGet types c with
    | some t => Row.put r { col := u8at p (17 + 4 * i), ty := t, val := b.bind (fun b => Row.get b c) }
    | none => r) r

/-- The output rows of a probe row from its matches in build order (R208). -/
def probeOut (types : List (Nat × Ty)) (p : Bytes) (r : Row) (ms : List Row) : List Row :=
  match u8at p 0 with
  | 0 => ms.map (fun b => joinRow types p r (some b))
  | 1 => if ms.isEmpty then [joinRow types p r none] else ms.map (fun b => joinRow types p r (some b))
  | 2 => if ms.isEmpty then [] else [r]
  | _ => if ms.isEmpty then [r] else []

/-- Rows of a probe tile go out by partition in ascending order (02 R47). -/
def flushJoin (d : Dev) (slot st : Nat) : Dev :=
  let out := (joinSt d slot st).out
  addRows (modJoin d slot st (fun x => { x with out := [] })) slot st 0 ((sortBy (fun (o : Nat × Row) => o.1) out).map (·.2))

/-- HASHJOIN_PROBE_ROW (R208): the next probe row is looked up; at the end of its tile the tile's rows go out. -/
def joinProbeRow (slot st : Nat) (d : Dev) : DevOut :=
  let j := getJob d slot
  let s := descSt d slot st
  let p := paramSt d slot st
  let x := joinSt d slot st
  let i := getIn d slot st 1
  if (getSt d slot st).ended then noEvent
  else if outBlocked d slot st then .next d
  else match i.row? with
  | none => if inputsDone d slot st then .next (endStation d slot st) else noEvent
  | some (r, ord) =>
    let k := keyForm r s.keyColumn
    let part := partOf r s.keyColumn s.partitions
    let ms := if k.isNone then [] else (x.build.filter (fun b => b.part == part && b.key == k)).map (·.row)
    if u8at p 1 = 0 ∧ 65535 < ms.length then .next (stationFault d slot st 0x0322 part ord)
    else
      let ms := if u8at p 1 = 1 then ms.take 1 else ms
      let types := match inQueueNo j st 0 with
        | some (n, _) => (getQ d slot n).types
        | none => []
      let d := modJoin d slot st (fun x => { x with out := x.out ++ (probeOut types p r ms).map (fun o => (part, o)) })
      let d := modIn d slot st 1 InPort.nextRow
      .next (if i.finished < (getIn d slot st 1).finished then flushJoin d slot st else d)

/-- HASHJOIN_PROBE_ROW. -/
def execHashjoinProbeRow (slot station : Nat) (s : State) : Host.Outcome State Fault Refusal :=
  onStation slot station (· = .hashjoin) s (fun _ d => joinProbeRow slot station d)

end Sys2Proof.Machine
end

