-- ==== Sys2Proof/Machine/KernelParam.lean ====
section
/-!
DEFINITION. The kernel parameter block, program words, the op table and the checks of JOB_LOAD (08 R218 to R224, R228).
-/

namespace Sys2Proof.Machine

open Sys2Proof

/-- An accumulator array as declared (R219). -/
structure ArrD where
  kind : Nat
  scope : Nat
  place : Nat
  ty : Ty
  cells : Nat
  deriving DecidableEq, Repr

/-- A matrix buffer as declared (R219). -/
structure MBufD where
  rows : Nat
  cols : Nat
  ty : Ty
  init : Nat
  deriving DecidableEq, Repr

/-- A boundary list: its type and values (R219). -/
structure BoundD where
  ty : Ty
  vals : List Nat
  deriving DecidableEq, Repr

/-- The kernel parameter block with what it names (R218, R219). -/
structure KParam where
  vslots : Nat
  rowLimit : Nat
  types : List Ty
  consts : List Nat
  arrays : List ArrD
  mbufs : List MBufD
  bounds : List BoundD
  heap : Nat
  endEntry : Nat
  table : Nat
  deriving DecidableEq, Repr

/-- No end program, no initial contents. -/
def noOffset : Nat := 0xFFFFFFFF

/-- Reads array descriptor `i`. -/
def readArr (ps : Bytes) (off i : Nat) : ArrD :=
  let o := off + 16 * i
  { kind := u8at ps o, scope := u8at ps (o + 1), place := u8at ps (o + 2), ty := (Ty.ofCode (u8at ps (o + 3))).getD .bool, cells := u32at ps (o + 4) }

/-- Reads matrix buffer descriptor `i`. -/
def readMBuf (ps : Bytes) (off i : Nat) : MBufD :=
  let o := off + 16 * i
  { rows := u16at ps o, cols := u16at ps (o + 2), ty := (Ty.ofCode (u8at ps (o + 4))).getD .bool, init := u32at ps (o + 8) }

/-- Reads boundary list `i`. -/
def readBound (ps : Bytes) (off i : Nat) : BoundD :=
  let o := off + 8 * i
  let t := (Ty.ofCode (u8at ps (o + 6))).getD .bool
  { ty := t, vals := (List.range (u16at ps (o + 4))).map (fun k => uat ps (u32at ps o + k * t.bytes) t.bytes) }

/-- Reads the block of a kernel station. -/
def kparam (im : Image) (s : StationD) : KParam :=
  let p := im.paramBlock s
  let ps := im.params
  { vslots := u8at p 0, rowLimit := u16at p 4,
    types := (List.range (u8at p 0)).map (fun i => (Ty.ofCode (u8at ps (u32at p 0x18 + i))).getD .bool),
    consts := (List.range (u8at p 3)).map (fun i => u64at ps (u32at p 0x1C + 8 * i)),
    arrays := (List.range (u8at p 2)).map (readArr ps (u32at p 0x20)), mbufs := (List.range (u8at p 1)).map (readMBuf ps (u32at p 0x24)),
    bounds := (List.range (u8at p 6)).map (readBound ps (u32at p 0x28)), heap := u32at p 0x2C, endEntry := u32at p 0x30, table := u16at p 0x34 }

/-- A program word (R221). -/
structure PWord where
  op : Nat
  ty : Nat
  d : Nat
  a : Nat
  b : Nat
  c : Nat
  imm : Nat
  deriving DecidableEq, Repr

/-- Word `i` of a station's program. -/
def progWord (im : Image) (s : StationD) (i : Nat) : PWord :=
  let w := slice im.program (s.programOffset + 8 * i) 8
  { op := u8at w 7, ty := u8at w 6, d := u8at w 5, a := u8at w 4, b := u8at w 3, c := u8at w 2, imm := u16at w 0 }

/-- Where an operand may stand (R222): nowhere, a slot or scalar as destination, a slot, a scalar, any source, a scalar or constant, a constant. -/
inductive Spc where
  | no | dst | slot | scal | any | scon | con
  deriving DecidableEq, Repr

/-- What type an operand has (R228): none, the word's TYPE, a type of its own, any integer type or DICT32, any fixed-width type, a width equal to TYPE's, any
integer type, any of class F. -/
inductive STy where
  | no | same | own (t : Ty) | index | fixed | width | int | flt
  deriving DecidableEq, Repr

/-- The classes of R228 that the Types column lists for TYPE. -/
inductive KCls where
  | none | F | I | FI | B | S | D | any | IB | FISBD | FIS | fixed | time | u64 | FID | bound | out | pool | buf | dot
  deriving DecidableEq, Repr

/-- TYPE lies in the class. -/
def KCls.has (c : KCls) (t : Ty) : Bool :=
  match c with
  | .none => false
  | .F => t.isF | .I => t.isInt | .FI => t.isF || t.isInt | .B => t = .bool | .S => t = .str | .D => t = .dict | .any => true
  | .IB => t.isInt || t = .bool
  | .FISBD => t.isF || t.isInt || t = .str || t = .bool || t = .dict
  | .FIS => t.isF || t.isInt || t = .str
  | .fixed => t.isFixed | .time => t = .time | .u64 => t = .u64
  | .FID => t.isF || t.isInt || t = .dict || t = .fp64
  | .bound => t = .fp32 || t = .fp16 || t = .bf16 || t.isInt
  | .out => true
  | .pool => t = .fp32 || t = .bf16 || t = .fp16
  | .buf => t = .bf16 || t = .e4m3 || t = .e5m2 || t = .fp32
  | .dot => t = .bf16 || t = .e4m3 || t = .e5m2

/-- A row of the op table: places and types of D, A, B, C, the class of TYPE, the IMM bits in use. -/
structure OpSpec where
  d : Spc × STy := (.no, .no)
  a : Spc × STy := (.no, .no)
  b : Spc × STy := (.no, .no)
  c : Spc × STy := (.no, .no)
  cls : KCls := .none
  imm : Nat := 0
  deriving DecidableEq, Repr

/-- An elementwise op of one, two or three sources of TYPE. -/
def spec1 (k : KCls) (d : STy) : OpSpec := { d := (.dst, d), a := (.any, .same), cls := k }
def spec2 (k : KCls) (d b : STy) : OpSpec := { spec1 k d with b := (.any, b) }
def spec3 (k : KCls) (d b c : STy) : OpSpec := { spec2 k d b with c := (.any, c) }

/-- The op table (R228). -/
def opSpec (op : Nat) : Option OpSpec :=
  match op with
  | 0x00 | 0x11 => some {}
  | 0x01 => some { d := (.slot, .same), cls := .any, imm := 0x073F }
  | 0x02 => some { a := (.slot, .same), cls := .any, imm := 0x073F }
  | 0x03 => some (spec1 .any .same)
  | 0x04 => some { d := (.slot, .same), cls := .u64 }
  | 0x05 => some { d := (.scal, .no), cls := .u64, imm := 0xFFFF }
  | 0x06 => some (spec1 .any (.own .bool))
  | 0x07 => some (spec2 .any .same (.own .bool))
  | 0x08 => some (spec2 .any .same .same)
  | 0x09 => some (spec3 .any .same .same (.own .bool))
  | 0x0A => some { d := (.dst, .same), a := (.any, .own .u32), cls := .FI }
  | 0x0B => some { a := (.any, .same), b := (.any, .own .u32), cls := .FI }
  | 0x0C => some { d := (.dst, .same), a := (.any, .index), cls := .FID, imm := 0xFFFF }
  | 0x0D => some { imm := 0xFFFF }
  | 0x0E | 0x0F => some { a := (.scal, .no), imm := 0xFFFF }
  | 0x10 => some { a := (.any, .own .bool), b := (.scal, .no), c := (.scal, .no), imm := 0x0707 }
  | 0x12 => some { a := (.scal, .no) }
  | 0x13 | 0x14 | 0x15 => some { d := (.scal, .no), a := (.any, .same), cls := .B }
  | 0x16 => some { d := (.slot, .own .u64), a := (.any, .own .u32), b := (.slot, .own .u64), c := (.slot, .own .bool), imm := 0x000F }
  | 0x20 | 0x21 | 0x22 | 0x23 => some (spec2 .FI .same .same)
  | 0x24 => some (spec3 .FI .same .same .same)
  | 0x25 | 0x26 => some (spec1 .FI .same)
  | 0x27 | 0x28 => some (spec2 .FI .same .same)
  | 0x29 => some (spec3 .FI .same .same .same)
  | 0x2A | 0x2B | 0x2C | 0x2D | 0x2E | 0x2F | 0x30 | 0x31 | 0x32 | 0x33 | 0x34 => some (spec1 .F .same)
  | 0x35 => some (spec2 .FI .same .same)
  | 0x36 | 0x37 | 0x38 => some (spec2 .I .same .same)
  | 0x39 => some (spec1 .FI .same)
  | 0x3A => some (spec2 .F .same .same)
  | 0x40 | 0x41 => some (spec2 .FISBD (.own .bool) .same)
  | 0x42 | 0x43 | 0x44 | 0x45 => some (spec2 .FIS (.own .bool) .same)
  | 0x46 | 0x47 | 0x48 => some (spec1 .F (.own .bool))
  | 0x50 | 0x51 | 0x52 | 0x54 => some (spec2 .IB .same .same)
  | 0x53 => some (spec1 .IB .same)
  | 0x55 | 0x56 | 0x57 | 0x58 | 0x59 => some (spec2 .I .same (.own .u32))
  | 0x5A | 0x5B | 0x5C => some (spec1 .I (.own .u32))
  | 0x5D => some (spec1 .I .same)
  | 0x60 | 0x61 => some { d := (.dst, .same), a := (.any, .fixed), cls := .fixed, imm := 3 }
  | 0x62 => some { d := (.dst, .same), a := (.any, .width), cls := .fixed }
  | 0x63 => some { spec1 .time (.own .u32) with imm := 0xF }
  | 0x64 => some (spec2 .time .same (.own .u64))
  | 0x68 | 0x69 | 0x6A => some (spec2 .any (.own .u64) (.own .u64))
  | 0x6B => some (spec2 .any (.own .u32) (.own .u64))
  | 0x6C => some { spec3 .any (.own .u64) .same .same with imm := 3 }
  | 0x6D => some (spec2 .u64 .same .same)
  | 0x6E => some (spec3 .any (.own .u64) (.own .u64) (.own .u64))
  | 0x70 => some { spec1 .bound (.own .u32) with imm := 0xFFFF }
  | 0x71 => some { spec3 .FI (.own .u32) .same .same with imm := 0xFFFF }
  | 0x78 | 0x79 => some (spec1 .S (.own .u32))
  | 0x7A | 0x7B => some (spec1 .S .same)
  | 0x7C => some (spec3 .S .same (.own .u32) (.own .u32))
  | 0x7D | 0x7E => some (spec2 .S (.own .bool) .same)
  | 0x7F => some (spec2 .S (.own .i32) .same)
  | 0x80 => some { spec2 .S .same (.own .u32) with imm := 0xFF }
  | 0x81 => some { d := (.slot, .int), a := (.slot, .same), cls := .S }
  | 0x82 => some { d := (.slot, .flt), a := (.slot, .same), cls := .S }
  | 0x83 => some { d := (.slot, .own .str), a := (.any, .same), cls := .D, imm := 0xFFFF }
  | 0x84 => some (spec2 .S .same .same)
  | 0x88 => some { a := (.any, .same), b := (.any, .own .u32), c := (.scon, .no), cls := .FI, imm := 0xF }
  | 0x89 => some { a := (.any, .same), b := (.any, .same), c := (.any, .own .u32), cls := .FI, imm := 0xF }
  | 0x8A => some { a := (.any, .same), b := (.any, .own .u32), c := (.scon, .no), cls := .any, imm := 0xF }
  | 0x8B => some { a := (.any, .same), b := (.any, .own .u32), c := (.scon, .no), cls := .FI, imm := 0xF }
  | 0x8C => some { a := (.any, .same), b := (.any, .own .u32), cls := .F, imm := 0xF }
  | 0x8D => some { d := (.dst, .same), a := (.any, .own .u32), cls := .out, imm := 0xF00F }
  | 0x8E => some { d := (.dst, .same), a := (.any, .own .u32), b := (.any, .own .fp64), cls := .out, imm := 0xF }
  | 0x8F | 0x91 => some { imm := 0xF }
  | 0x90 => some { imm := 0x070F }
  | 0x98 => some { d := (.slot, .same), a := (.slot, .index), b := (.slot, .own .fp32), c := (.con, .no), cls := .pool, imm := 0xFFF0 }
  | 0x99 => some { a := (.slot, .same), b := (.scal, .no), cls := .buf, imm := 0x1FF }
  | 0x9A => some { d := (.slot, .same), b := (.scal, .no), cls := .buf, imm := 0x1FF }
  | 0x9B => some { c := (.con, .no), cls := .dot, imm := 0x3F }
  | _ => none

/-- Ops that accept FP64 (R226; ACCRD reads out to it, R237, and QREAD's q is one, R238). -/
def fp64Ok (op : Nat) : Bool := [0x01, 0x02, 0x03, 0x0C, 0x60, 0x61, 0x62, 0x68, 0x69, 0x6A, 0x6B, 0x6C, 0x6E, 0x8D, 0x8E].contains op

/-- The operands a word uses: those of its op, less those that its IMM leaves unused (EMIT's mask or scalars, XXH64C's c, EMBAG's weights,
MWRITE's result slots). -/
def OpSpec.uses (s : OpSpec) (w : PWord) : List ((Spc × STy) × Nat) :=
  let no : Spc × STy := (.no, .no)
  let a := if w.op = 0x10 ∧ (bit w.imm 8 ∨ bit w.imm 10) then no else s.a
  let b := if (w.op = 0x10 ∧ !bit w.imm 10) ∨ (w.op = 0x98 ∧ !bit w.imm 4) then no else s.b
  let c := if (w.op = 0x10 ∧ !bit w.imm 10) ∨ (w.op = 0x6C ∧ w.imm = 2) then no else s.c
  let d := if w.op = 0x16 ∧ field w.imm 3 2 ≠ 3 then no else s.d
  [(d, w.d), (a, w.a), (b, w.b), (c, w.c)]

/-- Condition 2 of R224: unused operand bytes and reserved bits are zero, reserved items absent. -/
def wordFormOk (s : OpSpec) (w : PWord) : Bool :=
  decide (w.imm &&& s.imm = w.imm) && (s.uses w).all (fun u => u.1.1 != .no || u.2 == 0) &&
  (match w.op with
   | 0x05 => decide (w.imm ≤ 5) | 0x63 => decide (w.imm ≤ 8) | 0x6C => w.imm = 2 || w.imm = 3 | 0x8D => decide (field w.imm 15 12 ≤ 8)
   | 0x16 => (field w.imm 1 0 = 1 || field w.imm 1 0 = 2) && (field w.imm 3 2 = 0 || field w.imm 3 2 = 3)
   | 0x98 => decide (field w.imm 15 14 ≤ 2)
   | _ => true)

/-- A place is allowed and exists (condition 3 of R224). -/
def placeOk (k : KParam) (s : Spc) (x : Nat) : Bool :=
  (match s with
   | .no => true | .dst => decide (x < 0x80) | .slot => decide (x < 0x40) | .scal => decide (0x40 ≤ x) && decide (x < 0x80) | .any => true
   | .scon => decide (0x40 ≤ x) | .con => decide (0x80 ≤ x)) &&
  (s == .no || (if x < 0x40 then decide (x < k.vslots) else if 0x80 ≤ x then decide (x - 0x80 < k.consts.length) else true))

/-- Condition 3 of R224, the scalar form of R222 included: a scalar destination takes no slot. -/
def wordPlacesOk (k : KParam) (s : OpSpec) (w : PWord) : Bool :=
  let us := s.uses w
  us.all (fun u => placeOk k u.1.1 u.2) && (w.op != 0x6C || decide (0 < k.consts.length)) &&
  (s.d.1 != .dst || decide (w.d < 0x40) || (us.drop 1).all (fun u => u.1.1 == .no || decide (0x40 ≤ u.2)))

/-- A slot's type. -/
def KParam.slotTy (k : KParam) (x : Nat) : Ty := k.types.getD x .bool

/-- An operand meets its type (condition 4 of R224); a scalar or constant is never a STR. -/
def operandTyOk (k : KParam) (op : Nat) (ty : Option Ty) (u : (Spc × STy) × Nat) : Bool :=
  if u.1.1 = .no then true
  else if 0x40 ≤ u.2 then
    !(match u.1.2 with
      | .same => ty == some .str
      | .own t => t == .str
      | _ => false)
  else
    let t := k.slotTy u.2
    (decide (t ≠ .fp64) || fp64Ok op) &&
    (match u.1.2 with
     | .no => true
     | .same => ty == some t
     | .own x => decide (t = x)
     | .index => t.isInt || t = .dict
     | .fixed => t.isFixed
     | .width => t.isFixed && (ty.map (fun x => decide (x.width = t.width))).getD false
     | .int => t.isInt
     | .flt => t.isF)

/-- The array a word names. -/
def KParam.arr (k : KParam) (w : PWord) : Option ArrD := k.arrays[field w.imm 3 0]?

/-- Ops that name an array. -/
def usesArray (op : Nat) : Bool := decide (0x88 ≤ op) && decide (op ≤ 0x91)

/-- Kinds and types of an array op (R228, R235, R237). -/
def arrayTyOk (k : KParam) (w : PWord) (ty : Option Ty) : Bool :=
  match k.arr w with
  | none => true
  | some a =>
    match w.op with
    | 0x88 | 0x89 | 0x90 | 0x91 => a.kind = 0
    | 0x8A | 0x8C => a.kind = 1
    | 0x8B => decide (2 ≤ a.kind) && ty == some a.ty
    | 0x8E => a.kind = 1 && ty == some .fp32
    | 0x8D =>
      (match field w.imm 15 12 with
       | 6 => a.kind = 0 && ty == some .u64
       | 7 => decide (2 ≤ a.kind) && ty == some a.ty
       | 8 => a.kind = 1 && ty == some .u64
       | _ => a.kind = 0 && (match ty with
         | some t => [Ty.fp64, .fp32, .bf16, .fp16, .i64].contains t
         | none => false))
    | _ => true

/-- Fields of an EMBAG word (R240): mode, K, D, weighted. -/
def embagMode (w : PWord) : Nat := field w.imm 15 14
def embagK (w : PWord) : Nat := field w.imm 13 10 + 1
def embagD (w : PWord) : Nat := field w.imm 9 5 + 1

/-- EMBAG's constant: region, element type, ROW_BYTES. -/
def embagRegion (c : Nat) : Nat := field c 15 0
def embagRow (c : Nat) : Nat := field c 47 32

/-- A constant operand's value. -/
def KParam.const (k : KParam) (x : Nat) : Nat := k.consts.getD (x - 0x80) 0

/-- The types of EMBAG's slot runs and constant (R240). -/
def embagOk (k : KParam) (w : PWord) (ty : Option Ty) : Bool :=
  let c := k.const w.c
  let slots (x n : Nat) (f : Ty → Bool) : Bool := decide (x + n ≤ k.vslots) && (List.range n).all (fun i => f (k.slotTy (x + i)))
  slots w.d (embagD w) (fun t => ty == some t) && slots w.a (embagK w) (fun t => [Ty.u32, .i32, .u64, .i64, .dict].contains t) &&
  (!bit w.imm 4 || slots w.b (embagK w) (fun t => decide (t = .fp32))) &&
  (match Ty.ofCode (field c 23 16) with
   | some t => t.isF && decide (embagRow c % 64 = 0) && decide (embagD w * t.bytes ≤ embagRow c) && decide (0 < embagRow c)
   | none => false) && field c 31 24 = 0 && field c 63 48 = 0

/-- Buffers and shape of CDOT, type and column of MPACK and MUNPACK (R241). -/
def matrixOk (k : KParam) (w : PWord) (ty : Option Ty) : Bool :=
  match w.op with
  | 0x99 | 0x9A =>
    (match k.mbufs[field w.imm 1 0]? with
     | some b => ty == some b.ty && decide (field w.imm 8 2 < b.cols)
     | none => true)
  | 0x9B =>
    (match k.mbufs[field w.imm 1 0]?, k.mbufs[field w.imm 3 2]?, k.mbufs[field w.imm 5 4]? with
     | some d, some x, some y =>
       let c := k.const w.c
       let m := field c 6 0 + 1
       let kk := field c 14 8 + 1
       let n := field c 22 16 + 1
       let fp8 (t : Ty) : Bool := t = .e4m3 || t = .e5m2
       ((x.ty = .bf16 && y.ty = .bf16 && ty == some .bf16) || (fp8 x.ty && fp8 y.ty && (ty.map fp8).getD false)) && (d.ty = .fp32 || d.ty = .bf16) &&
       field w.imm 1 0 != field w.imm 3 2 && field w.imm 1 0 != field w.imm 5 4 &&
       decide (m ≤ d.rows) && decide (n ≤ d.cols) && decide (m ≤ x.rows) && decide (kk ≤ x.cols) && decide (kk ≤ y.rows) && decide (n ≤ y.cols) &&
       !bit c 7 && !bit c 15 && field c 63 23 = 0
     | _, _, _ => true)
  | _ => true

/-- Condition 4 of R224. -/
def wordTypesOk (k : KParam) (table : Option MatchP) (s : OpSpec) (w : PWord) : Bool :=
  let ty := Ty.ofCode w.ty
  (if s.cls = .none then w.ty = 0 else (match ty with
    | some t => s.cls.has t && (decide (t ≠ .fp64) || fp64Ok w.op)
    | none => false)) &&
  (s.uses w).all (operandTyOk k w.op ty) && arrayTyOk k w ty &&
  (match w.op with
   | 0x70 => ((k.bounds[w.imm]?).map (fun b => ty == some b.ty)).getD true
   | 0x71 => decide (w.imm ≠ 0)
   | 0x98 => embagOk k w ty
   | 0x16 =>
     (match table with
      | some q =>
        let u64s (x n : Nat) : Bool := decide (x + n ≤ k.vslots) && (List.range n).all (fun i => decide (k.slotTy (x + i) = .u64))
        u64s w.b (2 * q.w) && (field w.imm 3 2 ≠ 3 || u64s w.d (q.resultBytes / 8))
      | none => true)
   | _ => matrixOk k w ty)

/-- A branch's target (R223). -/
def target (i imm : Nat) : Int := (i : Int) + 1 + toSigned 16 imm

/-- Ops that branch. -/
def branches (op : Nat) : Bool := op == 0x0D || op == 0x0E || op == 0x0F

/-- Condition 6 of R224 on one word. -/
def wordPortsOk (im : Image) (s : StationD) (k : KParam) (ws : List PWord) (w : PWord) : Bool :=
  let port := field w.imm 10 8
  let col := field w.imm 5 0
  match w.op with
  | 0x01 => u8at (im.paramBlock s) (8 + port) != 0
  | 0x02 =>
    decide (port < s.outPorts) && bit (queueCols im s.index port) col &&
    (match ws.find? (fun v => v.op == 0x02 && field v.imm 10 8 == port && field v.imm 5 0 == col) with
     | some v => decide (k.slotTy v.a = k.slotTy w.a)
     | none => true)
  | 0x10 => decide (field w.imm 2 0 < s.outPorts)
  | 0x90 => decide (port < s.outPorts)
  | _ => true

/-- A table region of the image (KIND 3). -/
def tableRegion (im : Image) (id : Nat) : Bool := im.regions.any (fun r => r.id == id && r.kind == 3)

/-- Condition 7 of R224 on one word. -/
def wordNamesOk (im : Image) (k : KParam) (w : PWord) : Bool :=
  let buf (i : Nat) : Bool := decide (i < k.mbufs.length)
  (!usesArray w.op || (k.arr w).isSome) &&
  (match w.op with
   | 0x0C | 0x83 => tableRegion im w.imm
   | 0x98 => tableRegion im (embagRegion (k.const w.c))
   | 0x70 => decide (w.imm < k.bounds.length)
   | 0x99 | 0x9A => buf (field w.imm 1 0)
   | 0x9B => buf (field w.imm 1 0) && buf (field w.imm 3 2) && buf (field w.imm 5 4)
   | _ => true)

/-- Words reached in one more step (R224 condition 8): the next word, unless the word is END, and every branch target, whatever the branch's condition. -/
def reachStep (ws : List PWord) (seen : List Nat) : List Nat :=
  (seen ++ (seen.map (fun i =>
    match ws[i]? with
    | none => []
    | some w =>
      (if w.op = 0x11 then [] else [i + 1]) ++ (if branches w.op then [(target i w.imm).toNat] else []))).flatten).eraseDups.filter (fun i => decide (i < ws.length))

/-- Words reached from a start. -/
def reachFrom (ws : List PWord) : Nat → List Nat → List Nat
  | 0, seen => seen
  | n + 1, seen =>
    let next := reachStep ws seen
    if next.length ≤ seen.length then seen else reachFrom ws n next

/-- Condition 8 of R224 on word `i`, given the words of the row-group and of the end program (R236). -/
def wordScopeOk (s : StationD) (k : KParam) (main fin : List Nat) (i : Nat) (w : PWord) : Bool :=
  !(w.op == 0x8D || w.op == 0x8E || w.op == 0x8F || w.op == 0x90) || s.dist = 0 || ((k.arr w).map (fun a => decide (a.scope = 1))).getD true ||
  (fin.contains i && !main.contains i)

/-- The match table a kernel writes. -/
def writtenTable (im : Image) (k : KParam) : Option (StationD × MatchP) :=
  (im.stations.find? (fun t => decide (t.stype = .matchSt) && u16at (im.paramBlock t) 2 = k.table)).map (fun t => (t, matchP (im.paramBlock t)))

/-- The conditions 2 to 9 and 12 of R224 on a word, each with its number. -/
def wordConds (im : Image) (s : StationD) (k : KParam) (ws : List PWord) (main fin : List Nat) (i : Nat) (w : PWord) : List (Nat × Bool) :=
  match opSpec w.op with
  | none => [(2, false)]
  | some sp =>
    let table := writtenTable im k
    [(2, wordFormOk sp w), (3, wordPlacesOk k sp w), (4, wordTypesOk k (table.map (·.2)) sp w),
     (5, !branches w.op || (decide (0 ≤ target i w.imm) && decide (target i w.imm < (ws.length : Int)))),
     (6, wordPortsOk im s k ws w), (7, wordNamesOk im k w), (8, wordScopeOk s k main fin i w),
     (9, decide (w.op ≠ 0x16) || (s.dist = 0 && decide (k.table ≠ 0xFFFF) && (table.map (fun t => decide (t.2.writer = s.index))).getD false)),
     (12, !(w.op = 0x10 && bit w.imm 9) || s.inPorts = 0)]

/-- The lowest word that fails a condition. -/
def failsAt (conds : List (List (Nat × Bool))) (c : Nat) : Option Nat := conds.findIdx? (fun xs => xs.any (fun x => x.1 == c && !x.2))

/-- Table areas lie in the parameter area. -/
def inParams (im : Image) (off n : Nat) : Bool := n = 0 || decide (off + n ≤ im.params.length)

/-- An array descriptor's rules (R219). -/
def arrOk (ps : Bytes) (off i : Nat) : Bool :=
  let o := off + 16 * i
  let a := readArr ps off i
  decide (a.kind ≤ 3) && decide (a.scope ≤ 1) && decide (a.place ≤ 1) && !(a.scope = 1 && a.place = 1) &&
  (if 2 ≤ a.kind then (match Ty.ofCode (u8at ps (o + 3)) with
    | some t => t.isF || t.isInt
    | none => false) else u8at ps (o + 3) = 0) && decide (1 ≤ a.cells) && decide (a.cells ≤ 16777216) && allZero ps (o + 8) 8

/-- A matrix buffer's rules (R219). -/
def mbufOk (im : Image) (off i : Nat) : Bool :=
  let ps := im.params
  let o := off + 16 * i
  let b := readMBuf ps off i
  decide (1 ≤ b.rows) && decide (b.rows ≤ 128) && decide (1 ≤ b.cols) && decide (b.cols ≤ 128) && KCls.buf.has b.ty && (Ty.ofCode (u8at ps (o + 4))).isSome &&
  allZero ps (o + 5) 3 && allZero ps (o + 0x0C) 4 && (b.init = noOffset || decide (b.init + b.rows * b.cols * b.ty.bytes ≤ ps.length))

/-- A value of a boundary list is below another (R219, R234): IEEE order, integers by value. -/
def boundLt (t : Ty) (x y : Nat) : Bool :=
  if t.isInt then decide (t.toInt x < t.toInt y)
  else match FVal.cmp (t.fmt.decode x) (t.fmt.decode y) with
  | some c => decide (c < 0)
  | none => false

/-- The values rise strictly and hold no NaN. -/
def rises (t : Ty) : List Nat → Bool
  | [] => true
  | [x] => t.isInt || decide (t.fmt.decode x ≠ .nan)
  | x :: y :: r => boundLt t x y && rises t (y :: r)

/-- A boundary list's rules (R219). -/
def boundOk (im : Image) (off i : Nat) : Bool :=
  let ps := im.params
  let o := off + 8 * i
  let b := readBound ps off i
  (match Ty.ofCode (u8at ps (o + 6)) with
   | some t => KCls.bound.has t
   | none => false) && decide (1 ≤ b.vals.length) && decide (b.vals.length ≤ 4096) && u8at ps (o + 7) = 0 &&
  decide (u32at ps o + b.vals.length * b.ty.bytes ≤ ps.length) && rises b.ty b.vals

/-- The rules of R216 and R218 on one port: mode and merge key. -/
def kportOk (im : Image) (s : StationD) (p : Bytes) (i : Nat) : Bool :=
  let m := u8at p (8 + i)
  let key := u8at p (0x10 + i)
  (if s.inPorts ≤ i then m = 0 else if i = 0 then m = 1 else m = 2 || m = 3 || m = 4) &&
  (if m = 3 then decide (key < 64) && bit (inCols im s.index i) key else key = 0)

/-- The rules of R218 and R219 that have no condition number. -/
def kblockOk (im : Image) (s : StationD) : Bool :=
  let p := im.paramBlock s
  let n (i : Nat) : Nat := u8at p i
  decide (1 ≤ n 0) && decide (n 0 ≤ 64) && decide (n 1 ≤ 4) && decide (n 2 ≤ 16) && decide (n 3 ≤ 128) && decide (1 ≤ u16at p 4) && decide (u16at p 4 ≤ 4096) &&
  decide (n 6 ≤ 64) && n 7 = 0 && decide (u32at p 0x2C ≤ 131072) && allZero p 0x36 10 &&
  inParams im (u32at p 0x18) (n 0) && inParams im (u32at p 0x1C) (8 * n 3) && inParams im (u32at p 0x20) (16 * n 2) && inParams im (u32at p 0x24) (16 * n 1) &&
  inParams im (u32at p 0x28) (8 * n 6) && (List.range (n 0)).all (fun i => (Ty.ofCode (u8at im.params (u32at p 0x18 + i))).isSome) &&
  (List.range (n 2)).all (arrOk im.params (u32at p 0x20)) && (List.range (n 1)).all (mbufOk im (u32at p 0x24)) &&
  (List.range (n 6)).all (boundOk im (u32at p 0x28)) && (List.range 8).all (kportOk im s p)

/-- Bytes of a cell in SRAM (R220). -/
def cellBytes (kind : Nat) : Nat := match kind with
  | 0 => 64 | 1 => 8 | _ => 16

/-- The fixed storage of R220. -/
def fixedStorage (k : KParam) : Nat :=
  (k.arrays.filter (fun a => a.place == 0)).foldl (fun t a => t + cellBytes a.kind * a.cells) 0 +
  k.mbufs.foldl (fun t b => t + b.rows * b.cols * b.ty.bytes) 0 + k.bounds.foldl (fun t b => t + b.vals.length * b.ty.bytes) 0 + 8 * k.consts.length

/-- The storage of one context (R220). -/
def contextBytes (k : KParam) : Nat := k.vslots * k.rowLimit * 8 + ceilDiv (k.vslots * k.rowLimit) 8 + k.heap

/-- HBM bytes of the arrays placed there (R220). -/
def arrayHbm (k : KParam) : Nat := (k.arrays.filter (fun a => a.place == 1)).foldl (fun t a => t + cellBytes a.kind * a.cells) 0

/-- The first rule of R218, R219 and R224 that a kernel station breaks, in the order of R224's list. -/
def kernelCheck (im : Image) (s : StationD) : Option Fail :=
  if !kblockOk im s then some ⟨2, 0, s.index⟩
  else
    let k := kparam im s
    let n := s.programWords
    if n = 0 ∨ 65536 < n ∨ (k.endEntry ≠ noOffset ∧ n ≤ k.endEntry) then some ⟨7, 1, s.programOffset⟩
    else
      let ws := (List.range n).map (progWord im s)
      let main := reachFrom ws n [0]
      let fin := if k.endEntry = noOffset then [] else reachFrom ws n [k.endEntry]
      let conds := ws.zipIdx.map (fun (w, i) => wordConds im s k ws main fin i w)
      let atWord (c : Nat) : Option Fail := (failsAt conds c).map (fun i => ⟨7, c, s.programOffset + 8 * i⟩)
      match [2, 3, 4, 5, 6, 7, 8, 9].findSome? atWord with
      | some f => some f
      | none =>
        let modes := (List.range 8).map (fun i => u8at (im.paramBlock s) (8 + i))
        if s.dist ≠ 0 ∧ (s.inPorts = 0 ∨ modes.any (fun m => m == 2 || m == 3)) then some ⟨2, 10, s.index⟩
        else if 229376 < fixedStorage k + contextBytes k then some ⟨2, 11, s.index⟩
        else atWord 12

end Sys2Proof.Machine
end

