-- ==== Sys2Proof/Machine/KernelOps.lean ====
section
/-!
DEFINITION. The elementwise kernel ops: one result for the sources of one row (08 R225 to R234, R242).
-/

namespace Sys2Proof.Machine

open Sys2Proof

/-- What an elementwise op reads beside its sources: TYPE, the types of D and of the sources, IMM, constant K0, the boundary list, the string dictionary. -/
structure EArg where
  ty : Ty
  td : Ty
  ta : Ty
  tb : Ty
  tc : Ty
  imm : Nat
  k0 : Nat
  bounds : List Nat
  dict : Bytes
  deriving DecidableEq, Repr

/-- The sources of one row. -/
structure Srcs where
  a : Option Val
  b : Option Val
  c : Option Val
  deriving DecidableEq, Repr

/-- Null where a source is null (R225). -/
def on1 (s : Srcs) (f : Val → Option Val) : Option Val := s.a.bind f
def on2 (s : Srcs) (f : Val → Val → Option Val) : Option Val := s.a.bind (fun a => s.b.bind (fun b => f a b))
def on3 (s : Srcs) (f : Val → Val → Val → Option Val) : Option Val := s.a.bind (fun a => s.b.bind (fun b => s.c.bind (fun c => f a b c)))

/-- A valid result of bits. -/
def rbits (n : Nat) : Option Val := some (.bits n)
/-- A BOOL result. -/
def rbool (b : Bool) : Option Val := rbits (b2n b)

/-- An op on F or I elements: the floating-point function on decoded values, the integer function on values, wrapping (R226, R227). -/
def num1 (x : EArg) (s : Srcs) (ff : Fmt → FVal → Nat) (fi : Int → Int) : Option Val :=
  on1 s (fun a => rbits (if x.ty.isInt then x.ty.ofInt (fi (x.ty.toInt a.n)) else ff x.ty.fmt (x.ty.fmt.decode a.n)))
def num2 (x : EArg) (s : Srcs) (ff : Fmt → FVal → FVal → Nat) (fi : Int → Int → Option Int) : Option Val :=
  on2 s (fun a b =>
    if x.ty.isInt then (fi (x.ty.toInt a.n) (x.ty.toInt b.n)).map (fun i => .bits (x.ty.ofInt i))
    else rbits (ff x.ty.fmt (x.ty.fmt.decode a.n) (x.ty.fmt.decode b.n)))
def num3 (x : EArg) (s : Srcs) (ff : Fmt → FVal → FVal → FVal → Nat) (fi : Int → Int → Int → Int) : Option Val :=
  on3 s (fun a b c =>
    rbits (if x.ty.isInt then x.ty.ofInt (fi (x.ty.toInt a.n) (x.ty.toInt b.n) (x.ty.toInt c.n))
      else ff x.ty.fmt (x.ty.fmt.decode a.n) (x.ty.fmt.decode b.n) (x.ty.fmt.decode c.n)))
/-- An op on F elements. -/
def flt1 (x : EArg) (s : Srcs) (f : Fmt → FVal → Nat) : Option Val := on1 s (fun a => rbits (f x.ty.fmt (x.ty.fmt.decode a.n)))

/-- The bits of a decoded value in its own format. -/
def Fmt.bitsOf (f : Fmt) (v : FVal) : Nat :=
  match v with
  | .nan => f.nan
  | .inf n => f.inf n
  | .fin n m e => f.rne n m e false

def Fmt.neg (f : Fmt) (v : FVal) : Nat := f.bitsOf v.neg
def Fmt.abs (f : Fmt) (v : FVal) : Nat := f.bitsOf (if v.sign then v.neg else v)
/-- MIN and MAX: NaN when an input is NaN, −0 below +0 (R226). -/
def Fmt.min2 (f : Fmt) (a b : FVal) : Nat := if a = .nan ∨ b = .nan then f.nan else f.bitsOf (if b.below a then b else a)
def Fmt.max2 (f : Fmt) (a b : FVal) : Nat := if a = .nan ∨ b = .nan then f.nan else f.bitsOf (if a.below b then b else a)
/-- CLAMP: max(b, min(a, c)). -/
def Fmt.clamp (f : Fmt) (a b c : FVal) : Nat := f.max2 b (f.decode (f.min2 a c))
def Fmt.recip (f : Fmt) (a : FVal) : Nat := f.div (.fin false 1 0) a
def Fmt.sign (f : Fmt) (a : FVal) : Nat :=
  match a with
  | .nan => f.nan
  | .inf n => f.rne n 1 0 false
  | .fin n m _ => if m = 0 then f.rne n 0 0 false else f.rne n 1 0 false

/-- MOV. -/
def elMov (_ : EArg) (s : Srcs) : Option Val := s.a
/-- VALID. -/
def elValid (_ : EArg) (s : Srcs) : Option Val := rbool s.a.isSome
/-- SETNULL: null where b is 1, else a (R225). -/
def elSetnull (_ : EArg) (s : Srcs) : Option Val :=
  match s.b with
  | some v => if v.n % 2 = 1 then none else s.a
  | none => s.a
/-- COALESCE. -/
def elCoalesce (_ : EArg) (s : Srcs) : Option Val := if s.a.isSome then s.a else s.b
/-- SEL: reads only the source it selects (R225). -/
def elSel (_ : EArg) (s : Srcs) : Option Val := s.c.bind (fun c => if c.n % 2 = 1 then s.a else s.b)

def elAdd (x : EArg) (s : Srcs) : Option Val := num2 x s Fmt.add (fun a b => some (a + b))
def elSub (x : EArg) (s : Srcs) : Option Val := num2 x s (fun f a b => f.add a b.neg) (fun a b => some (a - b))
def elMul (x : EArg) (s : Srcs) : Option Val := num2 x s Fmt.mul (fun a b => some (a * b))
/-- DIV: truncates toward zero; by zero null (R227). -/
def elDiv (x : EArg) (s : Srcs) : Option Val := num2 x s Fmt.div (fun a b => if b = 0 then none else some (Int.tdiv a b))
def elFma (x : EArg) (s : Srcs) : Option Val := num3 x s Fmt.fma (fun a b c => a * b + c)
def elNeg (x : EArg) (s : Srcs) : Option Val := num1 x s Fmt.neg (fun a => -a)
def elAbs (x : EArg) (s : Srcs) : Option Val := num1 x s Fmt.abs (fun a => (a.natAbs : Int))
def elMin (x : EArg) (s : Srcs) : Option Val := num2 x s Fmt.min2 (fun a b => some (min a b))
def elMax (x : EArg) (s : Srcs) : Option Val := num2 x s Fmt.max2 (fun a b => some (max a b))
def elClamp (x : EArg) (s : Srcs) : Option Val := num3 x s Fmt.clamp (fun a b c => max b (min a c))
def elSqrt (x : EArg) (s : Srcs) : Option Val := flt1 x s Fmt.sqrt
def elRecip (x : EArg) (s : Srcs) : Option Val := flt1 x s Fmt.recip
def elRsqrt (x : EArg) (s : Srcs) : Option Val := flt1 x s Fmt.rsqrt
def elExp (x : EArg) (s : Srcs) : Option Val := flt1 x s Fmt.exp
def elLog (x : EArg) (s : Srcs) : Option Val := flt1 x s Fmt.log
def elLog1p (x : EArg) (s : Srcs) : Option Val := flt1 x s Fmt.log1p
def elExpm1 (x : EArg) (s : Srcs) : Option Val := flt1 x s Fmt.expm1
def elFloor (x : EArg) (s : Srcs) : Option Val := flt1 x s (fun f v => f.integral .down v)
def elCeil (x : EArg) (s : Srcs) : Option Val := flt1 x s (fun f v => f.integral .up v)
def elRint (x : EArg) (s : Srcs) : Option Val := flt1 x s (fun f v => f.integral .near v)
def elTrunc (x : EArg) (s : Srcs) : Option Val := flt1 x s (fun f v => f.integral .zero v)
/-- MOD: the sign of the dividend; by zero null for I (R227), NaN for F (R228). -/
def elMod (x : EArg) (s : Srcs) : Option Val := num2 x s Fmt.fmod (fun a b => if b = 0 then none else some (Int.tmod a b))
/-- An integer op that saturates (R227). -/
def satOp (x : EArg) (s : Srcs) (f : Int → Int → Int) : Option Val :=
  on2 s (fun a b => rbits (x.ty.ofInt (x.ty.clampInt (f (x.ty.toInt a.n) (x.ty.toInt b.n)))))
def elAdds (x : EArg) (s : Srcs) : Option Val := satOp x s (· + ·)
def elSubs (x : EArg) (s : Srcs) : Option Val := satOp x s (· - ·)
def elMuls (x : EArg) (s : Srcs) : Option Val := satOp x s (· * ·)
def elSign (x : EArg) (s : Srcs) : Option Val := num1 x s Fmt.sign (fun a => if a < 0 then -1 else if a = 0 then 0 else 1)
/-- COPYSIGN: magnitude of a, sign of b; a NaN input gives the canonical NaN (R226). -/
def elCopysign (x : EArg) (s : Srcs) : Option Val :=
  on2 s (fun a b =>
    let f := x.ty.fmt
    let p := f.decode a.n
    let q := f.decode b.n
    rbits (if p = .nan ∨ q = .nan then f.nan else f.bitsOf (if p.sign = q.sign then p else p.neg)))

/-- Bytewise unsigned order, a prefix first (R228). -/
def strLt : Bytes → Bytes → Bool
  | _, [] => false
  | [], _ :: _ => true
  | x :: xs, y :: ys => decide (x.toNat < y.toNat) || (x == y && strLt xs ys)

/-- A compare: negative, zero or positive; none where a NaN takes part (R228). -/
def compare? (t : Ty) (a b : Val) : Option Int :=
  if t = .str then some (if strLt a.s b.s then -1 else if a.s = b.s then 0 else 1)
  else if t.isF then FVal.cmp (t.fmt.decode a.n) (t.fmt.decode b.n)
  else
    let p := t.toInt a.n
    let q := t.toInt b.n
    some (if p < q then -1 else if p = q then 0 else 1)

/-- A compare op: its answer for the order, and with a NaN. -/
def cmpOp (x : EArg) (s : Srcs) (nan : Bool) (f : Int → Bool) : Option Val :=
  on2 s (fun a b => rbool (match compare? x.ty a b with
    | some c => f c
    | none => nan))
def elCmpeq (x : EArg) (s : Srcs) : Option Val := cmpOp x s false (fun c => c = 0)
def elCmpne (x : EArg) (s : Srcs) : Option Val := cmpOp x s true (fun c => c ≠ 0)
def elCmplt (x : EArg) (s : Srcs) : Option Val := cmpOp x s false (fun c => decide (c < 0))
def elCmple (x : EArg) (s : Srcs) : Option Val := cmpOp x s false (fun c => decide (c ≤ 0))
def elCmpgt (x : EArg) (s : Srcs) : Option Val := cmpOp x s false (fun c => decide (0 < c))
def elCmpge (x : EArg) (s : Srcs) : Option Val := cmpOp x s false (fun c => decide (0 ≤ c))
/-- A test of a floating-point element. -/
def fltTest (x : EArg) (s : Srcs) (f : FVal → Bool) : Option Val := on1 s (fun a => rbool (f (x.ty.fmt.decode a.n)))
def elIsnan (x : EArg) (s : Srcs) : Option Val := fltTest x s (fun v => v = .nan)
def elIsinf (x : EArg) (s : Srcs) : Option Val := fltTest x s (fun v => match v with
  | .inf _ => true
  | _ => false)
def elIsfin (x : EArg) (s : Srcs) : Option Val := fltTest x s (fun v => match v with
  | .fin _ _ _ => true
  | _ => false)

/-- A bitwise op over the width of TYPE. -/
def bitOp (x : EArg) (s : Srcs) (f : Nat → Nat → Nat) : Option Val := on2 s (fun a b => rbits (wrap x.ty.width (f (wrap x.ty.width a.n) (wrap x.ty.width b.n))))
/-- Complement over a width. -/
def bnot (w n : Nat) : Nat := pow2 w - 1 - wrap w n
def elAnd (x : EArg) (s : Srcs) : Option Val := bitOp x s (· &&& ·)
def elOr (x : EArg) (s : Srcs) : Option Val := bitOp x s (· ||| ·)
def elXor (x : EArg) (s : Srcs) : Option Val := bitOp x s (· ^^^ ·)
def elNot (x : EArg) (s : Srcs) : Option Val := on1 s (fun a => rbits (bnot x.ty.width a.n))
def elAndn (x : EArg) (s : Srcs) : Option Val := bitOp x s (fun a b => a &&& bnot x.ty.width b)
/-- A shift by a count (R227): f gets the width, the bits and the count. -/
def shiftOp (x : EArg) (s : Srcs) (f : Nat → Nat → Nat → Nat) : Option Val :=
  on2 s (fun a b => rbits (f x.ty.width (wrap x.ty.width a.n) (wrap 32 b.n)))
def elShl (x : EArg) (s : Srcs) : Option Val := shiftOp x s (fun w a n => if w ≤ n then 0 else wrap w (a <<< n))
def elShr (x : EArg) (s : Srcs) : Option Val := shiftOp x s (fun w a n => if w ≤ n then 0 else a >>> n)
/-- SAR: the top bit is copied in, on unsigned types too (R227). -/
def elSar (x : EArg) (s : Srcs) : Option Val :=
  shiftOp x s (fun w a n => ofSigned w (toSigned w a / (pow2 (min n w) : Nat)))
/-- Rotation left within a width. -/
def rotl (w a n : Nat) : Nat := wrap w ((a <<< (n % w)) ||| (a >>> (w - n % w)))
def elRotl (x : EArg) (s : Srcs) : Option Val := shiftOp x s (fun w a n => rotl w a n)
def elRotr (x : EArg) (s : Srcs) : Option Val := shiftOp x s (fun w a n => rotl w a (w - n % w))
/-- A count of bits. -/
def countOp (x : EArg) (s : Srcs) (f : Nat → Nat → Nat) : Option Val := on1 s (fun a => rbits (f x.ty.width (wrap x.ty.width a.n)))
def elPopcnt (x : EArg) (s : Srcs) : Option Val := countOp x s (fun w a => ((List.range w).filter (fun i => bit a i)).length)
def elClz (x : EArg) (s : Srcs) : Option Val := countOp x s (fun w a => w - bitLen a)
def elCtz (x : EArg) (s : Srcs) : Option Val := countOp x s (fun w a => ((List.range w).find? (fun i => bit a i)).getD w)
def elBswap (x : EArg) (s : Srcs) : Option Val := on1 s (fun a => rbits (leNat (le x.ty.bytes a.n).reverse))

/-- CVT and CVTS (R230) from one fixed-width type to another; BOOL and DICT32 count as unsigned integers. -/
def convertTy (td ta : Ty) (mode : Rnd) (sat : Bool) (n : Nat) : Option Val :=
  if td.isFloat then
    rbits (if ta.isFloat then td.fmt.ofVal mode sat (ta.fmt.decode n) else td.fmt.ofInt mode sat (ta.toInt n))
  else if ta.isFloat then
    match ta.fmt.decode n with
    | .nan => if sat then rbits 0 else none
    | .inf neg => if sat then rbits (td.ofInt (if neg then td.minInt else td.maxInt)) else none
    | .fin neg m e =>
      let i := FVal.toInt mode neg m e
      if td.inRange i then rbits (td.ofInt i) else if sat then rbits (td.ofInt (td.clampInt i)) else none
  else
    let i := ta.toInt n
    if td.inRange i then rbits (td.ofInt i) else if sat then rbits (td.ofInt (td.clampInt i)) else none
def elCvt (x : EArg) (s : Srcs) : Option Val := on1 s (fun a => convertTy x.ty x.ta (Rnd.ofImm (field x.imm 1 0)) false a.n)
def elCvts (x : EArg) (s : Srcs) : Option Val := on1 s (fun a => convertTy x.ty x.ta (Rnd.ofImm (field x.imm 1 0)) true a.n)
def elReint (x : EArg) (s : Srcs) : Option Val := on1 s (fun a => rbits (wrap x.ty.width a.n))

/-- Year, month and day of a count of days since 1970-01-01 (R230). -/
def civil (days : Nat) : Nat × Nat × Nat :=
  let z := days + 719468
  let era := z / 146097
  let doe := z % 146097
  let yoe := (doe - doe / 1460 + doe / 36524 - doe / 146096) / 365
  let doy := doe - (365 * yoe + yoe / 4 - yoe / 100)
  let mp := (5 * doy + 2) / 153
  let m := if mp < 10 then mp + 3 else mp - 9
  (yoe + 400 * era + (if m ≤ 2 then 1 else 0), m, doy - (153 * mp + 2) / 5 + 1)

/-- TIMEPART (R230). -/
def timePart (item us : Nat) : Nat :=
  let sec := us / 1000000
  let days := sec / 86400
  match item with
  | 0 => us % 1000000 | 1 => sec % 60 | 2 => sec / 60 % 60 | 3 => sec / 3600 % 24 | 4 => (days + 3) % 7 | 5 => days
  | 6 => (civil days).2.2 | 7 => (civil days).2.1 | _ => (civil days).1
def elTimepart (x : EArg) (s : Srcs) : Option Val := on1 s (fun a => rbits (wrap 32 (timePart (field x.imm 3 0) a.n)))
def elTimetrunc (_ : EArg) (s : Srcs) : Option Val := on2 s (fun a b => if b.n = 0 then none else rbits (a.n - a.n % b.n))

/-- The seed operand. -/
def seedOf (b : Val) : Nat := wrap 64 b.n
def elXxh64 (x : EArg) (s : Srcs) : Option Val := on2 s (fun a b => rbits (xxhash64 (byteForm x.ty a) (seedOf b)))
def elMur3l (x : EArg) (s : Srcs) : Option Val := on2 s (fun a b => rbits (murmur3 (byteForm x.ty a) (wrap 32 (seedOf b))).1)
def elMur3h (x : EArg) (s : Srcs) : Option Val := on2 s (fun a b => rbits (murmur3 (byteForm x.ty a) (wrap 32 (seedOf b))).2)
/-- CRC32C: a seed whose low half is not zero goes before the bytes (R233). -/
def elCrc32c (x : EArg) (s : Srcs) : Option Val :=
  on2 s (fun a b =>
    let bs := byteForm x.ty a
    let k := wrap 32 (seedOf b)
    rbits (if k = 0 then crc32c bs else crc32c (le 4 k ++ bs)))
/-- A byte form as XXH64C lays it: a STR behind its length (R233). -/
def concatForm (t : Ty) (v : Val) : Bytes := if t = .str then le 4 v.s.length ++ v.s else byteForm t v
def elXxh64c (x : EArg) (s : Srcs) : Option Val :=
  if x.imm = 3 then on3 s (fun a b c => rbits (xxhash64 (concatForm x.ty a ++ concatForm x.ty b ++ concatForm x.ty c) x.k0))
  else on2 s (fun a b => rbits (xxhash64 (concatForm x.ty a ++ concatForm x.ty b) x.k0))
def elHmod (_ : EArg) (s : Srcs) : Option Val := on2 s (fun a b => if b.n = 0 then none else rbits (a.n % b.n))
def elHbucket (x : EArg) (s : Srcs) : Option Val :=
  on3 s (fun a b c => if wrap 64 c.n = 0 then none else rbits (xxhash64 (byteForm x.ty a) (seedOf b) % wrap 64 c.n))

/-- A boundary is at or below a value (R234). -/
def boundLe (t : Ty) (b v : Nat) : Bool :=
  if t.isInt then decide (t.toInt b ≤ t.toInt v)
  else match FVal.cmp (t.fmt.decode b) (t.fmt.decode v) with
  | some c => decide (c ≤ 0)
  | none => false

/-- bucketise (R234): the search between lo and hi. -/
def bucketSearch (t : Ty) (bs : List Nat) (v : Nat) : Nat → Nat → Nat → Nat
  | 0, lo, _ => lo
  | n + 1, lo, hi =>
    if hi ≤ lo then lo
    else
      let mid := lo + (hi - lo) / 2
      if boundLe t (bs.getD mid 0) v then bucketSearch t bs v n (mid + 1) hi else bucketSearch t bs v n lo mid
def elBucket (x : EArg) (s : Srcs) : Option Val :=
  on1 s (fun a =>
    if x.ty.isF && decide (x.ty.fmt.decode a.n = .nan) then rbits (x.bounds.length + 1)
    else rbits (bucketSearch x.ty x.bounds a.n (x.bounds.length + 1) 0 x.bounds.length))

/-- A finite value as an integer times `2 ^ e` for an exponent not above its own. -/
def scaleTo (neg : Bool) (m : Nat) (e low : Int) : Int :=
  let x : Int := ((m * pow2 (e - low).toNat : Nat) : Int)
  if neg then -x else x

/-- floor((a − b) ÷ c) limited to 0 to m − 1, for a positive c. -/
def bucketW (a b c : Int) (m : Nat) : Nat :=
  let q := (a - b) / c
  if q < 0 then 0 else min q.toNat (m - 1)
/-- BUCKETW (R234). -/
def elBucketw (x : EArg) (s : Srcs) : Option Val :=
  let m := x.imm
  on3 s (fun a b c =>
    if x.ty.isInt then
      (if x.ty.toInt c.n ≤ 0 then none else rbits (bucketW (x.ty.toInt a.n) (x.ty.toInt b.n) (x.ty.toInt c.n) m))
    else
      let f := x.ty.fmt
      match f.decode c.n, f.decode b.n, f.decode a.n with
      | .fin nc mc ec, .fin nb mb eb, v =>
        if nc ∨ mc = 0 then none
        else (match v with
          | .nan => rbits m
          | .inf n => rbits (if n then 0 else m - 1)
          | .fin na ma ea =>
            let low := min ea (min eb ec)
            rbits (bucketW (scaleTo na ma ea low) (scaleTo nb mb eb low) (scaleTo false mc ec low) m))
      | _, _, _ => none)

def elSlen (_ : EArg) (s : Srcs) : Option Val := on1 s (fun a => rbits a.s.length)
def elSchars (_ : EArg) (s : Srcs) : Option Val := on1 s (fun a => (chars a.s).map (fun cs => .bits cs.length))
/-- A STR result; null when it is longer than 65,535 bytes (R242). -/
def rstr (b : Bytes) : Option Val := if 65535 < b.length then none else some (.str b)
def elSlower (_ : EArg) (s : Srcs) : Option Val := on1 s (fun a => rstr (lowerAscii a.s))
def elSupper (_ : EArg) (s : Srcs) : Option Val :=
  on1 s (fun a => rstr (a.s.map (fun b => if 0x61 ≤ b.toNat ∧ b.toNat ≤ 0x7A then b - 0x20 else b)))
/-- SSUB: start and count in code points, clipped (R242). -/
def elSsub (_ : EArg) (s : Srcs) : Option Val := on3 s (fun a b c => (chars a.s).bind (fun cs => rstr (((cs.drop (wrap 32 b.n)).take (wrap 32 c.n)).flatten)))
def elSprefix (_ : EArg) (s : Srcs) : Option Val := on2 s (fun a b => rbool (b.s.isPrefixOf a.s))
def elSsuffix (_ : EArg) (s : Srcs) : Option Val := on2 s (fun a b => rbool (b.s.isSuffixOf a.s))
/-- The first place where one string begins in another. -/
def findStr (b : Bytes) : Bytes → Nat → Option Nat
  | [], i => if b.isEmpty then some i else none
  | x :: xs, i => if b.isPrefixOf (x :: xs) then some i else findStr b xs (i + 1)
def elSfind (_ : EArg) (s : Srcs) : Option Val :=
  on2 s (fun a b => rbits (match findStr b.s a.s 0 with
    | some i => i
    | none => pow2 32 - 1))
/-- A string split at a delimiter byte. -/
def splitAtByte (sep : Byte) (bs : Bytes) : List Bytes :=
  bs.foldr (fun b acc =>
    match acc with
    | [] => [[b]]
    | x :: xs => if b = sep then [] :: x :: xs else (b :: x) :: xs) [[]]
def elSfield (x : EArg) (s : Srcs) : Option Val := on2 s (fun a b => ((splitAtByte (byteOf (field x.imm 7 0)) a.s)[wrap 32 b.n]?).bind rstr)
/-- STOI: integer text by R150 into D's type; null where R150 makes a corrupt row (R242). -/
def elStoi (x : EArg) (s : Srcs) : Option Val :=
  on1 s (fun a => (intText a.s).bind (fun i => if x.td.inRange i then rbits (x.td.ofInt i) else none))
/-- STOF: a number of RFC 8259 (R242). -/
def elStof (x : EArg) (s : Srcs) : Option Val :=
  on1 s (fun a =>
    match takeNumber a.s with
    | some (d, []) => rbits (d.toFloat x.td.fmt false)
    | _ => none)
/-- DSTR: a code's string in a dictionary region (R242). -/
def elDstr (x : EArg) (s : Srcs) : Option Val :=
  on1 s (fun a =>
    let n := u32at x.dict 0
    let base := 8 + 4 * n
    let stop (i : Nat) : Nat := u32at x.dict (8 + 4 * i)
    if n ≤ a.n then none
    else
      let lo := if a.n = 0 then 0 else stop (a.n - 1)
      rstr ((x.dict.drop (base + lo)).take (stop a.n - lo)))
def elScat (_ : EArg) (s : Srcs) : Option Val := on2 s (fun a b => rstr (a.s ++ b.s))

/-- The elementwise op of a code; none for the ops that act otherwise. -/
def elementOp (op : Nat) : Option (EArg → Srcs → Option Val) :=
  match op with
  | 0x03 => some elMov | 0x06 => some elValid | 0x07 => some elSetnull | 0x08 => some elCoalesce | 0x09 => some elSel
  | 0x20 => some elAdd | 0x21 => some elSub | 0x22 => some elMul | 0x23 => some elDiv | 0x24 => some elFma | 0x25 => some elNeg | 0x26 => some elAbs
  | 0x27 => some elMin | 0x28 => some elMax | 0x29 => some elClamp | 0x2A => some elSqrt | 0x2B => some elRecip | 0x2C => some elRsqrt
  | 0x2D => some elExp | 0x2E => some elLog | 0x2F => some elLog1p | 0x30 => some elExpm1 | 0x31 => some elFloor | 0x32 => some elCeil
  | 0x33 => some elRint | 0x34 => some elTrunc | 0x35 => some elMod | 0x36 => some elAdds | 0x37 => some elSubs | 0x38 => some elMuls
  | 0x39 => some elSign | 0x3A => some elCopysign
  | 0x40 => some elCmpeq | 0x41 => some elCmpne | 0x42 => some elCmplt | 0x43 => some elCmple | 0x44 => some elCmpgt | 0x45 => some elCmpge
  | 0x46 => some elIsnan | 0x47 => some elIsinf | 0x48 => some elIsfin
  | 0x50 => some elAnd | 0x51 => some elOr | 0x52 => some elXor | 0x53 => some elNot | 0x54 => some elAndn | 0x55 => some elShl | 0x56 => some elShr
  | 0x57 => some elSar | 0x58 => some elRotl | 0x59 => some elRotr | 0x5A => some elPopcnt | 0x5B => some elClz | 0x5C => some elCtz | 0x5D => some elBswap
  | 0x60 => some elCvt | 0x61 => some elCvts | 0x62 => some elReint | 0x63 => some elTimepart | 0x64 => some elTimetrunc
  | 0x68 => some elXxh64 | 0x69 => some elMur3l | 0x6A => some elMur3h | 0x6B => some elCrc32c | 0x6C => some elXxh64c | 0x6D => some elHmod
  | 0x6E => some elHbucket | 0x70 => some elBucket | 0x71 => some elBucketw
  | 0x78 => some elSlen | 0x79 => some elSchars | 0x7A => some elSlower | 0x7B => some elSupper | 0x7C => some elSsub | 0x7D => some elSprefix
  | 0x7E => some elSsuffix | 0x7F => some elSfind | 0x80 => some elSfield | 0x81 => some elStoi | 0x82 => some elStof | 0x83 => some elDstr
  | 0x84 => some elScat
  | _ => none

/-- Ops that write their results to the string heap (R242). -/
def usesHeap (op : Nat) : Bool := [0x7A, 0x7B, 0x7C, 0x80, 0x83, 0x84].contains op

end Sys2Proof.Machine
end

