-- ==== Sys2Proof/Machine/KernelRun.lean ====
section
/-!
DEFINITION. Kernel stations: row groups, contexts, the ops that act on more than one element, end programs (08 R212 to R217, R222, R223, R228, R235 to R244).
-/

namespace Sys2Proof.Machine

open Sys2Proof

/-- Where a kernel runs. -/
structure KEnv where
  m : Memory
  slot : Nat
  st : Nat
  im : Image
  s : StationD
  p : KParam
  deriving DecidableEq, Repr

/-- What a word acts on: the device, the station, the open row group. -/
structure KM where
  d : Dev
  k : KernelSt
  c : Ctx
  deriving DecidableEq, Repr

/-- Why a word does not end normally: a fault of R245, a failed memory access, or the job has stopped. -/
inductive KErr where
  | fault (code detail detail2 : Nat)
  | acc (e : AccErr)
  | dead (d : Dev)
  deriving DecidableEq, Repr

/-- What a word answers. -/
abbrev KRes := Except KErr KM

/-- Rows of the group. -/
def Ctx.n (c : Ctx) : Nat := c.rows.length

/-- Ordinal of the group's first row. -/
def Ctx.first (c : Ctx) : Nat := (c.rows.head?.map (·.ord)).getD 0

/-- Ordinal of a row of the group. -/
def Ctx.ordAt (c : Ctx) (i : Nat) : Nat := (c.rows[i]?.map (·.ord)).getD 0

/-- A scalar's 64 bits. -/
def Ctx.scalar (c : Ctx) (i : Nat) : Nat := (assocGet c.scal i).getD (wrap 64 (Config.scalarInit i))

/-- A slot's elements; a slot that nothing has written holds nulls. -/
def Ctx.slot (c : Ctx) (i : Nat) : List (Option Val) := (assocGet c.slots i).getD (List.replicate c.n none)

/-- Writes a slot. -/
def Ctx.setSlot (c : Ctx) (i : Nat) (vs : List (Option Val)) : Ctx := { c with slots := assocSet c.slots i vs }

/-- The 64 bits of a scalar or constant operand (R222). -/
def rawOp (p : KParam) (c : Ctx) (x : Nat) : Nat := if x < 0x80 then c.scalar (x - 0x40) else wrap 64 (p.const x)

/-- An operand as `n` elements of a type (R222). -/
def readOp (p : KParam) (c : Ctx) (n x : Nat) (t : Ty) : List (Option Val) :=
  if x < 0x40 then c.slot x else List.replicate n (some (.bits (wrap t.width (rawOp p c x))))

/-- The type an operand is read as (R222, R228): a slot's own; for a scalar or constant the type the op table names, else the word's TYPE. -/
def operandTy (p : KParam) (ty : Ty) (t : STy) (x : Nat) : Ty :=
  if x < 0x40 then p.slotTy x
  else match t with
  | .own t => t
  | .index => .i64
  | .no => .u64
  | _ => ty

/-- Writes a result: a slot takes the elements, a scalar the first, zero for null (R222). -/
def writeOp (c : Ctx) (x : Nat) (vs : List (Option Val)) : Ctx :=
  if x < 0x40 then c.setSlot x vs else { c with scal := assocSet c.scal (x - 0x40) (wrap 64 (((vs.head?.bind id).map Val.n).getD 0)) }

/-- Writes a scalar. -/
def Ctx.setScalar (c : Ctx) (x v : Nat) : Ctx := { c with scal := assocSet c.scal (x - 0x40) (wrap 64 v) }

/-- A region's bytes at an offset, or why a kernel op cannot read them (R228, 13 R346). -/
def kread (e : KEnv) (x : KM) (region off len : Nat) : Except KErr Bytes :=
  match regRead e.m x.d (bindingOr (getJob x.d e.slot) region) off len with
  | .ok b => .ok b
  | .error a => .error (.acc a)

/-- The TYPE of a word. -/
def PWord.type (w : PWord) : Ty := (Ty.ofCode w.ty).getD .u64

/-- What an elementwise word reads beside its sources. -/
def elementArg (e : KEnv) (w : PWord) (dict : Bytes) : EArg :=
  let sp := (opSpec w.op).getD {}
  { ty := w.type, td := if w.d < 0x40 then e.p.slotTy w.d else w.type, ta := operandTy e.p w.type sp.a.2 w.a, tb := operandTy e.p w.type sp.b.2 w.b,
    tc := operandTy e.p w.type sp.c.2 w.c, imm := w.imm, k0 := wrap 64 (e.p.consts.headD 0), bounds := ((e.p.bounds[w.imm]?).map (·.vals)).getD [], dict := dict }

/-- The results of an elementwise word: one a row in vector form, one in scalar form (R222, R225, R242). -/
def elementOut (f : EArg → Srcs → Option Val) (e : KEnv) (w : PWord) (c : Ctx) (dict : Bytes) : List (Option Val) :=
  let n := if w.d < 0x40 then c.n else 1
  let x := elementArg e w dict
  let va := readOp e.p c n w.a x.ta
  let vb := readOp e.p c n w.b x.tb
  let vc := readOp e.p c n w.c x.tc
  (List.range n).map (fun i => f x { a := va.getD i none, b := vb.getD i none, c := vc.getD i none })

/-- Bytes of the string heap in use when a word's results are written (R242). -/
def heapAfter (op : Nat) (c : Ctx) (out : List (Option Val)) : Nat :=
  c.heap + (if usesHeap op then out.foldl (fun a v => a + ((v.map (fun v => v.s.length)).getD 0)) 0 else 0)

/-- An elementwise word: vector form over the rows, or scalar form once (R222, R225, R242). -/
def kElement (f : EArg → Srcs → Option Val) (e : KEnv) (w : PWord) (x : KM) : KRes :=
  match (if w.op = 0x83 then kread e x w.imm 0 (bindingOr (getJob x.d e.slot) w.imm).bytes else .ok []) with
  | .error r => .error r
  | .ok dict =>
    let out := elementOut f e w x.c dict
    if e.p.heap < heapAfter w.op x.c out then .error (.fault 0x0809 (x.c.pc - 1) x.c.first)
    else .ok { x with c := { writeOp x.c w.d out with heap := heapAfter w.op x.c out } }

/-- NOP. -/
def kNop (_ : KEnv) (_ : PWord) (x : KM) : KRes := .ok x

/-- The row a port gives beside each driving row (R216). -/
def portRows (x : KM) (port : Nat) : List (Option Row) :=
  if port = 0 then x.c.rows.map (fun r => some r.row) else (assocGet x.c.side port).getD (List.replicate x.c.n none)

/-- LDCOL (R228). -/
def kLdcol (e : KEnv) (w : PWord) (x : KM) : KRes :=
  let port := field w.imm 10 8
  let col := field w.imm 5 0
  let rows := portRows x port
  let t := e.p.slotTy w.d
  match rows.findIdx? (fun r => ((r.bind (fun r => Row.ty r col)).map (fun u => decide (u ≠ t))).getD false) with
  | some i => .error (.fault 0x0808 (256 * port + col) ((x.c.rows[i]?.map (·.seq)).getD 0))
  | none => .ok { x with c := x.c.setSlot w.d (rows.map (fun r => r.bind (fun r => Row.get r col))) }

/-- STCOL (R228, R243): staged for the port's next EMIT. -/
def kStcol (e : KEnv) (w : PWord) (x : KM) : KRes :=
  let port := field w.imm 10 8
  let col := field w.imm 5 0
  let rest := x.c.staged.filter (fun s => !(s.1 == port && s.2.1 == col))
  .ok { x with c := { x.c with staged := rest ++ [(port, col, e.p.slotTy w.a, x.c.slot w.a)] } }

/-- ROWIDX. -/
def kRowidx (_ : KEnv) (w : PWord) (x : KM) : KRes := .ok { x with c := x.c.setSlot w.d (x.c.rows.map (fun r => some (.bits r.ord))) }

/-- INFO (R229). -/
def kInfo (e : KEnv) (w : PWord) (x : KM) : KRes :=
  let v := match w.imm with
    | 0 => x.c.n | 1 => x.c.first | 2 => x.c.seq | 3 => e.im.seed | 4 => e.im.firstEpoch | _ => x.c.part
  .ok { x with c := x.c.setScalar w.d v }

/-- What names a value that the spec leaves open at a row of a group: image, station, row ordinal, word and a number. The same job gives the same value
again (04 R104; log entry 114). -/
def openKey (e : KEnv) (x : KM) (i k : Nat) : List Nat := [e.im.check, e.st, x.c.ordAt i, x.c.pc, b2n x.c.endProg, k]

/-- The payload of a row's driving tile; free bytes where there is none. -/
def rowPayload (e : KEnv) (x : KM) (i : Nat) : Bytes :=
  (assocGet x.c.payloads ((x.c.rows[i]?.map (·.seq)).getD 0)).getD (padTo 4096 (Config.jobBytes (openKey e x i 0)))

/-- The first row whose payload offset runs past 4,096. -/
def badOffset (offs : List (Option Val)) (width : Nat) : Option Nat := offs.findIdx? (fun o => (o.map (fun v => decide (4096 < v.n + width))).getD false)

/-- LDPAY. -/
def kLdpay (e : KEnv) (w : PWord) (x : KM) : KRes :=
  let n := if w.d < 0x40 then x.c.n else 1
  let t := w.type
  let offs := readOp e.p x.c n w.a .u32
  match badOffset offs t.bytes with
  | some i => .error (.fault 0x0802 0xFFFF (x.c.ordAt i))
  | none => .ok { x with c := writeOp x.c w.d (offs.zipIdx.map (fun (o, i) => o.map (fun v => .bits (uat (rowPayload e x i) v.n t.bytes)))) }

/-- Bytes placed at an offset of others. -/
def putBytes (b : Bytes) (off : Nat) (bs : Bytes) : Bytes := padTo off b ++ bs ++ b.drop (off + bs.length)

/-- STPAY. -/
def kStpay (e : KEnv) (w : PWord) (x : KM) : KRes :=
  let n := if w.a < 0x40 ∨ w.b < 0x40 then x.c.n else 1
  let t := w.type
  let vals := readOp e.p x.c n w.a t
  let offs := readOp e.p x.c n w.b .u32
  match badOffset offs t.bytes with
  | some i => .error (.fault 0x0802 0xFFFF (x.c.ordAt i))
  | none =>
    let put (b : Bytes) (p : Option Val × Option Val) : Bytes := match p with
      | (some v, some o) => putBytes b o.n (le t.bytes v.n)
      | _ => b
    .ok { x with c := { x.c with build := (vals.zip offs).foldl put x.c.build } }

/-- Reads one element of a table region. -/
def tableElem (e : KEnv) (x : KM) (region i : Nat) (t : Ty) : Except KErr (Option Val) :=
  match kread e x region (i * t.bytes) t.bytes with
  | .ok b => .ok (some (.bits (leNat b)))
  | .error r => .error r

/-- LDTAB's elements, row by row. -/
def loadTable (e : KEnv) (x : KM) (region : Nat) (t ta : Ty) : List (Option Val) → Nat → Except KErr (List (Option Val))
  | [], _ => .ok []
  | v :: vs, i =>
    let one : Except KErr (Option Val) := match v with
      | none => .ok none
      | some v =>
        let j := ta.toInt v.n
        if j < 0 ∨ (bindingOr (getJob x.d e.slot) region).bytes < (j.toNat + 1) * t.bytes then .error (.fault 0x0802 region (x.c.ordAt i))
        else tableElem e x region j.toNat t
    match one, loadTable e x region t ta vs (i + 1) with
    | .ok r, .ok rs => .ok (r :: rs)
    | .error r, _ => .error r
    | _, .error r => .error r

/-- LDTAB. -/
def kLdtab (e : KEnv) (w : PWord) (x : KM) : KRes :=
  let n := if w.d < 0x40 then x.c.n else 1
  let ta := operandTy e.p w.type .index w.a
  match loadTable e x w.imm w.type ta (readOp e.p x.c n w.a ta) 0 with
  | .ok vs => .ok { x with c := writeOp x.c w.d vs }
  | .error r => .error r

/-- Branches: IMM is added to the address of the next word (R223). -/
def branch (w : PWord) (x : KM) (taken : Bool) : KRes := .ok (if taken then { x with c := { x.c with pc := ((x.c.pc : Int) + toSigned 16 w.imm).toNat } } else x)
/-- BR. -/
def kBr (_ : KEnv) (w : PWord) (x : KM) : KRes := branch w x true
/-- BRZ. -/
def kBrz (e : KEnv) (w : PWord) (x : KM) : KRes := branch w x (rawOp e.p x.c w.a = 0)
/-- BRNZ. -/
def kBrnz (e : KEnv) (w : PWord) (x : KM) : KRes := branch w x (rawOp e.p x.c w.a ≠ 0)

/-- A tile held as possibly the last of a port goes out before rows follow it. -/
def flushPend (d : Dev) (slot st port : Nat) : Dev :=
  match (getOut d slot st port).pend with
  | some t => sealTile (modOut d slot st port (fun o => { o with pend := none })) slot st port t.rows t.columns t.payload false
  | none => d

/-- The row that the staged columns of a port give at row `i` (R243). -/
def stagedRow (c : Ctx) (port i : Nat) : Row :=
  (c.staged.filter (fun s => s.1 == port)).foldl (fun r s => Row.put r { col := s.2.1, ty := s.2.2.1, val := s.2.2.2.getD i none }) []

/-- Appends emitted rows (R243). -/
def emitRows (e : KEnv) (port : Nat) (x : KM) : List Nat → Dev → Except KErr Dev
  | [], d => .ok d
  | i :: is, d =>
    let r := stagedRow x.c port i
    if 4096 < packedSize [r] then .error (.fault 0x0806 port (x.c.ordAt i))
    else
      let d := addRow e.slot e.st port d r
      if stopped d e.slot then .error (.dead d) else emitRows e port x is d

/-- EMIT (R243). -/
def kEmit (e : KEnv) (w : PWord) (x : KM) : KRes :=
  let port := field w.imm 2 0
  let k := if bit w.imm 9 then { x.k with stop := true } else x.k
  if bit w.imm 10 then
    let rows := rawOp e.p x.c w.b
    let bytes := rawOp e.p x.c w.c
    if 4096 < rows ∨ 4096 < bytes then .error (.fault 0x0807 port (wrap 32 rows * pow2 32 + wrap 32 bytes))
    else
      let q := (outQueues e.im e.st port).head?.getD {}
      let d := if (getOut x.d e.slot e.st port).rows.isEmpty then x.d else sealRows x.d e.slot e.st port false
      let d := if (getOut d e.slot e.st port).recs.isEmpty then d else sealRecs d e.slot e.st port false
      let d := addTile d e.slot e.st port rows (if hasColumns q.format then q.columns else 0) (padTo bytes x.c.build)
      if stopped d e.slot then .error (.dead d) else .ok { d := d, k := k, c := { x.c with build := [] } }
  else
    let mask := readOp e.p x.c x.c.n w.a .bool
    let sel := (List.range x.c.n).filter (fun i => bit w.imm 8 || ((mask.getD i none).map (fun v => decide (v.n % 2 = 1))).getD false)
    let d := if sel.isEmpty then x.d else flushPend x.d e.slot e.st port
    match emitRows e port x sel d with
    | .ok d => .ok { d := d, k := k, c := { x.c with staged := x.c.staged.filter (fun s => s.1 != port) } }
    | .error r => .error r

/-- END. -/
def kEnd (_ : KEnv) (_ : PWord) (x : KM) : KRes := .ok { x with c := { x.c with done := true } }

/-- RAISE. -/
def kRaise (e : KEnv) (w : PWord) (x : KM) : KRes := .error (.fault 0x08F0 (wrap 32 (rawOp e.p x.c w.a)) x.c.first)

/-- The valid bits of a BOOL operand over the rows. -/
def boolBits (e : KEnv) (w : PWord) (x : KM) : List Bool := ((readOp e.p x.c x.c.n w.a .bool).filterMap id).map (fun v => decide (v.n % 2 = 1))
/-- SCOUNT. -/
def kScount (e : KEnv) (w : PWord) (x : KM) : KRes := .ok { x with c := x.c.setScalar w.d ((boolBits e w x).filter id).length }
/-- SANY. -/
def kSany (e : KEnv) (w : PWord) (x : KM) : KRes := .ok { x with c := x.c.setScalar w.d (b2n ((boolBits e w x).any id)) }
/-- SALL: every valid row is 1. -/
def kSall (e : KEnv) (w : PWord) (x : KM) : KRes := .ok { x with c := x.c.setScalar w.d (b2n ((boolBits e w x).all id)) }

/-- The bytes of a half in the kernel's issue order (R200, R211). -/
def Half.size (h : Half) : Nat := 8 + roundUp h.bs.length 8

/-- An element of a slot as a number; a free one where it is null. -/
def slotNum (e : KEnv) (x : KM) (s i : Nat) : Nat :=
  match (x.c.slot s).getD i none with
  | some v => v.n
  | none => wrap 64 (Config.jobNat (openKey e x i s))

/-- The pair that row `i` issues (R244). -/
def rowPair (e : KEnv) (q : MatchP) (w : PWord) (x : KM) (i ord : Nat) : MPair :=
  let k1 := field w.imm 1 0
  let k2 := field w.imm 3 2
  let nums (s n : Nat) : Bytes := ((List.range n).map (fun u => le 8 (slotNum e x (s + u) i))).flatten
  { first := { kind := k1, ordinal := ord, bs := if k1 = 1 then nums w.b (2 * q.w) else [] },
    second := { kind := k2, ordinal := ord, bs := if k2 = 3 then nums w.d (q.resultBytes / 8) else [] } }

/-- Issues the pairs of the rows in order (R204, R244). -/
def issuePairs (e : KEnv) (w : PWord) (q : MatchP) (mst seq : Nat) (x : KM) (ords : List (Option Val)) : List Nat → Dev → Except KErr Dev
  | [], d => .ok d
  | i :: is, d =>
    match ords.getD i none with
    | none => issuePairs e w q mst seq x ords is d
    | some v =>
      let p := rowPair e q w x i v.n
      let mine := ((matchSt d e.slot mst).held.filter (fun h => h.1 == seq)).map (·.2)
      let off := mine.foldl (fun a p => a + p.first.size + p.second.size) 0
      if 4096 ≤ mine.length then .error (.fault 0x0303 q.table seq)
      else if !q.halfOk p.first 0 p.first.bs.length false then .error (.fault 0x0304 q.table off)
      else if !q.halfOk p.second 0 p.second.bs.length true then .error (.fault 0x0304 q.table (off + p.first.size))
      else issuePairs e w q mst seq x ords is (modMatch d e.slot mst (fun y => { y with held := y.held ++ [(seq, p)] }))

/-- MWRITE (R244). -/
def kMwrite (e : KEnv) (w : PWord) (x : KM) : KRes :=
  match writtenTable e.im e.p with
  | none => .ok x
  | some (t, q) =>
    let seq := if x.c.endProg then (match inQueueNo (getJob x.d e.slot) e.st 0 with
      | some (n, k) => (getQ x.d e.slot n).taken.getD k 0 - 1
      | none => 0) else x.c.seq
    let go := readOp e.p x.c x.c.n w.c .bool
    let sel := (List.range x.c.n).filter (fun i => ((go.getD i none).map (fun v => decide (v.n % 2 = 1))).getD false)
    match issuePairs e w q t.index seq x (readOp e.p x.c x.c.n w.a .u32) sel x.d with
    | .ok d => .ok { x with d := d }
    | .error r => .error r

/-- A cell of an array; an empty one of its kind (R235). -/
def emptyCell (kind : Nat) : KCell := match kind with
  | 0 => .sum {} | 1 => .count 0 | _ => .ext 0 0
def getCell (k : KernelSt) (arr kind cell : Nat) : KCell := (assocGet (k.arrays.getD arr []) cell).getD (emptyCell kind)
/-- Writes a cell. -/
def setCell (k : KernelSt) (arr cell : Nat) (v : KCell) : KernelSt := { k with arrays := modifyAt k.arrays arr (fun a => assocSet a cell v) }

/-- The stored form of a MIN or MAX term: FP64 bits, I64 or U64 (R235); none for NaN. -/
def extValue (t : Ty) (n : Nat) : Option Nat :=
  if t.isInt then some (ofSigned 64 (t.toInt n))
  else match t.fmt.decode n with
  | .nan => none
  | v => some (fp64.ofVal .near false v)

/-- A stored extreme is below another. -/
def extBelow (t : Ty) (a b : Nat) : Bool :=
  if t.isInt then (if t.isSigned then decide (toSigned 64 a < toSigned 64 b) else decide (a < b)) else (fp64.decode a).below (fp64.decode b)

/-- Combines two cells of one array (R235); none where a count passes 2^64 − 1. -/
def joinCells (a : ArrD) (x y : KCell) : Option KCell :=
  let lim := pow2 64
  match x, y with
  | .sum p, .sum q => if lim ≤ p.count + q.count then none else some (.sum (p.add q))
  | .count p, .count q => if lim ≤ p + q then none else some (.count (p + q))
  | .ext s v, .ext t u =>
    if s = 2 ∨ t = 2 then some (.ext 2 0)
    else if s = 0 then some (.ext t u)
    else if t = 0 then some (.ext s v)
    else some (.ext 1 (if a.kind = 2 then (if extBelow a.ty u v then u else v) else (if extBelow a.ty v u then u else v)))
  | c, _ => some c

/-- Folds a cell into an array's cell: out of range 0x080A, a count past its end 0x0805 (R228, R235). -/
def foldCell (a : ArrD) (arr cell : Nat) (v : KCell) (k : KernelSt) : Except KErr KernelSt :=
  if a.cells ≤ cell then .error (.fault 0x080A arr cell)
  else match joinCells a (getCell k arr a.kind cell) v with
  | some c => .ok (setCell k arr cell c)
  | none => .error (.fault 0x0805 arr cell)

/-- Folds many. -/
def foldCells (a : ArrD) (arr : Nat) : List (Nat × KCell) → KernelSt → Except KErr KernelSt
  | [], k => .ok k
  | (cell, v) :: r, k =>
    match foldCell a arr cell v k with
    | .ok k => foldCells a arr r k
    | .error e => .error e

/-- A cell operand: a U32 slot, or a scalar or constant as U64 (R222). -/
def cellOp (p : KParam) (c : Ctx) (n x : Nat) : List (Option Nat) := (readOp p c n x (if x < 0x40 then .u32 else .u64)).map (fun v => v.map Val.n)

/-- The terms of an accumulator op with their cells: null terms and null cells are skipped (R225). -/
def accTerms (x : KM) (cells : List (Option Nat)) (term : Nat → Option KCell) : List (Nat × KCell) :=
  (List.range x.c.n).filterMap (fun i => (cells.getD i none).bind (fun c => (term i).map (fun t => (c, t))))

/-- The end of an accumulator op. -/
def accDone (a : ArrD) (w : PWord) (x : KM) (ts : List (Nat × KCell)) : KRes :=
  match foldCells a (field w.imm 3 0) ts x.k with
  | .ok k => .ok { x with k := k }
  | .error r => .error r

/-- Cells b + c of ACC, ACCN and ACCX (R222). -/
def sumCells (e : KEnv) (w : PWord) (x : KM) : List (Option Nat) :=
  (cellOp e.p x.c x.c.n w.b).map (fun v => v.map (fun b => wrap 64 (b + rawOp e.p x.c w.c)))

/-- ACC. -/
def kAcc (e : KEnv) (w : PWord) (x : KM) : KRes :=
  match e.p.arr w with
  | none => .ok x
  | some a =>
    let v := readOp e.p x.c x.c.n w.a w.type
    accDone a w x (accTerms x (sumCells e w x) (fun i => (v.getD i none).map (fun v => .sum (({} : Acc).addElem w.type v.n))))

/-- ACCP. -/
def kAccp (e : KEnv) (w : PWord) (x : KM) : KRes :=
  match e.p.arr w with
  | none => .ok x
  | some a =>
    let v := readOp e.p x.c x.c.n w.a w.type
    let u := readOp e.p x.c x.c.n w.b w.type
    let cells := (readOp e.p x.c x.c.n w.c .u32).map (fun v => v.map Val.n)
    accDone a w x (accTerms x cells (fun i =>
      match v.getD i none, u.getD i none with
      | some p, some q => some (.sum (({} : Acc).addProd w.type p.n q.n))
      | _, _ => none))

/-- ACCN. -/
def kAccn (e : KEnv) (w : PWord) (x : KM) : KRes :=
  match e.p.arr w with
  | none => .ok x
  | some a =>
    let v := readOp e.p x.c x.c.n w.a w.type
    accDone a w x (accTerms x (sumCells e w x) (fun i => (v.getD i none).map (fun _ => .count 1)))

/-- ACCX. -/
def kAccx (e : KEnv) (w : PWord) (x : KM) : KRes :=
  match e.p.arr w with
  | none => .ok x
  | some a =>
    let v := readOp e.p x.c x.c.n w.a w.type
    accDone a w x (accTerms x (sumCells e w x) (fun i => (v.getD i none).map (fun v =>
      match extValue w.type v.n with
      | some n => .ext 1 n
      | none => .ext 2 0)))

/-- SKETCH (R238). -/
def kSketch (e : KEnv) (w : PWord) (x : KM) : KRes :=
  match e.p.arr w with
  | none => .ok x
  | some a =>
    let v := readOp e.p x.c x.c.n w.a w.type
    let ks := cellOp e.p x.c x.c.n w.b
    let f (i : Nat) : Option (Nat × KCell) :=
      match v.getD i none, ks.getD i none with
      | some v, some k =>
        let y := w.type.fmt.decode v.n
        if y = .nan then none else some (4096 * k + topkKey .fp32 (fp32.ofVal .near false y) false / pow2 20, .count 1)
      | _, _ => none
    accDone a w x ((List.range x.c.n).filterMap f)

/-- The count of a COUNT cell. -/
def KCell.n : KCell → Nat
  | .count n => n
  | _ => 0
/-- The accumulator of a SUM cell. -/
def KCell.acc : KCell → Acc
  | .sum a => a
  | _ => {}

/-- ACCRD's read-out of a cell (R237). -/
def readCell (k : KernelSt) (a : ArrD) (arr mode cell : Nat) (t : Ty) : Option Val :=
  let c := getCell k arr a.kind cell
  let q := (getCell k arr a.kind (cell + 1)).acc
  match mode with
  | 0 => rbits (c.acc.readSum t)
  | 1 => rbits (c.acc.readMean t)
  | 2 => rbits (readVar c.acc q false false t)
  | 3 => rbits (readVar c.acc q true false t)
  | 4 => rbits (readVar c.acc q false true t)
  | 5 => rbits (readVar c.acc q true true t)
  | 6 => rbits c.acc.count
  | 7 =>
    (match c with
     | .ext 0 _ => none
     | .ext 1 v => rbits (if a.ty.isInt then wrap a.ty.width v else a.ty.fmt.ofVal .near false (fp64.decode v))
     | _ => rbits a.ty.fmt.nan)
  | _ => rbits c.n

/-- ACCRD (R237). -/
def kAccrd (e : KEnv) (w : PWord) (x : KM) : KRes :=
  match e.p.arr w with
  | none => .ok x
  | some a =>
    let arr := field w.imm 3 0
    let mode := field w.imm 15 12
    let n := if w.d < 0x40 then x.c.n else 1
    let cells := cellOp e.p x.c n w.a
    let top (c : Nat) : Nat := if 2 ≤ mode ∧ mode ≤ 5 then c + 1 else c
    match cells.findSome? (fun c => c.bind (fun c => if a.cells ≤ top c then some (top c) else none)) with
    | some c => .error (.fault 0x080A arr c)
    | none => .ok { x with c := writeOp x.c w.d (cells.map (fun c => c.bind (fun c => readCell x.k a arr mode c w.type))) }

/-- quantile_cell (R238): counts of the sketch's cells in order and the fraction q; `total` and `run` are u64. -/
def quantileCell (cnt : List Nat) (q : FVal) : Option Nat :=
  let total := wrap 64 (cnt.foldl (· + ·) 0)
  match q with
  | .fin neg m ex =>
    if total = 0 ∨ (neg ∧ m ≠ 0) ∨ (FVal.cmp q (.fin false 1 0)).getD 1 > 0 then none
    else
      let t := if 0 ≤ ex then total * m * pow2 ex.toNat else ceilDiv (total * m) (pow2 (-ex).toNat)
      let t := max t 1
      let go := cnt.foldl (fun (acc : Nat × Nat × Option Nat) c =>
        let run := wrap 64 (acc.2.1 + c)
        (acc.1 + 1, run, match acc.2.2 with
          | some r => some r
          | none => if t ≤ run then some acc.1 else none)) (0, 0, none)
      some (go.2.2.getD 4095)
  | _ => none

/-- The least FP32 value, NaN excluded, whose key lies in a cell (R238). -/
def cellFloor (c : Nat) : Nat :=
  let key := max (c * pow2 20) 0x007FFFFF
  if pow2 31 ≤ key then key - pow2 31 else pow2 32 - 1 - key

/-- QREAD (R238). -/
def kQread (e : KEnv) (w : PWord) (x : KM) : KRes :=
  match e.p.arr w with
  | none => .ok x
  | some a =>
    let arr := field w.imm 3 0
    let n := if w.d < 0x40 then x.c.n else 1
    let ks := cellOp e.p x.c n w.a
    let qs := readOp e.p x.c n w.b .fp64
    match ks.findSome? (fun k => k.bind (fun k => if a.cells < 4096 * (k + 1) then some (max a.cells (4096 * k)) else none)) with
    | some c => .error (.fault 0x080A arr c)
    | none =>
      .ok { x with c := writeOp x.c w.d ((List.range n).map (fun i =>
        match ks.getD i none, qs.getD i none with
        | some k, some q =>
          (quantileCell ((List.range 4096).map (fun c => (getCell x.k arr 1 (4096 * k + c)).n)) (fp64.decode q.n)).map (fun c => .bits (cellFloor c))
        | _, _ => none)) }

/-- ACCCLR. -/
def kAccclr (_ : KEnv) (w : PWord) (x : KM) : KRes := .ok { x with k := { x.k with arrays := modifyAt x.k.arrays (field w.imm 3 0) (fun _ => []) } }

/-- ACCEMIT (R239). -/
def kAccemit (e : KEnv) (w : PWord) (x : KM) : KRes :=
  match e.p.arr w with
  | none => .ok x
  | some a =>
    let d := (List.range a.cells).foldl (fun d c => addResult d e.slot e.st (field w.imm 10 8) (getCell x.k (field w.imm 3 0) 0 c).acc.encode) (flushPend x.d e.slot e.st (field w.imm 10 8))
    if stopped d e.slot then .error (.dead d) else .ok { x with d := d }

/-- ACCMERGE (R239): record of ordinal o into cell o mod CELLS. -/
def kAccmerge (e : KEnv) (w : PWord) (x : KM) : KRes :=
  match e.p.arr w with
  | none => .ok x
  | some a => accDone a w x ((x.c.rows.filter (fun r => !r.acc.isEmpty)).map (fun r => (r.ord % a.cells, .sum (Acc.decode r.acc))))

/-- The elements of a table row, converted to FP32. -/
def bagRow (t : Ty) (b : Bytes) (n : Nat) : List Nat := (List.range n).map (fun i => fp32.ofVal .near false (t.fmt.decode (uat b (i * t.bytes) t.bytes)))

/-- The table rows that a row's valid indices select, each with its index position (R240). -/
def bagRows (e : KEnv) (x : KM) (c : Nat) (t : Ty) (n i : Nat) : List (Nat × Ty × Val) → Except KErr (List (Nat × List Nat))
  | [] => .ok []
  | (j, ti, v) :: r =>
    let region := embagRegion c
    let idx := ti.toInt v.n
    if idx < 0 ∨ (bindingOr (getJob x.d e.slot) region).bytes / embagRow c ≤ idx.toNat then .error (.fault 0x0802 region (x.c.ordAt i))
    else match kread e x region (idx.toNat * embagRow c) (n * t.bytes), bagRows e x c t n i r with
    | .ok b, .ok rs => .ok ((j, bagRow t b n) :: rs)
    | .error q, _ => .error q
    | _, .error q => .error q

/-- The pooled elements of a row: by mode over the terms of each output (R240); null without a valid index or with a null weight. -/
def bagPool (mode n : Nat) (out : Ty) (weights : Option (List (Option Val))) (rows : List (Nat × List Nat)) : List (Option Val) :=
  let weight (j : Nat) : Option (Option Nat) := match weights with
    | none => some none
    | some ws => (ws.getD j none).map (fun v => some v.n)
  if rows.isEmpty ∨ rows.any (fun r => (weight r.1).isNone) then List.replicate n none
  else
    (List.range n).map (fun i =>
      let terms := rows.map (fun r =>
        let el := r.2.getD i 0
        match weight r.1 with
        | some (some wt) => prod32 .fp32 el wt
        | _ => el)
      let acc := terms.foldl (fun (a : Acc) t => a.addElem .fp32 t) {}
      match mode with
      | 0 => rbits (acc.readSum out)
      | 1 => rbits (acc.readMean out)
      | _ => rbits (out.fmt.ofVal .near false (fp32.decode (terms.foldl (fun m t => fp32.max2 (fp32.decode m) (fp32.decode t)) (terms.headD 0)))))

/-- EMBAG's outputs of the rows from `i` on. -/
def bagAll (e : KEnv) (w : PWord) (x : KM) (c : Nat) (t : Ty) : Nat → Nat → Except KErr (List (List (Option Val)))
  | 0, _ => .ok []
  | n + 1, i =>
    let idx := (List.range (embagK w)).filterMap (fun j => ((x.c.slot (w.a + j)).getD i none).map (fun v => (j, e.p.slotTy (w.a + j), v)))
    let ws := if bit w.imm 4 then some ((List.range (embagK w)).map (fun j => (x.c.slot (w.b + j)).getD i none)) else none
    match bagRows e x c t (embagD w) i idx, bagAll e w x c t n (i + 1) with
    | .ok rows, .ok rest => .ok (bagPool (embagMode w) (embagD w) w.type ws rows :: rest)
    | .error q, _ => .error q
    | _, .error q => .error q

/-- EMBAG (R240). -/
def kEmbag (e : KEnv) (w : PWord) (x : KM) : KRes :=
  let c := e.p.const w.c
  match bagAll e w x c ((Ty.ofCode (field c 23 16)).getD .fp32) x.c.n 0 with
  | .ok rows => .ok { x with c := (List.range (embagD w)).foldl (fun cx i => Ctx.setSlot cx (w.d + i) (rows.map (fun r => r.getD i none))) x.c }
  | .error r => .error r

/-- A matrix buffer's declaration and contents. -/
def bufOf (p : KParam) (k : KernelSt) (i : Nat) : MBufD × List Nat := (p.mbufs.getD i { rows := 1, cols := 1, ty := .fp32, init := noOffset }, k.mbufs.getD i [])

/-- MPACK (R241). -/
def kMpack (e : KEnv) (w : PWord) (x : KM) : KRes :=
  let i := field w.imm 1 0
  let col := field w.imm 8 2
  let (b, m) := bufOf e.p x.k i
  let base := rawOp e.p x.c w.b
  let vs := x.c.slot w.a
  let m := (List.range (b.rows * b.cols)).map (fun n =>
    if n % b.cols = col then ((vs.getD (base + n / b.cols) none).map Val.n).getD 0 else m.getD n 0)
  .ok { x with k := { x.k with mbufs := setAt x.k.mbufs i m } }

/-- MUNPACK (R241). -/
def kMunpack (e : KEnv) (w : PWord) (x : KM) : KRes :=
  let (b, m) := bufOf e.p x.k (field w.imm 1 0)
  let col := field w.imm 8 2
  let base := rawOp e.p x.c w.b
  .ok { x with c := x.c.setSlot w.d ((x.c.slot w.d).zipIdx.map (fun (v, r) =>
    if base ≤ r ∧ r < base + b.rows then some (.bits (m.getD ((r - base) * b.cols + col) 0)) else v)) }

/-- CDOT (R241). -/
def kCdot (e : KEnv) (w : PWord) (x : KM) : KRes :=
  let c := e.p.const w.c
  let rows := field c 6 0 + 1
  let depth := field c 14 8 + 1
  let cols := field c 22 16 + 1
  let (db, dm) := bufOf e.p x.k (field w.imm 1 0)
  let (ab, am) := bufOf e.p x.k (field w.imm 3 2)
  let (bb, bm) := bufOf e.p x.k (field w.imm 5 4)
  let elem (i j : Nat) : Nat :=
    ((List.range depth).foldl (fun (acc : Acc) k =>
      acc.addVal (fp32.decode (fp32.mul (ab.ty.fmt.decode (am.getD (i * ab.cols + k) 0)) (bb.ty.fmt.decode (bm.getD (k * bb.cols + j) 0))))) {}).readSum db.ty
  let m := (List.range (db.rows * db.cols)).map (fun n =>
    if n / db.cols < rows ∧ n % db.cols < cols then elem (n / db.cols) (n % db.cols) else dm.getD n 0)
  .ok { x with k := { x.k with mbufs := setAt x.k.mbufs (field w.imm 1 0) m } }

/-- The effect of a word (R228). -/
def kexec (e : KEnv) (w : PWord) (x : KM) : KRes :=
  match elementOp w.op with
  | some f => kElement f e w x
  | none =>
    match w.op with
    | 0x01 => kLdcol e w x | 0x02 => kStcol e w x | 0x04 => kRowidx e w x | 0x05 => kInfo e w x | 0x0A => kLdpay e w x | 0x0B => kStpay e w x
    | 0x0C => kLdtab e w x | 0x0D => kBr e w x | 0x0E => kBrz e w x | 0x0F => kBrnz e w x | 0x10 => kEmit e w x | 0x11 => kEnd e w x
    | 0x12 => kRaise e w x | 0x13 => kScount e w x | 0x14 => kSany e w x | 0x15 => kSall e w x | 0x16 => kMwrite e w x
    | 0x88 => kAcc e w x | 0x89 => kAccp e w x | 0x8A => kAccn e w x | 0x8B => kAccx e w x | 0x8C => kSketch e w x | 0x8D => kAccrd e w x
    | 0x8E => kQread e w x | 0x8F => kAccclr e w x | 0x90 => kAccemit e w x | 0x91 => kAccmerge e w x
    | 0x98 => kEmbag e w x | 0x99 => kMpack e w x | 0x9A => kMunpack e w x | 0x9B => kCdot e w x
    | _ => kNop e w x

/-- The next word of the group (R223): running past the last word ends the group; more than 1,048,576 words raise 0x0801. -/
def kstep (e : KEnv) (x : KM) : KRes :=
  if e.s.programWords ≤ x.c.pc then .ok { x with c := { x.c with done := true } }
  else if 1048576 ≤ x.c.steps then .error (.fault 0x0801 x.c.pc x.c.first)
  else kexec e (progWord e.im e.s x.c.pc) { x with c := { x.c with pc := x.c.pc + 1, steps := x.c.steps + 1 } }

/-- Runs the group to its end. -/
def krun (e : KEnv) : Nat → KM → KRes
  | 0, x => .ok x
  | n + 1, x =>
    if x.c.done then .ok x
    else match kstep e x with
    | .ok y => krun e n y
    | .error r => .error r

/-- The kernel station's own state. -/
def kernelSt (d : Dev) (slot st : Nat) : KernelSt :=
  match (getSt d slot st).kind with
  | .kernel x => x
  | _ => {}

/-- Changes it. -/
def modKernel (d : Dev) (slot st : Nat) (f : KernelSt → KernelSt) : Dev := setKind d slot st (.kernel (f (kernelSt d slot st)))

/-- Splits rows into groups of at most a number (R213). -/
def splitRows (limit : Nat) : Nat → List KRow → List (List KRow)
  | 0, _ => []
  | n + 1, rs => if rs.isEmpty then [] else rs.take limit :: splitRows limit n (rs.drop limit)

/-- The longest run of tiles that together hold at most `limit` rows. -/
def fitTiles (limit : Nat) : List KTile → Nat → List KTile
  | [], _ => []
  | t :: ts, sum => if sum + t.rows.length ≤ limit then t :: fitTiles limit ts (sum + t.rows.length) else []

/-- The row groups gathered at a driving port and how many tiles they take (R213): groups with their partitions; none while more tiles may join. -/
def gather (s : StationD) (limit : Nat) (writes : Bool) (i : InPort) : Option (List (List KRow × Nat) × Nat) :=
  match i.ktiles with
  | [] => none
  | t :: _ =>
    if s.dist = 0 ∧ !writes then
      let run := fitTiles limit i.ktiles 0
      if run.isEmpty then some ((splitRows limit t.rows.length t.rows).map (fun g => (g, 0)), 1)
      else
        let rows := (run.map (·.rows)).flatten
        if i.eos || decide (run.length < i.ktiles.length) || decide (rows.length = limit) then some ([(rows, 0)], run.length) else none
    else if s.dist = 2 then
      let parts := (sortBy id (t.rows.map (fun r => partOf r.row s.keyColumn s.partitions))).eraseDups
      some ((parts.map (fun p =>
        let mine := t.rows.filter (fun r => partOf r.row s.keyColumn s.partitions == p)
        (splitRows limit mine.length mine).map (fun g => (g, p)))).flatten, 1)
    else some ((splitRows limit t.rows.length t.rows).map (fun g => (g, 0)), 1)

/-- The rows a port gives beside the rows of a group (R216): none while it has not come far enough, a fault code where it has ended. -/
def sideRows (p : Bytes) (x : KernelSt) (port : Nat) (i : InPort) (rows : List KRow) : Except (Option (Nat × Nat)) (List (Option Row)) :=
  let mode := u8at p (8 + port)
  let all := (i.ktiles.map (·.rows)).flatten
  let last : Nat := (rows.getLast?.map (·.ord)).getD 0
  let lastN : Nat := (rows.getLast?.map (·.n)).getD 0
  if mode = 4 then (if i.eos then .ok (List.replicate rows.length (all.head?.map (·.row))) else .error none)
  else if mode = 2 then
    (if i.ord ≤ lastN then (if i.eos then .error (some (0x0804, i.ord)) else .error none)
     else .ok (rows.map (fun r => (all.find? (fun q => q.n == r.n)).map (·.row))))
  else if !i.eos && ((assocGet x.keys port).map (fun k => decide (k < last))).getD true then .error none
  else .ok (rows.map (fun r => (all.find? (fun q => ((Row.get q.row (u8at p (0x10 + port))).map Val.n) == some r.ord)).map (·.row)))

/-- All side ports of a kernel, in port order. -/
def sidePorts (d : Dev) (slot st : Nat) (p : Bytes) (x : KernelSt) (rows : List KRow) : List Nat → Except (Option (Nat × Nat × Nat)) (List (Nat × List (Option Row)))
  | [] => .ok []
  | port :: ps =>
    match sideRows p x port (getIn d slot st port) rows with
    | .error none => .error none
    | .error (some e) => .error (some (e.1, port, e.2))
    | .ok r =>
      match sidePorts d slot st p x rows ps with
      | .ok rs => .ok ((port, r) :: rs)
      | .error e => .error e

/-- Rows of STEP and MERGE ports that no later driving row can claim are consumed (R216). -/
def dropSide (p : Bytes) (port lastN last : Nat) (i : InPort) : InPort :=
  let mode := u8at p (8 + port)
  let keep (r : KRow) : Bool := match mode with
    | 2 => decide (lastN < r.n)
    | 3 => ((Row.get r.row (u8at p (0x10 + port))).map (fun v => decide (last < v.n))).getD false
    | _ => true
  { i with ktiles := (i.ktiles.map (fun t => { t with rows := t.rows.filter keep })).filter (fun t => !t.rows.isEmpty) }

/-- A new context: scope ROWGROUP arrays are cleared (R236). -/
def openCtx (p : KParam) (x : KernelSt) (c : Ctx) : KernelSt :=
  { x with ctx := some c, arrays := x.arrays.zipIdx.map (fun (a, i) => if ((p.arrays[i]?).map (·.scope)) = some 1 then [] else a) }

/-- What opening the next row group comes to: it waits for input, there is none, it faults, or it is open. -/
inductive Opening where
  | waits
  | none
  | fault (code detail detail2 : Nat)
  | ready (d : Dev)
  deriving DecidableEq, Repr

/-- Opens the next row group (R213, R216, R229). -/
def openGroup (slot st : Nat) (d : Dev) : Opening :=
  let im := (getJob d slot).image
  let s := descSt d slot st
  let p := paramSt d slot st
  let kp := kparam im s
  let x := kernelSt d slot st
  if s.inPorts = 0 then
    (if x.stop then .none
     else
       let rows := (List.range kp.rowLimit).map (fun r => ({ ord := x.groups * kp.rowLimit + r, seq := x.groups } : KRow))
       .ready (modKernel d slot st (fun x => openCtx kp x { rows := rows, seq := x.groups })))
  else
    let drive := getIn d slot st 0
    match gather s kp.rowLimit (writesPairs im s) drive with
    | none => if drive.ktiles.isEmpty then .none else .waits
    | some (groups, _) =>
      match groups[x.gpos]? with
      | none => .none
      | some (rows, part) =>
        match sidePorts d slot st p x rows ((List.range s.inPorts).drop 1) with
        | .error none => .waits
        | .error (some e) => .fault e.1 e.2.1 e.2.2
        | .ok side =>
          let last := (rows.getLast?.map (·.ord)).getD 0
          let lastN := (rows.getLast?.map (·.n)).getD 0
          let d := ((List.range s.inPorts).drop 1).foldl (fun d port => modIn d slot st port (dropSide p port lastN last)) d
          let c : Ctx := { rows := rows, seq := (rows.head?.map (·.seq)).getD 0, part := part, payloads := drive.ktiles.map (fun t => (t.seq, t.payload)), side := side }
          .ready (modKernel d slot st (fun x => openCtx kp x c))

/-- Where the station's words run. -/
def kenv (m : Memory) (d : Dev) (slot st : Nat) : KEnv :=
  let im := (getJob d slot).image
  { m := m, slot := slot, st := st, im := im, s := descSt d slot st, p := kparam im (descSt d slot st) }

/-- A kernel that failed: its fault, or the memory's. -/
def kernelFails (d : Dev) (slot st : Nat) (e : KErr) : Dev :=
  match e with
  | .fault c x y => stationFault d slot st c x y
  | .acc a => engineFault d (stFault d slot st 0 0 0) a
  | .dead d => d

/-- Closes a row group: its tiles are finished when all their groups have run; after the end program the station seals its output (R223). -/
def closeCtx (slot st : Nat) (x : KM) : Dev :=
  let k := { x.k with ctx := none }
  if x.c.endProg then endStation (setKind x.d slot st (.kernel k)) slot st
  else
    let s := descSt x.d slot st
    let im := (getJob x.d slot).image
    let k := { k with groups := k.groups + 1, rows := k.rows + x.c.n }
    match gather s (kparam im s).rowLimit (writesPairs im s) (getIn x.d slot st 0) with
    | some (groups, n) =>
      if k.gpos + 1 < groups.length then setKind x.d slot st (.kernel { k with gpos := k.gpos + 1 })
      else modIn (setKind x.d slot st (.kernel { k with gpos := 0 })) slot st 0 (fun i => { i with ktiles := i.ktiles.drop n })
    | none => setKind x.d slot st (.kernel k)

/-- What a run of words comes to for the station. -/
def kfinish (slot st : Nat) (d : Dev) (r : KRes) : Dev :=
  match r with
  | .error e => kernelFails d slot st e
  | .ok x => if x.c.done then closeCtx slot st x else setKind x.d slot st (.kernel { x.k with ctx := some x.c })

/-- A poisoned sector in the working SRAM of a cluster on which the station runs (R212; 13 R331, R351). -/
def sramHit (d : Dev) (slot st : Nat) : Option Nat :=
  d.facts.poison.find? (fun a => decide (sramBase ≤ a) && decide ((a - sramBase) % 0x40000 < 229376) &&
    (getJob d slot).placed.any (fun p => p.station == st && p.res.kind == 1 && decide (256 * p.res.die + p.res.index = (a - sramBase) / 0x40000)))

/-- The group's read of a poisoned sector of its cluster (13 R351, R354). -/
def sramFault (d : Dev) (slot st a : Nat) : Dev :=
  let c := (a - sramBase) / 0x40000
  jobFault d { stFault d slot st 0x0504 c a with die := c / 256 }

/-- Runs the open group to its end. Whether it reads a poisoned sector that lies in its cluster is a free value (log entry 88). -/
def runGroup (m : Memory) (slot st : Nat) (d : Dev) : Dev :=
  let k := kernelSt d slot st
  let go (c : Ctx) (d : Dev) : Dev := kfinish slot st d (krun (kenv m d slot st) 1048578 { d := d, k := { k with ctx := none }, c := c })
  match k.ctx with
  | none => d
  | some c =>
    match sramHit d slot st with
    | none => go c d
    | some a =>
      let (v, d) := drawFree d
      if v % 2 = 1 then sramFault d slot st a else go c d

/-- Every input of a kernel is processed: its driving port is done, or a kernel without one has stopped. -/
def kernelDone (d : Dev) (slot st : Nat) : Bool :=
  let s := descSt d slot st
  let x := kernelSt d slot st
  x.ctx.isNone && (if s.inPorts = 0 then x.stop else (getIn d slot st 0).eos && (getIn d slot st 0).ktiles.isEmpty)

/-- ROW_GROUP (R213, R223): the next row group runs; one already open runs to its end. -/
def rowGroup (slot st : Nat) (m : Memory) (d : Dev) : DevOut :=
  if (getSt d slot st).ended then noEvent
  else if (kernelSt d slot st).ctx.isSome then .next (runGroup m slot st d)
  else if outBlocked d slot st then .next d
  else match openGroup slot st d with
  | .ready d => .next (runGroup m slot st d)
  | .fault c x y => .next (stationFault d slot st c x y)
  | .waits => .next d
  | .none => noEvent

/-- ROW_GROUP. -/
def execRowGroup (slot station : Nat) (s : State) : Host.Outcome State Fault Refusal := onStation slot station (· = .kernel) s (rowGroup slot station)

/-- A cell as PARTIALS carries it (R235; log entry 19). -/
def KCell.bytes : KCell → Bytes
  | .sum a => a.encode
  | .count n => le 8 n
  | .ext s v => le 8 v ++ le 1 s ++ zeros 7

/-- The STATION arrays' cells as a PARTIALS payload: array u8, cell u32, the cell (log entry 19). -/
def partialsBytes (p : KParam) (x : KernelSt) : Bytes :=
  (x.arrays.zipIdx.map (fun (a, i) => if ((p.arrays[i]?).map (·.scope)) = some 0 then (a.map (fun c => le 1 i ++ le 4 c.1 ++ c.2.bytes)).flatten else [])).flatten

/-- Reads such a payload. -/
def readPartials (p : KParam) : Nat → Bytes → List (Nat × Nat × KCell)
  | 0, _ => []
  | n + 1, b =>
    if b.length < 13 then []
    else
      let i := u8at b 0
      let r := b.drop 5
      let kind := ((p.arrays[i]?).map (·.kind)).getD 1
      let c : KCell := match kind with
        | 0 => .sum (Acc.decode r)
        | 1 => .count (u64at r 0)
        | _ => .ext (u8at r 8) (u64at r 0)
      (i, u32at b 1, c) :: readPartials p n (r.drop (cellBytes kind))

/-- STEP and MERGE ports have ended too; a STEP port at another ordinal than the driving port is 0x0804 (R216). -/
def sidesEnded (d : Dev) (slot st : Nat) : Except (Option (Nat × Nat)) Unit :=
  let s := descSt d slot st
  let p := paramSt d slot st
  let ports := (List.range s.inPorts).drop 1
  if ports.any (fun i => !(getIn d slot st i).eos) then .error none
  else match ports.find? (fun i => u8at p (8 + i) == 2 && (getIn d slot st i).ord != (kernelSt d slot st).rows) with
  | some i => .error (some (i, (getIn d slot st i).ord))
  | none => .ok ()

/-- A participant's partials are added to the cells of the arrays here (R236). -/
def combinePart (p : KParam) (acc : Except KErr KernelSt) (x : Nat × Bytes) : Except KErr KernelSt :=
  (readPartials p x.2.length x.2).foldl (fun acc c =>
    match acc, p.arrays[c.1]? with
    | .ok k, some a => foldCell a c.1 c.2.1 c.2.2 k
    | acc, _ => acc) acc

/-- END_PROGRAM (R223, R236): after the end of every input port, the partials of every participant are combined and the end program runs once, on the
anchor's device; without one the station seals. -/
def endProgram (slot st : Nat) (m : Memory) (d : Dev) : DevOut :=
  let j := getJob d slot
  let p := kparam j.image (descSt d slot st)
  let x := kernelSt d slot st
  if (getSt d slot st).ended then noEvent
  else match x.ctx with
  | some c => if c.endProg then .next (runGroup m slot st d) else noEvent
  | none =>
    if !kernelDone d slot st then noEvent
    else if outBlocked d slot st then .next d
    else match sidesEnded d slot st with
    | .error none => .next d
    | .error (some (port, n)) => .next (stationFault d slot st 0x0804 port n)
    | .ok _ =>
      if p.endEntry = noOffset then .next (endStation d slot st)
      else if !isAnchor d j then .next (endStation (sendCoord d slot 11 j.anchor (le 2 st ++ partialsBytes p x)) slot st)
      else if x.partials.length + 1 < j.participants.length then .next d
      else match x.partials.foldl (combinePart p) (.ok x) with
      | .error e => .next (kernelFails d slot st e)
      | .ok y =>
        let pre := ((List.range (descSt d slot st).inPorts).drop 1).filter (fun i => u8at (paramSt d slot st) (8 + i) == 4)
        let side := pre.map (fun i => (i, [((((getIn d slot st i).ktiles.map (·.rows)).flatten).head?.map (·.row))]))
        .next (runGroup m slot st (modKernel d slot st (fun _ => openCtx p y { rows := [{ ord := 0, seq := 0 }], side := side, endProg := true, pc := p.endEntry })))

/-- END_PROGRAM. -/
def execEndProgram (slot station : Nat) (s : State) : Host.Outcome State Fault Refusal := onStation slot station (· = .kernel) s (endProgram slot station)

/-- PARTIALS (R236): the anchor keeps a participant's partials until the end program combines them. -/
def takePartials (slot st part : Nat) (data : Bytes) (d : Dev) : DevOut :=
  let j := getJob d slot
  let x := kernelSt d slot st
  if !isAnchor d j || decide (j.participants.length ≤ part) || part = j.partIndex || x.partials.any (fun y => y.1 == part) then noEvent
  else .next (setKind d slot st (.kernel { x with partials := x.partials ++ [(part, data)] }))

/-- PARTIALS. -/
def execPartials (slot station part : Nat) (data : Bytes) (s : State) : Host.Outcome State Fault Refusal :=
  onStation slot station (· = .kernel) s (fun _ d => takePartials slot station part data d)

/-- A kernel op's row: the next word of the open row group is this one; where no group is open, the next one opens with it. -/
def kernelRow (op : Nat) (ka : KAt) (w : KWord) (s : State) : Host.Outcome State Fault Refusal :=
  onStation ka.slot ka.station (· = .kernel) s (fun m d =>
    let o := if (kernelSt d ka.slot ka.station).ctx.isSome then .ready d
      else if (getSt d ka.slot ka.station).ended then .none
      else if outBlocked d ka.slot ka.station then .waits
      else openGroup ka.slot ka.station d
    match o with
    | .none => noEvent
    | .waits => .next d
    | .fault c x y => .next (stationFault d ka.slot ka.station c x y)
    | .ready d =>
      let k := kernelSt d ka.slot ka.station
      let e := kenv m d ka.slot ka.station
      match k.ctx with
      | none => noEvent
      | some c =>
        if e.s.programWords ≤ c.pc ∨ progWord e.im e.s c.pc ≠ { op := op, ty := w.ty, d := w.d, a := w.a, b := w.b, c := w.c, imm := w.imm } then noEvent
        else .next (kfinish ka.slot ka.station d (kstep e { d := d, k := { k with ctx := none }, c := c })))

/-- The state a kernel station starts with (R217, R219): empty arrays, matrix buffers with their initial contents. -/
def kernelInit (im : Image) (s : StationD) : KernelSt :=
  let p := kparam im s
  { arrays := List.replicate p.arrays.length [],
    mbufs := p.mbufs.map (fun b => (List.range (b.rows * b.cols)).map (fun i => if b.init = noOffset then 0 else uat im.params (b.init + i * b.ty.bytes) b.ty.bytes)) }

end Sys2Proof.Machine
end

