-- ==== Sys2Proof/Machine/Permuter.lean ====
section
/-!
DEFINITION. The permuter (11 R282): which sample stands at which offset of a pass.
-/

namespace Sys2Proof.Machine

/-- The least h of at least 1 with 2^(2h) ≥ n; h is at most 24. -/
def halfBits (n : Nat) : Nat := ((List.range 25).find? (fun h => decide (1 ≤ h) && decide (n ≤ pow2 (2 * h)))).getD 24

/-- The four round keys of an epoch. -/
def permKeys (seed epoch : Nat) : List Nat :=
  let out := shake256 (ascii "HYPERM01" ++ le 8 seed ++ le 4 epoch) 32
  (List.range 4).map (fun i => u64at out (8 * i))

/-- The round function. -/
def roundF (h r key : Nat) : Nat := ((r ^^^ key) * 0x9E3779B97F4A7C15 % pow2 64) >>> (64 - h)

/-- The four rounds on [0, 2^(2h)). -/
def feistel (keys : List Nat) (h x : Nat) : Nat :=
  let (l, r) := keys.foldl (fun (s : Nat × Nat) k => (s.2, s.1 ^^^ roundF h s.2 k)) (x >>> h, x % pow2 h)
  (l <<< h) ||| r

/-- Their inverse. -/
def feistelInv (keys : List Nat) (h y : Nat) : Nat :=
  let (l, r) := keys.reverse.foldl (fun (s : Nat × Nat) k => (s.2 ^^^ roundF h s.1 k, s.1)) (y >>> h, y % pow2 h)
  (l <<< h) ||| r

/-- Cycle walking: the function is applied until the result lies below n. -/
def cycleWalk (f : Nat → Nat) (n : Nat) : Nat → Nat → Nat
  | 0, x => x
  | k + 1, x => if f x < n then f x else cycleWalk f n k (f x)

/-- The sample at an offset of a pass over [0, n). -/
def sampleAt (keys : List Nat) (n r : Nat) : Nat := cycleWalk (feistel keys (halfBits n)) n (pow2 (2 * halfBits n)) r

/-- The offset at which a sample stands. -/
def positionOf (keys : List Nat) (n s : Nat) : Nat := cycleWalk (feistelInv keys (halfBits n)) n (pow2 (2 * halfBits n)) s

end Sys2Proof.Machine
end

