-- ==== Sys2Proof/Machine/Shuffle.lean ====
section
/-!
DEFINITION. Channels and shuffle stations (11 R277 to R282).
-/

namespace Sys2Proof.Machine

open Sys2Proof

/-- A channel entry of a shuffle station (R279). -/
structure ShufEntry where
  channel : Nat
  passes : Nat
  slots : Nat
  deriving DecidableEq, Repr

/-- The entry of an output port. -/
def shufEntry (p : Bytes) (port : Nat) : ShufEntry :=
  let o := 16 + 16 * port
  { channel := u8at p o, passes := u32at p (o + 4), slots := u32at p (o + 8) }

/-- The entries of a shuffle station. -/
def shufEntries (im : Image) (s : StationD) : List ShufEntry := (List.range s.outPorts).map (shufEntry (im.paramBlock s))

/-- Every channel entry of an image: station, port, entry. -/
def allEntries (im : Image) : List (Nat × Nat × ShufEntry) :=
  ((im.stations.filter (fun s => decide (s.stype = .shuffle))).map (fun s => (shufEntries im s).zipIdx.map (fun (e, i) => (s.index, i, e)))).flatten

/-- The entry that serves a channel. -/
def entryOf (im : Image) (ch : Nat) : Option (Nat × Nat × ShufEntry) := (allEntries im).find? (fun e => e.2.2.channel == ch)

/-- A channel's declaration. -/
def channelD (im : Image) (ch : Nat) : ChannelD := (im.channels.find? (fun c => c.channel == ch)).getD {}

/-- The rules of R279. -/
def shuffleOk (im : Image) (s : StationD) : Bool :=
  let p := im.paramBlock s
  let es := shufEntries im s
  decide (u8at p 0 < 64) && (decide (u8at p 1 < 64) || u8at p 1 = 0xFF) && decide (u8at p 2 ≤ 2) && allZero p 3 13 &&
  es.zipIdx.all (fun (e, i) =>
    im.channels.any (fun c => c.channel == e.channel) && decide (((allEntries im).filter (fun x => x.2.2.channel == e.channel)).length = 1) &&
    decide (1 ≤ e.slots) && decide (e.slots ≤ 65536) && allZero p (17 + 16 * i) 3 && allZero p (28 + 16 * i) 4 &&
    queueCols im s.index i = inCols im s.index 0) &&
  (u8at p 1 ≠ 0xFF || es.all (fun e => (channelD im e.channel).samples = (channelD im (es.headD ⟨0, 0, 0⟩).channel).samples))

/-- Stations that take tiles from an output port. -/
def afterPort (im : Image) (st port : Nat) : List Nat := ((outQueues im st port).map (fun q => q.ends.map (·.1))).flatten

/-- Stations that a tile from some stations can reach before a batch, emit or shuffle station takes it, those included. -/
def chainReach (im : Image) : Nat → List Nat → List Nat
  | 0, xs => xs
  | n + 1, xs =>
    let more := (xs.map (fun x =>
      let s := im.stations.getD x {}
      if s.stype = .batch ∨ s.stype = .emit ∨ s.stype = .shuffle then [] else ((List.range s.outPorts).map (afterPort im x)).flatten)).flatten
    chainReach im n (xs ++ more).eraseDups

/-- A station is of a type and its block names a channel first. -/
def servesAs (im : Image) (ty : SType) (ch st : Nat) : Bool := decide ((im.stations.getD st {}).stype = ty) && u8at (im.param st) 0 = ch

/-- The chain of R277 serves a channel. -/
def channelServed (im : Image) (c : ChannelD) : Bool :=
  let e := im.param c.emitStation
  u8at e 0 = 2 && u8at e 1 = 0 && u16at e 2 = 0 && u64at e 8 = 0 &&
  match entryOf im c.channel with
  | none => false
  | some (st, port, _) =>
    (chainReach im im.stations.length (afterPort im st port)).any (fun b =>
      servesAs im .batch c.channel b && (afterPort im b 0).any (fun l => servesAs im .layout c.channel l && (afterPort im l 0).contains c.emitStation))

/-- The first channel that no chain serves (R277). -/
def channelsFail (im : Image) : Option Nat := im.channels.findIdx? (fun c => !channelServed im c)

/-- The shuffle station's own state. -/
def shuffleSt (d : Dev) (slot st : Nat) : ShuffleSt :=
  match (getSt d slot st).kind with
  | .shuffle x => x
  | _ => {}

/-- Changes it. -/
def modShuffle (d : Dev) (slot st : Nat) (f : ShuffleSt → ShuffleSt) : Dev := setKind d slot st (.shuffle (f (shuffleSt d slot st)))

/-- The value of a sample column: of any integer type, read by value (R279); none for a null, a negative value or another type. -/
def sampleIndex (r : Row) (c : Nat) : Option Nat :=
  match Row.get r c, Row.ty r c with
  | some v, some t => if t.isInt && decide (0 ≤ t.toInt v.n) then some (t.toInt v.n).toNat else none
  | _, _ => none

/-- The channels of a shuffle that a row names. -/
def rowChannels (im : Image) (s : StationD) (r : Row) : List Nat :=
  let col := u8at (im.paramBlock s) 1
  let chs := (shufEntries im s).map (·.channel)
  if col = 0xFF then chs
  else match Row.get r col with
  | some v => chs.filter (· == v.n)
  | none => []

/-- SHUFFLE_STORE_ROW (R280): the next row is filed under its channels and sample index; after the last, the other participants hear what is held. -/
def storeRow (slot st : Nat) (d : Dev) : DevOut :=
  let j := getJob d slot
  let s := descSt d slot st
  let x := shuffleSt d slot st
  if x.full then noEvent
  else match (getIn d slot st 0).row? with
  | none =>
    if !inputsDone d slot st then noEvent
    else
      let d := modShuffle d slot st (fun x => { x with full := true })
      .next (sendAll d slot 13 (le 2 st ++ (x.store.map (fun e => le 1 e.1 ++ le 6 e.2.1)).flatten))
  | some (r, ord) =>
    let chs := rowChannels j.image s r
    let named := (chs ++ (shufEntries j.image s).map (·.channel)).headD 0
    match sampleIndex r (u8at (paramSt d slot st) 0) with
    | none => .next (stationFault d slot st 0x0C40 named ord)
    | some i =>
      match chs.find? (fun c => decide ((channelD j.image c).samples ≤ i)) with
      | some c => .next (stationFault d slot st 0x0C40 c ord)
      | none =>
        let d := modIn d slot st 0 InPort.nextRow
        if chs.isEmpty then .next (countSt d slot st 0 1)
        else .next (modShuffle d slot st (fun x => { x with store := x.store ++ chs.map (fun c => (c, i, r)) }))

/-- SHUFFLE_STORE_ROW. -/
def execShuffleStoreRow (slot station : Nat) (s : State) : Host.Outcome State Fault Refusal :=
  onStation slot station (· = .shuffle) s (fun _ d => storeRow slot station d)

/-- SAMPLE_HOLDINGS (R280): what another participant's store holds, as channel and sample. -/
def execSampleHoldings (slot station part : Nat) (held : List (Nat × Nat)) (s : State) : Host.Outcome State Fault Refusal :=
  onStation slot station (· = .shuffle) s (fun _ d =>
    let j := getJob d slot
    onlyIf (decide (part < j.participants.length) && decide (part ≠ j.partIndex))
      (modShuffle d slot station (fun x => { x with holds := assocSet x.holds part held })))

/-- The lowest number that stands twice in an ascending list. -/
def firstTwice : List Nat → Option Nat
  | a :: b :: r => if a = b then some a else firstTwice (b :: r)
  | _ => none

/-- The lowest number below `n` that an ascending list from `i` upward leaves out. -/
def firstGap (n : Nat) : Nat → List Nat → Option Nat
  | i, [] => if i < n then some i else none
  | i, a :: r => if a = i then firstGap n (i + 1) r else some i

/-- Every sample of a channel that some participant holds, ascending. -/
def heldSamples (x : ShuffleSt) (ch : Nat) : List Nat :=
  sortBy id ((x.store.filter (fun e => e.1 == ch)).map (·.2.1) ++ ((x.holds.map (·.2)).flatten.filter (fun e => e.1 == ch)).map (·.2))

/-- SAMPLE_STORE_COMPLETE (R280): every participant's store is complete; each index of [0, N) must be held exactly once for each channel. -/
def storeComplete (slot st : Nat) (d : Dev) : DevOut :=
  let j := getJob d slot
  let x := shuffleSt d slot st
  let chs := (shufEntries j.image (descSt d slot st)).map (·.channel)
  if !x.full || x.emitting || decide (x.holds.length + 1 < j.participants.length) then noEvent
  else match chs.findSome? (fun c => (firstTwice (heldSamples x c)).map (fun i => (c, i))) with
  | some (c, i) => .next (stationFault d slot st 0x0C41 c i)
  | none =>
    match chs.findSome? (fun c => (firstGap (channelD j.image c).samples 0 (heldSamples x c)).map (fun i => (c, i))) with
    | some (c, i) => .next (stationFault d slot st 0x0C42 c i)
    | none => .next (modShuffle d slot st (fun x => { x with emitting := true, pos := chs.map (fun _ => 0) }))

/-- SAMPLE_STORE_COMPLETE. -/
def execSampleStoreComplete (slot station : Nat) (s : State) : Host.Outcome State Fault Refusal :=
  onStation slot station (· = .shuffle) s (fun _ d => storeComplete slot station d)

/-- The keys of pass `k`: those of epoch FIRST_EPOCH + k (R281, 04 R106). -/
def passKeys (im : Image) (k : Nat) : List Nat := permKeys im.seed (wrap 32 (im.firstEpoch + k))

/-- The offset of a sample in a pass of a channel: its index on a strict channel (R281). -/
def offsetIn (im : Image) (c : ChannelD) (k s : Nat) : Nat := if c.kind = 1 then s else positionOf (passKeys im k) c.samples s

/-- The held sample with the least offset of at least `r` in pass `k`. -/
def nextInPass (im : Image) (c : ChannelD) (held : List Nat) (k r : Nat) : Option (Nat × Nat) :=
  let keys := passKeys im k
  held.foldl (fun (b : Option (Nat × Nat)) s =>
    let o := if c.kind = 1 then s else positionOf keys c.samples s
    if o < r then b
    else match b with
    | some (o', _) => if o < o' then some (o, s) else b
    | none => some (o, s)) none

/-- The next output position at or after `j` of a channel that this participant holds, with its sample (R281). -/
def nextPos (im : Image) (c : ChannelD) (passes : Nat) (held : List Nat) (j : Nat) : Option (Nat × Nat) :=
  let n := c.samples
  let k := j / n
  let inside (k : Nat) : Bool := passes = 0 || decide (k < passes)
  if !inside k then none
  else match nextInPass im c held k (j % n) with
  | some (o, s) => some (k * n + o, s)
  | none => if !inside (k + 1) then none else (nextInPass im c held (k + 1) 0).map (fun (o, s) => ((k + 1) * n + o, s))

/-- SHUFFLE_EMIT (R281): the next held sample of a port's channel goes out as its stored row; after the last position the port's stream ends. -/
def shuffleEmit (slot st port : Nat) (d : Dev) : DevOut :=
  let j := getJob d slot
  let x := shuffleSt d slot st
  let s := descSt d slot st
  if s.outPorts ≤ port then .fault .noSuchUnit
  else if !x.emitting || (getOut d slot st port).eos then noEvent
  else if !(getQ d slot (outQueueNo j st port)).held.isEmpty then .next d
  else
    let e := shufEntry (paramSt d slot st) port
    let held := (x.store.filter (fun y => y.1 == e.channel)).map (·.2.1)
    match nextPos j.image (channelD j.image e.channel) e.passes held (x.pos.getD port 0) with
    | some (p, i) =>
      let d := modShuffle d slot st (fun x => { x with pos := setAt x.pos port (p + 1) })
      let row := ((x.store.find? (fun y => y.1 == e.channel && y.2.1 == i)).map (·.2.2)).getD []
      .next (addRow slot st port d row)
    | none =>
      if e.passes = 0 then noEvent
      else
        let d := endPort d slot st port
        .next (if (List.range s.outPorts).all (fun p => (getOut d slot st p).eos) then modSt d slot st (fun s => { s with ended := true }) else d)

/-- SHUFFLE_EMIT. -/
def execShuffleEmit (slot station port : Nat) (s : State) : Host.Outcome State Fault Refusal :=
  onStation slot station (· = .shuffle) s (fun _ d => shuffleEmit slot station port d)

end Sys2Proof.Machine
end

