-- ==== Sys2Proof/Machine/Batch.lean ====
section
/-!
DEFINITION. Batch stations (11 R284 to R290).
-/

namespace Sys2Proof.Machine

open Sys2Proof

/-- The batch parameter block (R284). -/
structure BatchP where
  channel : Nat
  sampleCol : Nat
  statusCol : Nat
  partCol : Nat
  deriving DecidableEq, Repr

/-- Reads the block. -/
def batchP (p : Bytes) : BatchP := { channel := u8at p 0, sampleCol := u8at p 1, statusCol := u8at p 2, partCol := u8at p 3 }

/-- The input of a batch station is PIXELS. -/
def batchPixels (im : Image) (st : Nat) : Bool := ((portQueues im st 0).head?.map (fun q => q.format == TFmt.pixels.code)).getD false

/-- The rules of R284 that an image shows. -/
def batchOk (im : Image) (s : StationD) : Bool :=
  let p := im.paramBlock s
  let q := batchP p
  let column (c : Nat) : Bool := decide (c < 64) || c = 0xFF
  allZero p 4 4 && im.channels.any (fun c => c.channel == q.channel) && column q.statusCol &&
  (if batchPixels im s.index then q.sampleCol = 0xFF && q.partCol = 0xFF else decide (q.sampleCol < 64) && column q.partCol)

/-- The batch station's own state. -/
def batchSt (d : Dev) (slot st : Nat) : BatchSt :=
  match (getSt d slot st).kind with
  | .batch x => x
  | _ => {}

/-- Changes it. -/
def modBatch (d : Dev) (slot st : Nat) (f : BatchSt → BatchSt) : Dev := setKind d slot st (.batch (f (batchSt d slot st)))

/-- A holder's stream. -/
def BatchSt.holder (x : BatchSt) (h : Nat) : Holder := (assocGet x.holders h).getD {}

/-- Changes a holder's stream. -/
def modHolder (d : Dev) (slot st h : Nat) (f : Holder → Holder) : Dev :=
  modBatch d slot st (fun x => { x with holders := assocSet x.holders h (f (x.holder h)) })

/-- What a batch station works with. -/
structure BatchCtx where
  slot : Nat
  st : Nat
  q : BatchP
  ch : ChannelD
  passes : Nat
  parts : Nat
  own : Nat
  im : Image

/-- Its context. -/
def batchCtx (d : Dev) (slot st : Nat) : BatchCtx :=
  let j := getJob d slot
  let q := batchP (paramSt d slot st)
  { slot := slot, st := st, q := q, ch := channelD j.image q.channel, passes := ((entryOf j.image q.channel).map (fun e => e.2.2.passes)).getD 0,
    parts := max 1 j.participants.length, own := j.partIndex, im := j.image }

/-- A slice header (R290). -/
def sliceHeader (batch slot part flags off rows sample : Nat) : Bytes :=
  le 8 batch ++ le 4 slot ++ le 1 part ++ le 1 flags ++ zeros 2 ++ le 4 off ++ le 4 rows ++ le 8 sample ++ zeros 32

/-- The slices of an image's pixel data (R290): up to 4,032 bytes each. -/
def imageSlices (batch slot part sample : Nat) : Nat → Nat → Bytes → List Bytes
  | 0, _, _ => []
  | n + 1, off, px =>
    let lastOne := decide (px.length ≤ 4032)
    (sliceHeader batch slot part (b2n lastOne) off 0 sample ++ px.take 4032) ::
      (if lastOne then [] else imageSlices batch slot part sample n (off + 4032) (px.drop 4032))

/-- The slices of a slot of a batch, or the part that does not fit one slice (R290). -/
def slotSlices (batch slot : Nat) (s : Sample) : Except Nat (List Bytes) :=
  match s.parts with
  | none => .ok [sliceHeader batch slot 0 4 0 0 s.index]
  | some ps =>
    ps.foldl (fun (acc : Except Nat (List Bytes)) p =>
      match acc with
      | .error e => .error e
      | .ok out =>
        match p.2 with
        | .image _ px => .ok (out ++ imageSlices batch slot p.1 s.index (px.length / 4032 + 1) 0 px)
        | .rows rs =>
          let data := encodeCols (rowsToCols rs)
          if 4032 < data.length then .error p.1 else .ok (out ++ [sliceHeader batch slot p.1 1 0 rs.length s.index ++ data])) (.ok [])

/-- The shapes of a slot's parts. -/
def slotShapes (batch slot : Nat) (s : Sample) : List ((Nat × Nat × Nat) × (Nat × Option Ty)) :=
  (s.parts.getD []).map (fun p => ((batch, slot, p.1),
    match p.2 with
    | .rows rs => (colsMask (rowsToCols rs), none)
    | .image t _ => (0, some t)))

/-- Sets BFLAGS[1] on the last slice of a batch. -/
def markLast : List Bytes → List Bytes
  | [] => []
  | [b] => [b.set 0x0D (byteOf (u8at b 0x0D ||| 2))]
  | b :: bs => b :: markLast bs

/-- The slices of a whole batch, or the sample and part that break R290. -/
def batchSlices (batch : Nat) (slots : List Sample) : Except (Nat × Nat) (List Bytes) :=
  (slots.zipIdx.foldl (fun (acc : Except (Nat × Nat) (List Bytes)) s =>
    match acc with
    | .error e => .error e
    | .ok out =>
      match slotSlices batch s.2 s.1 with
      | .error p => .error (s.1.index, p)
      | .ok bs => .ok (out ++ bs)) (.ok [])).map markLast

/-- The oldest batch that was waiting goes out; this participant writes the slices of its own batches only (R278, R290). -/
def flushBatch (c : BatchCtx) (lastOne : Bool) (d : Dev) : Dev :=
  match (batchSt d c.slot c.st).ready with
  | [] => d
  | (i, slots) :: rest =>
    let d := modBatch d c.slot c.st (fun x => { x with ready := rest })
    if i.batch % c.parts ≠ c.own then d
    else match batchSlices i.batch slots with
    | .error (s, p) => stationFault d c.slot c.st 0x0C44 (0xFF00 + p) s
    | .ok bs =>
      let shapes := (slots.zipIdx.map (fun (s, q) => slotShapes i.batch q s)).flatten
      let d := modBatch d c.slot c.st (fun x => { x with infos := x.infos ++ [{ i with last := lastOne }], shapes := x.shapes ++ shapes })
      bs.foldl (fun d b => addTile d c.slot c.st 0 0 0 b) d

/-- The batch in progress is complete, or the stream ends: its descriptor fields are fixed (R285, R286, R298). -/
def completeBatch (c : BatchCtx) (d : Dev) : Dev :=
  let x := batchSt d c.slot c.st
  let first := x.batch * c.ch.batchSamples
  let strict := decide (c.ch.kind = 1)
  let mask := x.slots.zipIdx.foldl (fun a s => a + (if s.1.parts.isNone then pow2 s.2 else 0)) 0
  let i : BatchInfo := { batch := x.batch, pass := if strict then first / c.ch.samples else x.pass, samples := x.slots.length, first := first,
                         skipped := if strict then 0 else x.skipped, holes := (x.slots.filter (·.parts.isNone)).length, mask := mask }
  modBatch d c.slot c.st (fun x => { x with ready := x.ready ++ [(i, x.slots)], batch := x.batch + 1, slots := [] })

/-- A position is resolved: a sample or a hole takes the next slot, a corrupt sample of a bulk channel takes none (R285, R286). -/
def putSample (c : BatchCtx) (d : Dev) (s : Sample) : Dev :=
  let bulk := decide (c.ch.kind ≠ 1)
  let d := modBatch d c.slot c.st (fun x =>
    if bulk && s.parts.isNone then { x with corrupt := x.corrupt + 1, next := s.pos + 1 }
    else { x with
      pass := if x.slots.isEmpty then s.pos / c.ch.samples else x.pass, slots := x.slots ++ [s], next := s.pos + 1,
      valid := x.valid + b2n s.parts.isSome, skipped := x.corrupt })
  if (batchSt d c.slot c.st).slots.length = c.ch.batchSamples then completeBatch c d else d

/-- Positions below `p` that did not arrive are absent: corrupt (R284); on a strict channel each is a hole of its slot. -/
def fillTo (c : BatchCtx) (p : Nat) (d : Dev) : Dev :=
  let x := batchSt d c.slot c.st
  if p ≤ x.next then d
  else if c.ch.kind = 1 then (List.range (p - x.next)).foldl (fun d i => putSample c d { pos := x.next + i, index := (x.next + i) % c.ch.samples, parts := none }) d
  else modBatch d c.slot c.st (fun x => { x with corrupt := x.corrupt + (p - x.next), next := p })

/-- Positions a window of the count exchange holds (R288). -/
def windowPositions : Nat := 65536

/-- A participant holds no sample of the channel. -/
def holdsNone (d : Dev) (c : BatchCtx) (h : Nat) : Bool :=
  match entryOf c.im c.q.channel with
  | some (s, _, _) => (((assocGet (shuffleSt d c.slot s).holds h).map (fun held => !(held.any (fun e => e.1 == c.q.channel))))).getD false && h != c.own
  | none => false

/-- The first window from `w` on that a participant has not told, or of whose valid samples some are still to come. -/
def BatchSt.toldTo (x : BatchSt) (h : Nat) : Nat → Nat → Nat
  | 0, w => w
  | n + 1, w => if (assocGet x.told (h, w)).isSome && assocGet x.told (h, w) == some ((assocGet x.counts (h, w)).getD 0) then x.toldTo h n (w + 1) else w

/-- The position below which a holder's stream leaves nothing open; none once it ended, or where it holds no sample of the channel. On a bulk channel another
participant's windows whose valid samples are all here leave nothing open (R288). -/
def frontier (d : Dev) (c : BatchCtx) (h : Nat) : Option Nat :=
  let x := batchSt d c.slot c.st
  let y := x.holder h
  if y.ended || holdsNone d c h then none
  else match y.cur with
  | some o => some o.pos
  | none => some (if h = c.own ∨ c.ch.kind = 1 then y.next else max y.next (windowPositions * x.toldTo h x.told.length (y.next / windowPositions)))

/-- The valid samples in the windows below `w`, of every participant: none until each has told them (R288). -/
def prefixCount (d : Dev) (c : BatchCtx) (w : Nat) : Option Nat :=
  let x := batchSt d c.slot c.st
  ((List.range c.parts).map (fun h => (List.range w).map (fun v => (h, v)))).flatten.foldl (fun (a : Option Nat) k =>
    match a with
    | none => none
    | some n =>
      if k.1 = c.own then (if k.2 < x.sentW then some (n + (assocGet x.counts k).getD 0) else none)
      else match assocGet x.told k with
      | some m => some (n + m)
      | none => if holdsNone d c k.1 then some n else none) (some 0)

/-- An assembled batch is the channel's last (R285, R286): known beforehand of a strict channel only. -/
def strictLast (c : BatchCtx) (i : BatchInfo) : Bool := c.ch.kind = 1 && c.passes ≠ 0 && decide (c.passes * c.ch.samples ≤ (i.batch + 1) * c.ch.batchSamples)

/-- An assembled batch may leave (R287, R288): it is known whether it is the last, and on a bulk channel of several participants the valid counts of the
windows up to its first sample's are known. -/
def mayLeave (d : Dev) (c : BatchCtx) (slots : List Sample) (later : Bool) : Bool :=
  c.ch.kind = 1 ||
  ((c.passes = 0 || later || (batchSt d c.slot c.st).waiting.any (fun s => s.parts.isSome)) &&
   (c.parts = 1 || (prefixCount d c (((slots.head?.map (·.pos)).getD 0) / windowPositions + 1)).isSome))

/-- Every assembled batch that may leave goes out, in ascending number. -/
def releaseReady (c : BatchCtx) : Nat → Dev → Dev
  | 0, d => d
  | n + 1, d =>
    match (batchSt d c.slot c.st).ready with
    | [] => d
    | (i, slots) :: rest =>
      if !stopped d c.slot && mayLeave d c slots (!rest.isEmpty || !(batchSt d c.slot c.st).slots.isEmpty) then releaseReady c n (flushBatch c (strictLast c i) d) else d

/-- Resolves what every holder's stream has passed (R287): waiting samples in ascending position, and what is absent between them; then batches leave. -/
def resolve (c : BatchCtx) (d : Dev) : Dev :=
  let fs := (List.range c.parts).filterMap (frontier d c)
  let f := match fs with
    | [] => none
    | a :: r => some (r.foldl min a)
  let ready (s : Sample) : Bool := match f with
    | some f => decide (s.pos < f)
    | none => true
  let x := batchSt d c.slot c.st
  let d := modBatch d c.slot c.st (fun x => { x with waiting := x.waiting.filter (fun s => !ready s) })
  let d := (x.waiting.filter ready).foldl (fun d s => putSample c (fillTo c s.pos d) s) d
  let d := match f with
    | some f => fillTo c f d
    | none => if c.ch.kind = 1 && c.passes ≠ 0 then fillTo c (c.passes * c.ch.samples) d else d
  let x := batchSt d c.slot c.st
  if c.ch.kind ≠ 1 ∧ c.passes = 0 ∧ x.valid = 0 ∧ c.ch.samples ≤ x.next then stationFault d c.slot c.st 0x0C45 c.q.channel c.ch.samples
  else releaseReady c x.ready.length d

/-- Windows that this participant's own stream has left. -/
def leftWindows (d : Dev) (c : BatchCtx) : Nat :=
  let y := (batchSt d c.slot c.st).holder c.own
  if y.ended then ceilDiv (c.passes * c.ch.samples) windowPositions
  else match y.cur with
  | some o => o.pos / windowPositions
  | none => y.next / windowPositions

/-- Sends the counts of the windows that this participant's own stream has left since the last it told (R288). -/
def sendCounts (c : BatchCtx) (d : Dev) : Dev :=
  if c.parts = 1 then d
  else
    let x := batchSt d c.slot c.st
    let n := leftWindows d c
    (List.range (n - x.sentW)).foldl (fun d i =>
      let w := x.sentW + i
      sendAll d c.slot 12 (le 2 c.st ++ le 8 w ++ le 4 ((assocGet x.counts (c.own, w)).getD 0))) (modBatch d c.slot c.st (fun x => { x with sentW := max x.sentW n }))

/-- Closes the sample in progress of a holder: it waits for its turn in the reorder window. -/
def closeSample (c : BatchCtx) (h : Nat) (d : Dev) : Dev :=
  match ((batchSt d c.slot c.st).holder h).cur with
  | none => d
  | some o =>
    let s : Sample := { pos := o.pos, index := o.index, parts := if o.bad then none else some (sortBy (fun (p : Nat × PartData) => p.1) o.parts) }
    let key := (h, o.pos / windowPositions)
    let d := modHolder d c.slot c.st h (fun y => { y with cur := none })
    modBatch d c.slot c.st (fun x => { x with
      waiting := insertBy Sample.pos s x.waiting, counts := assocSet x.counts key ((assocGet x.counts key).getD 0 + b2n (!o.bad)) })

/-- The batch station takes the shuffle's own rows: one row a sample (R281). -/
def straight (c : BatchCtx) : Bool :=
  match (portQueues c.im c.st 0).head?, entryOf c.im c.q.channel with
  | some q, some (s, port, _) => q.producer == s && q.producerPort == port && u8at (c.im.param s) 0 = c.q.sampleCol
  | _, _ => false

/-- Samples of the channel that a participant holds. -/
def heldCount (d : Dev) (c : BatchCtx) (h : Nat) : Nat :=
  match entryOf c.im c.q.channel with
  | some (s, _, _) =>
    let x := shuffleSt d c.slot s
    if h = c.own then (x.store.filter (fun e => e.1 == c.q.channel)).length
    else (((assocGet x.holds h).getD []).filter (fun e => e.1 == c.q.channel)).length
  | none => 1

/-- The position after the last that this participant's shuffle has emitted of the channel. -/
def emittedTo (d : Dev) (c : BatchCtx) : Nat :=
  match entryOf c.im c.q.channel with
  | some (s, port, _) => (shuffleSt d c.slot s).pos.getD port 0
  | none => 0

/-- The pass and position at which a sample of a holder's stream stands (R287): straight behind the shuffle the row's ordinal gives the pass; elsewhere a
position already passed begins the next pass, where there is one and this participant's shuffle has emitted the sample in it. -/
def placeSample (d : Dev) (c : BatchCtx) (h i : Nat) : Option (Nat × Nat) :=
  let y := (batchSt d c.slot c.st).holder h
  let at' (k : Nat) : Nat := k * c.ch.samples + offsetIn c.im c.ch k i
  let k := if straight c then y.rows / max 1 (heldCount d c h) else y.pass
  if y.next ≤ at' k then some (k, at' k)
  else if !straight c && (c.passes = 0 || decide (k + 1 < c.passes)) && (h != c.own || decide (at' (k + 1) < emittedTo d c)) then some (k + 1, at' (k + 1))
  else none

/-- Begins a sample of a holder's stream, or finds its order broken (R287). -/
def openSample (c : BatchCtx) (h i : Nat) (d : Dev) : Except Dev Dev :=
  match placeSample d c h i with
  | none => .error (stationFault d c.slot c.st 0x0C43 c.q.channel i)
  | some (k, p) =>
    .ok (modHolder d c.slot c.st h (fun y => { y with pass := k, next := p + 1, cur := some { pos := p, index := i } }))

/-- The part of a row: PART_COLUMN's value (R284). -/
def partOfRow (q : BatchP) (r : Row) : Nat := if q.partCol = 0xFF then 0 else ((Row.get r q.partCol).map Val.n).getD 0

/-- Adds a row to the sample in progress. -/
def OpenSample.addRow (o : OpenSample) (q : BatchP) (r : Row) : OpenSample :=
  let t := partOfRow q r
  let bad := q.statusCol ≠ 0xFF && decide (((Row.get r q.statusCol).map Val.n).getD 0 ≠ 0)
  let rows := match assocGet o.parts t with
    | some (.rows rs) => rs
    | _ => []
  { o with bad := o.bad || bad, parts := assocSet o.parts t (.rows (rows ++ [r])) }

/-- The tile in hand of a holder's stream and the rows of it already taken. -/
def headTile (d : Dev) (c : BatchCtx) (h : Nat) : Option (Tile × Nat) :=
  if h = c.own then (let i := getIn d c.slot c.st 0; i.inbox.head?.map (fun t => (t, i.pos)))
  else (let y := (batchSt d c.slot c.st).holder h; y.tiles.head?.map (fun t => (t, y.row)))

/-- A row of the tile in hand was taken. -/
def tookRow (c : BatchCtx) (h : Nat) (t : Tile) (pos : Nat) (d : Dev) : Dev :=
  let d := modHolder d c.slot c.st h (fun y => { y with rows := y.rows + 1 })
  if h = c.own then modIn d c.slot c.st 0 InPort.nextRow
  else modHolder d c.slot c.st h (fun y => if t.rowCount ≤ pos + 1 then { y with tiles := y.tiles.drop 1, row := 0 } else { y with row := pos + 1 })

/-- The whole tile in hand was taken. -/
def tookTile (c : BatchCtx) (h : Nat) (d : Dev) : Dev :=
  if h = c.own then modIn d c.slot c.st 0 InPort.drop else modHolder d c.slot c.st h (fun y => { y with tiles := y.tiles.drop 1, row := 0 })

/-- Takes the rows of one sample from the tile in hand (R284, R287). -/
def takeRows (c : BatchCtx) (h : Nat) : Nat → Bool → Dev → Dev
  | 0, _, d => d
  | n + 1, first, d =>
    match headTile d c h with
    | none => d
    | some (t, pos) =>
      match t.rows[pos]? with
      | none => d
      | some r =>
        match (sampleIndex r c.q.sampleCol).filter (fun i => decide (i < c.ch.samples)) with
        | none => stationFault d c.slot c.st 0x0C40 c.q.channel (t.firstRow + pos)
        | some i =>
          let cur := ((batchSt d c.slot c.st).holder h).cur
          let same := !straight c && ((cur.map (fun o => o.index == i)).getD false)
          if same then
            takeRows c h n false (tookRow c h t pos (modHolder d c.slot c.st h (fun y => { y with cur := y.cur.map (fun o => o.addRow c.q r) })))
          else if !first then d
          else match openSample c h i (closeSample c h d) with
          | .error d => d
          | .ok d =>
            let d := tookRow c h t pos (modHolder d c.slot c.st h (fun y => { y with cur := y.cur.map (fun o => o.addRow c.q r) }))
            if straight c then closeSample c h d else takeRows c h n false d

/-- Takes one PIXELS tile: a hole, or pixels of an image, which its last tile ends (R272, R273, R284). -/
def takeImageTile (c : BatchCtx) (h : Nat) (t : Tile) (d : Dev) : Dev :=
  let p := t.used
  let i := u64at p 0
  let flags := u8at p 0x12
  let ty := (Ty.ofCode (u8at p 0x11)).getD .u8
  if t.payloadBytes = 0 then tookTile c h d
  else if c.ch.samples ≤ i then stationFault d c.slot c.st 0x0C40 c.q.channel t.firstRow
  else
    let cur := ((batchSt d c.slot c.st).holder h).cur
    match (match cur with
      | some o => if o.index = i then Except.ok d else .error (stationFault d c.slot c.st 0x0C43 c.q.channel i)
      | none => openSample c h i d) with
    | .error d => d
    | .ok d =>
      let d := modHolder d c.slot c.st h (fun y => { y with cur := y.cur.map (fun o =>
        let px := match assocGet o.parts 0 with
          | some (.image _ px) => px
          | _ => []
        { o with bad := o.bad || bit flags 1, parts := [(0, .image ty (px ++ p.drop 64))] }) })
      let d := tookTile c h d
      if bit flags 0 then closeSample c h d else d

/-- A holder's stream ended. -/
def streamDone (d : Dev) (c : BatchCtx) (h : Nat) : Bool :=
  if h = c.own then inputsDone d c.slot c.st else ((batchSt d c.slot c.st).holder h).tiles.any (fun t => t.eos && t.rowCount == 0)

/-- A station between the shuffle and the batch holds nothing that can still go out. -/
def holdsNothing (d : Dev) (slot st : Nat) : Bool :=
  let s := getSt d slot st
  s.ins.all (fun p => p.inbox.isEmpty && p.objs.isEmpty && p.ktiles.isEmpty && decide (p.pos = 0)) && s.outs.all (fun o => o.rows.isEmpty && o.recs.isEmpty && o.pend.isNone) &&
  match s.kind with
  | .kernel k => k.ctx.isNone && decide (k.gpos = 0)
  | .parse x => x.todo.isEmpty && x.window.isEmpty
  | .align x => x.hold.isEmpty && x.late.isEmpty
  | .shale x => decide (x.received = 0)
  | .image x => x.part.isNone && x.window.isEmpty
  | .matchSt x => x.redo.isNone
  | .join x => x.out.isEmpty
  | .select x => x.cur.isNone
  | _ => true

/-- Every tile of a queue has been taken. -/
def allTaken (d : Dev) (slot n : Nat) : Bool := let q := getQ d slot n; q.spilled.isEmpty && q.held.isEmpty && q.taken.all (fun k => decide (q.nextSeq ≤ k))

/-- The position below which every row of this participant's shuffle has left it in sealed tiles (R281). -/
def shuffleLeft (d : Dev) (c : BatchCtx) (s port : Nat) (e : ShufEntry) : Nat :=
  let x := shuffleSt d c.slot s
  let at_ := x.pos.getD port 0
  let n := max 1 c.ch.samples
  let held := (x.store.filter (fun y => y.1 == e.channel)).map (·.2.1)
  let o := getOut d c.slot s port
  let kept := o.rows.length + (o.pend.map PendTile.rows).getD 0
  if kept = 0 then
    (match nextPos c.im c.ch e.passes held at_ with
     | some (p, _) => p
     | none => if e.passes = 0 then at_ else e.passes * c.ch.samples)
  else
    let ord := at_ / n * held.length + (held.filter (fun i => decide (offsetIn c.im c.ch (at_ / n) i < at_ % n))).length - kept
    let k := ord / max 1 held.length
    k * c.ch.samples + (sortBy id (held.map (offsetIn c.im c.ch k))).getD (ord % max 1 held.length) 0

/-- The position below which nothing of this participant's own stream is still on its way to the batch station (R284, R287): a filter has dropped what has not
arrived. None while a queue or a station between holds anything. -/
def passedBy (d : Dev) (c : BatchCtx) : Option Nat :=
  match entryOf c.im c.q.channel with
  | none => none
  | some (s, port, e) =>
    let between := (chainReach c.im c.im.stations.length (afterPort c.im s port)).filter (fun st =>
      let ty := (c.im.stations.getD st {}).stype
      ty != .batch && ty != .emit && ty != .shuffle)
    let queues := (List.range c.im.queues.length).filter (fun n =>
      let q := c.im.queues.getD n {}
      between.contains q.producer || (q.producer == s && q.producerPort == port))
    if (shuffleSt d c.slot s).emitting && between.all (holdsNothing d c.slot) && queues.all (allTaken d c.slot) then some (shuffleLeft d c s port e) else none

/-- The own stream has gone by positions without a sample: they are absent (R284). None where it has not. -/
def goBy (c : BatchCtx) (d : Dev) : Option Dev :=
  let y := (batchSt d c.slot c.st).holder c.own
  match passedBy d c with
  | none => none
  | some p =>
    if p ≤ y.next then none
    else some (modHolder (closeSample c c.own d) c.slot c.st c.own (fun y => { y with next := p, pass := p / max 1 c.ch.samples }))

/-- Every assembled batch goes out, the last one marked. -/
def flushAll (c : BatchCtx) : Nat → Dev → Dev
  | 0, d => d
  | n + 1, d => if stopped d c.slot then d else flushAll c n (flushBatch c (decide ((batchSt d c.slot c.st).ready.length = 1)) d)

/-- The station ends once every holder's stream has: the partial batch, then the last one (R285, R286). -/
def endBatches (c : BatchCtx) (d : Dev) : Dev :=
  let x := batchSt d c.slot c.st
  if !(List.range c.parts).all (fun h => (x.holder h).ended) || stopped d c.slot then d
  else
    let d := if x.slots.isEmpty then d else completeBatch c d
    let d := flushAll c (batchSt d c.slot c.st).ready.length d
    if stopped d c.slot then d else endStation d c.slot c.st

/-- What follows every change of a holder's stream: counts are told, what is passed is resolved, the station ends where all streams have. -/
def settleBatch (c : BatchCtx) (d : Dev) : Dev := if stopped d c.slot then d else endBatches c (resolve c (sendCounts c d))

/-- BATCH_ASSEMBLE (R284 to R290): the next sample of a holder's stream is checked and assembled; 65,536 samples beyond the oldest missing position, the
station stops consuming. -/
def batchAssemble (slot st h : Nat) (d : Dev) : DevOut :=
  let c := batchCtx d slot st
  let x := batchSt d slot st
  let y := x.holder h
  let finish (d : Dev) : Dev := settleBatch c (modHolder (closeSample c h d) slot st h (fun y => { y with ended := true }))
  if c.parts ≤ h ∨ y.ended ∨ (getSt d slot st).ended then noEvent
  else if outBlocked d slot st || (decide (windowPositions ≤ x.waiting.length) && decide (x.next < y.next)) then .next d
  else match headTile d c h with
  | some (t, pos) =>
    if t.rowCount = 0 ∧ t.eos ∧ t.payloadBytes = 0 ∧ h ≠ c.own then .next (finish (tookTile c h d))
    else
      let d := if batchPixels c.im st then takeImageTile c h t d else takeRows c h (t.rowCount + 1 - pos) true d
      .next (if stopped d slot then d
        else if t.eos && (headTile d c h).isNone && h != c.own then finish d
        else settleBatch c d)
  | none =>
    if h ≠ c.own then noEvent
    else if streamDone d c h then .next (finish d)
    else match goBy c d with
    | some d => .next (settleBatch c d)
    | none => noEvent

/-- BATCH_ASSEMBLE. -/
def execBatchAssemble (slot station holder : Nat) (s : State) : Host.Outcome State Fault Refusal :=
  onStation slot station (· = .batch) s (fun _ d => batchAssemble slot station holder d)

/-- VALID_COUNTS (R288): another participant's count of valid samples in a window; what it resolves leaves. -/
def execValidCounts (slot station part window count : Nat) (s : State) : Host.Outcome State Fault Refusal :=
  onStation slot station (· = .batch) s (fun _ d =>
    let c := batchCtx d slot station
    onlyIf (decide (part < c.parts) && decide (part ≠ c.own) && !(getSt d slot station).ended)
      (settleBatch c (modBatch d slot station (fun x => { x with told := assocSet x.told (part, window) count }))))

end Sys2Proof.Machine
end

