-- ==== Sys2Proof/Machine/CmdDevice.lean ====
section
/-!
DEFINITION. Device commands: IDENTIFY, ATTEST, FW_STAGE, FW_ACTIVATE, RESET_DEVICE, DIAG_RUN (03 R82 to R84, R89; 01 R15, R19; 17 R433 to R445).
-/

namespace Sys2Proof.Machine

open Sys2Proof

/-- The ten die counts in the order of the die table (01). -/
def dieCounts : List Nat := [32, 24, 12, 8, 8, 6, 4, 4, 1, 1]

/-- The firmware version IDENTIFY reports: the Oluat image's; the recovery service's where none is loaded. -/
def fwVersion (d : Dev) : Nat :=
  match d.root.loaded.getD 0 none with
  | some l => l.version
  | none => wrap 32 Config.recoveryVersion

/-- IDENTIFY's response (03, The command catalogue; 01 R15). -/
def identifyReport (d : Dev) : Bytes :=
  padTo 256 (le 4 0x59440201 ++ le 4 (fwVersion d) ++ padTo 32 (ownDigest d) ++ le 2 d.root.straps ++ le 2 (ownAddr d) ++ le 1 d.chain.addr ++
    le 1 (emtorLanes d.root.straps) ++ le 1 64 ++ zeros 1 ++ le 4 1048576 ++ le 4 8192 ++ le 4 262144 ++ le 4 33554432 ++
    le 8 (1152 * pow2 30) ++ le 8 (tierBytes d) ++ le 1 48 ++ dieCounts.map byteOf)

/-- IDENTIFY. -/
def identify : Service := { opcode := 0x0001, check := fun _ _ _ => none, act := fun _ d _ => (d, some (identifyReport d)) }

/-- IDENTIFY. -/
def execIdentify (idx : Nat) (s : State) : Host.Outcome State Fault Refusal := runDev s (serve identify idx)

/-- The measurement of a target that was loaded, zero for one that was not (17 R445). -/
def loadedMeasure (d : Dev) (t : Nat) : Bytes :=
  match d.root.loaded.getD t none with
  | some l => padTo 32 l.measure
  | none => zeros 32

/-- VERSION and SVN of a target that was loaded. -/
def loadedVersion (d : Dev) (t : Nat) : Nat × Nat :=
  match d.root.loaded.getD t none with
  | some l => (l.version, l.svn)
  | none => (0, 0)

/-- Bytes 0x0000 to 0x08DF of the attestation report (17 R445). Its targets stand in the order 2, 0, 1: loader, Oluat, keeper bundle. -/
def attestBody (d : Dev) (nonce : Bytes) : Bytes :=
  let r := d.root
  let v (t : Nat) := loadedVersion d t
  le 4 0x54415948 ++ le 2 1 ++ le 2 5581 ++ padTo 32 nonce ++ padTo 32 (ownDigest d) ++ le 8 Config.serial ++ le 2 r.straps ++ le 1 d.win.lastCause ++
  le 1 (b2n (d.power.state = .recovery) + 2 * b2n (strapDebugLock r.straps) + 4 * b2n (decide (r.debugScope ≠ 0))) ++ le 2 d.win.resets ++ zeros 2 ++
  le 1 (r.minSvn.getD 2 0) ++ le 1 (r.minSvn.getD 1 0) ++ le 1 (r.minSvn.getD 0 0) ++ zeros 1 ++ zeros 4 ++ shake256 (Config.fuseArray r.minSvn) 32 ++
  padTo 32 Config.romMeasure ++ loadedMeasure d 2 ++ loadedMeasure d 0 ++ loadedMeasure d 1 ++
  le 4 (v 2).1 ++ le 4 (v 0).1 ++ le 4 (v 1).1 ++ le 1 (v 2).2 ++ le 1 (v 0).2 ++ le 1 (v 1).2 ++ zeros 1 ++ padTo 32 r.debugDigest ++ le 8 d.time ++ zeros 8 ++
  padTo 1952 identityKeys.1

/-- The whole report with its signature. -/
def attestReport (d : Dev) (nonce : Bytes) : Bytes := attestBody d nonce ++ padTo 3309 (mldsaSign identityKeys.2 (Config.signRandom (attestBody d nonce)) (attestBody d nonce))

/-- ATTEST (17 R437, R445): check 10 fails after an identity mismatch. -/
def attest : Service :=
  { opcode := 0x0002, check := fun _ d _ => if d.root.identityOk then none else some (0x0009, 10),
    act := fun _ d c => (d, some (attestReport d (slice c.body 0 32))) }

/-- ATTEST. -/
def execAttest (idx : Nat) (s : State) : Host.Outcome State Fault Refusal := runDev s (serve attest idx)

/-- The most body bytes of a target (17 R433). -/
def fwBodyMax (t : Nat) : Nat :=
  match t with
  | 2 => pow2 20 | 1 => 8 * pow2 20 | _ => 32 * pow2 20

/-- The image of request data. -/
def fwOf (b : Bytes) : FwImage := { hdr := b.take 5376, bodyBytes := b.length - 5376, bodyDigest := shake256 (b.drop 5376) 32 }

/-- FW_STAGE's checks (17 R442): target, magic, size, reserved fields, then R434. -/
def fwStageCheck (m : Memory) (d : Dev) (c : Cmd) : Option (Nat × Nat) :=
  let t := u8at c.body 0
  if 2 < t then badField 0
  else if c.dataBytes < 5376 then badField 0x10
  else
    let b := cmdData m c
    if u32at b 0 ≠ 0x57465948 then badField 0
    else if u8at b 4 ≠ t then badField 4
    else if 2 ≤ u8at b 5 then badField 5
    else if !allZero b 6 2 then badField 6
    else if 63 < u8at b 0x0C then badField 0x0C
    else if !allZero b 0x0D 3 then badField 0x0D
    else if c.dataBytes ≠ 5376 + u32at b 0x10 ∨ fwBodyMax t < u32at b 0x10 then badField 0x10
    else if !allZero b 0x14 12 then badField 0x14
    else if !allZero b 0x14CD 51 then badField 0x14CD
    else match (fwOf b).failing (d.root.minSvn.getD t 0) with
      | some n => some (0x0009, n)
      | none => none

/-- Puts a bank's contents in place of a target's STAGED bank and clears PENDING. -/
def putStaged (bs : List Banks) (t : Nat) (i : Option FwImage) : List Banks := modifyAt bs t (fun b => { b with staged := i, pending := false })

/-- The bank is written to flash, read back and compared (17 R442): on a mismatch the bank stays invalid there and 0x0E09 is raised (R451). Whether it
matches is a free value (log entry 50). -/
def flashStage (d : Dev) (t : Nat) (i : FwImage) : Dev :=
  let n := d.free
  let d := { d with free := n + 1 }
  match Config.flashMismatch n with
  | none => { d with root := { d.root with flash := putStaged d.root.flash t (some i) } }
  | some a => deviceFault { d with root := { d.root with flash := putStaged d.root.flash t none } } 0x0E09 a 0 rootDie

/-- An accepted image replaces the STAGED bank and clears PENDING, in flash too where it holds banks (17 R435, R442). -/
def fwStage (d : Dev) (t : Nat) (i : FwImage) : Dev :=
  let d := { d with root := { d.root with cache := putStaged d.root.cache t (some i) } }
  if usesFlash d.root then flashStage d t i else d

/-- FW_STAGE. -/
def fwStageCmd : Service :=
  { opcode := 0x0070, check := fwStageCheck, act := fun m d c => (fwStage d (u8at c.body 0) (fwOf (cmdData m c)), some []) }

/-- FW_STAGE. -/
def execFwStage (idx : Nat) (s : State) : Host.Outcome State Fault Refusal := runDev s (serve fwStageCmd idx)

/-- FW_ACTIVATE's checks (17 R443). -/
def fwActivateCheck (d : Dev) (c : Cmd) : Option (Nat × Nat) :=
  let t := u8at c.body 0
  if 2 < t then badField 0
  else match liveJob d with
  | some s => badState d s
  | none =>
    match (bootBanks d.root t).staged with
    | some i => if (i.failing (d.root.minSvn.getD t 0)).isSome then badField 0 else none
    | none => badField 0

/-- Sets PENDING of a target. -/
def setPending (d : Dev) (t : Nat) : Dev :=
  let f (bs : List Banks) : List Banks := modifyAt bs t (fun b => { b with pending := true })
  { d with root := { d.root with cache := f d.root.cache, flash := if usesFlash d.root then f d.root.flash else d.root.flash } }

/-- FW_ACTIVATE (17 R443, 03 R83): PENDING, the completion, then a full reset with LAST_CAUSE 4. -/
def fwActivate : Service :=
  { opcode := 0x0071, check := fun _ d c => fwActivateCheck d c, act := fun _ d c => (setPending d (u8at c.body 0), some []), after := fun d _ => fullReset d 4 }

/-- FW_ACTIVATE. -/
def execFwActivate (idx : Nat) (s : State) : Host.Outcome State Fault Refusal := runDev s (serve fwActivate idx)

/-- RESET_DEVICE (03 R83): with the key it completes, then a full reset starts. -/
def resetDevice : Service :=
  { opcode := 0x00F0, check := fun _ _ c => if u32at c.body 0 = 0x0000A5C3 then none else badField 0, act := fun _ d _ => (d, some []),
    after := fun d _ => let d := fullReset d 3; { d with root := { d.root with mainOn := true } } }

/-- RESET_DEVICE. -/
def execResetDevice (idx : Nat) (s : State) : Host.Outcome State Fault Refusal := runDev s (serve resetDevice idx)

/-- DIAG_RUN's checks (03 R89): no job may be active; the die exists. -/
def diagCheck (d : Dev) (c : Cmd) : Option (Nat × Nat) :=
  match liveJob d with
  | some s => badState d s
  | none => if 99 < u8at c.body 2 then badField 2 else none

/-- DIAG_RUN: the manual gives no test's number or result; result and detail are free values (log entry 13). Test 0 lists the tests and passes. -/
def diagRun : Service :=
  { opcode := 0x0090, check := fun _ d c => diagCheck d c,
    act := fun _ d c =>
      let (r, d) := drawFree d
      let (x, d) := drawFree d
      (d, some (padTo 16 (le 4 (if u16at c.body 0 = 0 then 0 else r) ++ zeros 4 ++ le 8 x))) }

/-- DIAG_RUN. -/
def execDiagRun (idx : Nat) (s : State) : Host.Outcome State Fault Refusal := runDev s (serve diagRun idx)

end Sys2Proof.Machine
end

