-- ==== Sys2Proof/Machine/Chain.lean ====
section
/-!
DEFINITION. The hedgerow chain (15 R400 to R404; 03 R75, R84).
-/

namespace Sys2Proof.Machine

open Sys2Proof

/-- Reads a chain frame between its K28.5 and K28.6 symbols; none where the CRC fails or the KIND is reserved (R401). -/
def readFrame (bs : Bytes) : Option Frame :=
  let n := u16at bs 6
  let body := bs.take (16 + n)
  if bs.length ≠ 20 + n ∨ 4096 < n ∨ u32at bs (16 + n) ≠ crc32c body ∨ u8at bs 2 = 0 ∨ 7 < u8at bs 2 then none
  else some { dest := u8at bs 0, src := u8at bs 1, kind := u8at bs 2, last := bit (u8at bs 3) 0, cid := u16at bs 4, offset := u32at bs 8, data := slice bs 16 n }

/-- The bytes of a chain frame between the symbols, its CRC-32C included (R401). -/
def Frame.bytes (f : Frame) : Bytes :=
  let h := le 1 f.dest ++ le 1 f.src ++ le 1 f.kind ++ le 1 (b2n f.last) ++ le 2 f.cid ++ le 2 f.data.length ++ le 4 f.offset ++ zeros 4 ++ f.data
  h ++ le 4 (crc32c h)

/-- Changes the chain interface. -/
def modChain (d : Dev) (f : Chain → Chain) : Dev := { d with chain := f d.chain }

/-- Stores a frame for sending: true upstream (R400, R401). -/
def storeFrame (d : Dev) (up : Bool) (f : Frame) : Dev := modChain d (fun c => { c with store := c.store ++ [(up, f)] })

/-- The chain interface works: the always-on island is powered (R400). -/
def chainOn (d : Dev) : Bool := d.root.railsOn

/-- Abandons the chain command in progress: it receives no response (R402). -/
def abandonChain (d : Dev) : Dev :=
  modWin (modChain d (fun c => { c with cid := none, buf := [] })) (fun w => { w with inProg := w.inProg.filter (fun x => !x.chain) })

/-- ENUMERATE (R402): the address is cleared, and taken where the strap is high and NEXT is at most 64; the frame goes on downstream. -/
def enumerate (next : Nat) (d : Dev) : Dev :=
  let pos := strapChainPos d.root.straps
  let out := if pos then (next + 1) % 256 else next
  let d := abandonChain d
  let d := modChain d (fun c => { c with addr := if pos && decide (next ≤ 64) then next else 0, enumNext := some out, watch := [] })
  storeFrame d false { dest := 0xFF, src := 0, kind := 1, data := le 1 out }

/-- ENUMERATE: NEXT is a byte, 1 when the controller sends it. -/
def execEnumerate (next : Nat) (s : State) : Host.Outcome State Fault Refusal :=
  runDev s (fun _ d => onlyIf (chainOn d && decide (1 ≤ next) && decide (next < 256)) (enumerate next d))

/-- LAST_DEVICE_TIMEOUT (R402): this device is the last; it sends ENUM_DONE with the addressed count and the overflow flag. -/
def lastDevice (out : Nat) (d : Dev) : Dev :=
  let n := out - 1
  let d := modChain d (fun c => { c with enumNext := none, store := c.store.filter (fun x => x.1), turnDown := true })
  storeFrame d true { dest := 0, src := d.chain.addr, kind := 2, data := le 1 (min 64 n) ++ le 1 (b2n (decide (64 < n))) }

/-- LAST_DEVICE_TIMEOUT. -/
def execLastDeviceTimeout (s : State) : Host.Outcome State Fault Refusal :=
  runDev s (fun _ d =>
    match d.chain.enumNext with
    | some n => if chainOn d then .next (lastDevice n d) else noEvent
    | none => noEvent)

/-- The commands the chain carries (03 R75). -/
def chainService (op : Nat) : Option Service :=
  match op with
  | 0x0001 => some identify | 0x0002 => some attest | 0x0050 => some monitorRead | 0x0040 => some powerSet | 0x0041 => some powerQuery
  | 0x0070 => some fwStageCmd | 0x0071 => some fwActivate | 0x00F0 => some resetDevice
  | _ => none

/-- The commands the root die serves itself (R403). -/
def rootServes (op : Nat) : Bool := op == 0x0001 || op == 0x0040 || op == 0x0041 || op == 0x00F0

/-- Runs a complete chain command (R403): DATA_ADDR and RESP_ADDR are zero; in BOOTING and D3 the root die serves four commands. -/
def runChain (m : Memory) (d : Dev) (c : Cmd) : Dev :=
  match chainService c.opcode with
  | none => complete d c 0x0001 0 [] c.slot
  | some sv =>
    if c.dataAddr ≠ 0 then complete d c 0x0002 (pow2 59 + 8) [] c.slot
    else if c.respAddr ≠ 0 then complete d c 0x0002 (pow2 59 + 0x18) [] c.slot
    else if !served d && !rootServes c.opcode then complete d c 0x0003 (256 * d.power.state.code) [] c.slot
    else sv.run m d c

/-- Puts a fragment at its offset among the bytes received. -/
def putAt (buf : Bytes) (off : Nat) (bs : Bytes) : Bytes := padTo off buf ++ bs ++ buf.drop (off + bs.length)

/-- The command that the received bytes carry: the slot at offset 0, then the data (R403). -/
def chainCmd (cid : Nat) (buf : Bytes) : Cmd :=
  let c := readSlot (slice buf 0 256) cid
  { c with chain := true, data := slice buf 256 c.dataBytes }

/-- The completion entry a second COMMAND receives (R403): BAD_STATE; the command in progress stays. -/
def refuseSecond (d : Dev) (f : Frame) : Dev :=
  let c := chainCmd f.cid f.data
  let e := cplEntry c 0x0003 (256 * d.power.state.code) 0 c.slot d.time
  storeFrame d true { dest := 0, src := d.chain.addr, kind := 6, cid := f.cid, data := e }

/-- Takes a COMMAND or DATA frame (R403): a repeated CID is answered from the store; a COMMAND with another CID while one is in progress completes with
BAD_STATE; the device acts on the frame with LAST set. -/
def chainCommand (f : Frame) (m : Memory) (d : Dev) : DevOut :=
  match assocGet d.chain.answers f.cid with
  | some all =>
    if f.kind = 4 ∧ f.offset = 0 then
      .next (modChain d (fun c => { c with store := c.store ++ (respFrames c.addr f.cid (all.length / 4096 + 1) 0 all).map (fun x => (true, x)) }))
    else .next d
  | none =>
    match d.chain.cid with
    | some x =>
      if x ≠ f.cid then (if f.kind = 4 ∧ f.offset = 0 then .next (refuseSecond d f) else .next d)
      else
        let buf := putAt d.chain.buf f.offset f.data
        let d := modChain d (fun c => { c with buf := buf })
        if f.last then .next (runChain m d (chainCmd f.cid buf)) else .next d
    | none =>
      if f.kind = 4 ∧ f.offset = 0 then
        let d := modChain d (fun c => { c with cid := some f.cid, buf := f.data })
        if f.last then .next (runChain m d (chainCmd f.cid f.data)) else .next d
      else .next d

/-- CHAIN_COMMAND: a frame that fails its CRC or carries a reserved KIND is discarded and counted (R401); one for this device or for every device is taken,
and the latter is also forwarded. -/
def execChainCommand (up : Bool) (bs : Bytes) (s : State) : Host.Outcome State Fault Refusal :=
  runDev s (fun m d =>
    if !chainOn d || up then noEvent
    else match readFrame bs with
    | none => .next (modChain d (fun c => { c with discarded := c.discarded + 1 }))
    | some f =>
      if !(f.kind == 4 || f.kind == 5) || decide (d.chain.addr = 0) || !(f.dest == d.chain.addr || f.dest == 0xFF) then noEvent
      else chainCommand f m (if f.dest = 0xFF then storeFrame d false f else d))

/-- CHAIN_FRAME_FORWARD (R401): a frame not addressed to this device goes on in its direction. -/
def execChainFrameForward (up : Bool) (bs : Bytes) (s : State) : Host.Outcome State Fault Refusal :=
  runDev s (fun _ d =>
    if !chainOn d then noEvent
    else match readFrame bs with
    | none => .next (modChain d (fun c => { c with discarded := c.discarded + 1 }))
    | some f => onlyIf (up || decide (f.dest ≠ d.chain.addr) || decide (d.chain.addr = 0)) (storeFrame d up f))

/-- The oldest stored frame of a direction and the store without it. -/
def popFrame (up : Bool) : List (Bool × Frame) → Option Frame × List (Bool × Frame)
  | [] => (none, [])
  | x :: r => if x.1 == up then (some x.2, r) else let (f, r) := popFrame up r; (f, x :: r)

/-- Sends the oldest stored frame of a direction, if there is one. -/
def sendStored (d : Dev) (up : Bool) : Dev :=
  let (f, st) := popFrame up d.chain.store
  let d := modChain d (fun c => { c with store := st })
  match f with
  | some f => send d (.frame up f)
  | none => d

/-- TURN_PASS (R400). On the segment above, the upstream end passes the turn here: at most one frame, then the turn goes back. On the segment below, this
device sends a frame and passes the turn, or takes the returned turn. -/
def turnPass (up : Bool) (d : Dev) : Dev :=
  if up then send (sendStored d true) (.turn true)
  else if d.chain.turnDown then send (modChain (sendStored d false) (fun c => { c with turnDown := false })) (.turn false)
  else modChain d (fun c => { c with turnDown := true, enumNext := none })

/-- TURN_PASS. -/
def execTurnPass (up : Bool) (s : State) : Host.Outcome State Fault Refusal := runDev s (fun _ d => onlyIf (chainOn d) (turnPass up d))

/-- The 16 bytes of a heartbeat (R404). -/
def heartbeatData (d : Dev) : Bytes :=
  le 1 d.power.state.code ++ zeros 1 ++ le 2 (ownAddr d) ++ le 2 d.win.latchCode ++ zeros 2 ++ padTo 8 (ownDigest d)

/-- HEARTBEAT_TICK (R404): an addressed device sends HEARTBEAT; an interval passes for every address it watches. -/
def heartbeatTick (d : Dev) : Dev :=
  let d := storeFrame d true { dest := 0, src := d.chain.addr, kind := 3, data := heartbeatData d }
  modChain d (fun c => { c with watch := c.watch.map (fun w => (w.1, w.2.1 + 1, w.2.2)) })

/-- HEARTBEAT_TICK. -/
def execHeartbeatTick (s : State) : Host.Outcome State Fault Refusal := runDev s (fun _ d => onlyIf (chainOn d && decide (d.chain.addr ≠ 0)) (heartbeatTick d))

/-- HEARTBEAT (R404): a device beyond is alive; one reported lost has returned. -/
def execHeartbeat (src : Nat) (s : State) : Host.Outcome State Fault Refusal :=
  runDev s (fun _ d => onlyIf (chainOn d && decide (d.chain.addr < src) && decide (src ≤ 64) && decide (d.chain.addr ≠ 0))
    (modChain d (fun c => { c with watch := assocSet c.watch src (0, false) })))

/-- Watched addresses silent for three intervals. -/
def silent (c : Chain) : List Nat := (c.watch.filter (fun w => decide (3 ≤ w.2.1))).map (·.1)

/-- HEARTBEAT_MISSING (R404): the watcher of the lowest missing address sends LOST and writes 0x0711. -/
def heartbeatMissing (missing : Nat) (d : Dev) : Dev :=
  let n := ((silent d.chain).filter (fun a => decide (missing < a))).length
  let d := storeFrame d true { dest := 0, src := d.chain.addr, kind := 7, data := le 1 missing ++ le 1 n }
  let d := modChain d (fun c => { c with watch := c.watch.map (fun w => if (3 ≤ w.2.1) then (w.1, w.2.1, true) else w) })
  deviceFault d 0x0711 missing n rootDie

/-- HEARTBEAT_MISSING: the address just beyond this device is silent and not yet reported. -/
def execHeartbeatMissing (missing : Nat) (s : State) : Host.Outcome State Fault Refusal :=
  runDev s (fun _ d => onlyIf (chainOn d && decide (missing = d.chain.addr + 1) && (silent d.chain).contains missing &&
    d.chain.watch.any (fun w => w.1 == missing && !w.2.2)) (heartbeatMissing missing d))

end Sys2Proof.Machine
end

