-- ==== Sys2Proof/Machine/Layout.lean ====
section
/-!
DEFINITION. Layout stations: C32 tensors (11 R291 to R296).
-/

namespace Sys2Proof.Machine

open Sys2Proof

/-- A dimension entry of a tensor descriptor (R291). -/
structure TDim where
  srcExtent : Nat
  pieceOff : Int
  piece : Nat
  srcStride : Nat
  destStride : Nat
  deriving DecidableEq, Repr

/-- A tensor descriptor (R291). -/
structure Tensor where
  ty : Ty
  source : Nat
  transpose : Bool
  constPad : Bool
  part : Nat
  region : Nat
  mask : Nat
  pad : Nat
  destOff : Nat
  slotStride : Nat
  srcOff : Nat
  srcBatch : Nat
  dims : List TDim
  deriving DecidableEq, Repr

/-- Reads dimension entry `d` of the descriptor at an offset. -/
def readTDim (p : Bytes) (o d : Nat) : TDim :=
  let e := o + 0x40 + 32 * d
  { srcExtent := u32at p e, pieceOff := toSigned 32 (u32at p (e + 4)), piece := u32at p (e + 8), srcStride := u64at p (e + 16), destStride := u64at p (e + 24) }

/-- Reads descriptor `i` of a layout block. -/
def readTensor (p : Bytes) (i : Nat) : Tensor :=
  let o := 16 + 256 * i
  { ty := (Ty.ofCode (u8at p o)).getD .u8, source := u8at p (o + 2), transpose := bit (u8at p (o + 3)) 1, constPad := bit (u8at p (o + 3)) 0,
    part := u8at p (o + 4), region := u16at p (o + 6), mask := u64at p (o + 8), pad := u64at p (o + 0x10), destOff := u64at p (o + 0x18),
    slotStride := u64at p (o + 0x20), srcOff := u64at p (o + 0x28), srcBatch := u64at p (o + 0x30),
    dims := (List.range (u8at p (o + 1))).map (readTDim p o) }

/-- The tensors of a layout block. -/
def readTensors (p : Bytes) : List Tensor := (List.range (u8at p 1)).map (readTensor p)

/-- Destination dimension that reads source dimension `k`, and the other way round (R292). -/
def Tensor.swap (t : Tensor) (k : Nat) : Nat := if t.transpose && decide (k < 2) then 1 - k else k

/-- Dimension entry `d`. -/
def Tensor.dim (t : Tensor) (d : Nat) : TDim := t.dims.getD d ⟨0, 0, 0, 0, 0⟩

/-- Coordinates below the given extents, the first dimension fastest. -/
def coords : List Nat → List (List Nat)
  | [] => [[]]
  | n :: ns => (List.range n).flatMap (fun i => (coords ns).map (fun r => i :: r))

/-- Piece coordinates that the layout writes: dimension 0 in whole vectors of 32 (R292). -/
def Tensor.pieces (t : Tensor) : List (List Nat) := coords (t.dims.zipIdx.map (fun (e, d) => if d = 0 then 32 * ceilDiv e.piece 32 else e.piece))

/-- dest_addr (R292). -/
def Tensor.destAddr (t : Tensor) (q : Nat) (p : List Nat) : Nat :=
  let p0 := p.getD 0 0
  p.zipIdx.foldl (fun a (x, d) => if d = 0 then a else a + x * (t.dim d).destStride)
    (t.destOff + q * t.slotStride + p0 / 32 * (t.dim 0).destStride + p0 % 32 * t.ty.bytes)

/-- One destination coordinate clamped to the source: the source coordinate, and whether it is padding (R292). -/
def clampCoord (e : TDim) (d p : Nat) : Nat × Bool :=
  let past := decide (d = 0) && decide (e.piece ≤ p)
  let c : Int := e.pieceOff + ((if past then e.piece - 1 else p : Nat) : Int)
  let low := decide (c < 0)
  let c := if low then 0 else c
  let high := decide ((e.srcExtent : Int) ≤ c)
  (if high then e.srcExtent - 1 else c.toNat, past || low || high)

/-- Source coordinates of a piece coordinate, by source dimension, and whether the element is padding (R292). -/
def Tensor.srcCoords (t : Tensor) (p : List Nat) : List Nat × Bool :=
  let cs := t.dims.zipIdx.map (fun (e, d) => clampCoord e d (p.getD d 0))
  ((List.range cs.length).map (fun k => (cs.getD (t.swap k) (0, false)).1), cs.any (·.2))

/-- Byte offsets of the valid elements of slot 0. -/
def Tensor.validAt (t : Tensor) : List Nat := (t.pieces.filter (fun p => !(t.srcCoords p).2)).map (t.destAddr 0)

/-- Slots that a tensor writes in a batch of `n` samples. -/
def Tensor.slots (t : Tensor) (n : Nat) : Nat := if t.source = 2 then 1 else n

/-- The rules of R291 and R294 on one tensor. -/
def tensorOk (im : Image) (p : Bytes) (slotBytes samples i : Nat) : Bool :=
  let o := 16 + 256 * i
  let t := readTensor p i
  let w := t.ty.bytes
  let n := t.dims.length
  (match Ty.ofCode (u8at p o) with
   | some ty => ty.isFixed && decide (ty ≠ .bool)
   | none => false) &&
  decide (1 ≤ n) && decide (n ≤ 5) && decide (t.source ≤ 2) && decide (u8at p (o + 3) < 4) && u8at p (o + 5) = 0 && allZero p (o + 0x38) 8 &&
  (if t.source = 2 then im.regions.any (fun r => r.id == t.region) else t.region = 0) && (!t.transpose || decide (2 ≤ n)) &&
  (t.source ≠ 2 || t.slotStride = 0) && allZero p (o + 0x40 + 32 * n) (0xC0 - 32 * n) &&
  [t.destOff, t.slotStride, t.srcOff, t.srcBatch].all (fun x => x % w = 0) &&
  t.dims.zipIdx.all (fun (e, d) =>
    decide (1 ≤ e.piece) && e.srcStride % w = 0 && e.destStride % w = 0 && (t.source = 2 || e.srcStride = 0) && allZero p (o + 0x40 + 32 * d + 12) 4 &&
    (d ≠ 0 || decide (32 * w ≤ e.destStride))) &&
  decide (t.destAddr (t.slots samples - 1) (t.dims.zipIdx.map (fun (e, d) => if d = 0 then 32 * ceilDiv e.piece 32 - 1 else e.piece - 1)) + w ≤ slotBytes)

/-- Two ascending spans overlap somewhere. -/
def spansOverlap : List (Nat × Nat) → Bool
  | a :: b :: r => decide (b.1 < a.1 + a.2) || spansOverlap (b :: r)
  | _ => false

/-- The rules of R291 and R294. -/
def layoutOk (im : Image) (s : StationD) : Bool :=
  let p := im.paramBlock s
  let ch := channelD im (u8at p 0)
  let ts := readTensors p
  allZero p 2 6 && im.channels.any (fun c => c.channel == u8at p 0) && decide (1 ≤ ts.length) && decide (ts.length ≤ 16) &&
  (List.range ts.length).all (tensorOk im p (u64at p 8) ch.batchSamples) &&
  !spansOverlap (sortBy (fun (x : Nat × Nat) => x.1) ((ts.map (fun t =>
    ((List.range (t.slots ch.batchSamples)).map (fun q => t.validAt.map (fun a => (a + q * t.slotStride, t.ty.bytes)))).flatten)).flatten))

/-- The layout station's own state. -/
def layoutSt (d : Dev) (slot st : Nat) : LayoutSt :=
  match (getSt d slot st).kind with
  | .layout x => x
  | _ => {}

/-- Changes it. -/
def modLayout (d : Dev) (slot st : Nat) (f : LayoutSt → LayoutSt) : Dev := setKind d slot st (.layout (f (layoutSt d slot st)))

/-- The batch station whose output a layout station takes. -/
def batchOf (im : Image) (st : Nat) : Nat := ((portQueues im st 0).head?.map (·.producer)).getD 0

/-- Elements of a source with dimension 0 fastest: the index of a coordinate. -/
def Tensor.linear (t : Tensor) (s : List Nat) : Nat :=
  (s.zipIdx.foldl (fun (a : Nat × Nat) x => (a.1 + x.1 * a.2, a.2 * (t.dim (t.swap x.2)).srcExtent)) (0, 1)).1

/-- Elements a source must hold. -/
def Tensor.count (t : Tensor) : Nat := t.dims.foldl (fun a e => a * e.srcExtent) 1

/-- The element bits of a part (R292, SOURCE 0 and 1), in order; none where count or type disagrees with the descriptor. -/
def Tensor.partEls (t : Tensor) (rows : Nat) (data : Bytes) (shape : Nat × Option Ty) : Option (Array Nat) :=
  if t.source = 1 then
    (if shape.2 = some t.ty ∧ data.length = t.count * t.ty.bytes then some (((List.range t.count).map (fun i => uat data (i * t.ty.bytes) t.ty.bytes)).toArray)
     else none)
  else
    let want := (List.range 64).filter (fun c => bit t.mask c)
    let cols := if rows = 0 then [] else (decodeCols shape.1 rows data).getD []
    if shape.2.isSome ∨ rows * want.length ≠ t.count ∨ cols.any (fun c => want.contains c.num && decide (c.ty ≠ t.ty)) then none
    else some (((List.range rows).flatMap (fun r => want.map (fun c =>
      match cols.find? (fun x => x.num == c) with
      | some x => ((x.vals.getD r none).map Val.n).getD 0
      | none => 0))).toArray)

/-- The source offset of an element of a SOURCE 2 tensor for a batch (R292): the stride of a source dimension stands in the entry that reads it. -/
def Tensor.srcAt (t : Tensor) (batch : Nat) (s : List Nat) : Nat :=
  let s0 := s.getD 0 0
  s.zipIdx.foldl (fun a (x, k) => if k = 0 then a else a + x * (t.dim (t.swap k)).srcStride)
    (t.srcOff + batch * t.srcBatch + s0 / 32 * (t.dim (t.swap 0)).srcStride + s0 % 32 * t.ty.bytes)

/-- A byte of a slot image: its value, whether a valid element wrote it, and the tensor and slot that wrote it. -/
structure SlotByte where
  val : Byte
  valid : Bool
  owner : Nat × Nat
  deriving DecidableEq, Repr

/-- The bytes of a slot image; none for one not written. -/
abbrev SlotImage := Array (Option SlotByte)

/-- Writes an element into a slot image (R293): valid bytes win, padding keeps to the lowest tensor and slot. Where two padding elements of one tensor and
slot meet in a byte with different values the manual states none: a free value, by the numbers of `open_` and the byte (log entries 22, 114). -/
def putElement (open_ : List Nat) (img : SlotImage) (a : Nat) (e : Bool × Nat × Nat) (bs : Bytes) : SlotImage :=
  bs.zipIdx.foldl (fun img (b, i) =>
    match img.getD (a + i) none with
    | none => img.setIfInBounds (a + i) (some ⟨b, e.1, e.2⟩)
    | some o =>
      if e.1 then img.setIfInBounds (a + i) (some ⟨b, true, e.2⟩)
      else if !o.valid && o.owner == e.2 && o.val != b then img.setIfInBounds (a + i) (some { o with val := (Config.jobBytes open_).getD (a + i) 0 })
      else img) img

/-- Writes a tensor's elements of one slot; `i` is the tensor's number, `src` answers a source element (R292). -/
def Tensor.writeSlot (open_ : List Nat) (t : Tensor) (i q : Nat) (hole : Bool) (src : List Nat → Nat) (img : SlotImage) : SlotImage :=
  t.pieces.foldl (fun img p =>
    let (s, pad) := t.srcCoords p
    let pad := pad || hole
    let v := if pad && (t.constPad || hole) then (if t.constPad then t.pad else 0) else src s
    putElement open_ img (t.destAddr q p) (!pad, i, q) (le t.ty.bytes v)) img

/-- Why a transfer failed: a fault with DETAIL and DETAIL2, or a source region that cannot be read. -/
inductive LayErr where
  | shape (tensor part sample : Nat)
  | overlap (tensor : Nat)
  | access (e : AccErr)

/-- The elements of a SOURCE 2 tensor for a batch, by source coordinates, read before any destination byte is written (R295). -/
def Tensor.regionEls (t : Tensor) (m : Memory) (d : Dev) (b : Binding) (batch : Nat) : Except AccErr (List (List Nat × Nat)) :=
  let ss := (t.pieces.map (fun p => (t.srcCoords p).1)).eraseDups
  ss.foldl (fun (acc : Except AccErr (List (List Nat × Nat))) s =>
    match acc with
    | .error e => .error e
    | .ok out =>
      match regRead m d b (t.srcAt batch s) t.ty.bytes with
      | .error e => .error e
      | .ok bs => .ok (out ++ [(s, leNat bs)])) (.ok [])

/-- Lowest byte and end of some elements. -/
def spanOf (w : Nat) (as : List Nat) : Nat × Nat := (as.foldl min (as.headD 0), as.foldl (fun a x => max a (x + w)) 0)

/-- The exact in-place transpose of R295. -/
def Tensor.inPlace (t : Tensor) (src dst : Nat × Nat) : Bool :=
  src = dst && decide ((t.dim 0).piece = (t.dim 1).piece) && decide ((t.dim 0).piece ≤ 64) &&
  t.dims.all (fun e => decide (e.pieceOff = 0) && decide (e.piece = e.srcExtent)) &&
  t.dims.zipIdx.all (fun (e, k) => e.srcStride = (t.dim (t.swap k)).destStride)

/-- A SOURCE 2 tensor is refused for a batch (R295): a transposing copy whose source bytes overlap the batch's destination bytes. `dests` are the device
addresses of the batch's destination elements with their widths, `off` the batch slot's offset in the output region `out`. -/
def Tensor.refused (t : Tensor) (b out : Binding) (batch off : Nat) (dests : List (Nat × Nat)) : Bool :=
  let srcs := (t.pieces.map (fun p => b.addrOf (t.srcAt batch (t.srcCoords p).1))).eraseDups
  let own := t.pieces.map (fun p => out.addrOf (off + t.destAddr 0 p))
  t.transpose && srcs.any (fun a => dests.any (fun x => rangesMeet a t.ty.bytes x.1 x.2)) && !t.inPlace (spanOf t.ty.bytes srcs) (spanOf t.ty.bytes own)

/-- The slot image of a batch (R292, R293, R295). -/
def slotImage (m : Memory) (d : Dev) (slot st batch : Nat) : Except LayErr SlotImage :=
  let j := getJob d slot
  let p := paramSt d slot st
  let ts := readTensors p
  let ls := sortBy LaySlot.slot (layoutSt d slot st).slots
  let shapes := (batchSt d slot (batchOf j.image st)).shapes
  let ch := channelD j.image (u8at p 0)
  let slots := max 1 (((entryOf j.image ch.channel).map (fun e => e.2.2.slots)).getD 1)
  let out := bindingOr j ch.outputRegion
  let off := batch / max 1 j.participants.length % slots * u64at p 8
  let key := [j.image.check, st, batch]
  let dests := (ts.map (fun t => ((List.range (t.slots ls.length)).map (fun q => t.pieces.map (fun x => (out.addrOf (off + t.destAddr q x), t.ty.bytes)))).flatten)).flatten
  ts.zipIdx.foldl (fun (acc : Except LayErr SlotImage) (t, i) =>
    match acc with
    | .error e => .error e
    | .ok img =>
      if t.source = 2 then
        let b := bindingOr j t.region
        if t.refused b out batch off dests then .error (.overlap i)
        else match t.regionEls m d b batch with
        | .error e => .error (.access e)
        | .ok els => .ok (t.writeSlot key i 0 false (fun s => (assocGet els s).getD 0) img)
      else
        ls.foldl (fun (acc : Except LayErr SlotImage) l =>
          match acc with
          | .error e => .error e
          | .ok img =>
            if l.hole then .ok (t.writeSlot key i l.slot true (fun _ => 0) img)
            else
              let part := (l.parts.find? (fun x => x.1 == t.part)).getD (t.part, 0, [])
              match t.partEls part.2.1 part.2.2 ((assocGet shapes (batch, l.slot, t.part)).getD (0, if t.source = 1 then some t.ty else none)) with
              | none => .error (.shape i t.part l.sample)
              | some els => .ok (t.writeSlot key i l.slot false (fun s => els.getD (t.linear s) (Config.jobNat (key ++ [i, l.slot, t.linear s]))) img)) (.ok img)) (.ok (Array.replicate (u64at p 8) none))

/-- The runs of consecutive written bytes of a slot image, up to 4,032 bytes each, in ascending offset (R296). -/
def slotRuns (img : SlotImage) : List (Nat × Bytes) :=
  let (runs, cur) := img.toList.zipIdx.foldl (fun (s : List (Nat × Bytes) × Option (Nat × Bytes)) x =>
    match x.1, s.2 with
    | none, none => s
    | none, some r => (s.1 ++ [r], none)
    | some b, none => (s.1, some (x.2, [b.val]))
    | some b, some r => if r.2.length < 4032 then (s.1, some (r.1, r.2 ++ [b.val])) else (s.1 ++ [r], some (x.2, [b.val]))) ([], none)
  runs ++ cur.toList

/-- The payload of a TENSOR tile (R296). -/
def tensorPayload (batch : Nat) (run : Nat × Bytes) (lastOne : Bool) : Bytes :=
  le 8 batch ++ le 8 run.1 ++ le 4 run.2.length ++ le 1 (b2n lastOne) ++ zeros 43 ++ run.2

/-- Takes a slice into the batch being gathered (R290). -/
def takeSlice (b : Bytes) (slots : List LaySlot) : List LaySlot :=
  let q := u32at b 8
  let l := (slots.find? (fun x => x.slot == q)).getD { slot := q, sample := u64at b 0x18 }
  let part := u8at b 0x0C
  let l :=
    if bit (u8at b 0x0D) 2 then { l with hole := true }
    else
      let old := ((l.parts.find? (fun x => x.1 == part)).map (fun x => x.2.2)).getD []
      { l with parts := l.parts.filter (fun x => x.1 != part) ++ [(part, u32at b 0x14, old ++ b.drop 64)] }
  slots.filter (fun x => x.slot != q) ++ [l]

/-- LAYOUT_TRANSFER (R293): the slice in hand is gathered; the batch's last slice starts the transfer of the batch. -/
def layoutTransfer (slot st : Nat) (m : Memory) (d : Dev) : DevOut :=
  if (getSt d slot st).ended then noEvent
  else if outBlocked d slot st then .next d
  else match (getIn d slot st 0).inbox with
  | [] => if inputsDone d slot st then .next (endStation d slot st) else noEvent
  | t :: _ =>
    let b := t.used
    let d := modIn d slot st 0 InPort.drop
    if b.length < 64 then .next d
    else
      let batch := u64at b 0
      let d := modLayout d slot st (fun x => { x with slots := takeSlice b x.slots })
      if !bit (u8at b 0x0D) 1 then .next d
      else match slotImage m d slot st batch with
      | .error (.shape i p s) => .next (stationFault d slot st 0x0C44 (256 * i + p) s)
      | .error (.overlap i) => .next (stationFault d slot st 0x0C46 i batch)
      | .error (.access e) => .next (moverAccess d slot st e)
      | .ok img =>
        let runs := slotRuns img
        let d := modLayout d slot st (fun x => { x with slots := [] })
        let d := modBatch d slot (batchOf (getJob d slot).image st) (fun x => { x with shapes := x.shapes.filter (fun s => s.1.1 != batch) })
        .next (runs.zipIdx.foldl (fun d (r, i) => addTile d slot st 0 0 0 (tensorPayload batch r (decide (i + 1 = runs.length)))) d)

/-- LAYOUT_TRANSFER. -/
def execLayoutTransfer (slot station : Nat) (s : State) : Host.Outcome State Fault Refusal :=
  onStation slot station (· = .layout) s (layoutTransfer slot station)

end Sys2Proof.Machine
end

