-- ==== Sys2Proof/Machine/ReadBack.lean ====
section
/-!
DEFINITION. Completion of what a mover channel writes: the paths written, the reads of links, read-backs and their return (12 R314 to R318).
-/

namespace Sys2Proof.Machine

open Sys2Proof

/-- The destination path of an address (R314). -/
def pathOf (d : Dev) (a : Nat) : Option Path :=
  if a < hbmEnd then some (.hbm (a / stackBytes))
  else if tierBase ≤ a ∧ a < sramBase then some .tier
  else if isRemote a then some (.peer (remoteParts a).1)
  else if hostBase ≤ a then (hostPort d).map Path.emtor
  else none

/-- What the acknowledgement of the writes made so far on a path must reach. -/
def pathMark (d : Dev) (e : Nat) (p : Path) : Nat :=
  match p with
  | .emtor k => (d.ports.getD k {}).txSent
  | .peer a => (getTx d e a).next
  | _ => 0

/-- A write on a path is noted for the next completion point and for re-arming (R315, R316, R319). -/
def noteWrite (d : Dev) (e c : Nat) (barrier : Bool) (a n : Nat) : Dev :=
  match pathOf d a with
  | none => d
  | some p =>
    let x := getChan d e c
    let put (xs : List Await) (b : Bool) : List Await :=
      xs.filter (fun y => !(y.path == p && y.barrier == b)) ++ [{ path := p, barrier := b, last := a + n - 1, mark := pathMark d e p }]
    setChan d e c { x with since := put x.since barrier, allPaths := put x.allPaths false }

/-- A write of the channel is complete in its mode (R315): read back, or acknowledged by the controller, the adapter or the peer. -/
def Await.met (d : Dev) (e : Nat) (a : Await) : Bool :=
  a.answered || (a.barrier && (match a.path with
    | .emtor k => decide (a.mark ≤ (d.ports.getD k {}).txAcked)
    | .peer x => decide (a.mark ≤ (getTx d e x).acked)
    | _ => false))

/-- A read is issued through the port (14 R369): a tag that no outstanding read has. -/
def hostReadReq (d : Dev) (r : ReadReq) : Dev :=
  match hostPort d with
  | none => d
  | some p =>
    match (List.range 4096).find? (fun t => !((d.ports.getD p {}).reads.any (fun q => q.tag == t))) with
    | none => d
    | some t => send (modPort d p (fun l => { l.sendSlots 1 with reads := l.reads ++ [{ r with tag := t }] })) (.memRead p { r with tag := t })

/-- A read is issued to a peer (15 R384). -/
def remoteReadReq (d : Dev) (e c : Nat) (r : ReadReq) : Dev :=
  let tag := d.movers.nextTag % 65536
  let d := { d with movers := { d.movers with nextTag := d.movers.nextTag + 1 }, hedge := { d.hedge with reads := d.hedge.reads ++ [{ r with tag := tag }] } }
  sendMem d 2 e tag (slotTag d (getChan d e c).arm.owner) r.addr r.len []

/-- A read through a link can be issued now: a port is up with a tag free, or the peer's order window has room (15 R384). -/
def canIssue (d : Dev) (e a : Nat) : Bool :=
  if isRemote a then
    let x := getTx d e (remoteParts a).1
    decide (x.next < x.acked + 1024)
  else if hostBase ≤ a then
    match hostPort d with
    | some p => decide ((d.ports.getD p {}).reads.length < 4096)
    | none => false
  else true

/-- Every earlier MOVE of the channel is complete in its mode (R316, R324). -/
def allComplete (d : Dev) (e c : Nat) (x : Chan) : Bool := (chanReads d e c).isEmpty && x.sentWr.isEmpty && x.since.all (Await.met d e)

/-- The channel is idle: its status register is at its reset value (R305). -/
def idleChan (d : Dev) (e c : Nat) : Dev := { d with movers := { d.movers with chans := assocDel d.movers.chans (e, c) } }

/-- The read-back of a path has returned. -/
def readBackDone (x : Chan) (p : Path) : Chan :=
  let f (a : Await) : Await := if a.path == p && !a.barrier then { a with answered := true } else a
  { x with since := x.since.map f, allPaths := x.allPaths.map f }

/-- Issues the read-back of a path (R315): the 64-byte sector that holds the last byte written on it. A controller's answers without a packet. -/
def readBackReq (e c : Nat) (d : Dev) (a : Await) : Dev :=
  let r : ReadReq := { tag := 0, addr := a.last / 64 * 64, len := 64, reader := .mover e c, back := some a.path }
  match a.path with
  | .emtor _ => if canIssue d e r.addr then hostReadReq d { r with addr := r.addr - hostBase } else d
  | .peer _ => if canIssue d e r.addr then remoteReadReq d e c r else d
  | _ => d

/-- The read-back of a path is outstanding. -/
def backOut (d : Dev) (e c : Nat) (p : Path) : Bool :=
  match p with
  | .emtor _ => (chanReads d e c).any (fun r => r.back == some p)
  | .peer _ => (chanReads d e c).any (fun r => r.back == some p)
  | _ => true

/-- Issues the read-backs that a channel owes and has not issued, behind every write of its own (R315); `all` where every path since the program's start is to
be read back (R318, R319). -/
def issueBacks (d : Dev) (e c : Nat) (all : Bool) : Dev :=
  let x := getChan d e c
  let owed := ((x.since.filter (fun a => !a.barrier)) ++ (if all then x.allPaths else [])).filter (fun a => !a.answered)
  if !(chanReads d e c).all (fun r => r.back.isSome) then d
  else owed.foldl (fun d a => if backOut d e c a.path then d else readBackReq e c d a) d

/-- A read-back is no longer outstanding. -/
def dropBack (d : Dev) (e c : Nat) (p : Path) : Dev :=
  let keep (r : ReadReq) : Bool := !(r.reader == .mover e c && r.back == some p)
  { d with ports := d.ports.map (fun (l : Link) => ({ l with reads := l.reads.filter keep } : Link)), hedge := { d.hedge with reads := d.hedge.reads.filter keep } }

end Sys2Proof.Machine
end

