-- ==== Sys2Proof/Machine/Shale.lean ====
section
/-!
DEFINITION. Shale stations: the compressor and the decompressor of one stream between two queues (06 R168 to R186).
-/

namespace Sys2Proof.Machine

open Sys2Proof

/-- The shale parameter block (R185). -/
structure ShaleP where
  ratio : Nat
  level : Nat
  wher : Nat
  restart : Nat
  slots : Nat
  pool : Nat
  deriving DecidableEq, Repr

/-- Reads the block. -/
def shaleP (p : Bytes) : ShaleP := { ratio := u8at p 0, level := u8at p 1, wher := u8at p 2, restart := u16at p 4, slots := u32at p 8, pool := u64at p 0x10 }

/-- The rules of R185. -/
def shaleOk (im : Image) (s : StationD) : Bool :=
  let p := im.paramBlock s
  let q := shaleP p
  let i := (portQueues im s.index 0).head?
  let o := (outQueues im s.index 0).head?
  decide (1 ≤ q.level) && decide (q.level ≤ 9) && decide (q.ratio ≤ 1) && decide (q.wher ≤ 2) && decide (2 ≤ q.slots) && decide (q.slots ≤ pow2 30) &&
  decide (q.pool % 64 = 0) && decide ((if q.ratio = 0 then 2240 else 1216) ≤ q.pool) && decide (i.map (·.format) = o.map (·.format)) &&
  decide (i.map (·.columns) = o.map (·.columns)) && allZero p 3 1 && allZero p 6 2 && allZero p 0x0C 4 && allZero p 0x18 8

/-- The shale station's own state. -/
def shaleSt (d : Dev) (slot st : Nat) : ShaleSt :=
  match (getSt d slot st).kind with
  | .shale x => x
  | _ => {}

/-- Changes it. -/
def modShale (d : Dev) (slot st : Nat) (f : ShaleSt → ShaleSt) : Dev := setKind d slot st (.shale (f (shaleSt d slot st)))

/-- The last `n` bytes. -/
def lastBytes (n : Nat) (bs : Bytes) : Bytes := bs.drop (bs.length - n)

/-- Granules of the pool. -/
def ShaleP.granules (q : ShaleP) : Nat := q.pool / 64

/-- The granules that a block's extent is charged with. -/
def ShaleBlock.granules (b : ShaleBlock) (total : Nat) : List Nat := (List.range b.charged).map (fun k => (b.headAt + k) % total)

/-- A block's extent is free of every extent still held (R171). -/
def extentFree (x : ShaleSt) (total : Nat) (b : ShaleBlock) : Bool :=
  let held := (x.blocks.map (fun y => y.granules total)).flatten
  (b.granules total).all (fun g => !held.contains g)

/-- Allocates a block's extent at the ring's head: the block with its header's OVF_OFFSET, and the head behind it (R170, R171). -/
def withExtent (q : ShaleP) (x : ShaleSt) (b : ShaleBlock) (n codedIn : Nat) (last : Bool) (data : Bytes) : ShaleBlock × Nat :=
  if b.ovf.isEmpty then ({ b with hdr := shaleHeader q.restart b.index n codedIn b.code.length 0 last data }, x.poolHead)
  else
    let (start, charged, head) := placeExtent x.poolHead (ceilDiv b.ovf.length 64) q.granules
    ({ b with headAt := x.poolHead, charged := charged, hdr := shaleHeader q.restart b.index n codedIn b.code.length start last data }, head)

/-- The uncoded bytes of the block in progress, and the kept bytes before it. -/
def blockBytes (x : ShaleSt) : Bytes × Bytes :=
  let off := 4096 * x.block - (x.received - x.bytes.length)
  (x.bytes.take off, (x.bytes.drop off).take 4096)

/-- Codes the block in progress (R175): code words, overflow, CODED_IN, length, last. -/
def codeCurrent (q : ShaleP) (x : ShaleSt) : ShaleBlock × Nat × Nat × Bool :=
  let (_, data) := blockBytes x
  let n := data.length
  let base := x.received - x.bytes.length
  let (code, ci) := codeBlock x.bytes.toArray base q.restart q.level q.ratio x.block n
  ({ index := x.block, code := code, ovf := data.drop ci }, ci, n, x.closed && decide (x.received ≤ 4096 * x.block + n))

/-- The compressor's own decoder gives the block's bytes back (R177). -/
def verifyBlock (q : ShaleP) (x : ShaleSt) (b : ShaleBlock) (codedIn : Nat) : Bool :=
  let (before, data) := blockBytes x
  let dropped := x.received - x.bytes.length
  let (_, out, r) := decodeCodes b.code codedIn (4096 * x.block) (windowAt q.restart x.block) dropped (4 * 4096 + 8) {} 5000 before.toArray
  decide (r = .codesDone) && decide ((out.toList.drop before.length) ++ b.ovf = data)

/-- Extents of a shale station's area. -/
def shaleArea (d : Dev) (slot st : Nat) : List (Nat × Nat) := ((getJob d slot).shaleAreas.find? (fun a => a.1 == st)).elim [] (·.2)

/-- Where a block's slot starts in the area (R169). -/
def slotAt (q : ShaleP) (i : Nat) : Nat := i % q.slots * slotBytes q.ratio

/-- Where a granule of the pool starts in the area (R169, R171). -/
def granuleAt (q : ShaleP) (g : Nat) : Nat := q.slots * slotBytes q.ratio + 64 * g

/-- Writes into a station's area. -/
def shaleWrite (d : Dev) (slot st off : Nat) (bs : Bytes) : Dev := writePieces d (pieces (shaleArea d slot st) off bs.length) bs

/-- Writes a block's code words into its slot, with the zero bytes to the slot's end (R169). -/
def writeCode (d : Dev) (slot st : Nat) (b : ShaleBlock) : Dev :=
  let q := shaleP (paramSt d slot st)
  shaleWrite d slot st (slotAt q b.index + 24) (padTo (slotBytes q.ratio - 24) b.code)

/-- Writes a block's overflow, the rest of its last granule zero, and then its header (R171, R181). -/
def writeHeader (d : Dev) (slot st : Nat) (b : ShaleBlock) : Dev :=
  let q := shaleP (paramSt d slot st)
  let d := if b.ovf.isEmpty then d else shaleWrite d slot st (granuleAt q (u32at b.hdr 0x0C)) (padTo (64 * ceilDiv b.ovf.length 64) b.ovf)
  shaleWrite d slot st (slotAt q b.index) (b.hdr.take 24)

/-- Puts a station's slots and pool back as a checkpoint saved them (R183). -/
def rewriteArea (d : Dev) (slot st : Nat) : Dev :=
  let x := shaleSt d slot st
  let d := x.blocks.foldl (fun d b => writeHeader (writeCode d slot st b) slot st b) d
  x.half.elim d (writeCode d slot st)

/-- The pieces of device memory that a block lies in: its slot and its overflow extent. -/
def blockPieces (d : Dev) (slot st : Nat) (b : ShaleBlock) : List (Nat × Nat) :=
  let q := shaleP (paramSt d slot st)
  let a := shaleArea d slot st
  pieces a (slotAt q b.index) (slotBytes q.ratio) ++ (if b.ovf.isEmpty then [] else pieces a (granuleAt q (u32at b.hdr 0x0C)) (64 * ceilDiv b.ovf.length 64))

/-- Finishes a block: header written, visible to the decompressor (R177, R181). -/
def finishBlock (x : ShaleSt) (b : ShaleBlock) (head : Nat) : ShaleSt :=
  let upTo := min x.received (4096 * (x.block + 1))
  let start := 4096 * (x.block + 1) - 61440
  let keep := if x.received ≤ start then 0 else x.received - start
  { x with block := x.block + 1, blocks := x.blocks ++ [b], half := none, stop := 0, poolHead := head, inConsumed := upTo,
           outProduced := x.outProduced + 24 + b.ovf.length + (if x.half.isSome then 0 else b.code.length), bytes := lastBytes (min keep x.bytes.length) x.bytes }

/-- A whole block, or the stream's last, is there to be coded. -/
def blockReady (x : ShaleSt) : Bool :=
  decide (4096 * (x.block + 1) ≤ x.received) || (x.closed && decide (4096 * x.block < x.received))

/-- Slot i mod B is still held by block i − B (R181). -/
def slotHeld (q : ShaleP) (x : ShaleSt) : Bool := x.blocks.any (fun b => b.index + q.slots == x.block)

/-- The compressor comes to its next block: it stops before the block's first code word where the slot is held, and counts the stop (R181). -/
def enterBlock (slot st : Nat) (d : Dev) : Dev :=
  let x := shaleSt d slot st
  if x.stop = 0 ∧ slotHeld (shaleP (paramSt d slot st)) x ∧ !(x.closed && decide (x.received ≤ 4096 * x.block)) then
    countSt (modShale d slot st (fun y => { y with stop := 1 })) slot st 0 1
  else d

/-- A block's header is written; the next block begins. -/
def closeBlock (slot st : Nat) (d : Dev) (b : ShaleBlock) (head : Nat) : Dev :=
  enterBlock slot st (modShale (writeHeader d slot st b) slot st (fun y => finishBlock y b head))

/-- Codes the block in progress, or stops for want of granules (R175, R177, R181). -/
def encodeStep (slot st : Nat) (d : Dev) : Dev :=
  let q := shaleP (paramSt d slot st)
  let x := shaleSt d slot st
  if x.stop ≠ 0 ∨ !blockReady x then d
  else
    let (b, ci, n, last) := codeCurrent q x
    if !verifyBlock q x b ci then jobFaultReset d (stFault d slot st 0x0250 (x.block % pow2 32) 0)
    else
      let (b, head) := withExtent q x b n ci last (blockBytes x).2
      let d := writeCode d slot st b
      if extentFree x q.granules b then closeBlock slot st d b head
      else
        countSt (modShale d slot st (fun y => { y with stop := 2, half := some b, inConsumed := 4096 * y.block + ci, outProduced := y.outProduced + b.code.length })) slot st 1 1

/-- Bytes the compressor still takes in: up to the end of the block in progress, or of the next one while a coded block waits for granules (R181). -/
def shaleRoom (x : ShaleSt) : Nat := 4096 * (x.block + (if x.half.isSome then 2 else 1)) - x.received

/-- SHALE_ENCODE_BLOCK (R168, R175, R181, R186): bytes of input tiles fill the block in progress, which is coded when it is whole. -/
def shaleEncode (slot st : Nat) (d : Dev) : DevOut :=
  let x := shaleSt d slot st
  let i := getIn d slot st 0
  if (getSt d slot st).ended then noEvent
  else if x.stop = 0 ∧ blockReady x then .next (encodeStep slot st d)
  else match i.inbox with
  | [] => noEvent
  | t :: _ =>
    let n := min (shaleRoom x) (4160 - i.pos)
    if n = 0 then noEvent
    else
      let whole := decide (4160 ≤ i.pos + n)
      let d := modIn d slot st 0 (fun p => if whole then p.drop else { p with pos := p.pos + n })
      let d := modShale d slot st (fun y => { y with bytes := y.bytes ++ (t.bytes.drop i.pos).take n, received := y.received + n, closed := t.eos && whole })
      .next (encodeStep slot st d)

/-- SHALE_ENCODE_BLOCK. -/
def execShaleEncodeBlock (slot station : Nat) (s : State) : Host.Outcome State Fault Refusal :=
  onStation slot station (· = .shale) s (fun _ d => shaleEncode slot station d)

/-- SHALE_COMPRESSOR_RESUME (R181): the slot or the granules are free. -/
def shaleCompressorResume (slot st : Nat) (d : Dev) : DevOut :=
  let q := shaleP (paramSt d slot st)
  let x := shaleSt d slot st
  match x.stop, x.half with
  | 1, _ => if slotHeld q x then noEvent else .next (encodeStep slot st (modShale d slot st (fun y => { y with stop := 0 })))
  | 2, some b => if extentFree x q.granules b then .next (closeBlock slot st d b (placeExtent x.poolHead (ceilDiv b.ovf.length 64) q.granules).2.2) else noEvent
  | _, _ => noEvent

/-- SHALE_COMPRESSOR_RESUME. -/
def execShaleCompressorResume (slot station : Nat) (s : State) : Host.Outcome State Fault Refusal :=
  onStation slot station (· = .shale) s (fun _ d => shaleCompressorResume slot station d)

/-- Tiles that the output queue can still take: free slots, or the spill area while the valve is open (R182). -/
def freeSlots (d : Dev) (slot n : Nat) : Nat :=
  let q := getQ d slot n
  let depth := ((getJob d slot).image.queues.getD n {}).depth
  if q.valve then 4 else if q.held.isEmpty then depth - q.tiles.length else 0

/-- Hands a delivered tile on (R186): its seal is checked, the producer's fields are rewritten, and it is resealed. -/
def passShaleTile (slot st : Nat) (d : Dev) (bs : Bytes) : Dev :=
  if stopped d slot then d
  else
    let j := getJob d slot
    let n := outQueueNo j st 0
    let t := Tile.ofBytes bs
    if t.computeSeal ≠ t.crc then
      jobFault d { code := 0x0101, slot := slot, die := stationDie j st, queue := n, producer := t.producer, consumer := st, seqNo := t.seq % pow2 48 }
    else
      let t2 : Tile := { t with jobSlot := slot, producer := st, queue := n, epoch := j.openEpoch, flags := b2n t.eos + 2 + 4 * b2n j.replaying }
      let d := modQ d slot n (fun q => { q with nextSeq := t.seq + 1, nextRow := t.firstRow + t.rowCount, eos := q.eos || t.eos })
      let d := modJob d slot (fun j => { j with provisional := true })
      let d := placeTile d slot n t2.sealed
      if t.eos then modSt (modOut d slot st 0 (fun o => { o with eos := true })) slot st (fun s => { s with ended := true }) else d

/-- Bytes delivered go into the output tile; whole tiles leave. -/
def deliver (slot st : Nat) : Nat → Dev → Bytes → Dev
  | 0, d, _ => d
  | n + 1, d, bs =>
    let x := shaleSt d slot st
    let out := x.out ++ bs
    if out.length < 4160 then modShale d slot st (fun y => { y with out := out })
    else
      let d := passShaleTile slot st (modShale d slot st (fun y => { y with out := [] })) (out.take 4160)
      if stopped d slot then d else deliver slot st n d (out.drop 4160)

/-- The poisoned sector of a block's slot or overflow extent. -/
def blockPoison (d : Dev) (slot st : Nat) (b : ShaleBlock) : Option Nat :=
  (blockPieces d slot st b).findSome? (fun p => d.facts.poison.find? (fun s => decide (s < p.1 + p.2) && decide (p.1 < s + 64)))

/-- One run of the decompressor on its block: until the block ends, its buffer is full, or a fault (R178, R179, R182). A poisoned sector of the block is the
memory's fault (13 R351). -/
def decodeStep (slot st : Nat) (d : Dev) : Dev :=
  let q := shaleP (paramSt d slot st)
  let x := shaleSt d slot st
  let j := getJob d slot
  let n := outQueueNo j st 0
  match x.blocks.find? (fun b => b.index == x.dblock) with
  | none => d
  | some b =>
    let fail (code off : Nat) : Dev := stationFault d slot st code (x.dblock % pow2 32) off
    match (if x.begun then none else blockPoison d slot st b) with
    | some a => engineFault d (stFault d slot st 0 noDetail noDetail2) (.poison a)
    | none =>
    match (if x.begun then none else headerCheck b.hdr q.restart x.dblock q.ratio q.granules) with
    | some (code, off) => fail code off
    | none =>
      let len := u16at b.hdr 4
      let ci := u16at b.hdr 6
      let room := 4160 * freeSlots d slot n - x.out.length
      let t : DCtx := if x.begun then { cpos := x.cpos, done := x.done, litLeft := x.litLeft, matchLeft := x.matchLeft, dist := x.dist } else {}
      let dropped := x.delivered - x.hist.length
      let (t, hist, r) :=
        if ci < t.done then (t, x.hist.toArray, DRes.codesDone)
        else decodeCodes b.code ci (4096 * x.dblock) (windowAt q.restart x.dblock) dropped (4 * 4096 + 8) t room x.hist.toArray
      match r with
      | .fault code off => fail code off
      | _ =>
        let got := hist.size - x.hist.length
        let more := if r = .full then 0 else min (room - got) (len - t.done)
        let all := hist.toList ++ (b.ovf.drop (t.done - ci)).take more
        let t := { t with done := t.done + more }
        let fresh := all.drop x.hist.length
        let ended := decide (t.done = len) && decide (r ≠ .full)
        let d := modQ d slot n (fun y => { y with wants := !ended })
        let d := modShale d slot st (fun y => { y with
          hist := lastBytes 65536 all, delivered := y.delivered + fresh.length, begun := !ended, full := !ended,
          cpos := t.cpos, done := t.done, litLeft := t.litLeft, matchLeft := t.matchLeft, dist := t.dist })
        let d := deliver slot st 3 d fresh
        if stopped d slot ∨ !ended then d
        else if crc32c (lastBytes len all) ≠ u32at b.hdr 0x10 then stationFault d slot st 0x0246 (x.dblock % pow2 32) 0x10
        else modShale d slot st (fun y => { y with dblock := y.dblock + 1, begun := false, cpos := 0, done := 0, blocks := y.blocks.filter (fun z => z.index != x.dblock) })

/-- SHALE_DECODE_BLOCK (R178). -/
def shaleDecode (slot st : Nat) (d : Dev) : DevOut :=
  let x := shaleSt d slot st
  if x.full ∨ (x.blocks.find? (fun b => b.index == x.dblock)).isNone then noEvent else .next (decodeStep slot st d)

/-- SHALE_DECODE_BLOCK. -/
def execShaleDecodeBlock (slot station : Nat) (s : State) : Host.Outcome State Fault Refusal :=
  onStation slot station (· = .shale) s (fun _ d => shaleDecode slot station d)

/-- SHALE_DECOMPRESSOR_RESUME (R182): it goes on into the next buffer. -/
def shaleDecompressorResume (slot st : Nat) (d : Dev) : DevOut :=
  let x := shaleSt d slot st
  if !x.full then noEvent
  else if freeSlots d slot (outQueueNo (getJob d slot) st 0) * 4160 ≤ x.out.length then .next d
  else .next (decodeStep slot st (modShale d slot st (fun y => { y with full := false })))

/-- SHALE_DECOMPRESSOR_RESUME. -/
def execShaleDecompressorResume (slot station : Nat) (s : State) : Host.Outcome State Fault Refusal :=
  onStation slot station (· = .shale) s (fun _ d => shaleDecompressorResume slot station d)

/-- The codec context record of one end of a stream at a tile boundary (R183). -/
def shaleRecord (q : ShaleP) (x : ShaleSt) (decompress : Bool) : Bytes :=
  let h := lastBytes 65536 (if decompress then x.hist else x.bytes)
  let pick (a b : Nat) : Nat := if decompress then b else a
  let freeAt := ((x.blocks.find? (fun b => b.charged != 0)).map (·.headAt)).getD x.poolHead
  let cur := if decompress then x.blocks.find? (fun b => b.index == x.dblock) else x.half
  let sofar := if decompress then lastBytes (x.delivered % 4096) x.hist else (blockBytes x).2
  let head := le 4 0x58434853 ++ le 1 1 ++ le 1 (b2n decompress) ++ le 1 q.level ++ le 1 q.ratio ++ le 2 q.restart ++
    le 1 (if decompress then 3 * b2n x.full else x.stop) ++ le 1 0 ++ le 4 h.length ++ le 8 (pick x.received x.delivered) ++ le 8 (pick x.block x.dblock) ++
    le 8 x.inConsumed ++ le 8 x.outProduced ++ le 4 x.poolHead ++ le 4 (pick 0 freeAt) ++ le 4 q.granules ++ le 4 q.slots ++
    le 2 ((cur.map (fun b => u16at b.hdr 6)).getD 0) ++ le 2 ((cur.map (fun b => b.code.length)).getD 0) ++ le 2 (pick 0 x.cpos) ++ le 2 (pick 0 x.done) ++
    le 2 (pick 0 x.litLeft) ++ le 2 (pick 0 x.matchLeft) ++ le 4 (pick 0 x.dist) ++ le 4 (crc32c sofar) ++ zeros 36
  let area := zeros (65536 - h.length) ++ h
  head ++ le 8 (crc64 (head ++ area)) ++ area

/-- RECORD_CHECK of a record is right, and every field is in its range (R179, R183). -/
def recordOk (r : Bytes) (decompress : Bool) : Bool :=
  decide (r.length = 65664) && decide (u64at r 0x78 = crc64 (r.take 0x78 ++ r.drop 128)) &&
  decide (u32at r 0 = 0x58434853) && decide (u8at r 4 = 1) && decide (u8at r 5 = b2n decompress) && decide (1 ≤ u8at r 6) && decide (u8at r 6 ≤ 9) &&
  decide (u8at r 7 ≤ 1) && (if decompress then u8at r 0x0A == 0 || u8at r 0x0A == 3 else decide (u8at r 0x0A ≤ 2)) && decide (u8at r 0x0B = 0) &&
  decide (u32at r 0x0C ≤ 65536) && decide (u32at r 0x30 ≤ u32at r 0x38) && decide (u32at r 0x34 ≤ u32at r 0x38) && decide (2 ≤ u32at r 0x3C) &&
  decide (u16at r 0x40 ≤ 4096) && decide (u16at r 0x42 ≤ slotBytes (u8at r 7) - 24) && decide (u16at r 0x46 ≤ 4096) && decide (u16at r 0x48 ≤ 128) &&
  decide (u16at r 0x4A ≤ 4163) && decide (u32at r 0x4C ≤ 65536) && allZero r 0x54 36

/-- A stream's history area. -/
def recordHistory (r : Bytes) : Bytes := lastBytes (u32at r 0x0C) r

/-- A shale station's state with what its two context records say put back; its slots, its pool and the tile in delivery are saved as they stand (R183). -/
def readContext (x : ShaleSt) (c d : Bytes) : ShaleSt :=
  { x with
    bytes := recordHistory c, received := u64at c 0x10, block := u64at c 0x18, stop := u8at c 0x0A, inConsumed := u64at c 0x20, outProduced := u64at c 0x28,
    poolHead := u32at c 0x30, hist := recordHistory d, delivered := u64at d 0x10, dblock := u64at d 0x18, begun := u8at d 0x0A == 3, full := u8at d 0x0A == 3,
    cpos := u16at d 0x44, done := u16at d 0x46, litLeft := u16at d 0x48, matchLeft := u16at d 0x4A, dist := u32at d 0x4C }

/-- The context records of a job's shale stations: station, the compressor's, the decompressor's (R183, 04 R116). -/
def contextsOf (im : Image) (rt : Runtime) : List (Nat × Bytes × Bytes) :=
  im.stations.zipIdx.filterMap (fun (s, i) =>
    match (rt.stations.getD i {}).kind with
    | .shale x => if s.stype = .shale then some (i, shaleRecord (shaleP (im.paramBlock s)) x false, shaleRecord (shaleP (im.paramBlock s)) x true) else none
    | _ => none)

/-- Every context record can be restored (R179, R183). -/
def contextsOk (rs : List (Nat × Bytes × Bytes)) : Bool := rs.all (fun r => recordOk r.2.1 false && recordOk r.2.2 true)

/-- A saved runtime with its stations' context records put back. -/
def readContexts (rs : List (Nat × Bytes × Bytes)) (rt : Runtime) : Runtime :=
  { rt with stations := rt.stations.zipIdx.map (fun s =>
      match s.1.kind, rs.find? (fun r => r.1 == s.2) with
      | .shale x, some r => { s.1 with kind := .shale (readContext x r.2.1 r.2.2) }
      | _, _ => s.1) }

/-- The codes of 0x0C23 and 0x0C02 in DETAIL2: a fault met while a stream of Oluat's is decoded on restore (R179, R180). -/
def shaleCode (c : Nat) : Bool := (decide (0x0241 ≤ c) && decide (c ≤ 0x0247)) || c == 0x0251

end Sys2Proof.Machine
end

