-- ==== Sys2Proof/Machine/Commit.lean ====
section
/-!
DEFINITION. Commits of an epoch: trigger, drain, checkpoint, prepared, record, committed (04 R114 to R120, R123, R132; 03 R102; 12 R318; 13 R344;
15 R384, R385).
-/

namespace Sys2Proof.Machine

open Sys2Proof

/-- Changes the commit in progress. -/
def modCommit (d : Dev) (slot : Nat) (f : Commit → Commit) : Dev := modJob d slot (fun j => { j with commit := j.commit.map f })

/-- A message of a participant was heard (03 R102). -/
def noteHeard (d : Dev) (slot part : Nat) : Dev := modJob d slot (fun j => { j with heard := assocSet j.heard part d.time })

/-- Every emit station of the job on this device has reached end of stream (R115). -/
def emitsEnded (j : Job) : Bool :=
  !j.rt.stations.isEmpty && j.image.stations.zipIdx.all (fun (s, i) => decide (s.stype ≠ .emit) || (j.rt.stations.getD i {}).ended)

/-- Payload of PREPARE, and of the notice that asks the anchor for it: sender's index, epoch, cause (R118 steps 1 and 2). -/
def preparePayload (part epoch cause : Nat) : Bytes := le 2 part ++ le 4 epoch ++ le 1 cause

/-- The anchor begins a commit of the open epoch (R118 step 2): PREPARE goes to every participant. -/
def startCommit (d : Dev) (slot cause : Nat) (waiters : List Nat) : Dev :=
  let j := getJob d slot
  let d := modJob d slot (fun j => { j with commit := some { epoch := j.openEpoch, cause := cause, since := d.time, waiters := waiters } })
  sendAll d slot 3 (preparePayload j.partIndex j.openEpoch cause)

/-- A participant asks for a commit (R118 step 1): the anchor begins it, another participant notifies the anchor and waits for its PREPARE. -/
def askCommit (d : Dev) (slot cause : Nat) (waiters : List Nat) : Dev :=
  let j := getJob d slot
  if isAnchor d j then startCommit d slot cause waiters
  else
    let d := modJob d slot (fun j => { j with commit := some { epoch := j.openEpoch, cause := cause, since := d.time, waiters := waiters } })
    sendCoord d slot 3 j.anchor (preparePayload j.partIndex j.openEpoch cause)

/-- The final commit (R115): begun by the anchor when every emit station of every participant has ended; another participant tells the anchor that its own
have. -/
def finalIfDue (d : Dev) (slot : Nat) : Dev :=
  let j := getJob d slot
  if j.state ≠ .running ∨ !emitsEnded j then d
  else if !isAnchor d j then sendCoord d slot 3 j.anchor (preparePayload j.partIndex j.openEpoch 1)
  else if j.commit.isSome ∨ !(allParts j).all (fun p => decide (p = j.partIndex) || j.endedParts.contains p) then d
  else startCommit d slot 1 []

/-- Closes the links of the job with a marker behind each queue's tiles (R118 step 3, 15 R384). -/
def sendFlushes (d : Dev) (slot : Nat) : Dev :=
  let j := getJob d slot
  let others := (allParts j).filter (· ≠ j.partIndex)
  (farQueues j).foldl (fun d q =>
    let strict := if bit (j.image.queues.getD q {}).qflags 0 then 4 else 0
    let d := others.foldl (fun d p => sendJob d { ptype := 0x11, pflags := strict, dest := partAddr d j p, src := srcAddr d, engine := 0xFF, jobTag := j.image.jobTag, aux := q * pow2 48 + (getQ d slot q).nextSeq }) d
    modQ d slot q (fun x => { x with flushing := others.length })) d

/-- The channels of a job and their states. -/
def jobChans (d : Dev) (slot : Nat) : List ((Nat × Nat) × Chan) := d.movers.chans.filter (fun x => x.2.arm.owner == slot)

/-- The drain begins (R118 step 3). -/
def beginDrain (d : Dev) (slot : Nat) (c : Commit) : Dev :=
  let d := sendFlushes (modJob d slot (fun j => { j with commit := some { c with step := 2, since := d.time } })) slot
  (jobChans d slot).foldl (fun d x => issueBacks d x.1.1 x.1.2 true) d

/-- PREPARE (R118 steps 1 to 3): at the anchor a participant's notice, or its own drain; elsewhere the anchor's order to drain. A repeated message is
taken once (15 R380). -/
def prepare (slot part epoch cause : Nat) (d : Dev) : DevOut :=
  let j := getJob d slot
  if j.state ≠ .running ∨ !(allParts j).contains part ∨ 2 < cause then noEvent
  else if isAnchor d j then
    if part = j.partIndex then
      match j.commit with
      | some c => if c.step = 1 ∧ c.epoch = epoch then .next (beginDrain d slot c) else noEvent
      | none => noEvent
    else
      let d := noteHeard d slot part
      if cause = 1 then .next (finalIfDue (modJob d slot (fun j => { j with endedParts := (j.endedParts ++ [part]).eraseDups })) slot)
      else if j.commit.isSome ∨ epoch ≠ j.openEpoch then .next d
      else .next (startCommit d slot cause [])
  else if partAddr d j part ≠ j.anchor then noEvent
  else
    let d := noteHeard d slot part
    if epoch ≠ j.openEpoch then .next d
    else match j.commit with
    | some c => if c.step = 1 then .next (beginDrain d slot { c with cause := cause }) else .next d
    | none => .next (beginDrain d slot { epoch := epoch, cause := cause })

/-- A row command about a job slot. -/
def onSlot (slot : Nat) (s : State) (f : Memory → Dev → DevOut) : Host.Outcome State Fault Refusal :=
  runDev s (fun m d => if 64 ≤ slot then .fault .noSuchUnit else f m d)

/-- PREPARE. -/
def execPrepare (slot part epoch cause : Nat) (s : State) : Host.Outcome State Fault Refusal := onSlot slot s (fun _ d => prepare slot part epoch cause d)

/-- Nothing that a station consumed at a port waits to be processed. -/
def InPort.clear (p : InPort) : Bool := p.inbox.isEmpty && p.objs.isEmpty && decide (p.pos = 0)

/-- Nothing of what a station consumed is unprocessed in its engine: of a kernel, no row group is open and no driving tile is staged (08 R217); of a station
with a reorder window, nothing is away in the bramble lane; of a match station, no search waits to be repeated. What the station chapters list as state at a
tile boundary may stay. -/
def kindClear (d : Dev) (slot st : Nat) : Bool :=
  match (getSt d slot st).kind with
  | .kernel k =>
    k.ctx.isNone && decide (k.gpos = 0) &&
    (List.range (descSt d slot st).inPorts).all (fun p => decide (u8at (paramSt d slot st) (8 + p) ≠ 1) || (getIn d slot st p).ktiles.isEmpty)
  | .parse x => x.todo.isEmpty && x.window.all (fun w => !w.away)
  | .image x => x.window.all (fun w => !w.away)
  | .matchSt x => x.redo.isNone
  | .join x => x.out.isEmpty
  | .batch x => x.holders.all (fun h => decide (h.2.row = 0))
  | .emit x => x.ready.isNone
  | _ => true

/-- A station stands at a tile boundary (02 R48): every tile it has consumed is processed in full. Each tile it has produced is sealed when it is made; one
that waits for a slot is. -/
def atBoundary (d : Dev) (slot st : Nat) : Bool := (getSt d slot st).ins.all InPort.clear && kindClear d slot st

/-- A channel stands where a save may cut it (12 R318, R321): every write read back, a MOVE in progress at a tile or 4,096-byte boundary. -/
def chanSettled (c : Chan) : Bool :=
  c.state = 0 || c.state = 3 || (c.since.all (fun a => a.barrier || a.answered) && c.allPaths.all (fun a => a.answered) && c.stage.isEmpty && c.sentWr.isEmpty)

/-- The emit station of channel 0. -/
def chan0Emit (j : Job) : Option Nat := (j.image.channels.find? (fun c => c.channel == 0)).map (·.emitStation)

/-- The next boundary of an automatic end (R115). -/
def nextBound (j : Job) : Nat := j.bound + j.image.epochBatches

/-- The batch an emit station writes next: its n-th batch is n·P + p of P participants (11 R278). -/
def nextBatch (d : Dev) (slot st : Nat) : Nat :=
  let j := getJob d slot
  (emitSt d slot st).written * max 1 j.participants.length + j.partIndex

/-- This participant has emitted every batch of channel 0 below the boundary (R115). -/
def boundReached (d : Dev) (slot : Nat) : Bool :=
  let j := getJob d slot
  match chan0Emit j with
  | some st => (getSt d slot st).ended || decide (nextBound j ≤ nextBatch d slot st)
  | none => true

/-- The job stands where its checkpoint can be taken (R118 step 3). -/
def drained (d : Dev) (slot : Nat) (c : Commit) : Bool :=
  let j := getJob d slot
  (List.range j.image.stations.length).all (atBoundary d slot) && j.rt.queues.all (fun q => decide (q.flushing = 0)) &&
  (jobChans d slot).all (fun x => chanSettled x.2 && (x.2.state = 3 || (chanReads d x.1.1 x.1.2).isEmpty)) && (c.cause ≠ 2 || boundReached d slot)

/-- Places a checkpoint in units of 1 MiB: in the tier above Oluat's own part (R341), or in HBM where there is none (13 R344). -/
def placeCkpt (d : Dev) (size : Nat) : Option (List (Nat × Nat)) :=
  let n := roundUp size 0x100000
  if strapTier d.root.straps then allocTier d n else allocHbm d n

/-- A checkpoint that no job of the device holds (R128). -/
def unadopted (d : Dev) (k : Ckpt) : Bool :=
  !(d.jobs.any (fun j => decide (j.state ≠ .free) && j.image.jobTag == k.tag && j.partIndex == k.part))

/-- Commit-stable state to which no checkpoint refers any more is released. -/
def pruneStables (d : Dev) : Dev := { d with stables := d.stables.filter (fun x => d.ckpts.any (fun k => k.tag == x.tag && k.part == x.part)) }

/-- Room for a checkpoint: unadopted ones are released, oldest first, while it is short (R128). -/
def ckptRoom : Nat → Dev → Nat → Option (Dev × List (Nat × Nat))
  | 0, _, _ => none
  | n + 1, d, size =>
    match placeCkpt d size with
    | some a => some (d, a)
    | none =>
      match d.ckpts.find? (unadopted d) with
      | some k => ckptRoom n (pruneStables { d with ckpts := d.ckpts.erase k }) size
      | none => none

/-- The contents of the state regions of a job (KIND 5, R116). -/
def stateRegions (m : Memory) (d : Dev) (j : Job) : Except AccErr (List (Nat × Bytes)) :=
  (j.image.regions.filter (fun r => r.kind == 5)).foldl (fun (acc : Except AccErr (List (Nat × Bytes))) r =>
    match acc with
    | .error e => .error e
    | .ok xs =>
      match regRead m d (bindingOr j r.id) 0 (bindingOr j r.id).bytes with
      | .error e => .error e
      | .ok bs => .ok (xs ++ [(r.id, bs)])) (.ok [])

/-- What of a station is commit-stable (R116; 07 R209, 11 R280): a join table once its build input ended, a sample store once it is complete. -/
def stableOf (s : StRun) : Option StableData :=
  match s.kind with
  | .join x => if (s.ins.headD {}).done then some (.table x.build) else none
  | .shuffle x => if x.full then some (.samples x.store) else none
  | _ => none

/-- A station without its commit-stable state: what a checkpoint holds of it. -/
def StRun.strip (s : StRun) : StRun :=
  match stableOf s, s.kind with
  | some _, .join x => { s with kind := .join { x with build := [] } }
  | some _, .shuffle x => { s with kind := .shuffle { x with store := [] } }
  | _, _ => s

/-- A station with commit-stable state put back. -/
def StRun.fill (s : StRun) (x : StableData) : StRun :=
  match s.kind, x with
  | .join k, .table rows => { s with kind := .join { k with build := rows } }
  | .shuffle k, .samples xs => { s with kind := .shuffle { k with store := xs } }
  | _, _ => s

/-- Commit-stable state in the store. -/
def stableAt (d : Dev) (tag part st : Nat) : Option StableData :=
  (d.stables.find? (fun x => x.tag == tag && x.part == part && x.station == st)).map (·.data)

/-- The stations of a job whose state is commit-stable. -/
def stableStations (j : Job) : List Nat := (j.rt.stations.zipIdx.filter (fun s => (stableOf s.1).isSome)).map (·.2)

/-- Writes commit-stable state to the store that is not there yet (R116): it is written once, at the latest before the commit's checkpoint (log entry 36). -/
def writeStables (d : Dev) (slot : Nat) : Dev :=
  let j := getJob d slot
  j.rt.stations.zipIdx.foldl (fun d s =>
    match stableOf s.1 with
    | some x => if (stableAt d j.image.jobTag j.partIndex s.2).isSome then d else { d with stables := d.stables ++ [{ tag := j.image.jobTag, part := j.partIndex, station := s.2, data := x }] }
    | none => d) d

/-- The runtime of a checkpoint with the commit-stable state it refers to. -/
def fillStable (d : Dev) (k : Ckpt) : Runtime :=
  { k.rt with stations := k.rt.stations.zipIdx.map (fun s =>
      if k.refers.contains s.2 then ((stableAt d k.tag k.part s.2).map s.1.fill).getD s.1 else s.1) }

/-- A commit that the store cannot hold is not made (R120): the epoch stays open, EPOCH_COMMIT completes with NO_RESOURCE, an automatic commit is tried
again at the next boundary, on a participant that has cut already too. -/
def cancelCommit (d : Dev) (slot : Nat) (c : Commit) : Dev :=
  let j := getJob d slot
  let mine (k : Ckpt) : Bool := k.tag == j.image.jobTag && k.part == j.partIndex && k.epoch == c.epoch && !k.final
  let d := { d with ckpts := d.ckpts.filter (fun k => !mine k) }
  let d := modJob d slot (fun j => { j.dropCommit with openEpoch := c.epoch, bound := if c.cause = 2 ∧ c.step < 4 then max j.bound (nextBound j) else j.bound })
  c.waiters.foldl (fun d i => completeIdx d i 0x0005 0x10 []) d

/-- Refuses a commit for want of room: the others learn it by PREPARED with an epoch of all ones (log entry 23). -/
def refuseCommit (d : Dev) (slot : Nat) (c : Commit) : Dev :=
  let j := getJob d slot
  let p := le 2 j.partIndex ++ le 4 0xFFFFFFFF ++ zeros 8
  let d := if isAnchor d j then sendAll d slot 4 p else sendCoord d slot 4 j.anchor p
  cancelCommit d slot c

/-- Step 6 (R118, R119): when every participant is prepared, the anchor writes the commit record, twice, and sends COMMIT. -/
def recordCommit (d : Dev) (slot : Nat) : Dev :=
  let j := getJob d slot
  match j.commit with
  | none => d
  | some c =>
    if c.step = 4 ∧ isAnchor d j ∧ (allParts j).all (fun p => c.prepared.contains p) then
      let r : CommitRec := { tag := j.image.jobTag, epoch := c.epoch, time := d.time, imageCheck := j.image.check, participants := j.participants, seals := c.seals }
      let d := { d with commits := d.commits.filter (fun x => x.tag != j.image.jobTag) ++ [r, r] }
      let d := modCommit d slot (fun c => { c with step := 6, time := d.time })
      sendAll d slot 5 (le 2 j.partIndex ++ le 4 c.epoch ++ le 8 d.time)
    else d

/-- A participant is prepared, with its directory's seal. -/
def Commit.ready (c : Commit) (part : Nat) (dirSeal : Bytes) : Commit :=
  { c with prepared := (c.prepared ++ [part]).eraseDups, seals := assocSet c.seals part dirSeal }

/-- The station whose unit a channel is; 0xFFFF for none. -/
def chanStation (j : Job) (key : Nat × Nat) : Nat := ((j.placed.find? (fun p => p.res == chanRes key.1 key.2)).map (·.station)).getD 0xFFFF

/-- The state of a job's channels as it is saved, each with its station (12 R321); a stopped channel has none (12 R325). -/
def chansToSave (d : Dev) (slot : Nat) : List (Nat × Chan) :=
  ((jobChans d slot).filter (fun x => x.2.state != 3)).map (fun x => (chanStation (getJob d slot) x.1, x.2))

/-- The written checkpoint (R116): everything the job holds at the cut, commit-stable state by reference. The bytes of its directory are not given, so the
directory's seal is a free value (log entry 23). -/
def newCkpt (d : Dev) (slot : Nat) (c : Commit) (size : Nat) (area : List (Nat × Nat)) (states : List (Nat × Bytes)) : Ckpt :=
  let j := getJob d slot
  { tag := j.image.jobTag, part := j.partIndex, epoch := c.epoch, imageCheck := j.image.check,
    rt := { j.rt with stations := j.rt.stations.map StRun.strip }, contexts := contextsOf j.image j.rt, refers := stableStations j, dirSeal := padTo 8 (Config.freeBytes d.free), regionCrcs := j.regionCrcs, stateData := states,
    updates := j.pendingUpdates, replays := [], chans := chansToSave d slot, bound := if c.cause = 2 then max j.bound (nextBound j) else j.bound,
    writtenHigh := j.writtenHigh, size := size, area := area }

/-- The cut (R114, R118 step 4, R123): what the epoch leaves is set aside until it is committed; the stations go on in the next epoch, the final commit
apart. -/
def Job.cut (j : Job) (c : Commit) (now : Nat) : Job :=
  { j with
    commit := some { c with step := 4, prov := j.provisional, oldLog := j.log, oldOver := j.logOver, oldReplays := j.replays, oldMeet := j.mustMeet },
    provisional := false, log := [], logOver := false, replays := [], mustMeet := [], cutTime := now, replaying := false,
    bound := if c.cause = 2 then max j.bound (nextBound j) else j.bound,
    openEpoch := if c.cause = 1 then j.openEpoch else j.openEpoch + 1 }

/-- Steps 4 and 5 on this participant (R118): the checkpoint stands, the stations resume in the next epoch, PREPARED goes to the anchor. -/
def writeCkpt (d : Dev) (slot : Nat) (c : Commit) (k : Ckpt) : Dev :=
  let j := getJob d slot
  let d := { d with ckpts := d.ckpts.filter (fun x => !(x.tag == k.tag && x.part == k.part && x.epoch == k.epoch)) ++ [k] }
  let d := modJob d slot (fun j => j.cut c d.time)
  let d := if c.cause = 1 then d else applyUpdates d slot
  if isAnchor d j then recordCommit (modCommit d slot (·.ready j.partIndex k.dirSeal)) slot
  else sendCoord d slot 4 j.anchor (le 2 j.partIndex ++ le 4 c.epoch ++ k.dirSeal)

/-- CHECKPOINT_WRITTEN (R116 to R118, R120): the job is drained and its checkpoint of `size` coded bytes is in the store; `mismatch` is a block whose
verification failed, with the offset of the first byte that differs (R118 step 4, 06 R177). A final commit without room waits; an EPOCH_COMMIT joined to it
completes as R120 says. -/
def checkpointWritten (slot size : Nat) (mismatch : Option (Nat × Nat)) (m : Memory) (d : Dev) : DevOut :=
  let j := getJob d slot
  match j.commit with
  | none => noEvent
  | some c =>
    if j.state ≠ .running ∨ c.step ≠ 2 then noEvent
    else if !drained d slot c then .next d
    else
      let d := { d with free := d.free + 1 }
      match mismatch, stateRegions m d j with
      | some x, _ => .next (jobFaultReset d { code := 0x0250, slot := slot, detail := x.1 % pow2 32, detail2 := x.2 })
      | none, .error e => .next (engineFault d { code := 0, slot := slot } e)
      | none, .ok states =>
        match ckptRoom (d.ckpts.length + 1) d size with
        | none =>
          if c.cause = 1 then .next (c.waiters.foldl (fun d i => completeIdx d i 0x0005 0x10 []) (modCommit d slot (fun c => { c with waiters := [] })))
          else .next (refuseCommit d slot c)
        | some (d, area) => .next (writeCkpt (writeStables d slot) slot c (newCkpt d slot c size area states))

/-- CHECKPOINT_WRITTEN. -/
def execCheckpointWritten (slot size : Nat) (mismatch : Option (Nat × Nat)) (s : State) : Host.Outcome State Fault Refusal :=
  onSlot slot s (checkpointWritten slot size mismatch)

/-- PREPARED (R118 steps 5 and 6): the anchor records a participant's readiness and its directory's seal; an epoch of all ones refuses the commit. -/
def prepared (slot part epoch : Nat) (dirSeal : Bytes) (d : Dev) : DevOut :=
  let j := getJob d slot
  if j.state ≠ .running ∨ part = j.partIndex ∨ !(allParts j).contains part then noEvent
  else
    let d := noteHeard d slot part
    match j.commit with
    | none => .next d
    | some c =>
      if c.step = 6 then .next d
      else if epoch = 0xFFFFFFFF then .next (if isAnchor d j then refuseCommit d slot c else if partAddr d j part = j.anchor then cancelCommit d slot c else d)
      else if isAnchor d j ∧ epoch = c.epoch then .next (recordCommit (modCommit d slot (·.ready part (padTo 8 dirSeal))) slot)
      else .next d

/-- PREPARED. -/
def execPrepared (slot part epoch : Nat) (dirSeal : Bytes) (s : State) : Host.Outcome State Fault Refusal := onSlot slot s (fun _ d => prepared slot part epoch dirSeal d)

/-- COMMIT (R118 step 7): the anchor's own, or its message; a repeated one is taken once. -/
def commitEpoch (slot epoch time : Nat) (d : Dev) : DevOut :=
  let j := getJob d slot
  if j.state ≠ .running then noEvent
  else match j.commit with
  | none => if isAnchor d j then noEvent else .next d
  | some c =>
    if c.epoch ≠ epoch then (if isAnchor d j then noEvent else .next d)
    else if isAnchor d j then
      if c.step = 6 ∧ c.time = time then
        .next (finalIfDue (finishCommit d slot c) slot)
      else noEvent
    else if c.step = 4 then
      .next (finalIfDue (finishCommit d slot { c with time := time }) slot)
    else noEvent

/-- COMMIT. -/
def execCommit (slot epoch time : Nat) (s : State) : Host.Outcome State Fault Refusal := onSlot slot s (fun _ d => commitEpoch slot epoch time d)

/-- COMMIT_TIMEOUT (R119, R132): a participant has not sent PREPARED 5 s after PREPARE. -/
def commitTimeout (slot part : Nat) (d : Dev) : DevOut :=
  let j := getJob d slot
  match j.commit with
  | none => noEvent
  | some c =>
    let late := if isAnchor d j then (c.step = 1 || c.step = 2 || c.step = 4) && (allParts j).contains part && !c.prepared.contains part else c.step = 2 && part = j.partIndex
    onlyIf (j.state = .running && late) (jobFault d { code := 0x0C20, slot := slot, detail := partAddr d j part })

/-- COMMIT_TIMEOUT. -/
def execCommitTimeout (slot part : Nat) (s : State) : Host.Outcome State Fault Refusal := onSlot slot s (fun _ d => commitTimeout slot part d)

/-- PROGRESS_SEND (R119): a participant that drains or writes its checkpoint reports to the anchor, the anchor to the others. -/
def progressSend (slot : Nat) (d : Dev) : DevOut :=
  let j := getJob d slot
  match j.commit with
  | none => noEvent
  | some c =>
    let p := le 2 j.partIndex ++ le 4 c.epoch
    onlyIf (j.state = .running && c.step = 2) (if isAnchor d j then sendAll d slot 8 p else sendCoord d slot 8 j.anchor p)

/-- PROGRESS_SEND. -/
def execProgressSend (slot : Nat) (s : State) : Host.Outcome State Fault Refusal := onSlot slot s (fun _ d => progressSend slot d)

/-- A message of another participant of a live job. -/
def fromOther (j : Job) (part : Nat) : Bool := decide (j.participants.length > 1) && (allParts j).contains part && decide (part ≠ j.partIndex)

/-- PROGRESS (R119): the participant is still working; it was heard. -/
def execProgress (slot part : Nat) (s : State) : Host.Outcome State Fault Refusal :=
  onSlot slot s (fun _ d => onlyIf ((getJob d slot).state.live && fromOther (getJob d slot) part) (noteHeard d slot part))

/-- A participant may be at steps 3 and 4 of a commit, where the limit of 10 ms does not apply to it (R119). -/
def atWork (d : Dev) (j : Job) (part : Nat) : Bool :=
  match j.commit with
  | some c => (decide (c.step = 2) || decide (c.step = 4)) && !(isAnchor d j && c.prepared.contains part)
  | none => false

/-- PARTICIPANT_LOST (03 R102): a reachable participant stopped answering for 10 ms. During RESTARTING none counts as lost (R128). -/
def participantLost (slot part : Nat) (d : Dev) : DevOut :=
  let j := getJob d slot
  onlyIf ((j.state = .running || j.state = .suspended) && fromOther j part && d.hedge.reach.contains (partAddr d j part) && !atWork d j part)
    (jobFault d { code := 0x0C04, slot := slot })

/-- PARTICIPANT_LOST. -/
def execParticipantLost (slot part : Nat) (s : State) : Host.Outcome State Fault Refusal := onSlot slot s (fun _ d => participantLost slot part d)

/-- STOP (R127 step 2, R132): another participant faulted; the detector's code decides the state, 0x0C03 is reported. -/
def stopMsg (slot src code : Nat) (d : Dev) : DevOut :=
  let j := getJob d slot
  if j.state = .free ∨ !j.participants.contains src ∨ d.hedge.addr = some src then noEvent
  else if j.state.live ∨ j.start.isSome then .next (stopJob d { code := 0x0C03, slot := slot, detail := src, detail2 := code } code)
  else .next d

/-- STOP. -/
def execStop (slot src code : Nat) (s : State) : Host.Outcome State Fault Refusal := onSlot slot s (fun _ d => stopMsg slot src code d)

/-- The open epoch is one that only the final commit ends (R114). -/
def lastEpoch (j : Job) : Bool := decide (j.openEpoch = 0xFFFFFFFE)

/-- EPOCH_COMMIT (R118, R120): it joins a commit at steps 1 to 5, else it begins one; it completes after step 7. -/
def epochCommit : Service :=
  { opcode := 0x0015, check := fun _ d c => if lastEpoch (getJob d c.slot) then badState d c.slot else none,
    act := fun _ d c =>
      match (getJob d c.slot).commit with
      | some _ => (modCommit d c.slot (fun x => { x with waiters := x.waiters ++ [c.index] }), none)
      | none => (askCommit d c.slot 0 [c.index], none) }

/-- One fetched while a commit is past step 5 commits a new epoch: it waits for that commit's end (R120). -/
def execEpochCommit (idx : Nat) (s : State) : Host.Outcome State Fault Refusal :=
  runDev s (fun m d =>
    match findCmd d idx with
    | some c => if ((getJob d c.slot).commit.map (fun x => x.step == 6)).getD false && c.opcode = 0x0015 then .next d else serve epochCommit idx m d
    | none => noEvent)

end Sys2Proof.Machine
end

