-- ==== Sys2Proof/Machine/Emit.lean ====
section
/-!
DEFINITION. Emit stations: tiles into a region (05 R166), batches of a channel with their descriptors and credits (11 R296 to R303; 04 R103, R115, R121).
-/

namespace Sys2Proof.Machine

open Sys2Proof

/-- An emit station reaches end of stream (R166); the final commit may be due (04 R115). -/
def emitEnds (d : Dev) (slot st : Nat) : Dev := finalIfDue (modSt d slot st (fun s => { s with ended := true })) slot

/-- EMIT_TILE (R166): whole tiles at OFFSET + 4,160 × SEQ, or payload bytes one after another. -/
def emitTile (slot st : Nat) (d : Dev) : DevOut :=
  let j := getJob d slot
  let p := paramSt d slot st
  let x := emitSt d slot st
  if u8at p 0 ≠ 1 ∨ (getSt d slot st).ended then noEvent
  else match (getIn d slot st 0).inbox with
  | [] => noEvent
  | t :: _ =>
    let b := bindingOr j (u16at p 2)
    let (off, bs) := if u8at p 1 = 0 then (u64at p 8 + 4160 * t.seq, t.bytes) else (u64at p 8 + x.pos, t.used)
    match regWrite d b (stationEngine j st) j.image.jobTag off bs with
    | .error e =>
      let room := min bs.length (b.bytes - off)
      let d := match e, regWrite d b (stationEngine j st) j.image.jobTag off (bs.take room) with
        | .refused _, .ok d => d
        | _, _ => d
      .next (moverAccess d slot st e)
    | .ok d =>
      let d := modJob d slot (fun j => { j with provisional := true })
      let d := setKind d slot st (.emit { x with pos := x.pos + (if u8at p 1 = 0 then 0 else bs.length) })
      let d := modIn d slot st 0 InPort.drop
      .next (if t.eos then emitEnds d slot st else d)

/-- EMIT_TILE. -/
def execEmitTile (slot station : Nat) (s : State) : Host.Outcome State Fault Refusal :=
  onStation slot station (· = .emit) s (fun _ d => emitTile slot station d)


/-- What an emit station of a channel works with: declaration, slots, bytes of a slot and of a descriptor, participants. -/
structure EmitCtx where
  ch : ChannelD
  slots : Nat
  slotBytes : Nat
  descBytes : Nat
  maskBytes : Nat
  batchStation : Nat
  deriving DecidableEq, Repr

/-- Bytes of a descriptor's hole mask: strict channels have one (R298). -/
def ChannelD.maskBytes (c : ChannelD) : Nat := if c.kind = 1 then ceilDiv c.batchSamples 8 else 0

/-- DESC_BYTES (R297). -/
def ChannelD.descBytes (c : ChannelD) : Nat := if c.kind = 1 then roundUp (128 + c.maskBytes) 64 else 128

/-- The context of a channel's emit station (R277, R279, R291). -/
def emitCtx (im : Image) (st : Nat) : EmitCtx :=
  let ch := (im.channels.find? (fun c => c.emitStation == st)).getD {}
  let layout := ((portQueues im st 0).head?.map (·.producer)).getD 0
  { ch := ch, slots := ((entryOf im ch.channel).map (fun e => e.2.2.slots)).getD 1, slotBytes := u64at (im.param layout) 8, descBytes := ch.descBytes,
    maskBytes := ch.maskBytes, batchStation := batchOf im layout }

/-- The image of a slot: its runs with zeros between them (R293, R298). -/
def runsImage (n : Nat) (runs : List (Nat × Bytes)) : Bytes := padTo n (runs.foldl (fun bs r => padTo r.1 bs ++ r.2) [])

/-- The descriptor of a batch with its hole mask (R298). -/
def batchDesc (d : Dev) (j : Job) (c : EmitCtx) (i : BatchInfo) (check : Nat) : Bytes :=
  let body := le 1 1 ++ le 1 c.ch.channel ++ le 1 c.ch.kind ++ le 1 (1 + 2 * b2n j.replaying + 4 * b2n i.last) ++ le 4 j.image.jobTag ++ le 8 i.batch ++
    le 4 i.pass ++ le 4 (wrap 32 (j.image.firstEpoch + i.pass)) ++ le 4 j.openEpoch ++ le 4 i.samples ++ le 8 i.first ++ le 8 i.skipped ++
    le 4 (if c.ch.kind = 1 then i.holes else 0) ++ le 4 c.maskBytes ++ le 8 check ++ le 8 d.time ++ zeros 48
  body ++ le 8 (crc64 body) ++ (if c.ch.kind = 1 then le c.maskBytes i.mask else [])

/-- Writes a list of (region, offset, bytes) in order; stops at the first that fails. -/
def writeAll (slot st : Nat) : List (Nat × Nat × Bytes) → Dev → Except AccErr Dev
  | [], d => .ok d
  | (id, off, bs) :: ws, d =>
    let j := getJob d slot
    match regWrite d (bindingOr j id) (stationEngine j st) j.image.jobTag off bs with
    | .error e => .error e
    | .ok d => writeAll slot st ws d

/-- The last byte of a range of a region, as an address: the place whose sector a read-back reads. -/
def Binding.lastAddr (b : Binding) (off n : Nat) : Nat := b.addrOf (off + n - 1)

/-- The writes stand on the station's channel at its completion point, in read-back mode whatever the strap: their read-backs are issued (12 R315, R317). -/
def awaitWrites (d : Dev) (slot st : Nat) (ws : List (Nat × Nat × Bytes)) : Dev :=
  let j := getJob d slot
  let e := stationEngine j st
  let c := stationChan j st
  let d := setChan d e c { state := 2, arm := { owner := slot, prog := [.done] } }
  let d := ws.foldl (fun d w => noteWrite d e c false ((bindingOr j w.1).lastAddr w.2.1 w.2.2.length) 1) d
  issueBacks d e c false

/-- The station's channel is free, or what it wrote has been read back. -/
def writesBack (d : Dev) (slot st : Nat) : Bool :=
  let j := getJob d slot
  let x := getChan d (stationEngine j st) (stationChan j st)
  x.state = 0 || (x.arm.prog == [.done] && allComplete d (stationEngine j st) (stationChan j st) x)

/-- The batch that a channel's emit station writes: its fields as the batch station fixed them. -/
def emitInfo (d : Dev) (slot : Nat) (c : EmitCtx) (b : Nat) : BatchInfo :=
  ((batchSt d slot c.batchStation).infos.find? (fun i => i.batch == b)).getD { batch := b, pass := 0, samples := 0, first := 0 }

/-- The writes of a batch by phase, in R299's order: runs, descriptor, WRITTEN. -/
def batchWrites (d : Dev) (j : Job) (c : EmitCtx) (x : EmitSt) (i : BatchInfo) : List (Nat × Nat × Bytes) :=
  let k := x.written % c.slots
  match x.phase with
  | 0 => x.runs.map (fun r => (c.ch.outputRegion, k * c.slotBytes + r.1, r.2))
  | 1 => [(c.ch.descRegion, 64 + k * c.descBytes, batchDesc d j c i (crc64 (runsImage c.slotBytes x.runs)))]
  | _ => [(c.ch.descRegion, 0x10, le 8 (x.written + 1))]

/-- WRITTEN is in place: the batch is out, provisional until its epoch is committed (R299, R300). -/
def batchOut (slot st : Nat) (c : EmitCtx) (b : Nat) (x : EmitSt) (d : Dev) : Dev :=
  let j := getJob d slot
  let n := x.written + 1
  let high := (assocGet j.writtenHigh c.ch.channel).getD 0
  let d := modBatch d slot c.batchStation (fun y => { y with infos := y.infos.filter (fun i => i.batch != b) })
  let d := setKind d slot st (.emit { x with written := n, runs := [], ready := none, phase := 0 })
  let d := idleChan d (stationEngine j st) (stationChan j st)
  modJob d slot (fun j => { j with provisional := true, writtenHigh := assocSet j.writtenHigh c.ch.channel (max high n) })

/-- The next phase of a credited batch (R299): its writes, then their read-back; the batch is out with the third. -/
def writeBatch (slot st : Nat) (c : EmitCtx) (b : Nat) (d : Dev) : Dev :=
  let x := emitSt d slot st
  let ws := batchWrites d (getJob d slot) c x (emitInfo d slot c b)
  match writeAll slot st ws d with
  | .error e => moverAccess d slot st e
  | .ok d => if 2 ≤ x.phase then batchOut slot st c b x d else setKind (awaitWrites d slot st ws) slot st (.emit { x with phase := x.phase + 1 })

/-- Channel 0 reaches an automatic boundary (04 R115): no batch at or above it leaves before the snapshot. True where the batch waits. In the last epoch
there is no automatic commit (R114). -/
def atBound (slot ch b : Nat) (d : Dev) : Dev × Bool :=
  let j := getJob d slot
  if ch ≠ 0 ∨ j.image.epochBatches = 0 ∨ b < nextBound j then (d, false)
  else if lastEpoch j then (modJob d slot (fun j => { j with bound := b / j.image.epochBatches * j.image.epochBatches }), false)
  else match j.commit with
  | none => (if b = nextBound j then askCommit d slot 2 [] else d, true)
  | some c => (if j.participants.length ≤ 1 ∧ c.cause = 0 ∧ c.step < 4 then modCommit d slot (fun c => { c with cause := 2 }) else d, true)

/-- The station has emitted everything. -/
def emitDone (slot st : Nat) (d : Dev) : Dev :=
  if (getIn d slot st 0).done && (emitSt d slot st).ready.isNone then emitEnds d slot st else d

/-- A complete batch is written when it has a credit and no boundary holds it, phase by phase as its writes are read back (R299, 04 R115, 12 R317). -/
def tryBatch (slot st : Nat) (d : Dev) : Dev :=
  let c := emitCtx (getJob d slot).image st
  let x := emitSt d slot st
  match x.ready with
  | none => emitDone slot st d
  | some b =>
    if x.consumed + c.slots ≤ x.written || !writesBack d slot st then d
    else
      match (if x.phase = 0 then atBound slot c.ch.channel b d else (d, false)) with
      | (d, true) => d
      | (d, false) =>
        let d := writeBatch slot st c b d
        if stopped d slot then d else emitDone slot st d

/-- A TENSOR tile joins the batch being gathered (R296). -/
def gatherRun (x : EmitSt) (b : Bytes) : EmitSt :=
  let x := { x with runs := x.runs ++ [(u64at b 8, (b.drop 64).take (u32at b 0x10))] }
  if bit (u8at b 0x14) 0 then { x with ready := some (u64at b 0) } else x

/-- BATCH_EMIT (R299): the tile in hand is gathered; a batch whose last run it is, or that waited, goes on with its writes once it may. -/
def batchEmit (slot st : Nat) (d : Dev) : DevOut :=
  let x := emitSt d slot st
  if u8at (paramSt d slot st) 0 ≠ 2 ∨ (getSt d slot st).ended then noEvent
  else if x.ready.isSome then .next (tryBatch slot st d)
  else match (getIn d slot st 0).inbox with
  | [] => noEvent
  | t :: _ =>
    let d := modIn d slot st 0 InPort.drop
    if t.payloadBytes < 64 then .next (emitDone slot st d)
    else .next (tryBatch slot st (setKind d slot st (.emit (gatherRun x t.used))))

/-- BATCH_EMIT. -/
def execBatchEmit (slot station : Nat) (s : State) : Host.Outcome State Fault Refusal :=
  onStation slot station (· = .emit) s (fun _ d => batchEmit slot station d)

/-- CONSUMED_POLL (R299): without a credit, the station reads CONSUMED; `stores` are the trainer's, made visible before the read. -/
def consumedPoll (slot st : Nat) (stores : List (Nat × Bytes)) (m : Memory) (d : Dev) : DevOut :=
  let j := getJob d slot
  let c := emitCtx j.image st
  let x := emitSt d slot st
  if u8at (paramSt d slot st) 0 ≠ 2 ∨ x.ready.isNone ∨ x.written < x.consumed + c.slots then noEvent
  else
    let d := hostStores d stores
    match regRead m d (bindingOr j c.ch.descRegion) 0x18 8 with
    | .error e => .next (moverAccess d slot st e)
    | .ok bs =>
      let v := u64at bs 0
      if v < max x.consumed ((assocGet j.consumedLast c.ch.channel).getD 0) ∨ (assocGet j.writtenHigh c.ch.channel).getD 0 < v then
        .next (stationFault d slot st 0x0C47 c.ch.channel v)
      else .next (modJob (setKind d slot st (.emit { x with consumed := v })) slot (fun j => { j with consumedLast := assocSet j.consumedLast c.ch.channel v }))

/-- CONSUMED_POLL. -/
def execConsumedPoll (slot station : Nat) (stores : List (Nat × Bytes)) (s : State) : Host.Outcome State Fault Refusal :=
  onStation slot station (· = .emit) s (consumedPoll slot station stores)

end Sys2Proof.Machine
end

