-- ==== Sys2Proof/Machine/Jpeg.lean ====
section
/-!
DEFINITION. JPEG decoding (10_image_features.md R266, R267): the frame's components, the inverse transform, and the Huffman coding of ITU-T T.81, sequential
and progressive. A failure is the hole status of R273.
-/

namespace Sys2Proof.Machine

/-- A Huffman table: codes of each length 1 to 16, and the symbols in code order. -/
structure JHuff where
  counts : List Nat
  syms : List Nat
  deriving DecidableEq, Repr

/-- A component of the frame. -/
structure JComp where
  id : Nat := 0
  h : Nat := 1
  v : Nat := 1
  tq : Nat := 0
  /-- Blocks in a row and in a column, padded to whole MCUs. -/
  bw : Nat := 0
  bh : Nat := 0
  /-- Quantised coefficients of each block in zigzag order, row by row of blocks. -/
  coefs : Array (List Int) := #[]
  /-- The quantisation table of its first scan. -/
  quant : Option (List Nat) := none
  /-- By coefficient, the bit position down to which scans have coded it. -/
  coded : List (Option Nat) := List.replicate 64 none
  deriving DecidableEq, Repr

/-- A big-endian u16. -/
def be16 (bs : Bytes) (i : Nat) : Nat := 256 * u8at bs i + u8at bs (i + 1)

/-- k[9] of R267. -/
def idctK : List Int := [16384, 16069, 15137, 13623, 11585, 9102, 6270, 3196, 0]

/-- basis (R267). -/
def idctBasis (x u : Nat) : Int :=
  let k (i : Nat) : Int := idctK.getD i 0
  if u = 0 then k 4
  else
    let m := ((2 * x + 1) * u) % 32
    if m ≤ 8 then k m else if m ≤ 16 then -k (16 - m) else if m ≤ 24 then -k (m - 16) else k (32 - m)

/-- idct8x8 (R267): f[v][u] row by row; out[y][x] row by row. -/
def idct8x8 (f : List Int) : List Nat :=
  let nz := (f.zipIdx.filter (fun c => c.1 != 0)).map (fun c => (c.1, c.2 / 8, c.2 % 8))
  (List.range 64).map (fun i =>
    let y := i / 8
    let x := i % 8
    let s := nz.foldl (fun a c => a + idctBasis y c.2.1 * idctBasis x c.2.2 * c.1) 0
    let p := (s + 536870912) / 1073741824 + 128
    if p < 0 then 0 else if 255 < p then 255 else p.toNat)

/-- The zigzag order of T.81: natural position of coefficient k. -/
def zigzag : List Nat :=
  [0, 1, 8, 16, 9, 2, 3, 10, 17, 24, 32, 25, 18, 11, 4, 5, 12, 19, 26, 33, 40, 48, 41, 34, 27, 20, 13, 6, 7, 14, 21, 28] ++
  [35, 42, 49, 56, 57, 50, 43, 36, 29, 22, 15, 23, 30, 37, 44, 51, 58, 59, 52, 45, 38, 31, 39, 46, 53, 60, 61, 54, 47, 55, 62, 63]

/-- Bit `pos` of entropy-coded data, most significant first. -/
def jBit (a : Array Byte) (pos : Nat) : Option Nat := (a[pos / 8]?).map (fun b => b.toNat / pow2 (7 - pos % 8) % 2)

/-- `n` bits as a number. -/
def jBits (a : Array Byte) : Nat → Nat → Nat → Option Nat
  | 0, _, v => some v
  | n + 1, pos, v => (jBit a pos).bind (fun b => jBits a n (pos + 1) (2 * v + b))

/-- Reads a Huffman symbol: an error is status 1 for an undefined code, 2 where the data end. -/
def jHuff (t : JHuff) (a : Array Byte) : Nat → Nat → Nat → Nat → Nat → Nat → Except Nat (Nat × Nat)
  | 0, _, _, _, _, _ => .error 1
  | n + 1, len, code, first, index, pos =>
    match jBit a pos with
    | none => .error 2
    | some b =>
      let code := 2 * code + b
      let c := t.counts.getD len 0
      if code < first + c then .ok (t.syms.getD (index + (code - first)) 0, pos + 1)
      else jHuff t a n (len + 1) code (2 * (first + c)) (index + c) (pos + 1)

/-- A symbol from a bit position. -/
def jSym (t : JHuff) (a : Array Byte) (pos : Nat) : Except Nat (Nat × Nat) := jHuff t a 16 0 0 0 0 pos

/-- RECEIVE and EXTEND of T.81. -/
def jReceive (a : Array Byte) (s pos : Nat) : Except Nat (Int × Nat) :=
  match jBits a s pos 0 with
  | none => .error 2
  | some v => .ok (if s = 0 then 0 else if v < pow2 (s - 1) then (v : Int) - (pow2 s : Int) + 1 else (v : Int), pos + s)

/-- Coefficient `k` of a block in zigzag order. -/
def jCoef (f : List Int) (k : Nat) : Int := f.getD k 0

/-- The AC coefficients of a sequential block, in zigzag order. -/
def jAc (t : JHuff) (a : Array Byte) : Nat → Nat → Nat → List Int → Except Nat (List Int × Nat)
  | 0, _, pos, f => .ok (f, pos)
  | n + 1, k, pos, f =>
    if 64 ≤ k then .ok (f, pos)
    else match jSym t a pos with
    | .error e => .error e
    | .ok (rs, pos) =>
      let r := rs / 16
      let s := rs % 16
      if s = 0 then (if r = 15 then (if 64 < k + 16 then .error 1 else jAc t a n (k + 16) pos f) else if r = 0 then .ok (f, pos) else .error 1)
      else if 64 ≤ k + r ∨ 10 < s then .error 1
      else match jReceive a s pos with
      | .error e => .error e
      | .ok (v, pos) => jAc t a n (k + r + 1) pos (f.set (k + r) v)

/-- The DC difference of a block. -/
def jDiff (t : JHuff) (a : Array Byte) (pos : Nat) : Except Nat (Int × Nat) :=
  match jSym t a pos with
  | .error e => .error e
  | .ok (s, pos) => if 11 < s then .error 1 else jReceive a s pos

/-- A band of AC coefficients in its first progressive scan: the block, the run of bands that are all zero from here, and the position. -/
def jBand (t : JHuff) (a : Array Byte) (se al : Nat) : Nat → Nat → Nat → List Int → Except Nat (List Int × Nat × Nat)
  | 0, _, pos, f => .ok (f, 0, pos)
  | n + 1, k, pos, f =>
    if se < k then .ok (f, 0, pos)
    else match jSym t a pos with
    | .error e => .error e
    | .ok (rs, pos) =>
      let r := rs / 16
      let s := rs % 16
      if s = 0 then
        (if r = 15 then (if se + 1 < k + 16 then .error 1 else jBand t a se al n (k + 16) pos f)
         else match jBits a r pos 0 with
         | none => .error 2
         | some v => .ok (f, pow2 r - 1 + v, pos + r))
      else if se < k + r ∨ 10 < s then .error 1
      else match jReceive a s pos with
      | .error e => .error e
      | .ok (v, pos) => jBand t a se al n (k + r + 1) pos (f.set (k + r) (v * (pow2 al : Nat)))

/-- A correction bit for a coefficient that is not zero: 1 moves it away from zero by 2^al. -/
def jCorrect (f : List Int) (k al b : Nat) : List Int :=
  if b = 0 then f else f.set k (if jCoef f k < 0 then jCoef f k - (pow2 al : Nat) else jCoef f k + (pow2 al : Nat))

/-- Passes over coefficients from `k` on in a refining scan, correcting those that are not zero, as far as the zero behind `r` zeros: its place, none where
the band ends first. -/
def jRefineRun (a : Array Byte) (se al : Nat) : Nat → Nat → Nat → Nat → List Int → Except Nat (List Int × Option Nat × Nat)
  | 0, _, _, pos, f => .ok (f, none, pos)
  | n + 1, k, r, pos, f =>
    if se < k then .ok (f, none, pos)
    else if jCoef f k ≠ 0 then
      (match jBit a pos with
       | none => .error 2
       | some b => jRefineRun a se al n (k + 1) r (pos + 1) (jCorrect f k al b))
    else if r = 0 then .ok (f, some k, pos)
    else jRefineRun a se al n (k + 1) (r - 1) pos f

/-- A band of AC coefficients in a refining scan. -/
def jRefine (t : JHuff) (a : Array Byte) (se al : Nat) : Nat → Nat → Nat → List Int → Except Nat (List Int × Nat × Nat)
  | 0, _, pos, f => .ok (f, 0, pos)
  | n + 1, k, pos, f =>
    if se < k then .ok (f, 0, pos)
    else match jSym t a pos with
    | .error e => .error e
    | .ok (rs, pos) =>
      let r := rs / 16
      let s := rs % 16
      if s = 0 ∧ r ≠ 15 then
        (match jBits a r pos 0 with
         | none => .error 2
         | some v =>
           match jRefineRun a se al 65 k 64 (pos + r) f with
           | .error e => .error e
           | .ok (f, _, pos) => .ok (f, pow2 r - 1 + v, pos))
      else if 1 < s then .error 1
      else match jBits a s pos 0 with
      | none => .error 2
      | some b =>
        match jRefineRun a se al 65 k r (pos + s) f with
        | .error e => .error e
        | .ok (_, none, _) => .error 1
        | .ok (f, some k, pos) => jRefine t a se al n (k + 1) pos (if s = 0 then f else f.set k (if b = 1 then (pow2 al : Nat) else -((pow2 al : Nat) : Int)))

/-- A component's part in a scan: which component, its tables and their destinations. -/
structure JPart where
  comp : Nat
  dc : JHuff
  ac : JHuff
  dcId : Nat
  acId : Nat
  deriving DecidableEq, Repr

/-- The coding of a scan: progressive or sequential, arithmetic or Huffman, its band and bit positions. -/
structure JCoding where
  prog : Bool := false
  arith : Bool := false
  ss : Nat := 0
  se : Nat := 63
  ah : Nat := 0
  al : Nat := 0
  deriving DecidableEq, Repr

/-- A block's new coefficients, its new DC prediction, the run of zero bands left, and the position, by Huffman coding. -/
def jHuffBlock (g : JCoding) (p : JPart) (a : Array Byte) (pos : Nat) (pred : Int) (run : Nat) (f : List Int) : Except Nat (List Int × Int × Nat × Nat) :=
  let dc (k : Int → Nat → Except Nat (List Int × Int × Nat × Nat)) :=
    match jDiff p.dc a pos with
    | .error e => .error e
    | .ok (v, pos) => k (pred + v) pos
  if !g.prog then
    dc (fun v pos =>
      match jAc p.ac a 64 1 pos (f.set 0 v) with
      | .error e => .error e
      | .ok (f, pos) => .ok (f, v, 0, pos))
  else if g.ss = 0 then
    (if g.ah = 0 then dc (fun v pos => .ok (f.set 0 (v * (pow2 g.al : Nat)), v, 0, pos))
     else match jBit a pos with
     | none => .error 2
     | some b => .ok (f.set 0 (jCoef f 0 + (b * pow2 g.al : Nat)), pred, 0, pos + 1))
  else if 0 < run then
    (if g.ah = 0 then .ok (f, pred, run - 1, pos)
     else match jRefineRun a g.se g.al 65 g.ss 64 pos f with
     | .error e => .error e
     | .ok (f, _, pos) => .ok (f, pred, run - 1, pos))
  else
    match (if g.ah = 0 then jBand p.ac a g.se g.al 65 g.ss pos f else jRefine p.ac a g.se g.al 65 g.ss pos f) with
    | .error e => .error e
    | .ok (f, run, pos) => .ok (f, pred, run, pos)

end Sys2Proof.Machine
end

