-- ==== Sys2Proof/Machine/JpegArith.lean ====
section
/-!
DEFINITION. Arithmetic coding of JPEG scans (ITU-T T.81, annex D and F.1.4, G.1.3), which 10_image_features.md R266 gives to the bramble lane under SOF9 and
SOF10.
-/

namespace Sys2Proof.Machine

/-- The probability states of T.81 table D.3: Qe, next state after the less and after the more probable symbol, and the exchange; the last one never adapts. -/
def arStates : Array (Nat × Nat × Nat × Nat) :=
 ([(23069, 1, 1, 1), (9606, 14, 2, 0), (4372, 16, 3, 0), (2059, 18, 4, 0), (984, 20, 5, 0), (474, 23, 6, 0), (229, 25, 7, 0), (111, 28, 8, 0),
   (54, 30, 9, 0), (26, 33, 10, 0), (13, 35, 11, 0), (6, 9, 12, 0), (3, 10, 13, 0), (1, 12, 13, 0), (23167, 15, 15, 1), (16165, 36, 16, 0),
   (11506, 38, 17, 0), (8316, 39, 18, 0), (6073, 40, 19, 0), (4482, 42, 20, 0), (3311, 43, 21, 0), (2465, 45, 22, 0), (1839, 46, 23, 0),
   (1372, 48, 24, 0), (1030, 49, 25, 0), (771, 51, 26, 0), (576, 52, 27, 0), (433, 54, 28, 0), (324, 56, 29, 0), (245, 57, 30, 0), (183, 59, 31, 0),
   (138, 60, 32, 0), (104, 62, 33, 0), (78, 63, 34, 0), (59, 32, 35, 0), (44, 33, 9, 0), (23265, 37, 37, 1), (18508, 64, 38, 0), (14861, 65, 39, 0),
   (12017, 67, 40, 0), (9759, 68, 41, 0), (7987, 69, 42, 0), (6568, 70, 43, 0), (5400, 72, 44, 0), (4471, 73, 45, 0), (3700, 74, 46, 0),
   (3067, 75, 47, 0), (2552, 77, 48, 0), (2145, 78, 49, 0), (1798, 79, 50, 0), (1485, 48, 51, 0), (1246, 50, 52, 0), (1039, 50, 53, 0),
   (867, 51, 54, 0), (724, 52, 55, 0), (604, 53, 56, 0), (504, 54, 57, 0)] ++
  [(420, 55, 58, 0), (352, 56, 59, 0), (293, 57, 60, 0), (246, 58, 61, 0), (203, 59, 62, 0), (171, 61, 63, 0), (143, 61, 32, 0), (23314, 65, 65, 1),
   (19716, 80, 66, 0), (16684, 81, 67, 0), (14296, 82, 68, 0), (12264, 83, 69, 0), (10556, 84, 70, 0), (9081, 86, 71, 0), (7903, 87, 72, 0),
   (6825, 87, 73, 0), (5966, 72, 74, 0), (5156, 72, 75, 0), (4508, 74, 76, 0), (3947, 74, 77, 0), (3409, 75, 78, 0), (2998, 77, 79, 0),
   (2624, 77, 48, 0), (22578, 80, 81, 1), (19740, 88, 82, 0), (17294, 89, 83, 0), (15325, 90, 84, 0), (13550, 91, 85, 0), (11950, 92, 86, 0),
   (10650, 93, 87, 0), (9494, 86, 71, 0), (21872, 88, 89, 1), (19625, 95, 90, 0), (17625, 96, 91, 0), (15906, 97, 92, 0), (14372, 99, 93, 0),
   (12980, 99, 94, 0), (11799, 93, 86, 0), (22184, 95, 96, 1), (20294, 101, 97, 0), (18405, 102, 98, 0), (16847, 103, 99, 0), (15421, 104, 100, 0),
   (14174, 99, 93, 0), (21041, 105, 102, 0), (19471, 106, 103, 0), (17977, 107, 104, 0), (16734, 103, 99, 0), (22055, 105, 106, 1),
   (20711, 108, 107, 0), (19333, 109, 103, 0), (21911, 110, 109, 0), (20559, 111, 107, 0), (23056, 110, 111, 1), (21794, 112, 109, 0),
   (23019, 112, 111, 1), (23069, 113, 113, 0)]).toArray

/-- The decoder's registers, and the statistics bins: DC bins from 64 × table, AC bins from 256 + 256 × table, and the fixed bin 1280. A bin holds its state,
plus 128 where its more probable symbol is 1. -/
structure JArith where
  c : Nat
  a : Nat
  ct : Nat
  pos : Nat
  bins : Array Nat
  deriving DecidableEq, Repr

/-- A byte of the interval; behind its end the decoder reads zeros. -/
def arByte (a : Array Byte) (i : Nat) : Nat := ((a[i]?).map (·.toNat)).getD 0

/-- INITDEC. -/
def arInit (a : Array Byte) : JArith := { c := 256 * arByte a 0 + arByte a 1, a := 0x10000, ct := 0, pos := 2, bins := Array.replicate 1280 0 ++ #[113] }

/-- RENORM_D, with BYTE_IN. -/
def arRenorm (b : Array Byte) : Nat → JArith → JArith
  | 0, s => s
  | n + 1, s =>
    if 0x8000 ≤ s.a then s
    else if s.ct = 0 then arRenorm b n { s with c := 256 * s.c + arByte b s.pos, pos := s.pos + 1, ct := 7, a := 2 * s.a }
    else arRenorm b n { s with ct := s.ct - 1, a := 2 * s.a }

/-- DECODE of one decision by a bin. -/
def arBit (b : Array Byte) (bin : Nat) (s0 : JArith) : Nat × JArith :=
  let s := arRenorm b 16 s0
  let v := s.bins.getD bin 0
  let mps := v / 128
  let (qe, nl, nm, x) := arStates.getD (v % 128) (0, 0, 0, 0)
  let less (a c : Nat) : Nat × JArith := (1 - mps, { s with a := a, c := c, bins := s.bins.setIfInBounds bin (nl + 128 * ((mps + x) % 2)) })
  let more (a c : Nat) : Nat × JArith := (mps, { s with a := a, c := c, bins := s.bins.setIfInBounds bin (nm + 128 * mps) })
  let a := s.a - qe
  let low := a * pow2 s.ct
  if low ≤ s.c then (if a < qe then more qe (s.c - low) else less qe (s.c - low))
  else if 0x8000 ≤ a then (mps, { s with a := a })
  else if a < qe then less a s.c else more a s.c

/-- The magnitude category's further bits from a bin on (T.81 figure F.23). -/
def arMag (b : Array Byte) : Nat → Nat → Nat → JArith → Except Nat (Nat × Nat × JArith)
  | 0, _, _, _ => .error 1
  | n + 1, bin, m, s =>
    let (x, s) := arBit b bin s
    if x = 0 then .ok (bin, m, s) else if m = 0x4000 then .error 1 else arMag b n (bin + 1) (2 * m) s

/-- The low bits of a magnitude (T.81 figure F.24). -/
def arLow (b : Array Byte) (bin : Nat) : Nat → Nat → Nat → JArith → Nat × JArith
  | 0, _, v, s => (v, s)
  | n + 1, m, v, s =>
    if m / 2 = 0 then (v, s)
    else
      let (x, s) := arBit b bin s
      arLow b bin n (m / 2) (v + x * (m / 2)) s

/-- A value of a sign and a magnitude less 1. -/
def signed (sign v : Nat) : Int := if sign = 0 then (v : Int) + 1 else -((v : Int) + 1)

/-- The DC difference of a block and the new context (T.81 figure F.19), by the conditioning bounds L and U. -/
def arDiff (b : Array Byte) (table low high ctx : Nat) (s : JArith) : Except Nat (Int × Nat × JArith) :=
  let bin := 64 * table + ctx
  let (x, s) := arBit b bin s
  if x = 0 then .ok (0, 0, s)
  else
    let (sign, s) := arBit b (bin + 1) s
    let first := bin + 2 + sign
    let (m, s) := arBit b first s
    match (if m = 0 then .ok (first, 0, s) else arMag b 16 (64 * table + 20) 1 s) with
    | .error e => .error e
    | .ok (bin, m, s) =>
      let ctx := if m < pow2 low / 2 then 0 else if pow2 high / 2 < m then 12 + 4 * sign else 4 + 4 * sign
      let (v, s) := arLow b (bin + 14) 16 m m s
      .ok (signed sign v, ctx, s)

/-- AC coefficients of a band, at 2^al (T.81 figure F.20); `fresh` where the end of the band may stand here. -/
def arBand (b : Array Byte) (table kx se al : Nat) : Nat → Nat → Bool → List Int → JArith → Except Nat (List Int × JArith)
  | 0, _, _, _, _ => .error 1
  | n + 1, k, fresh, f, s =>
    if se < k then (if fresh then .ok (f, s) else .error 1)
    else
      let bin := 256 + 256 * table + 3 * (k - 1)
      let (e, s) := if fresh then arBit b bin s else (0, s)
      if e = 1 then .ok (f, s)
      else
        let (x, s) := arBit b (bin + 1) s
        if x = 0 then arBand b table kx se al n (k + 1) false f s
        else
          let (sign, s) := arBit b 1280 s
          let (m, s) := arBit b (bin + 2) s
          let (more, s) := if m = 0 then (0, s) else arBit b (bin + 2) s
          match (if more = 0 then .ok (bin + 2, m, s) else arMag b 16 (256 + 256 * table + (if k ≤ kx then 189 else 217)) 2 s) with
          | .error e => .error e
          | .ok (bin, m, s) =>
            let (v, s) := arLow b (bin + 14) 16 m m s
            arBand b table kx se al n (k + 1) true (f.set k (signed sign v * (pow2 al : Nat))) s

/-- AC coefficients of a band in a refining scan; `kex` is the last that is not zero. -/
def arRefine (b : Array Byte) (table kex se al : Nat) : Nat → Nat → Bool → List Int → JArith → Except Nat (List Int × JArith)
  | 0, _, _, _, _ => .error 1
  | n + 1, k, fresh, f, s =>
    if se < k then (if fresh then .ok (f, s) else .error 1)
    else
      let bin := 256 + 256 * table + 3 * (k - 1)
      let (e, s) := if fresh && decide (kex < k) then arBit b bin s else (0, s)
      if e = 1 then .ok (f, s)
      else if jCoef f k ≠ 0 then
        (let (x, s) := arBit b (bin + 2) s
         arRefine b table kex se al n (k + 1) true (jCorrect f k al x) s)
      else
        let (x, s) := arBit b (bin + 1) s
        if x = 0 then arRefine b table kex se al n (k + 1) false f s
        else
          let (sign, s) := arBit b 1280 s
          arRefine b table kex se al n (k + 1) true (f.set k (if sign = 1 then -((pow2 al : Nat) : Int) else (pow2 al : Nat))) s

/-- The last coefficient from `k` down that is not zero; 0 where none is. -/
def lastCoef (f : List Int) : Nat → Nat
  | 0 => 0
  | k + 1 => if jCoef f (k + 1) ≠ 0 then k + 1 else lastCoef f k

/-- A block's new coefficients, its new DC prediction and context, and the decoder, by arithmetic coding; `low`, `high` and `kx` condition it. -/
def arBlock (g : JCoding) (p : JPart) (low high kx : Nat) (b : Array Byte) (s : JArith) (pred : Int) (ctx : Nat) (f : List Int) :
    Except Nat (List Int × Int × Nat × JArith) :=
  let dc (k : Int → Nat → JArith → Except Nat (List Int × Int × Nat × JArith)) :=
    match arDiff b p.dcId low high ctx s with
    | .error e => .error e
    | .ok (v, ctx, s) => k (pred + v) ctx s
  if !g.prog then
    dc (fun v ctx s =>
      match arBand b p.acId kx 63 0 65 1 true (f.set 0 v) s with
      | .error e => .error e
      | .ok (f, s) => .ok (f, v, ctx, s))
  else if g.ss = 0 then
    (if g.ah = 0 then dc (fun v ctx s => .ok (f.set 0 (v * (pow2 g.al : Nat)), v, ctx, s))
     else
      let (x, s) := arBit b 1280 s
      .ok (f.set 0 (jCoef f 0 + (x * pow2 g.al : Nat)), pred, ctx, s))
  else
    match (if g.ah = 0 then arBand b p.acId kx g.se g.al 65 g.ss true f s else arRefine b p.acId (lastCoef f g.se) g.se g.al 65 g.ss true f s) with
    | .error e => .error e
    | .ok (f, s) => .ok (f, pred, ctx, s)

end Sys2Proof.Machine
end

