-- ==== Sys2Proof/Machine/JpegFrame.lean ====
section
/-!
DEFINITION. The JPEG decoder's scans and marker segments (10_image_features.md R266): what the engine decodes, what it gives to the bramble lane, and what is
a hole; upsampling and colour (R268).
-/

namespace Sys2Proof.Machine

/-- The decoder's tables and frame. -/
structure JpgState where
  qt : List (Nat × List Nat) := []
  /-- Huffman tables by class (0 DC, 1 AC) and destination. -/
  ht : List ((Nat × Nat) × JHuff) := []
  /-- Conditioning of arithmetic tables by class and destination, as DAC gives it. -/
  cond : List ((Nat × Nat) × Nat) := []
  ri : Nat := 0
  /-- The frame's process: n of SOFn. -/
  sof : Nat := 0
  w : Nat := 0
  h : Nat := 0
  comps : List JComp := []
  /-- An application marker declares the components stored without colour transform. -/
  rgb : Bool := false
  /-- A feature of the bramble lane has been met: the engine has diverted the image (05 R155). -/
  feat : Bool := false
  deriving DecidableEq, Repr

/-- The entropy decoder between two blocks of an interval: position, DC predictions, run of zero bands, DC contexts, arithmetic registers. -/
structure JEnt where
  pos : Nat := 0
  preds : List Int
  run : Nat := 0
  ctxs : List Nat
  ar : JArith
  deriving DecidableEq, Repr

/-- One data unit of a part at a block position. -/
structure JUnit where
  part : Nat
  x : Nat
  y : Nat
  deriving DecidableEq, Repr

/-- The data units of MCU `m` of a scan: interleaved, or one block for a scan of one component. -/
def jMcu (parts : List JPart) (comps : List JComp) (mcusW m : Nat) : List JUnit :=
  match parts with
  | [_] => [⟨0, m % mcusW, m / mcusW⟩]
  | _ =>
    (parts.zipIdx.map (fun (p, i) =>
      let c := comps.getD p.comp {}
      (List.range (c.h * c.v)).map (fun k => ⟨i, (m % mcusW) * c.h + k % c.h, (m / mcusW) * c.v + k / c.h⟩))).flatten

/-- Decodes one block. -/
def jBlock (s : JpgState) (g : JCoding) (p : JPart) (i : Nat) (a : Array Byte) (e : JEnt) (f : List Int) : Except Nat (List Int × JEnt) :=
  let pred := e.preds.getD i 0
  if g.arith then
    let c := (assocGet s.cond (0, p.dcId)).getD 0x10
    match arBlock g p (c % 16) (c / 16) ((assocGet s.cond (1, p.acId)).getD 5) a e.ar pred (e.ctxs.getD i 0) f with
    | .error x => .error x
    | .ok (f, pred, ctx, ar) => .ok (f, { e with preds := setAt e.preds i pred, ctxs := setAt e.ctxs i ctx, ar := ar })
  else
    match jHuffBlock g p a e.pos pred e.run f with
    | .error x => .error x
    | .ok (f, pred, run, pos) => .ok (f, { e with preds := setAt e.preds i pred, run := run, pos := pos })

/-- Decodes data units in order. -/
def jUnits (s : JpgState) (g : JCoding) (parts : List JPart) (a : Array Byte) : List JUnit → JEnt → List JComp → Except Nat (JEnt × List JComp)
  | [], e, comps => .ok (e, comps)
  | u :: us, e, comps =>
    match parts[u.part]? with
    | none => .error 1
    | some p =>
      let c := comps.getD p.comp {}
      let at_ := u.y * c.bw + u.x
      match jBlock s g p u.part a e (c.coefs.getD at_ []) with
      | .error e => .error e
      | .ok (f, e) => jUnits s g parts a us e (modifyAt comps p.comp (fun c => { c with coefs := c.coefs.setIfInBounds at_ f }))

/-- Decodes one restart interval of MCUs; at the end of Huffman data fewer than 8 bits may be left, and no run of zero bands. -/
def jInterval (s : JpgState) (g : JCoding) (parts : List JPart) (mcusW : Nat) (bs : Bytes) (first n : Nat) (comps : List JComp) : Except Nat (List JComp) :=
  let a := bs.toArray
  let zero := List.replicate parts.length 0
  match jUnits s g parts a (((List.range n).map (fun i => jMcu parts comps mcusW (first + i))).flatten)
      { preds := parts.map (fun _ => 0), ctxs := zero, ar := arInit a } comps with
  | .error e => .error e
  | .ok (e, comps) => if !g.arith && (decide (e.pos + 8 ≤ 8 * bs.length) || decide (0 < e.run)) then .error 1 else .ok comps

/-- Splits entropy-coded data: the intervals with stuffing removed, each with the RST number that ends it, and the bytes from the next marker on. Fill bytes
may stand before a marker. -/
def jSplit : Bytes → Bytes → List (Bytes × Nat) → List (Bytes × Nat) × Bytes × Bytes
  | [], cur, acc => (acc, cur.reverse, [])
  | b :: r, cur, acc =>
    if b ≠ 0xFF then jSplit r (b :: cur) acc
    else match r with
    | [] => (acc, cur.reverse, [])
    | c :: r2 =>
      if c = 0 then jSplit r2 (0xFF :: cur) acc
      else if c = 0xFF then jSplit (c :: r2) cur acc
      else if 0xD0 ≤ c.toNat ∧ c.toNat ≤ 0xD7 then jSplit r2 [] (acc ++ [(cur.reverse, c.toNat - 0xD0)])
      else (acc, cur.reverse, b :: c :: r2)

/-- The intervals of a scan one after another. An interval that ends early, with nothing behind it, means the stream ended. -/
def jIntervals (s : JpgState) (g : JCoding) (parts : List JPart) (mcusW : Nat) (ended : Bool) : List Bytes → Nat → Nat → List JComp → Except Nat (List JComp)
  | [], _, left, comps => if left = 0 then .ok comps else .error (if ended then 2 else 1)
  | b :: bs, first, left, comps =>
    if left = 0 then .error 1
    else
      let n := if s.ri = 0 then left else min s.ri left
      match jInterval s g parts mcusW b first n comps with
      | .error e => .error (if e = 2 ∧ !(bs.isEmpty && ended) then 1 else e)
      | .ok comps => jIntervals s g parts mcusW ended bs (first + n) (left - n) comps

/-- A Huffman table's codes fit their lengths. -/
def jHuffOk (counts : List Nat) : Bool :=
  decide (0 ≤ (List.range 16).foldl (fun left n => 2 * left - ((counts.getD n 0 : Nat) : Int)) 1)

/-- DHT: tables until the segment ends. -/
def jDht : Nat → Bytes → List ((Nat × Nat) × JHuff) → Option (List ((Nat × Nat) × JHuff))
  | 0, _, _ => none
  | n + 1, b, ht =>
    if b.isEmpty then some ht
    else
      let tc := u8at b 0 / 16
      let th := u8at b 0 % 16
      let counts := ((b.drop 1).take 16).map (·.toNat)
      let k := counts.foldl (· + ·) 0
      if 1 < tc ∨ 3 < th ∨ b.length < 17 + k ∨ 256 < k ∨ !jHuffOk counts then none
      else jDht n (b.drop (17 + k)) (assocSet ht (tc, th) ⟨counts, ((b.drop 17).take k).map (·.toNat)⟩)

/-- DQT: tables until the segment ends, and whether one has 16-bit entries. -/
def jDqt : Nat → Bytes → List (Nat × List Nat) → Option (List (Nat × List Nat) × Bool)
  | 0, _, _ => none
  | n + 1, b, qt =>
    if b.isEmpty then some (qt, false)
    else
      let pq := u8at b 0 / 16
      let tq := u8at b 0 % 16
      let k := 64 * (pq + 1)
      if 1 < pq ∨ 3 < tq ∨ b.length < 1 + k then none
      else (jDqt n (b.drop (1 + k)) (assocSet qt tq ((List.range 64).map (fun i => if pq = 0 then u8at b (1 + i) else be16 b (1 + 2 * i))))).map
        (fun x => (x.1, x.2 || pq = 1))

/-- The greatest of some numbers. -/
def maxOf (xs : List Nat) : Nat := xs.foldl max 1

/-- DAC: conditioning values until the segment ends. -/
def jDac : Nat → Bytes → List ((Nat × Nat) × Nat) → Option (List ((Nat × Nat) × Nat))
  | 0, _, _ => none
  | n + 1, b, cond =>
    if b.isEmpty then some cond
    else
      let tc := u8at b 0 / 16
      let tb := u8at b 0 % 16
      let v := u8at b 1
      if b.length < 2 ∨ 1 < tc ∨ 3 < tb ∨ tc = 0 ∧ v / 16 < v % 16 ∨ tc = 1 ∧ (v = 0 ∨ 63 < v) then none else jDac n (b.drop 2) (assocSet cond (tc, tb) v)

/-- The sampling factors the engine takes of three components: 4:4:4, 4:2:2, 4:2:0. -/
def jSampling (comps : List JComp) : Bool :=
  let f := comps.map (fun c => (c.h, c.v))
  f == [(1, 1), (1, 1), (1, 1)] || f == [(2, 1), (1, 1), (1, 1)] || f == [(2, 2), (1, 1), (1, 1)]

/-- Features of the bramble lane that the frame and the markers so far show (R266). -/
def JpgState.note (s : JpgState) : JpgState :=
  { s with feat := s.feat || (!s.comps.isEmpty && s.sof != 0) || (decide (s.comps.length = 3) && (s.rgb || !jSampling s.comps)) }

/-- SOF0, SOF1, SOF2, SOF9 and SOF10: the frame, or a hole status. A baseline frame has table destinations 0 and 1. -/
def jFrame (s : JpgState) (sof : Nat) (b : Bytes) : Except Nat JpgState :=
  let nf := u8at b 5
  let h := be16 b 1
  let w := be16 b 3
  if b.length < 6 then .error 1
  else if u8at b 0 = 12 then .error 3
  else if u8at b 0 ≠ 8 ∨ !s.comps.isEmpty then .error 1
  else if w = 0 ∨ h = 0 ∨ 8192 < w ∨ 8192 < h then .error 4
  else if nf ≠ 1 ∧ nf ≠ 3 then .error (if nf = 0 then 1 else 3)
  else if b.length ≠ 6 + 3 * nf ∨ sof = 0 ∧ s.ht.any (fun x => decide (1 < x.1.2)) then .error 1
  else
    let cs : List JComp := (List.range nf).map (fun i => { id := u8at b (6 + 3 * i), h := u8at b (7 + 3 * i) / 16, v := u8at b (7 + 3 * i) % 16, tq := u8at b (8 + 3 * i) })
    if cs.any (fun c => decide (c.h = 0 ∨ 4 < c.h ∨ c.v = 0 ∨ 4 < c.v ∨ 3 < c.tq)) ∨ !nodup (cs.map (·.id)) then .error 1
    else
      let mw := ceilDiv w (8 * maxOf (cs.map (·.h)))
      let mh := ceilDiv h (8 * maxOf (cs.map (·.v)))
      .ok (JpgState.note { s with sof := sof, w := w, h := h, comps := cs.map (fun c =>
        { c with bw := mw * c.h, bh := mh * c.v, coefs := Array.replicate (mw * c.h * (mh * c.v)) (List.replicate 64 0) }) })

/-- The band and bit positions of a scan are legal: sequential all of them, progressive by T.81 G.1.1.1. -/
def jBandOk (g : JCoding) (ns : Nat) : Bool :=
  if !g.prog then decide (g.ss = 0 ∧ g.se = 63 ∧ g.ah = 0 ∧ g.al = 0)
  else decide (g.ss ≤ g.se ∧ g.se ≤ 63 ∧ g.al ≤ 13 ∧ (g.ah = 0 ∨ g.ah = g.al + 1) ∧ (g.ss = 0 → g.se = 0) ∧ (0 < g.ss → ns = 1))

/-- A component may be coded in this band: for the first time, or refined from where it stands; the DC coefficient comes first. -/
def jBandNext (g : JCoding) (c : JComp) : Bool :=
  (List.range (g.se + 1 - g.ss)).all (fun i => c.coded.getD (g.ss + i) none == (if g.ah = 0 then none else some g.ah)) &&
  (g.ss = 0 || (c.coded.getD 0 none).isSome)

/-- The tables a part of a scan needs; arithmetic scans need none. -/
def jPart (s : JpgState) (g : JCoding) (id sel : Nat) : Option JPart :=
  let none' : JHuff := ⟨[], []⟩
  let dcId := sel / 16
  let acId := sel % 16
  let needDc := !g.arith && g.ss = 0 && g.ah = 0
  let needAc := !g.arith && (!g.prog || 0 < g.ss)
  match s.comps.findIdx? (fun c => c.id == id) with
  | none => none
  | some k =>
    let dc := assocGet s.ht (0, dcId)
    let ac := assocGet s.ht (1, acId)
    if needDc && dc.isNone || needAc && ac.isNone || decide (3 < dcId) || decide (3 < acId) || s.sof = 0 && (decide (1 < dcId) || decide (1 < acId)) then none
    else some ⟨k, dc.getD none', ac.getD none', dcId, acId⟩

/-- SOS and its data: the state behind the scan and the bytes from the next marker on. A failure keeps whether the image was diverted before it. -/
def jScan (s : JpgState) (b data : Bytes) : Except (Nat × Bool) (JpgState × Bytes) :=
  let ns := u8at b 0
  let g : JCoding := { prog := s.sof = 2 || s.sof = 10, arith := s.sof = 9 || s.sof = 10,
                       ss := u8at b (1 + 2 * ns), se := u8at b (2 + 2 * ns), ah := u8at b (3 + 2 * ns) / 16, al := u8at b (3 + 2 * ns) % 16 }
  if s.comps.isEmpty ∨ ns = 0 ∨ 4 < ns ∨ b.length ≠ 4 + 2 * ns then .error (1, s.feat)
  else
    let s := { s with feat := s.feat || decide (ns < s.comps.length) }
    let parts := (List.range ns).map (fun i => jPart s g (u8at b (1 + 2 * i)) (u8at b (2 + 2 * i)))
    if !jBandOk g ns ∨ parts.any (·.isNone) then .error (1, s.feat)
    else
      let parts := parts.filterMap id
      let inScan (k : Nat) : Bool := parts.any (fun p => p.comp == k)
      let cs : List JComp := parts.map (fun p => s.comps.getD p.comp {})
      let comps : List JComp := s.comps.zipIdx.map (fun (c, k) => if inScan k then { c with quant := if c.quant.isSome then c.quant else assocGet s.qt c.tq } else c)
      let size : Nat × Nat := match cs with
        | [c] => (ceilDiv (ceilDiv (s.w * c.h) (maxOf (s.comps.map (·.h)))) 8, ceilDiv (ceilDiv (s.h * c.v) (maxOf (s.comps.map (·.v)))) 8)
        | _ => (ceilDiv s.w (8 * maxOf (s.comps.map (·.h))), ceilDiv s.h (8 * maxOf (s.comps.map (·.v))))
      let (ivs, last, rest) := jSplit data [] []
      if !nodup (parts.map (·.comp)) || !cs.all (jBandNext g) || comps.zipIdx.any (fun x => inScan x.2 && x.1.quant.isNone) ||
         (decide (1 < ns) && decide (10 < (cs.map (fun (c : JComp) => c.h * c.v)).sum)) ||
         ivs.zipIdx.any (fun x => x.1.2 != x.2 % 8) || (s.ri = 0 && !ivs.isEmpty) then .error (1, s.feat)
      else match jIntervals s g parts size.1 rest.isEmpty (ivs.map (·.1) ++ [last]) 0 (size.1 * size.2) comps with
      | .error e => .error (e, s.feat)
      | .ok comps =>
        .ok ({ s with comps := comps.zipIdx.map (fun (c, k) =>
          if inScan k then { c with coded := c.coded.zipIdx.map (fun (x, i) => if decide (g.ss ≤ i) && decide (i ≤ g.se) then some g.al else x) } else c) }, rest)

/-- An APP14 segment that declares three components stored without colour transform. -/
def jAdobeRgb (b : Bytes) : Bool := decide (b.take 5 = ascii "Adobe") && decide (11 < b.length) && decide (u8at b 11 = 0)

/-- Marker segments from the SOI on (R266): the finished frame, or a hole status and whether the image had been diverted before it. -/
def jWalk : Nat → JpgState → Bytes → Except (Nat × Bool) JpgState
  | 0, s, _ => .error (1, s.feat)
  | n + 1, s, bs =>
    let fail {α : Type} (e : Nat) : Except (Nat × Bool) α := .error (e, s.feat)
    match bs with
    | [] => fail 2
    | a :: r =>
      if a ≠ 0xFF then fail 1
      else match r with
      | [] => fail 2
      | c :: r2 =>
        let k := c.toNat
        if k = 0xFF then jWalk n s r
        else if k = 0xD9 then (if s.comps.isEmpty ∨ s.comps.any (fun c => (c.coded.getD 0 none).isNone) then fail 1 else .ok s)
        else if k = 0 ∨ k = 1 ∨ k = 0xD8 ∨ (0xD0 ≤ k ∧ k ≤ 0xD7) then fail 1
        else if r2.length < 2 ∨ r2.length < be16 r2 0 then fail 2
        else if be16 r2 0 < 2 then fail 1
        else
          let b := (r2.take (be16 r2 0)).drop 2
          let rest := r2.drop (be16 r2 0)
          if k = 0xDB then (match jDqt (b.length + 1) b s.qt with
            | some q => jWalk n { s with qt := q.1, feat := s.feat || q.2 } rest
            | none => fail 1)
          else if k = 0xC4 then (match jDht (b.length + 1) b s.ht with
            | some h => if !s.comps.isEmpty && s.sof = 0 && h.any (fun x => decide (1 < x.1.2)) then fail 1 else jWalk n { s with ht := h } rest
            | none => fail 1)
          else if k = 0xCC then (match jDac (b.length + 1) b s.cond with
            | some x => jWalk n { s with cond := x } rest
            | none => fail 1)
          else if k = 0xDD then (if b.length = 2 then jWalk n { s with ri := be16 b 0 } rest else fail 1)
          else if k = 0xC0 ∨ k = 0xC1 ∨ k = 0xC2 ∨ k = 0xC9 ∨ k = 0xCA then (match jFrame s (k - 0xC0) b with
            | .ok s => jWalk n s rest
            | .error e => fail e)
          else if k = 0xDA then (match jScan s b rest with
            | .ok (s, rest) => jWalk n s rest
            | .error e => .error e)
          else if k = 0xDC ∨ k = 0xDE ∨ k = 0xDF ∨ (0xC0 ≤ k ∧ k ≤ 0xCF ∧ k ≠ 0xC8) then fail 3
          else if k = 0xEE then jWalk n (JpgState.note { s with rgb := s.rgb || jAdobeRgb b }) rest
          else if k = 0xFE ∨ (0xE0 ≤ k ∧ k ≤ 0xEF) then jWalk n s rest
          else fail 1

/-- The samples of a component's blocks: each coefficient times its table entry, in natural order, then the inverse transform (R267). -/
def JComp.samples (c : JComp) : Array (List Nat) :=
  let q := (c.quant.getD []).map (fun (x : Nat) => (x : Int))
  c.coefs.map (fun f => idct8x8 ((zigzag.zip (f.zip q)).foldl (fun l (k, v, x) => l.set k (v * x)) (List.replicate 64 0)))

/-- A decoded image before colour: size, component count, stored as R, G, B, and the component samples of a pixel. -/
structure JImage where
  w : Nat
  h : Nat
  comps : Nat
  rgb : Bool
  /-- Samples in raster order, components interleaved. -/
  data : List Nat
  deriving DecidableEq, Repr

/-- The sample of a component at a pixel: chroma by replication (R268). -/
def jSample (s : JpgState) (c : JComp) (blocks : Array (List Nat)) (x y : Nat) : Nat :=
  let cx := x * c.h / maxOf (s.comps.map (·.h))
  let cy := y * c.v / maxOf (s.comps.map (·.v))
  (blocks.getD (cy / 8 * c.bw + cx / 8) []).getD (8 * (cy % 8) + cx % 8) 0

/-- Decodes a JPEG object as far as it goes (R266): the frame, or a hole's status and whether the image had been diverted. -/
def jRun (bs : Bytes) : Except (Nat × Bool) JpgState :=
  if bs.isEmpty then .error (1, false)
  else if bs.length < 2 then .error (if bs = [0xFF] then 2 else 1, false)
  else if bs.take 2 ≠ [0xFF, 0xD8] then .error (1, false)
  else jWalk (bs.length + 1) {} (bs.drop 2)

/-- Decodes a JPEG object (R266): the image, or a hole's status; 5 where the bramble lane, to which a feature diverted it, cannot decode it (R273, 05 R156). -/
def decodeJpeg (bs : Bytes) : Except Nat JImage :=
  match jRun bs with
  | .error (e, feat) => .error (if feat then 5 else e)
  | .ok s =>
    let cs := s.comps.map (fun c => (c, c.samples))
    .ok { w := s.w, h := s.h, comps := s.comps.length, rgb := s.rgb && decide (s.comps.length = 3),
          data := ((List.range (s.w * s.h)).map (fun i => cs.map (fun c => jSample s c.1 c.2 (i % s.w) (i / s.w)))).flatten }

/-- The image meets a feature that R266 gives to the bramble lane, before any failure. -/
def jpegDiverts (bs : Bytes) : Bool :=
  match jRun bs with
  | .ok s => s.feat
  | .error (_, feat) => feat

/-- Limits to 0 to 255. -/
def clamp8 (x : Int) : Nat := if x < 0 then 0 else if 255 < x then 255 else x.toNat

/-- The source channels of one pixel for COLOUR 0 RGB, 1 grey, 2 YCbCr (R268). Components stored as R, G and B are those channels; asked as grey or YCbCr
they have no rule in the manual and pass as Y, Cb and Cr. -/
def jColour (colour : Nat) (rgb : Bool) (px : List Nat) : List Nat :=
  let y := px.getD 0 0
  match px with
  | [y, cb, cr] =>
    if colour = 0 then
      (if rgb then px
       else
        let b : Int := (cb : Int) - 128
        let r : Int := (cr : Int) - 128
        [clamp8 (y + (91881 * r + 32768) / 65536), clamp8 (y + (-22554 * b - 46802 * r + 32768) / 65536), clamp8 (y + (116130 * b + 32768) / 65536)])
    else if colour = 1 then [y] else px
  | _ => if colour = 0 then [y, y, y] else if colour = 1 then [y] else [y, 128, 128]

end Sys2Proof.Machine
end

