-- ==== Sys2Proof/Machine/Image.lean ====
section
/-!
DEFINITION. Image stations: per-sample records, geometry, sampling, conversion, PIXELS tiles (10_image_features.md), and the bramble rows (05 R155 to R158).
-/

namespace Sys2Proof.Machine

open Sys2Proof

/-- FP32 addition, subtraction, multiplication and division on bits (R269). -/
def fadd (a b : Nat) : Nat := fp32.add (fp32.decode a) (fp32.decode b)
/-- a − b. -/
def fsub (a b : Nat) : Nat := fp32.add (fp32.decode a) (fp32.decode b).neg
/-- a × b. -/
def fmul (a b : Nat) : Nat := fp32.mul (fp32.decode a) (fp32.decode b)
/-- a ÷ b. -/
def fdiv (a b : Nat) : Nat := fp32.div (fp32.decode a) (fp32.decode b)
/-- An integer as FP32. -/
def fint (x : Int) : Nat := fp32.ofInt .near false x
/-- floor as an integer; 0 for a value that is not finite. -/
def ffloor (a : Nat) : Int :=
  match fp32.decode a with
  | .fin n m e => FVal.toInt .down n m e
  | _ => 0
/-- True for a finite value. -/
def ffinite (a : Nat) : Bool :=
  match fp32.decode a with
  | .fin _ _ _ => true
  | _ => false
/-- True for a value above zero. -/
def fpos (a : Nat) : Bool :=
  match fp32.decode a with
  | .fin n m _ => !n && decide (m ≠ 0)
  | .inf n => !n
  | .nan => false
/-- a < b. -/
def flt (a b : Nat) : Bool := (fp32.decode a).cmp (fp32.decode b) == some (-1)

/-- FP32 constants of R269 and R270. -/
def f0p5 : Nat := 0x3F000000
def f1 : Nat := 0x3F800000
def f1p5 : Nat := 0x3FC00000
def f2 : Nat := 0x40000000
def f2p5 : Nat := 0x40200000
def f4 : Nat := 0x40800000
def f8 : Nat := 0x41000000
def fNeg0p5 : Nat := 0xBF000000
def fNeg8 : Nat := 0xC1000000

/-- lerp (R269). -/
def flerp (a b t : Nat) : Nat := fadd a (fmul t (fsub b a))

/-- The image parameter block (R261). -/
structure ImgP where
  input : Nat
  colour : Nat
  geometry : Nat
  filter : Nat
  ow : Nat
  oh : Nat
  outType : Nat
  border : Nat
  region : Nat
  stride : Nat
  meshN : Nat
  norm : Nat
  base : Nat
  lensAt : Nat
  lensCount : Nat
  borderVal : List Nat
  mean : List Nat
  scale : List Nat
  deriving DecidableEq, Repr

/-- Three FP32 fields. -/
def three (p : Bytes) (off : Nat) : List Nat := [u32at p off, u32at p (off + 4), u32at p (off + 8)]

/-- Reads the parameter block. -/
def imgP (p : Bytes) : ImgP :=
  { input := u8at p 0, colour := u8at p 1, geometry := u8at p 2, filter := u8at p 3, ow := u16at p 4, oh := u16at p 6, outType := u8at p 8, border := u8at p 9,
    region := u16at p 0x0A, stride := u16at p 0x0C, meshN := u8at p 0x0E, norm := u8at p 0x0F, base := u64at p 0x10, lensAt := u32at p 0x18,
    lensCount := u16at p 0x1C, borderVal := three p 0x20, mean := three p 0x2C, scale := three p 0x38 }

/-- A lens profile: CX, CY, F, K1, K2, K3, P1, P2. -/
def lensProfile (im : Image) (q : ImgP) (i : Nat) : List Nat := (List.range 8).map (fun k => u32at im.params (q.lensAt + 32 * i + 4 * k))

/-- The rules of R261. -/
def imageOk (im : Image) (s : StationD) : Bool :=
  let p := im.paramBlock s
  let q := imgP p
  let inFmt := ((portQueues im s.index 0).head?.map (·.format)).getD 0
  let outFmt := ((outQueues im s.index 0).head?.map (·.format)).getD 0
  decide (q.input ≤ 1) && decide (q.colour ≤ 2) && decide (q.geometry ≤ 2) && decide (q.filter ≤ 2) && decide (q.border ≤ 1) && decide (q.norm ≤ 1) &&
  [0x02, 0x0A, 0x0B, 0x0C].contains q.outType && (q.meshN = 0 || (decide (2 ≤ q.meshN) && decide (q.meshN ≤ 65))) && decide (q.lensCount ≤ 256) &&
  decide (inFmt = (if q.input = 0 then TFmt.bytes.code else TFmt.pixels.code)) && decide (outFmt = TFmt.pixels.code) && (q.colour = 0 || q.input = 0) &&
  (if q.geometry = 0 then q.ow = 0 && q.oh = 0 else decide (1 ≤ q.ow) && decide (q.ow ≤ 8192) && decide (1 ≤ q.oh) && decide (q.oh ≤ 8192)) &&
  (q.meshN = 0 || q.geometry = 2) &&
  (q.region = 0xFFFF || im.regions.any (fun r => r.id == q.region && r.kind == 4)) &&
  decide (q.stride % 64 = 0) && decide (32 + 8 * q.meshN * q.meshN ≤ q.stride) && decide (q.lensAt + 32 * q.lensCount ≤ im.params.length) &&
  (List.range q.lensCount).all (fun i => let l := lensProfile im q i; l.all ffinite && fpos (l.getD 2 0)) &&
  (q.norm = 0 || (q.mean ++ q.scale).all ffinite) && allZero p 0x1E 2 && allZero p 0x44 12

/-- The image station's own state. -/
def imageSt (d : Dev) (slot st : Nat) : ImageSt :=
  match (getSt d slot st).kind with
  | .image x => x
  | _ => {}

/-- Changes it. -/
def modImage (d : Dev) (slot st : Nat) (f : ImageSt → ImageSt) : Dev := setKind d slot st (.image (f (imageSt d slot st)))

/-- The failing field of a per-sample record (R265). CROP is checked whatever the crop flag; the record of zeros that stands in for a region is not a record
read and is not checked (log entry 71). -/
def recordFails (q : ImgP) (r : Bytes) : Option Nat :=
  let f := u8at r 0
  let crop := three r 4 ++ [u32at r 0x10]
  if 32 ≤ f then some 0
  else if bit f 3 ∧ q.geometry < 2 ∨ bit f 4 ∧ (q.geometry < 2 ∨ q.meshN = 0) ∨ bit f 2 ∧ q.geometry = 0 then some 0
  else if bit f 3 ∧ q.lensCount ≤ u8at r 1 then some 1
  else if !allZero r 2 2 then some 2
  else match (List.range 4).find? (fun i => !ffinite (crop.getD i 0) || (decide (2 ≤ i) && !fpos (crop.getD i 0))) with
  | some i => some (4 + 4 * i)
  | none => if allZero r 0x14 12 then none else some 0x14

/-- A point of the mesh: DX and DY. -/
def meshPoint (q : ImgP) (r : Bytes) (i j : Nat) : Nat × Nat := (u32at r (0x20 + 8 * (j * q.meshN + i)), u32at r (0x24 + 8 * (j * q.meshN + i)))

/-- The mesh offset at (u, v) (R269). -/
def meshOffset (q : ImgP) (r : Bytes) (u v : Nat) : Nat × Nat :=
  let n := q.meshN
  let gx := fmul u (fint (n - 1 : Nat))
  let gy := fmul v (fint (n - 1 : Nat))
  let i := min (ffloor gx).toNat (n - 2)
  let j := min (ffloor gy).toNat (n - 2)
  let fx := fsub gx (fint i)
  let fy := fsub gy (fint j)
  let a := meshPoint q r i j
  let b := meshPoint q r (i + 1) j
  let c := meshPoint q r i (j + 1)
  let e := meshPoint q r (i + 1) (j + 1)
  (flerp (flerp a.1 b.1 fx) (flerp c.1 e.1 fx) fy, flerp (flerp a.2 b.2 fx) (flerp c.2 e.2 fx) fy)

/-- The lens correction of a point (R269). -/
def lensPoint (l : List Nat) (sx sy : Nat) : Nat × Nat :=
  let g (i : Nat) : Nat := l.getD i 0
  let xn := fdiv (fsub sx (g 0)) (g 2)
  let yn := fdiv (fsub sy (g 1)) (g 2)
  let r2 := fadd (fmul xn xn) (fmul yn yn)
  let rad := fadd f1 (fmul r2 (fadd (g 3) (fmul r2 (fadd (g 4) (fmul r2 (g 5))))))
  let xd := fadd (fmul xn rad) (fadd (fmul (fmul (fmul f2 (g 6)) xn) yn) (fmul (g 7) (fadd r2 (fmul (fmul f2 xn) xn))))
  let yd := fadd (fmul yn rad) (fadd (fmul (g 6) (fadd r2 (fmul (fmul f2 yn) yn))) (fmul (fmul (fmul f2 (g 7)) xn) yn))
  (fadd (g 0) (fmul (g 2) xd), fadd (g 1) (fmul (g 2) yd))

/-- source_point (R269). -/
def sourcePoint (im : Image) (q : ImgP) (s : SrcImage) (x y : Nat) : Nat × Nat :=
  let r := s.record
  let f := u8at r 0
  let u := fdiv (fadd (fint x) f0p5) (fint q.ow)
  let v := fdiv (fadd (fint y) f0p5) (fint q.oh)
  let u := if bit f 0 then fsub f1 u else u
  let v := if bit f 1 then fsub f1 v else v
  let (x0, y0, cw, ch) := if bit f 2 then (u32at r 4, u32at r 8, u32at r 0x0C, u32at r 0x10) else (0, 0, fint s.w, fint s.h)
  let sx := fadd x0 (fmul u cw)
  let sy := fadd y0 (fmul v ch)
  let (sx, sy) := if bit f 4 then (let o := meshOffset q r u v; (fadd sx o.1, fadd sy o.2)) else (sx, sy)
  if bit f 3 then lensPoint (lensProfile im q (u8at r 1)) sx sy else (sx, sy)

/-- A source element as FP32 (R270). -/
def srcFp32 (t : Ty) (bits : Nat) : Nat := if t = .u8 then fint bits else fp32.ofVal .near false (t.fmt.decode bits)

/-- fetch (R270). -/
def fetchPx (q : ImgP) (s : SrcImage) (a : Array Nat) (ix iy : Int) (c : Nat) : Nat :=
  let w : Int := s.w
  let h : Int := s.h
  let cx := if ix < 0 then 0 else if w - 1 < ix then w - 1 else ix
  let cy := if iy < 0 then 0 else if h - 1 < iy then h - 1 else iy
  if q.border ≠ 0 ∧ (ix ≠ cx ∨ iy ≠ cy) then q.borderVal.getD c 0
  else srcFp32 s.ty (a.getD (((cy * w + cx).toNat) * s.channels + c) 0)

/-- wn (R270). -/
def wNear (t : Nat) : Nat := fadd (fmul (fmul (fsub (fmul f1p5 t) f2p5) t) t) f1
/-- wf (R270). -/
def wFar (t : Nat) : Nat := fadd (fmul (fsub (fmul (fadd (fmul fNeg0p5 t) f2p5) t) f4) t) f2

/-- fminf(fmaxf(a, lo), hi) of finite values. -/
def fclamp (a lo hi : Nat) : Nat :=
  let a := if flt a lo then lo else a
  if flt hi a then hi else a

/-- sample (R270). -/
def samplePx (q : ImgP) (s : SrcImage) (a : Array Nat) (px py c : Nat) : Nat :=
  if !ffinite px || !ffinite py then q.borderVal.getD c 0
  else
    let px := fclamp px fNeg8 (fadd (fint s.w) f8)
    let py := fclamp py fNeg8 (fadd (fint s.h) f8)
    if q.filter = 0 then fetchPx q s a (ffloor px) (ffloor py) c
    else
      let tx := fsub px f0p5
      let ty := fsub py f0p5
      let x0 := ffloor tx
      let y0 := ffloor ty
      let fx := fsub tx (fint x0)
      let fy := fsub ty (fint y0)
      let g (i j : Int) : Nat := fetchPx q s a (x0 + i) (y0 + j) c
      if q.filter = 1 then flerp (flerp (g 0 0) (g 1 0) fx) (flerp (g 0 1) (g 1 1) fx) fy
      else
        let ws (t : Nat) : List Nat := [wFar (fadd f1 t), wNear t, wNear (fsub f1 t), wFar (fsub f2 t)]
        let wx := ws fx
        let wy := ws fy
        (List.range 4).foldl (fun (acc j : Nat) =>
          let row := (List.range 4).foldl (fun (r i : Nat) => fadd r (fmul (wx.getD i 0) (g ((i : Int) - 1) ((j : Int) - 1)))) 0
          fadd acc (fmul (wy.getD j 0) row)) 0

/-- Normalisation and conversion to OUT_TYPE (R271). -/
def outPx (q : ImgP) (v c : Nat) : Nat :=
  let v := if q.norm = 1 then fmul (fsub v (q.mean.getD c 0)) (q.scale.getD c 0) else v
  let x := fp32.decode v
  match Ty.ofCode q.outType with
  | some .u8 =>
    (match x with
     | .nan => 0
     | .inf n => if n then 0 else 255
     | .fin n m e => (Ty.u8.clampInt (FVal.toInt .near n m e)).toNat)
  | some .fp16 => fp16.ofVal .near false x
  | some .bf16 => bf16.ofVal .near false x
  | _ => v

/-- The output size of an image. -/
def outSize (q : ImgP) (s : SrcImage) : Nat × Nat := if q.geometry = 0 then (s.w, s.h) else (q.ow, q.oh)

/-- The elements of the output image in raster order (R269 to R271). -/
def warpImage (im : Image) (q : ImgP) (s : SrcImage) : List Nat :=
  let a := s.data.toArray
  let (w, h) := outSize q s
  let f := u8at s.record 0
  ((List.range (w * h)).map (fun i =>
    let x := i % w
    let y := i / w
    if q.geometry = 0 then
      let x' := if bit f 0 then w - 1 - x else x
      let y' := if bit f 1 then h - 1 - y else y
      (List.range s.channels).map (fun c => outPx q (srcFp32 s.ty (a.getD ((y' * w + x') * s.channels + c) 0)) c)
    else
      let p := sourcePoint im q s x y
      (List.range s.channels).map (fun c => outPx q (samplePx q s a p.1 p.2 c) c))).flatten

/-- A pixel header (R272). -/
def pixelHeader (sample w h first channels ty flags status srcW srcH : Nat) : Bytes :=
  le 8 sample ++ le 2 w ++ le 2 h ++ le 4 first ++ le 1 channels ++ le 1 ty ++ le 1 flags ++ le 1 status ++ le 2 srcW ++ le 2 srcH ++ zeros 40

/-- The tiles of an output image (R272): pixels a tile, the rest in the last. -/
def pixelTiles (q : ImgP) (s : SrcImage) (elBytes : Nat) : Nat → List Nat → Nat → List (Nat × Bytes)
  | 0, _, _ => []
  | n + 1, els, first =>
    let per := 4032 / (s.channels * elBytes)
    let (w, h) := outSize q s
    let k := min per (w * h - first)
    let last := decide (w * h ≤ first + k)
    let hd := pixelHeader s.sample w h first s.channels q.outType (b2n last + (if s.ycc then 4 else 0)) 0 s.srcW s.srcH
    (k, hd ++ ((els.take (k * s.channels)).map (le elBytes)).flatten) ::
      (if last then [] else pixelTiles q s elBytes n (els.drop (k * s.channels)) (first + k))

/-- The tiles of an image or of a hole (R272, R273). -/
def imageTiles (im : Image) (q : ImgP) (s : SrcImage) : List (Nat × Bytes) :=
  match s.hole with
  | some h => [(0, h)]
  | none =>
    let els := warpImage im q s
    pixelTiles q s ((Ty.ofCode q.outType).getD .u8).bytes (els.length + 1) els 0

/-- The header of a hole the station makes (R273). -/
def holeHeader (q : ImgP) (sample channels status : Nat) : Bytes :=
  if q.geometry = 0 then pixelHeader sample 0 0 0 0 0 3 status 0 0 else pixelHeader sample q.ow q.oh 0 channels q.outType 3 status 0 0

/-- Reads the per-sample record (R264, R265): the record, or the device with the fault raised. -/
def readRecord (m : Memory) (d : Dev) (slot st : Nat) (q : ImgP) (sample : Nat) : Except Dev Bytes :=
  let j := getJob d slot
  if q.region = 0xFFFF then .ok (zeros (32 + 8 * q.meshN * q.meshN))
  else
    let b := bindingOr j q.region
    if b.bytes < (sample + 1) * q.stride then .error (stationFault d slot st 0x0A01 q.region sample)
    else match regRead m d b (sample * q.stride) q.stride with
    | .error e => .error (engineFault d (stFault d slot st 0 0 0) e)
    | .ok r =>
      match recordFails q r with
      | some off => .error (stationFault d slot st 0x0A02 off sample)
      | none => .ok r

/-- The decoded source of a JPEG object, or its hole (R266 to R268, R273). -/
def jpegSource (q : ImgP) (sample : Nat) (record bs : Bytes) : SrcImage :=
  let ch := if q.colour = 1 then 1 else 3
  match decodeJpeg bs with
  | .error e => { sample := sample, hole := some (holeHeader q sample ch e) }
  | .ok g =>
    let px := (List.range (g.w * g.h)).map (fun i => jColour q.colour g.rgb ((g.data.drop (i * g.comps)).take g.comps))
    { sample := sample, w := g.w, h := g.h, channels := ch, ty := .u8, ycc := q.colour = 2, data := px.flatten, srcW := g.w, srcH := g.h, record := record }

/-- Images waiting for the warp engine: the staging area holds two (R262). -/
def stagedCount (x : ImageSt) : Nat := (x.window.filter (fun e => !e.away && e.tiles.isNone)).length

/-- Takes a JPEG object (INPUT 0). -/
def takeJpeg (slot st : Nat) (m : Memory) (away : Bool) (d : Dev) (b : Bytes) : DevOut :=
  let q := imgP (paramSt d slot st)
  let x := imageSt d slot st
  let sample := q.base + x.ordinal
  let away := away || jpegDiverts b
  if away && decide (4096 ≤ brambleAway d) then .next d
  else if pow2 48 ≤ sample then .next (stationFault d slot st 0x0A04 x.ordinal q.base)
  else match readRecord m d slot st q sample with
  | .error d => .next d
  | .ok r =>
    let d := modIn d slot st 0 InPort.popObj
    let d := if away then countSt d slot st 0 1 else d
    .next (modImage d slot st (fun x => { x with ordinal := x.ordinal + 1, window := x.window ++ [{ away := away, src := jpegSource q sample r b }] }))

/-- The failing field of an input pixel header within its image (R274). -/
def pixelFails (x : ImageSt) (t : Tile) : Option Nat :=
  let h := t.used
  let w := u16at h 8
  let hh := u16at h 0x0A
  let ch := u8at h 0x10
  let ty := u8at h 0x11
  let last := bit (u8at h 0x12) 0
  let elb := ((Ty.ofCode ty).getD .u8).bytes
  match x.part with
  | some s =>
    if u64at h 0 ≠ s.sample then some 0 else if w ≠ s.w then some 8 else if hh ≠ s.h then some 0x0A
    else if u32at h 0x0C ≠ x.got then some 0x0C else if ch ≠ s.channels then some 0x10 else if Ty.ofCode ty ≠ some s.ty then some 0x11
    else if bit (u8at h 0x12) 2 ≠ s.ycc ∨ bit (u8at h 0x12) 1 then some 0x12
    else if last ≠ decide (x.got + t.rowCount = w * hh) ∨ w * hh < x.got + t.rowCount then some 0x12
    else if t.payloadBytes ≠ 64 + t.rowCount * ch * elb then some 0x0C
    else none
  | none =>
    if bit (u8at h 0x12) 1 then (if last ∧ t.rowCount = 0 ∧ t.payloadBytes = 64 then none else some 0x12)
    else if u32at h 0x0C ≠ 0 then some 0x0C
    else if ch ≠ 1 ∧ ch ≠ 3 then some 0x10
    else if !([0x02, 0x0A, 0x0B, 0x0C].contains ty) then some 0x11
    else if last ≠ decide (t.rowCount = w * hh) ∨ w * hh < t.rowCount then some 0x12
    else if t.payloadBytes ≠ 64 + t.rowCount * ch * elb then some 0x0C
    else none

/-- The pixels of a tile as elements. -/
def pixelEls (t : Tile) : List Nat :=
  let h := t.used
  let elb := ((Ty.ofCode (u8at h 0x11)).getD .u8).bytes
  (List.range (t.rowCount * u8at h 0x10)).map (fun i => uat h (64 + i * elb) elb)

/-- Takes one PIXELS tile (INPUT 1). -/
def takePixels (slot st : Nat) (m : Memory) (d : Dev) (t : Tile) : DevOut :=
  let q := imgP (paramSt d slot st)
  let x := imageSt d slot st
  let h := t.used
  let sample := u64at h 0
  match pixelFails x t with
  | some off => .next (stationFault d slot st 0x0A03 off t.seq)
  | none =>
    if pow2 48 ≤ sample then .next (stationFault d slot st 0x0A04 x.ordinal q.base)
    else if bit (u8at h 0x12) 1 then
      .next (modImage (modIn d slot st 0 InPort.drop) slot st (fun x => { x with ordinal := x.ordinal + 1, window := x.window ++ [{ away := false, src := { sample := sample, hole := some h } }] }))
    else match (match x.part with
      | some s => Except.ok s.record
      | none => readRecord m d slot st q sample) with
    | .error d => .next d
    | .ok r =>
      let w := u16at h 8
      let hh := u16at h 0x0A
      let ch := u8at h 0x10
      let ty := (Ty.ofCode (u8at h 0x11)).getD .u8
      let s : SrcImage := x.part.getD { sample := sample, w := w, h := hh, channels := ch, ty := ty, ycc := bit (u8at h 0x12) 2, record := r }
      let s := { s with data := s.data ++ pixelEls t }
      let d := modIn d slot st 0 InPort.drop
      if bit (u8at h 0x12) 0 then
        let big := decide (0x10000000 < w * hh * ch * ty.bytes) || decide (w = 0) || decide (hh = 0) || decide (8192 < w) || decide (8192 < hh)
        let s := if big then { s with data := [], hole := some (holeHeader q sample ch 4) } else s
        .next (modImage d slot st (fun x => { x with part := none, got := 0, ordinal := x.ordinal + 1, window := x.window ++ [{ away := false, src := s }] }))
      else .next (modImage d slot st (fun x => { x with part := some s, got := x.got + t.rowCount }))

/-- One step of the decoder: the next image is decoded into the staging area, or diverted to the bramble lane. -/
def imageDecode (slot st : Nat) (away : Bool) (m : Memory) (d : Dev) : DevOut :=
  let x := imageSt d slot st
  let q := imgP (paramSt d slot st)
  let i := getIn d slot st 0
  if (getSt d slot st).ended then noEvent
  else if q.input = 0 then
    match i.objs with
    | [] => noEvent
    | b :: _ =>
      if decide (2 ≤ stagedCount x) || decide (65536 ≤ (x.window.dropWhile (fun e => !e.away)).length) then .next d else takeJpeg slot st m away d b
  else match i.inbox with
  | [] => noEvent
  | t :: _ =>
    if t.payloadBytes = 0 then .next (modIn d slot st 0 InPort.drop)
    else if away then noEvent
    else if 2 ≤ stagedCount x then .next d
    else takePixels slot st m d t

/-- IMAGE_DECODE (R263 to R268, R274). -/
def execImageDecode (slot station : Nat) (s : State) : Host.Outcome State Fault Refusal :=
  onStation slot station (· = .image) s (imageDecode slot station false)

/-- Sends out the warped images at the head of the window. -/
def drainImages (slot st : Nat) : Nat → Dev → Dev
  | 0, d => d
  | n + 1, d =>
    match (imageSt d slot st).window with
    | [] => d
    | e :: r =>
      match e.tiles with
      | none => d
      | some ts =>
        let d := modImage d slot st (fun x => { x with window := r })
        drainImages slot st n (ts.foldl (fun d t => addTile d slot st 0 t.1 0 t.2) d)

/-- IMAGE_WARP (R269 to R273): the oldest staged image is warped; images leave in input order. -/
def imageWarp (slot st : Nat) (d : Dev) : DevOut :=
  let x := imageSt d slot st
  if (getSt d slot st).ended then noEvent
  else if outBlocked d slot st then .next d
  else match x.window.findIdx? (fun e => !e.away && e.tiles.isNone) with
  | some i =>
    let q := imgP (paramSt d slot st)
    let im := (getJob d slot).image
    let d := modImage d slot st (fun x => { x with window := modifyAt x.window i (fun e => { e with tiles := some (imageTiles im q e.src), src := { sample := e.src.sample } }) })
    .next (drainImages slot st (x.window.length + 1) d)
  | none => if inputsDone d slot st && x.window.isEmpty then .next (endStation d slot st) else noEvent

/-- IMAGE_WARP. -/
def execImageWarp (slot station : Nat) (s : State) : Host.Outcome State Fault Refusal :=
  onStation slot station (· = .image) s (fun _ d => imageWarp slot station d)

/-- BRAMBLE_DIVERT (R155): the unit in hand has exceeded its decode cycles. Unpack objects are never diverted for cycles. -/
def execBrambleDivert (slot station : Nat) (s : State) : Host.Outcome State Fault Refusal :=
  onStation slot station (fun t => t = .parse || t = .image) s (fun m d =>
    if (descSt d slot station).stype = .parse then parseStep slot station true d else imageDecode slot station true m d)

/-- A diverted image returns to the staging area. -/
def imageReturn (slot st unit : Nat) (d : Dev) : DevOut :=
  let x := imageSt d slot st
  match ((x.window.zipIdx.filter (fun e => e.1.away))[unit]?) with
  | none => noEvent
  | some (_, i) => .next (modImage d slot st (fun x => { x with window := modifyAt x.window i (fun e => { e with away := false }) }))

/-- BRAMBLE_RETURN (R156, R157): the `unit`-th outstanding unit of the station returns. -/
def execBrambleReturn (slot station unit : Nat) (s : State) : Host.Outcome State Fault Refusal :=
  onStation slot station (fun t => t = .parse || t = .image) s (fun _ d =>
    if (descSt d slot station).stype = .parse then parseReturn slot station unit d else imageReturn slot station unit d)

end Sys2Proof.Machine
end

