-- ==== Sys2Proof/Machine/JobParams.lean ====
section
/-!
DEFINITION. What R63 asks of the station parameter blocks whatever the station's own chapter adds: every station, port, region and channel they name exists
(condition 3), and their reserved bytes are zero (condition 8; 00 R8).
-/

namespace Sys2Proof.Machine

open Sys2Proof

/-- A region of the image. -/
def Image.hasRegion (im : Image) (id : Nat) : Bool := im.regions.any (fun r => r.id == id)

/-- A channel of the image. -/
def Image.hasChannel (im : Image) (c : Nat) : Bool := im.channels.any (fun x => x.channel == c)

/-- An input port of a station of the image. -/
def Image.hasPort (im : Image) (st port : Nat) : Bool := ((im.stations[st]?).map (fun s => decide (port < s.inPorts))).getD false

/-- Every reference of a station's parameter block names what exists (R63 condition 3). -/
def paramRefsOk (im : Image) (s : StationD) : Bool :=
  let p := im.paramBlock s
  let optional (off : Nat) : Bool := u16at p off = 0xFFFF || im.hasRegion (u16at p off)
  match s.stype with
  | .intake => if u8at p 0 = 2 then im.hasPort (u16at p 8) (u8at p 0x0A) else im.hasRegion (u16at p 4) && optional 6
  | .unpack => optional 2
  | .matchSt => im.hasRegion (u16at p 0x0C) && (u16at p 0x14 = 0xFFFF || (im.stations[u16at p 0x14]?).isSome)
  | .image => optional 0x0A
  | .shuffle => (List.range s.outPorts).all (fun i => im.hasChannel (u8at p (16 + 16 * i)))
  | .batch => im.hasChannel (u8at p 0)
  | .layout => im.hasChannel (u8at p 0) && (List.range (u8at p 1)).all (fun i => u8at p (18 + 256 * i) ≠ 2 || im.hasRegion (u16at p (22 + 256 * i)))
  | .emit => u8at p 0 ≠ 1 || im.hasRegion (u16at p 2)
  | .parse | .align | .hashjoin | .kernel | .select | .shale => true

/-- The reserved bytes of the descriptors that a kernel's block names (08 R219). -/
def kernelRsvOk (ps p : Bytes) : Bool :=
  allZero p 7 1 && allZero p 0x36 10 &&
  (List.range (u8at p 2)).all (fun i => allZero ps (u32at p 0x20 + 16 * i + 8) 8) &&
  (List.range (u8at p 1)).all (fun i => allZero ps (u32at p 0x24 + 16 * i + 5) 3 && allZero ps (u32at p 0x24 + 16 * i + 12) 4) &&
  (List.range (u8at p 6)).all (fun i => allZero ps (u32at p 0x28 + 8 * i + 7) 1)

/-- Every reserved byte of a station's parameter block is zero (R63 condition 8). -/
def paramRsvOk (im : Image) (s : StationD) : Bool :=
  let p := im.paramBlock s
  match s.stype with
  | .intake => allZero p 3 1 && allZero p 0x0B 5
  | .unpack => allZero p 4 4
  | .parse => allZero p 0x10 16 && (List.range (u8at p 1)).all (fun i => allZero p (32 + 32 * i + 0x0E) 18)
  | .align => allZero p 3 1 && allZero p 0x10 16
  | .matchSt => allZero p 0x16 2
  | .hashjoin => allZero p 3 5 && (List.range (u8at p 2)).all (fun i => allZero p (18 + 4 * i) 2)
  | .kernel => kernelRsvOk im.params p
  | .select => allZero p 7 9
  | .image => allZero p 0x1E 2 && allZero p 0x44 12
  | .shuffle => allZero p 3 13 && (List.range s.outPorts).all (fun i => allZero p (17 + 16 * i) 3 && allZero p (28 + 16 * i) 4)
  | .batch => allZero p 4 4
  | .layout =>
    allZero p 2 6 && (List.range (u8at p 1)).all (fun i =>
      let o := 16 + 256 * i
      decide (u8at p (o + 3) < 4) && allZero p (o + 5) 1 && allZero p (o + 0x38) 8 &&
      (List.range (u8at p (o + 1))).all (fun d => allZero p (o + 0x40 + 32 * d + 12) 4))
  | .shale => allZero p 3 1 && allZero p 6 2 && allZero p 0x0C 4 && allZero p 0x18 8
  | .emit => allZero p 4 4

end Sys2Proof.Machine
end

