-- ==== Sys2Proof/Machine/Select.lean ====
section
/-!
DEFINITION. Select stations: groups, keys, ties, results (09_top_k_selection.md).
-/

namespace Sys2Proof.Machine

open Sys2Proof

/-- Stations reached downstream of some stations, themselves included. -/
def downstream (im : Image) : Nat → List Nat → List Nat
  | 0, xs => xs
  | n + 1, xs => downstream im n ((xs ++ ((im.queues.filter (fun q => xs.contains q.producer)).map (fun q => q.ends.map (·.1))).flatten).eraseDups)

/-- The rules of R246 that an image shows. The types of GROUP_COLUMN and INDEX_COLUMN are known where the image fixes them. -/
def selectOk (im : Image) (s : StationD) : Bool :=
  let p := im.paramBlock s
  let q := selP p
  let strict := im.channels.any (fun c => c.kind == 1 && (downstream im im.stations.length [s.index]).contains c.emitStation)
  let groupBad (t : Ty) : Bool := t = .str || t = .bool || t.isFloat
  decide (1 ≤ q.k) && decide (q.k ≤ 64) && ([0x02, 0x03, 0x04, 0x05, 0x06, 0x07, 0x08, 0x09, 0x0A, 0x0B, 0x0C, 0x0E, 0x0F, 0x10].contains (u8at p 2)) &&
  !(q.groupCol ≠ 0xFF && ((colTyIn im s.index 0 q.groupCol).map groupBad).getD false) &&
  !(q.merge && ((colTyIn im s.index 0 q.indexCol).map (fun t => decide (t ≠ .u32))).getD false) &&
  decide (q.ties ≤ 1) && decide (q.nan ≤ 1) && !(q.ties = 1 && strict) && !(q.nan = 1 && q.ty.isInt)

/-- The select station's own state. -/
def selectSt (d : Dev) (slot st : Nat) : SelectSt :=
  match (getSt d slot st).kind with
  | .select x => x
  | _ => {}

/-- Changes it. -/
def modSelect (d : Dev) (slot st : Nat) (f : SelectSt → SelectSt) : Dev := setKind d slot st (.select (f (selectSt d slot st)))

/-- A NaN element. -/
def SelP.isNan (q : SelP) (bits : Nat) : Bool := q.ty.isF && decide (q.ty.fmt.decode bits = .nan)

/-- An element's key (R249). -/
def SelP.key (q : SelP) (bits : Nat) : Nat := topkKey q.ty bits (decide (q.nan = 1))

/-- A candidate of a group: key, index and stored bits. -/
structure Cand where
  key : Nat
  index : Nat
  bits : Nat
  deriving DecidableEq, Repr

/-- The candidates of a group (R248). -/
def SelP.cands (q : SelP) (els : List (Nat × Nat)) : List Cand :=
  (els.filter (fun e => decide (q.nan = 1) || !q.isNan e.2)).map (fun e => { key := q.key e.2, index := e.1, bits := e.2 })

/-- Candidates of one key in the order of the tie rule (R252). -/
def SelP.tied (q : SelP) (key : Nat) (cs : List Cand) : List Cand :=
  let same := sortBy Cand.index (cs.filter (fun c => c.key == key))
  if q.ties = 0 then same
  else
    let idx := same.map (·.index)
    let order := ((Config.tieOrder key idx).filter (fun i => idx.contains i)).eraseDups
    let order := order ++ idx.filter (fun i => !order.contains i)
    order.filterMap (fun i => same.find? (fun c => c.index == i))

/-- Candidates by descending key, ties by the rule. -/
def SelP.ranked (q : SelP) (cs : List Cand) : List Cand :=
  (((sortBy id ((cs.map (·.key)).eraseDups)).reverse).map (fun k => q.tied k cs)).flatten

/-- threshold (R251): the threshold bucket, or none, and how many stand above it. -/
def topkThreshold (hist : Nat → Nat) (k : Nat) : Nat → Nat → Option Nat × Nat
  | 0, run => (none, run)
  | b + 1, run => if k ≤ run + hist b then (some b, run) else topkThreshold hist k b (run + hist b)

/-- The candidates that are examined, and how many are not (R250, R251). -/
def SelP.examined (q : SelP) (cs : List Cand) : List Cand × Nat :=
  if q.k ≤ 8 ∨ q.merge ∨ q.ty.width = 8 ∨ cs.length < q.k then (cs, 0)
  else
    let bucket (c : Cand) : Nat := topkBucket c.key q.ty.width
    match topkThreshold (fun b => (cs.filter (fun c => bucket c == b)).length) q.k 4096 0 with
    | (none, _) => (cs, 0)
    | (some t, _) =>
      let members := sortBy Cand.index (cs.filter (fun c => bucket c == t))
      if members.length ≤ 1024 then (cs, 0) else (cs.filter (fun c => decide (t < bucket c)) ++ members.take 1024, members.length - 1024)

/-- The most negative value of a type (R255). -/
def mostNegative (t : Ty) : Nat :=
  if t = .e4m3 then 0xFE else if t.isFloat then t.fmt.inf true else if t.isSigned then pow2 (t.width - 1) else 0

/-- An entry of a result (R255). -/
def selEntry (t : Ty) (c : Option Cand) : Bytes :=
  match c with
  | some c => le 4 c.index ++ zeros 4 ++ le 8 (if t.isF && decide (t.fmt.decode c.bits = .nan) then t.fmt.nan else c.bits)
  | none => le 4 0xFFFFFFFF ++ zeros 4 ++ le 8 (mostNegative t)

/-- The exact sum of candidates, NaN left out, read out to FP64 (R256). -/
def selSum (q : SelP) (cs : List Cand) : Nat := ((cs.filter (fun c => !q.isNan c.bits)).foldl (fun a c => Acc.addElem a q.ty c.bits) ({} : Acc)).readSum .fp64

/-- The result of a group (R254, R255). -/
def selResult (q : SelP) (g : SelGroup) : Bytes :=
  let cs := q.cands g.els
  let (ex, un) := q.examined cs
  let sel := (q.ranked ex).take q.k
  let listed := ((((sel.map (·.key)).eraseDups)).map (fun k => sortBy Cand.index (sel.filter (fun c => c.key == k)))).flatten
  let rest := cs.filter (fun c => !(sel.contains c))
  let full := decide (sel.length = q.k)
  let lastKey := ((sel.getLast?).map (·.key)).getD 0
  let at' := if full then (ex.filter (fun c => c.key == lastKey)).length else 0
  let in' := if full then (sel.filter (fun c => c.key == lastKey)).length else 0
  let flags := b2n (decide (un ≠ 0)) + 2 * b2n (decide (q.ties = 0)) + 4 * b2n q.merge + 8 * b2n (decide (q.nan = 1))
  let value := if q.groupCol = 0xFF then 0 else g.value.getD (pow2 64 - 1)
  le 1 sel.length ++ le 1 q.k ++ le 1 q.ty.code ++ le 1 flags ++ le 4 g.rows ++ le 4 cs.length ++ le 4 (g.els.filter (fun e => q.isNan e.2)).length ++
  le 4 at' ++ le 4 in' ++ le 4 un ++ le 4 g.dups ++ le 8 (selSum q sel) ++ le 8 (selSum q rest) ++ le 8 value ++ le 8 g.first ++
  ((List.range q.k).map (fun i => selEntry q.ty (listed[i]?))).flatten

/-- Writes the open group's result. -/
def closeGroup (d : Dev) (slot st : Nat) (q : SelP) : Dev :=
  match (selectSt d slot st).cur with
  | none => d
  | some g => addResult (modSelect d slot st (fun x => { x with cur := none, results := x.results + 1 })) slot st 0 (selResult q g)

/-- Adds a row's element to a group, or the fault: code, DETAIL, and whether DETAIL is the group's ordinal (R247, R253, R260). -/
def addElement (q : SelP) (g : SelGroup) (r : Row) : Except (Nat × Option Nat) SelGroup :=
  let g' := { g with rows := g.rows + 1 }
  if !q.merge then
    (if 16777216 ≤ g.rows then .error (0x0901, none)
     else match r.get q.valueCol with
     | some v => .ok { g' with els := g.els ++ [(g.rows, v.n)] }
     | none => .ok g')
  else if 65536 ≤ g.rows then .error (0x0902, none)
  else match r.get q.valueCol with
  | none => .ok g'
  | some v =>
    match r.get q.indexCol with
    | none => .error (0x0904, some 0xFFFFFFFF)
    | some i =>
      if 16777216 ≤ i.n then .error (0x0904, some i.n)
      else match g.els.find? (fun e => e.1 == i.n) with
      | none => .ok { g' with els := g.els ++ [(i.n, v.n)] }
      | some e => if q.key e.2 = q.key v.n then .ok { g' with dups := g.dups + 1 } else .error (0x0903, some i.n)

/-- Takes rows of the tile in hand until the group changes or the tile ends. -/
def selRows (slot st : Nat) (q : SelP) : Nat → Dev → Dev
  | 0, d => d
  | n + 1, d =>
    match (getIn d slot st 0).row? with
    | none => d
    | some (r, ord) =>
      let x := selectSt d slot st
      let v := if q.groupCol = 0xFF then some 0 else (r.get q.groupCol).map Val.n
      let same := match x.cur with
        | some g => decide (g.value = v)
        | none => true
      if !same then closeGroup d slot st q
      else
        let g := x.cur.getD { value := v, first := ord }
        match addElement q g r with
        | .error (code, det) => stationFault d slot st code (det.getD x.results) ord
        | .ok g => selRows slot st q n (modSelect (modIn d slot st 0 InPort.nextRow) slot st (fun x => { x with cur := some g }))

/-- SELECT_GROUP (R247 to R256): rows of the open group are taken; at its end its result is written. -/
def selectGroup (slot st : Nat) (d : Dev) : DevOut :=
  let q := selP (paramSt d slot st)
  let i := getIn d slot st 0
  if (getSt d slot st).ended then noEvent
  else if outBlocked d slot st then .next d
  else match i.inbox with
  | [] => if inputsDone d slot st then .next (endStation (closeGroup d slot st q) slot st) else noEvent
  | t :: _ => .next (selRows slot st q (t.rowCount + 1 - i.pos) d)

/-- SELECT_GROUP. -/
def execSelectGroup (slot station : Nat) (s : State) : Host.Outcome State Fault Refusal :=
  onStation slot station (· = .select) s (fun _ d => selectGroup slot station d)

end Sys2Proof.Machine
end

