-- ==== Sys2Proof/Machine/Resources.lean ====
section
/-!
DEFINITION. Resource units, the free pool, placement of instances and its history (03 R86, R93, R95, R96, R453; 01 R21 to R23; 07 R205; 13 R338).
-/

namespace Sys2Proof.Machine

open Sys2Proof

/-- The resource kind an instance of a station type holds (R453). -/
def SType.kind : SType → Nat
  | .intake | .emit | .shuffle | .layout => 6
  | .unpack | .parse | .shale => 3
  | .align | .hashjoin | .kernel | .batch => 1
  | .matchSt => 2
  | .select => 5
  | .image => 4

/-- Every unit of a kind, in ascending die and index (01 R15; 08 R212: cluster 255 of a die serves the bramble lane; 12 R305: channel 63 is Oluat's). -/
def kindUnits (k : Nat) : List Res :=
  match k with
  | 1 => (List.range 32).flatMap (fun e => (List.range 255).map (fun i => { kind := 1, die := e, index := i }))
  | 2 => (List.range 8).flatMap (fun e => (List.range 256).map (fun i => { kind := 2, die := 76 + e, index := i }))
  | 3 => (List.range 6).map (fun e => { kind := 3, die := 84 + e, index := 0 })
  | 4 => (List.range 4).map (fun e => { kind := 4, die := 94 + e, index := 0 })
  | 5 => (List.range 4).flatMap (fun e => (List.range 4).map (fun i => { kind := 5, die := 90 + e, index := i }))
  | 6 => (List.range 96).flatMap (fun e => (List.range 63).map (fun c => chanRes e c))
  | _ => []

/-- Units that some job holds. -/
def heldUnits (d : Dev) : List Res := (d.jobs.map (·.units)).flatten

/-- A bank that awaits the self-test of the next reset (07 R198). -/
def badBank (d : Dev) (r : Res) : Bool := r.kind == 2 && d.root.badBanks.contains (r.die, r.index)

/-- The free pool of a kind: units that no job holds, nor the bramble lane (16 R415), on dies that are not gated, without the banks that await a self-test
(07 R198). -/
def freeUnits (d : Dev) (k : Nat) : List Res :=
  let held := (heldUnits d).filter (fun r => r.kind == k) ++ (if k = 1 then d.power.moved.map (fun r => { kind := 1, die := r.1, index := r.2 }) else [])
  (kindUnits k).filter (fun r => !held.contains r && !bit d.power.gates r.die && !badBank d r)

/-- Physical tile queues and weight points in the free pool (01 R15, R97). -/
def freeQueues (d : Dev) : Nat := 262144 - d.jobs.foldl (fun a j => a + j.queuesHeld) 0
/-- The lowest physical queues that no job holds, counted up from `q`. -/
def takeQueues (held : List Nat) : Nat → Nat → Nat → List Nat
  | 0, _, _ => []
  | fuel + 1, q, n => if n = 0 then [] else if held.contains q then takeQueues held fuel (q + 1) n else q :: takeQueues held fuel (q + 1) (n - 1)

/-- `n` physical queues of the free pool, the lowest first. -/
def poolQueues (d : Dev) (n : Nat) : List Nat :=
  let held := (d.jobs.map (·.phys)).flatten
  takeQueues held (held.length + n) 0 n

/-- Weight points in the free pool. -/
def freeWeight (d : Dev) : Nat := 6400 - d.jobs.foldl (fun a j => a + j.weight) 0

/-- Stations of a type. -/
def typeCount (im : Image) (t : SType) : Nat := (im.stations.filter (fun s => decide (s.stype = t))).length

/-- Units of a kind in the minimum placement (R453): one instance of every station; codec engines shared by their engines. -/
def minUnits (im : Image) (k : Nat) : Nat :=
  if k = 3 then max (typeCount im .unpack) (max (ceilDiv (typeCount im .parse) 4) (typeCount im .shale))
  else (im.stations.filter (fun s => decide (s.stype.kind = k))).length

/-- A unit has room for an instance of a station beside the instances it holds: a codec engine one unpack, four parse and one shale instance (R453). -/
def unitFits (im : Image) (placed : List PlaceRec) (st : Nat) (r : Res) : Bool :=
  let ty (x : Nat) : SType := (im.stations.getD x {}).stype
  let here := placed.filter (fun p => p.res == r)
  if r.kind = 3 then decide ((here.filter (fun p => decide (ty p.station = ty st))).length < (if ty st = .parse then 4 else 1)) else here.isEmpty

/-- Writes a placement record: the binding, the history (R95), and for a saturation a PLACEMENT event. -/
def placeRec (d : Dev) (slot st inst : Nat) (r : Res) (reason counter : Nat) : Dev :=
  let j := getJob d slot
  let p : PlaceRec := { station := st, inst := inst, res := r, reason := reason, counter := counter, time := d.time, index := j.histTotal }
  let d := modJob d slot (fun j => { j with
    placed := if r.kind = 0 then j.placed else j.placed ++ [p], hist := (j.hist ++ [p]).drop (j.hist.length + 1 - 65536), histTotal := j.histTotal + 1 })
  if reason = 1 then event d 4 slot (le 4 j.histTotal ++ le 2 counter) else d

/-- The first unit for an instance: one the job holds that has room, else the lowest of the free pool. -/
def unitFor (d : Dev) (slot st : Nat) : Option Res :=
  let j := getJob d slot
  let k := (j.image.stations.getD st {}).stype.kind
  let pinned := j.pins.map (·.2.2)
  match (sortBy (fun (r : Res) => 65536 * r.die + r.index) (j.units.filter (fun r => r.kind == k))).find? (fun r => unitFits j.image j.placed st r && !pinned.contains r && !badBank d r) with
  | some r => some r
  | none => (freeUnits d k).head?

/-- Gives a job a unit it does not hold. -/
def holdUnit (d : Dev) (slot : Nat) (r : Res) : Dev := modJob d slot (fun j => { j with units := if j.units.contains r then j.units else j.units ++ [r] })

/-- Places an instance on a unit. -/
def placeOn (d : Dev) (slot st inst : Nat) (r : Res) (reason counter : Nat) : Dev := placeRec (holdUnit d slot r) slot st inst r reason counter

/-- Places one instance where its pin says, else on the first unit; the shortage's kind where there is none. -/
def placeInst (slot reason : Nat) (d : Dev) (st inst : Nat) : Except Nat Dev :=
  let j := getJob d slot
  match j.pins.find? (fun p => p.1 == st && p.2.1 == inst) with
  | some (_, _, r) => .ok (placeOn d slot st inst r (if reason = 0 then 3 else reason) 0xFFFF)
  | none =>
    match unitFor d slot st with
    | some r => .ok (placeOn d slot st inst r reason 0xFFFF)
    | none => .error (j.image.stations.getD st {}).stype.kind

/-- The instances a placement creates: instance 0 of every station, and the pinned ones (R96). -/
def wantedInsts (j : Job) : List (Nat × Nat) :=
  let base := (List.range j.image.stations.length).map (fun s => (s, 0))
  base ++ (j.pins.map (fun p => (p.1, p.2.1))).filter (fun p => !base.contains p)

/-- A match table after its banks changed (07 R205). -/
def stepTable (slot reason counter : Nat) (d : Dev) (st : Nat) : Dev :=
  match (getSt d slot st).kind with
  | .matchSt x => if x.built then setTable d slot st reason counter x else d
  | _ => d

/-- The steps of a job's match tables after its banks changed (R205). -/
def stepTables (d : Dev) (slot reason counter : Nat) : Dev :=
  (List.range (getJob d slot).image.stations.length).foldl (stepTable slot reason counter) d

/-- Banks of the free pool that a JOB_REBIND in progress is about to take (03 R101; 07 R206). -/
def rebindNamed (d : Dev) : List Res :=
  ((d.win.inProg.filter (fun c => c.begun && c.opcode == 0x0017 && decide (64 ≤ c.slot) && u8at c.body 1 == 2)).map (fun c => (freeUnits d 2).take (u32at c.body 4))).flatten

/-- Banks that a job's tables may be given: its own without an instance or a pin, then the free pool. -/
def bankPool (d : Dev) (slot : Nat) : List Res :=
  let j := getJob d slot
  let own := j.units.filter (fun r => r.kind == 2 && !(j.placed.any (fun p => p.res == r)) && !(j.pins.map (·.2.2)).contains r && !badBank d r)
  own ++ (freeUnits d 2).filter (fun r => !(rebindNamed d).contains r)

/-- Banks for a table that has `cur`: a die that gives the whole table in one bank set where there is one, else the lowest banks of the pool, as many as
there are up to `need` (R205). -/
def pickBanks (need : Nat) (cur pool : List Res) : List Res :=
  let all := sortBy (fun (r : Res) => 65536 * r.die + r.index) (cur ++ pool)
  let dies := (List.range 8).map (fun e => all.filter (fun r => r.die == 76 + e))
  let fit (g : List Res) : Bool := decide (need ≤ g.length) && cur.all (fun r => g.contains r)
  match (if 16 < need then none else dies.find? fit) with
  | some g => (g.filter (fun r => !cur.contains r)).take (need - cur.length)
  | none => (sortBy (fun (r : Res) => 65536 * r.die + r.index) pool).take (need - cur.length)

/-- The banks for a further replica of a whole table: of dies that it has no bank on (R206). -/
def replicaBanks (need : Nat) (cur pool : List Res) : List Res :=
  let far := sortBy (fun (r : Res) => 65536 * r.die + r.index) (pool.filter (fun r => !(cur.any (fun x => x.die == r.die))))
  let dies := (List.range 8).map (fun e => far.filter (fun r => r.die == 76 + e))
  match (if 16 < need then none else dies.find? (fun g => decide (need ≤ g.length))) with
  | some g => g.take need
  | none => if need ≤ far.length then far.take need else []

/-- The copies of a table that hints of kind 3 ask for (02, The job image; R206). -/
def hintCopies (im : Image) (st : Nat) : Nat := ((im.hints.filter (fun h => h.station == st && h.kind == 3)).map (·.value)).foldl max 1

/-- Places further replicas of a table. -/
def placeCopies (slot reason counter inst st : Nat) : Nat → Dev → Dev
  | 0, d => d
  | n + 1, d =>
    let j := getJob d slot
    let g := replicaBanks (tableBanks (j.image.param st)) (bankPlaces j st) (bankPool d slot)
    if g.isEmpty then d else placeCopies slot reason counter inst st n (g.foldl (fun d r => placeOn d slot st inst r reason counter) d)

/-- Gives a match table the banks of step 1, as far as the free pool has them and a bank for each later table stays, and the replicas of its hint where it
has no WRITER (R205, R206). -/
def placeTable (slot reason : Nat) (later : Nat) (d : Dev) (st : Nat) : Dev :=
  let j := getJob d slot
  let q := j.image.param st
  let cur := bankPlaces j st
  let pool := bankPool d slot
  let g := (pickBanks (tableBanks q) cur pool).take (pool.length - later)
  let d := g.foldl (fun d r => placeOn d slot st 0 r reason 0xFFFF) d
  if (matchP q).writer ≠ 0xFFFF ∨ banksOf (getJob d slot) st < tableBanks q ∨ 0 < later then d
  else placeCopies slot reason 0xFFFF 0 st (hintCopies j.image st - 1) d

/-- Places the match tables of a job, each with at least one bank. -/
def placeTables (slot reason : Nat) : Dev → List Nat → Except Nat Dev
  | d, [] => .ok d
  | d, st :: sts =>
    let d := placeTable slot reason (sts.filter (fun s => (bankPlaces (getJob d slot) s).isEmpty)).length d st
    if (bankPlaces (getJob d slot) st).isEmpty then .error 2 else placeTables slot reason d sts

/-- Places every instance of a job (R95): `reason` 0 at JOB_START, 4 at a restart. Match stations come last; each gets its banks at once. -/
def placeJob (d : Dev) (slot reason : Nat) : Except Nat Dev :=
  let j := getJob d slot
  let table (s : Nat) : Bool := decide ((j.image.stations.getD s {}).stype = .matchSt)
  let d := modJob d slot (fun j => { j with placed := [] })
  let r := ((wantedInsts j).filter (fun w => !table w.1 || j.pins.any (fun p => p.1 == w.1 && p.2.1 == w.2))).foldl (fun (acc : Except Nat Dev) w =>
    match acc with
    | .error k => .error k
    | .ok d => placeInst slot reason d w.1 w.2) (.ok d)
  match r with
  | .error k => .error k
  | .ok d => placeTables slot reason d ((List.range j.image.stations.length).filter table)

/-- Bytes of the match tables of an image (R93 item 5, 07 R193). -/
def tableBytes (im : Image) : Nat :=
  (im.stations.zipIdx.filter (fun s => decide (s.1.stype = .matchSt))).foldl (fun a s => let q := matchP (im.param s.2); a + q.capacity * q.recBytes) 0

/-- What of the minimum placement the free pool lacks (R93 item 5): the shortage code of the first kind. -/
def minShort (d : Dev) (im : Image) : Option Nat :=
  match [1, 2, 3, 4, 5, 6].find? (fun k => decide ((freeUnits d k).length < minUnits im k)) with
  | some k => some k
  | none =>
    if freeQueues d < im.queues.length then some 7
    else if memoryFree d < tableBytes im then some 9
    else none

/-- Reserves the minimum placement (R93). -/
def reserveMin (d : Dev) (slot : Nat) : Dev :=
  let im := (getJob d slot).image
  let d := [1, 2, 3, 4, 5, 6].foldl (fun d k => ((freeUnits d k).take (minUnits im k)).foldl (fun d r => holdUnit d slot r) d) d
  let qs := poolQueues d im.queues.length
  modJob d slot (fun j => { j with phys := qs })

/-- The staging area or HBM arrays of an instance of a station, with the shortage code: none where it needs none (09 R258, 10 R262, 08 R220). -/
def instArea (im : Image) (st : Nat) : Option (Nat × Nat) :=
  let s := im.stations.getD st {}
  match s.stype with
  | .select =>
    let q := selP (im.paramBlock s)
    if 9 ≤ q.k then some (if q.ty.bytes = 8 then 0x10000000 else 0x8000000, 0x0D) else none
  | .image => some (0x20000000, 0x0D)
  | .kernel => let n := arrayHbm (kparam im s); if n = 0 then none else some (n, 0x0C)
  | _ => none

/-- Extents for a shale station's area of `n` bytes (06 R169, R185): in HBM, or in the tier. DESIGN CHOICE (log entry 113): WHERE 2 takes the tier while it has
room; with the tier absent WHERE 1 lies in HBM, as 13 R344 has it of what would otherwise go there. -/
def placeShale (d : Dev) (wher n : Nat) : Option (List (Nat × Nat)) :=
  if wher = 0 ∨ !strapTier d.root.straps then allocHbm d n
  else match allocTier d n with
  | some e => some e
  | none => if wher = 2 then allocHbm d n else none

/-- Gives a shale station the area that all its instances share: B slots of S bytes, then P bytes of pool (06 R169). The shortage is that of HBM pages (log
entry 113). -/
def giveShaleArea (slot : Nat) (d : Dev) (st : Nat) : Except Nat Dev :=
  let j := getJob d slot
  let q := shaleP (j.image.param st)
  if j.shaleAreas.any (fun a => a.1 == st) then .ok d
  else match placeShale d q.wher (q.slots * slotBytes q.ratio + q.pool) with
  | some e => .ok (modJob d slot (fun j => { j with shaleAreas := j.shaleAreas ++ [(st, e)] }))
  | none => .error 9

/-- Gives an instance its area where it has none yet; the shortage code where memory cannot supply it. -/
def giveArea (slot : Nat) (d : Dev) (w : Nat × Nat) : Except Nat Dev :=
  let j := getJob d slot
  if (j.image.stations.getD w.1 {}).stype = .shale then giveShaleArea slot d w.1
  else if j.hasArea.contains w then .ok d
  else match instArea j.image w.1 with
  | none => .ok d
  | some (n, code) =>
    match takeArea d slot n with
    | some d => .ok (modJob d slot (fun j => { j with hasArea := j.hasArea ++ [w] }))
    | none => .error code

/-- The instances placed. -/
def placedInsts (j : Job) : List (Nat × Nat) := (j.placed.map (fun p => (p.station, p.inst))).eraseDups

/-- Gives a job all it needs to run (R94 items 5 and 6, R97): placement, physical queues, 100 points of weight, areas; the shortage code otherwise. -/
def acquire (d : Dev) (slot reason : Nat) : Except Nat Dev :=
  match placeJob d slot reason with
  | .error k => .error k
  | .ok d =>
    let j := getJob d slot
    let more := j.image.queues.length - j.queuesHeld
    if freeQueues d < more then .error 7
    else if freeWeight d < 100 - j.weight then .error 8
    else
      let qs := poolQueues d more
      let d := modJob d slot (fun j => { j with phys := j.phys ++ qs, weight := max j.weight 100 })
      (placedInsts j).foldl (fun (acc : Except Nat Dev) w =>
        match acc with
        | .error c => .error c
        | .ok d => giveArea slot d w) (.ok d)

end Sys2Proof.Machine
end

