-- ==== Sys2Proof/Machine/Restart.lean ====
section
/-!
DEFINITION. Starting and restarting a job: JOB_START, the start barrier, restoring a checkpoint, RESUME (03 R90, R92, R94; 04 R114, R125, R127 to R129;
05 R141; 11 R300, R301).
-/

namespace Sys2Proof.Machine

open Sys2Proof

/-- What a station keeps of its own when it starts. -/
def initKind (d : Dev) (slot : Nat) (im : Image) (s : StationD) : KindSt :=
  match s.stype with
  | .intake => .intake {}
  | .unpack => .plain
  | .parse => .parse {}
  | .align =>
    let number (p : Nat) : Nat := ((d.feeds.find? (fun f => f.slot == slot && f.align == s.index && f.port == p)).map (·.number)).getD p
    .align { w := List.replicate s.inPorts 0, feedNo := (List.range s.inPorts).map number, classified := List.replicate s.inPorts 0 }
  | .matchSt => .matchSt {}
  | .hashjoin => .join {}
  | .kernel => .kernel (kernelInit im s)
  | .select => .select {}
  | .image => .image {}
  | .shuffle => .shuffle { pos := List.replicate s.outPorts 0 }
  | .batch => .batch {}
  | .layout => .layout {}
  | .shale => .shale {}
  | .emit => .emit {}

/-- The runtime of a job that starts from its first epoch. -/
def initRt (d : Dev) (slot : Nat) (im : Image) : Runtime :=
  { queues := im.queues.map (fun q => { taken := List.replicate q.consumers 0, rows := List.replicate q.consumers 0, returned := List.replicate q.consumers 0 }),
    stations := im.stations.map (fun s => { ins := List.replicate s.inPorts {}, outs := List.replicate s.outPorts {}, kind := initKind d slot im s }) }

/-- A restored match station builds its table anew: the region's entries, then the changes since (07 R202, R203). -/
def rebuildTables (rt : Runtime) : Runtime :=
  { rt with stations := rt.stations.map (fun s =>
      match s.kind with
      | .matchSt x => { s with kind := .matchSt { x with built := false, entries := [], cells := [], shadow := [], copies := [], cam := none } }
      | _ => s) }

/-- CRC-64 of the table and per-sample regions (R125): KIND 3 and 4. -/
def tableCrcs (m : Memory) (d : Dev) (j : Job) : List (Nat × Nat) :=
  (j.image.regions.filter (fun r => r.kind == 3 || r.kind == 4)).map (fun r =>
    (r.id, match regRead m d (bindingOr j r.id) 0 (bindingOr j r.id).bytes with
      | .ok bs => crc64 bs
      | .error _ => pow2 64))

/-- The access a region kind needs (02 R61): input, table and per-sample read, output written, state both. -/
def kindAccess (k : Nat) : Nat :=
  match k with
  | 2 => 2 | 5 => 3 | _ => 1

/-- A region's ACCESS does not agree with its mapping (R94 item 3): a binding of where 2 meets another job's region and one of the two writes (13 R345).
DEDUCED: the spec names no other way in which a mapping could disagree (log entry 103). -/
def sharedWrite (d : Dev) (slot : Nat) (r : RegionD) : Bool :=
  match binding (getJob d slot) r.id with
  | some b => decide (b.whereCode = 2) && overlapsOther d slot b.addr b.bytes (bit r.access 1)
  | none => false

/-- R94 items 2 and 3 and R301: what is missing or does not agree. -/
def regionsFail (m : Memory) (d : Dev) (slot mode : Nat) : Option (Nat × Nat) :=
  let j := getJob d slot
  let short (id n : Nat) : Bool := decide ((bindingOr j id).bytes < n)
  match j.image.regions.find? (fun r => (binding j r.id).isNone || short r.id r.minBytes) with
  | some r => some (0x0006, r.id)
  | none =>
    let cs := j.image.channels.map (fun c => emitCtx j.image c.emitStation)
    match cs.findSome? (fun c =>
      if short c.ch.outputRegion (c.slots * c.slotBytes) then some c.ch.outputRegion
      else if short c.ch.descRegion (64 + c.slots * c.descBytes) then some c.ch.descRegion else none) with
    | some id => some (0x0006, id)
    | none =>
      match j.image.regions.findIdx? (fun r => (kindAccess r.kind &&& r.access) != kindAccess r.kind || sharedWrite d slot r) with
      | some i => some (0x0002, (⟨4, 3, i⟩ : Fail).detail)
      | none =>
        let consumed (c : EmitCtx) : Nat := match regRead m d (bindingOr j c.ch.descRegion) 0x18 8 with
          | .ok bs => u64at bs 0
          | .error _ => 0
        if mode = 0 ∧ cs.any (fun c => consumed c != 0) then badField 0 else none

/-- JOB_START's own checks (R90, R94). On a hedge job items 5 and 6 come behind item 4, when the barrier is passed. -/
def jobStartCheck (m : Memory) (d : Dev) (c : Cmd) : Option (Nat × Nat) :=
  let j := getJob d c.slot
  let mode := u8at c.body 0
  if 2 < mode then badField 0
  else if mode = 0 ∧ j.lastCommitted.isSome then badState d c.slot
  else if mode = 1 ∧ j.unrecov then badState d c.slot
  else match regionsFail m d c.slot mode with
  | some e => some e
  | none =>
    if 1 < j.participants.length then none
    else match acquire d c.slot 0 with
    | .error k => some (0x0005, k)
    | .ok _ => none

/-- The header of each channel's DESC_REGION (11 R297, R300, R301). -/
def writeHeaders (d : Dev) (slot : Nat) : Dev :=
  let j := getJob d slot
  j.image.channels.foldl (fun d c =>
    let x := emitCtx j.image c.emitStation
    let w := (emitSt d slot c.emitStation).written
    match writeAll slot c.emitStation [(c.descRegion, 0, le 4 0x44425948 ++ le 2 x.descBytes ++ zeros 2 ++ le 4 x.slots ++ zeros 4 ++ le 8 w)] d with
    | .ok d => d
    | .error e => if stopped d slot then d else moverAccess d slot c.emitStation e) d

/-- Each intake station takes first what the log holds for it (R141, R127 step 6). -/
def replayLog (d : Dev) (slot : Nat) : Dev :=
  let j := getJob d slot
  let isUpdate (i : LogItem) : Bool := match i with
    | .update _ _ _ _ => true
    | _ => false
  (j.image.stations.zipIdx.filter (fun s => decide (s.1.stype = .intake))).foldl (fun d s =>
    modIntake d slot s.2 (fun x => { x with todo := j.log.filter (fun i => i.station == s.2 && !isUpdate i) })) d

/-- A running job's feeds hold 4,096 slots of credit (14 R366, R141). -/
def refillFeeds (d : Dev) (slot : Nat) : Dev :=
  (d.feeds.filter (fun f => f.slot == slot)).foldl (fun d f => topUp (modFeed d f.id (fun x => { x with total := 4096 })) f.id) d

/-- The job runs (R88): placed, its headers written, its log replayed, its open epoch's match updates applied. -/
def goRunning (d : Dev) (slot : Nat) : Dev :=
  let d := setJState d slot .running 0
  let d := modJob d slot (fun j => { j with start := none, restart := none, partitioned := false, endedParts := [], farEdges := [], heard := [], replays := [], cutTime := d.time, saved := [] })
  let d := replayLog d slot
  let d := applyUpdates d slot
  let d := refillFeeds (writeHeaders d slot) slot
  if stopped d slot then d else finalIfDue d slot

/-- The runtime of a job that starts with no checkpoint: epoch FIRST_EPOCH (R114). The region CRCs are those of its first JOB_START, and anew in mode 2
(R125). -/
def fromFirst (m : Memory) (d : Dev) (slot : Nat) (replaying : Bool) (mode : Nat) : Dev :=
  modJob d slot (fun j => { j with
    rt := initRt d slot j.image, openEpoch := j.image.firstEpoch, bound := 0, writtenHigh := if replaying then j.writtenHigh else [], replaying := replaying,
    pendingUpdates := loggedUpdates j.image j.log, regionCrcs := if replaying ∧ mode = 1 ∧ !j.regionCrcs.isEmpty then j.regionCrcs else tableCrcs m d j })

/-- Response of JOB_START: the epoch opened. -/
def startResp (d : Dev) (slot : Nat) : Bytes := padTo 8 (le 4 (getJob d slot).openEpoch)

/-- A start in mode 0 begins to run (R94). -/
def startFresh (m : Memory) (d : Dev) (slot : Nat) : Except Nat Dev :=
  match acquire d slot 0 with
  | .error k => .error k
  | .ok d => .ok (goRunning (fromFirst m d slot false 0) slot)

/-- Ends a waiting JOB_START with a status. -/
def failStart (d : Dev) (slot status detail : Nat) : Dev :=
  match (getJob d slot).start with
  | none => d
  | some g => g.waiter.toList.foldl (fun d i => completeIdx d i status detail []) (modJob d slot (fun j => { j with start := none }))

/-- Completes a waiting JOB_START with SUCCESS. -/
def doneStart (d : Dev) (slot : Nat) (waiter : Option Nat) : Dev := waiter.toList.foldl (fun d i => completeIdx d i 0 0 (startResp d slot)) d

/-- The barrier is passed on this participant: mode 0 runs at once, the other modes restore first (R92, R127 step 5). -/
def passBarrier (m : Memory) (d : Dev) (slot : Nat) : Dev :=
  match (getJob d slot).start with
  | none => d
  | some g =>
    if g.mode = 0 then
      match startFresh m d slot with
      | .ok d => doneStart d slot g.waiter
      | .error k => failStart d slot 0x0005 k
    else modJob d slot (fun j => { j with start := some { g with passed := true } })

/-- A participant's start barrier message: its index, mode and image check. -/
def barrierPayload (part mode check : Nat) : Bytes := le 2 part ++ le 1 mode ++ le 8 check

/-- The anchor passes the barrier when every participant has arrived and its own JOB_START was issued (R92), and it finds what R94 items 5 and 6 ask. -/
def barrierIfAll (m : Memory) (d : Dev) (slot : Nat) : Dev :=
  let j := getJob d slot
  match j.start with
  | none => d
  | some g =>
    if g.passed ∨ g.waiter.isNone ∨ !(allParts j).all (fun p => g.arrived.contains p) then d
    else match acquire d slot 0 with
      | .error k => failStart d slot 0x0005 k
      | .ok _ => passBarrier m (sendAll d slot 1 (barrierPayload j.partIndex g.mode j.image.check)) slot

/-- JOB_START takes effect: a job of one participant in mode 0 runs at once; else it joins the barrier (R92), and modes 1 and 2 restore (R127). -/
def jobStartAct (m : Memory) (d : Dev) (c : Cmd) : Dev × Option Bytes :=
  let j := getJob d c.slot
  let mode := u8at c.body 0
  if j.participants.length ≤ 1 then
    if mode = 0 then
      match startFresh m d c.slot with
      | .ok d => (d, some (startResp d c.slot))
      | .error _ => (d, some [])
    else (modJob d c.slot (fun j => { j with start := some { mode := mode, since := d.time, passed := true, arrived := [j.partIndex], waiter := some c.index } }), none)
  else
    let g := j.start.getD { since := d.time }
    let d := modJob d c.slot (fun j => { j with start := some { g with mode := mode, waiter := some c.index, arrived := (g.arrived ++ [j.partIndex]).eraseDups } })
    if isAnchor d j then (barrierIfAll m d c.slot, none)
    else (sendCoord d c.slot 1 j.anchor (barrierPayload j.partIndex mode j.image.check), none)

/-- JOB_START (R94). -/
def jobStart : Service := { opcode := 0x0011, check := jobStartCheck, act := jobStartAct }

/-- JOB_START. -/
def execJobStart (idx : Nat) (s : State) : Host.Outcome State Fault Refusal := runDev s (serve jobStart idx)

/-- A job that waits for JOB_START. -/
def JState.startable (s : JState) : Bool := s = .loaded || s = .held || s = .stopped

/-- The anchor learns that a participant holds another image (R94 item 4): every JOB_START of the job fails, naming a participant that differs. -/
def imagesDiffer (d : Dev) (slot part check : Nat) : Dev :=
  let j := getJob d slot
  let culprit := partAddr d j part
  let d := sendCoord d slot 1 culprit (barrierPayload j.partIndex 0 j.image.check)
  let d := (allParts j).foldl (fun d p => if p = j.partIndex ∨ p = part then d else sendCoord d slot 1 (partAddr d j p) (barrierPayload part 0 check)) d
  failStart d slot 0x0002 ((⟨8, 4, culprit⟩ : Fail).detail)

/-- START_BARRIER (R92, R94 item 4): at the anchor a participant arrives; elsewhere the anchor's word that all have. -/
def startBarrier (slot part mode check : Nat) (m : Memory) (d : Dev) : DevOut :=
  let j := getJob d slot
  if !fromOther j part ∨ 2 < mode then noEvent
  else if isAnchor d j then
    let d := noteHeard d slot part
    if j.state = .restarting then .next (sendCoord d slot 1 (partAddr d j part) (barrierPayload j.partIndex mode j.image.check))
    else if !j.state.startable then .next d
    else if check ≠ j.image.check then .next (imagesDiffer d slot part check)
    else
      let g := j.start.getD { since := d.time }
      .next (barrierIfAll m (modJob d slot (fun j => { j with start := some { g with arrived := (g.arrived ++ [part]).eraseDups } })) slot)
  else
    match j.start with
    | none => .next d
    | some g =>
      if check ≠ j.image.check then .next (failStart d slot 0x0002 ((⟨8, 4, partAddr d j part⟩ : Fail).detail))
      else if partAddr d j part ≠ j.anchor ∨ g.passed then .next d
      else .next (passBarrier m d slot)

/-- START_BARRIER. -/
def execStartBarrier (slot part mode check : Nat) (s : State) : Host.Outcome State Fault Refusal := onSlot slot s (startBarrier slot part mode check)

/-- START_BARRIER_TIMEOUT (R92): a participant has not issued JOB_START within 10 s of the first; the job stays in its state. -/
def startBarrierTimeout (slot missing : Nat) (d : Dev) : DevOut :=
  let j := getJob d slot
  match j.start with
  | none => noEvent
  | some g =>
    let late := match j.participants.findIdx? (· == missing) with
      | some p => !(isAnchor d j && g.arrived.contains p)
      | none => false
    onlyIf (!g.passed && late) (failStart d slot 0x000B missing)

/-- START_BARRIER_TIMEOUT. -/
def execStartBarrierTimeout (slot missing : Nat) (s : State) : Host.Outcome State Fault Refusal := onSlot slot s (fun _ d => startBarrierTimeout slot missing d)

/-- The start or restart that is restoring. -/
def restoring (j : Job) : Option Gather :=
  match j.restart with
  | some g => some g
  | none => j.start.filter (fun g => g.passed && decide (g.mode ≠ 0))

/-- Changes it. -/
def modRestoring (d : Dev) (slot : Nat) (f : Gather → Gather) : Dev :=
  modJob d slot (fun j => if j.restart.isSome then { j with restart := j.restart.map f } else { j with start := j.start.map f })

/-- Rewrites the state regions from a checkpoint (R116). -/
def restoreStates (d : Dev) (slot : Nat) (k : Ckpt) : Dev :=
  let j := getJob d slot
  k.stateData.foldl (fun d x =>
    match regWrite d (bindingOr j x.1) 0 j.image.jobTag 0 x.2 with
    | .ok d => d
    | .error _ => d) d

/-- The job as checkpoint `k` leaves it (R114, R116, R127): epoch k + 1 is open and its output is produced again. A prepared checkpoint that the anchor
committed becomes the last committed one; the log before its cut is gone. -/
def restoreFrom (m : Memory) (d : Dev) (slot : Nat) (k : Ckpt) (mode : Nat) : Dev :=
  let j := getJob d slot
  let learned := decide (j.lastCommitted ≠ some k.epoch)
  let log := if learned then j.log.drop k.cut else j.log
  let mine (x : Ckpt) : Bool := x.tag == k.tag && x.part == k.part
  let d := { d with ckpts := (d.ckpts.filter (fun x => !mine x || x.epoch == k.epoch)).map (fun x => if mine x then { x with final := true } else x) }
  let d := { d with movers := { d.movers with chans := d.movers.chans.filter (fun x => x.2.arm.owner != slot || x.2.state == 3) } }
  restoreStates (modJob d slot (fun j => { j with
    savedChans := k.chans.map (fun x => (x.1, { x.2 with arm := { x.2.arm with owner := slot }, pending := x.2.pending.map (fun a => { a with owner := slot }) })),
    rt := rebuildTables (readContexts k.contexts (fillStable d k)), lastCommitted := some k.epoch, openEpoch := k.epoch + 1, bound := k.bound, replaying := true, log := log,
    logOver := if learned then k.logOver else j.logOver, mustMeet := if learned then k.marks else j.mustMeet,
    pendingUpdates := k.updates ++ loggedUpdates j.image log, regionCrcs := if mode = 2 then tableCrcs m d j else k.regionCrcs })) slot k

/-- A region whose contents are not those of a checkpoint's, or of the first JOB_START (R125). -/
def changedRegion (m : Memory) (d : Dev) (j : Job) (crcs : List (Nat × Nat)) : Option Nat :=
  let now := tableCrcs m d j
  (crcs.find? (fun r => assocGet now r.1 != some r.2)).map (·.1)

/-- The checkpoint of an epoch for a job's participant here. -/
def ckptOf (d : Dev) (j : Job) (epoch : Nat) : Option Ckpt :=
  d.ckpts.find? (fun k => k.tag == j.image.jobTag && k.part == j.partIndex && k.epoch == epoch)

/-- A checkpoint, or commit-stable state that it refers to, fails on restore (R118, R132): its memory is bad, the state it refers to is gone, or its
directory's seal is not the one in the anchor's record. -/
def ckptFails (d : Dev) (k : Ckpt) : Bool :=
  k.area.any (fun a => poisoned d a.1 a.2) || !(k.refers.all (fun st => (stableAt d k.tag k.part st).isSome)) ||
  ((d.commits.find? (fun r => r.tag == k.tag && r.epoch == k.epoch)).map (fun r => assocGet r.seals k.part != some k.dirSeal)).getD false

/-- Why a restore fails (R125, R132): code, DETAIL and DETAIL2; in mode 2 the image and the regions may have changed. `shale` is the fault met while the
checkpoint, its commit-stable state or the log was decoded, 0 for none; a context record that cannot be restored is 0x0251 (06 R180). -/
def restoreFails (m : Memory) (d : Dev) (j : Job) (mode shale : Nat) (epoch : Option Nat) : Option (Nat × Nat × Nat) :=
  let region (crcs : List (Nat × Nat)) : Option (Nat × Nat × Nat) := (changedRegion m d j crcs).map (fun id => (0x0C25, id, noDetail2))
  match epoch with
  | none => if j.lastCommitted.isSome then some (0x0C23, noDetail, noDetail2) else if shale ≠ 0 then some (0x0C23, noDetail, shale) else if mode = 1 then region j.regionCrcs else none
  | some e =>
    match ckptOf d j e with
    | none => some (0x0C23, noDetail, noDetail2)
    | some k =>
      if ckptFails d k then some (0x0C23, noDetail, noDetail2)
      else if shale ≠ 0 then some (0x0C23, noDetail, shale)
      else if !contextsOk k.contexts then some (0x0C23, noDetail, 0x0251)
      else if mode = 2 then none
      else if k.imageCheck ≠ j.image.check then some (0x0C24, noDetail, noDetail2)
      else region k.regionCrcs

/-- This participant restores (R127 step 5). -/
def restoreOwn (slot : Nat) (epoch : Option Nat) (shale : Nat) (g : Gather) (m : Memory) (d : Dev) : Dev :=
  let j := getJob d slot
  match restoreFails m d j g.mode shale epoch with
  | some (code, detail, detail2) => jobFault d { code := code, slot := slot, detail := detail, detail2 := detail2 }
  | none =>
    let d := match epoch.bind (ckptOf d j) with
      | some k => restoreFrom m d slot k g.mode
      | none => fromFirst m d slot true g.mode
    let d := modRestoring d slot (fun g => { g with restored := (g.restored ++ [j.partIndex]).eraseDups })
    if isAnchor d j then d else sendCoord d slot 1 j.anchor (barrierPayload j.partIndex g.mode j.image.check)

/-- The epoch of the anchor's commit record for a job (R119). -/
def recordEpoch (d : Dev) (j : Job) : Option Nat := (d.commits.find? (fun r => r.tag == j.image.jobTag)).map (·.epoch)

/-- RESTORE_COMPLETE (R127 step 5, R128): this participant has restored the checkpoint of `epoch`, which the anchor's record gives, and checked the
regions; at the anchor also another participant's report. `shale` is the shale fault met while what Oluat coded was decoded, 0 for none (06 R180; log entry
111). -/
def restoreComplete (slot part : Nat) (epoch : Option Nat) (shale : Nat) (m : Memory) (d : Dev) : DevOut :=
  let j := getJob d slot
  if part = j.partIndex then
    match restoring j with
    | none => noEvent
    | some g =>
      if g.restored.contains part ∨ (isAnchor d j ∧ epoch ≠ recordEpoch d j) ∨ (shale ≠ 0 ∧ !shaleCode shale) then noEvent
      else .next (restoreOwn slot epoch shale g m { d with free := d.free + 1 })
  else if !fromOther j part ∨ !isAnchor d j then noEvent
  else
    let d := noteHeard d slot part
    match j.restart, j.start with
    | some _, _ => .next (modRestoring d slot (fun g => { g with restored := (g.restored ++ [part]).eraseDups }))
    | none, g =>
      if !j.state.startable then .next d
      else
        let g := g.getD { since := d.time }
        let g := { g with arrived := (g.arrived ++ [part]).eraseDups, restored := (g.restored ++ [part]).eraseDups }
        .next (barrierIfAll m (modJob d slot (fun j => { j with start := some g })) slot)

/-- RESTORE_COMPLETE. -/
def execRestoreComplete (slot part : Nat) (epoch : Option Nat) (shale : Nat) (s : State) : Host.Outcome State Fault Refusal :=
  onSlot slot s (restoreComplete slot part epoch shale)

/-- A restored join table takes its memory again (07 R209). -/
def regrowJoin (slot : Nat) (d : Dev) (st : Nat) : Dev :=
  let n := joinBytes (joinSt d slot st).build
  if stopped d slot ∨ (joinSt d slot st).build.isEmpty then d else (growJoin d slot st n).getD (stationFault d slot st 0x0320 0 n)

/-- The channel that a saved channel's state comes back to: that of its station, or for none the first that the job holds idle without an instance. -/
def chanHome (d : Dev) (j : Job) (st : Nat) : Option (Nat × Nat) :=
  let key (r : Res) : Nat × Nat := (4 * r.die + r.index / 64, r.index % 64)
  let idle (r : Res) : Bool := r.kind == 6 && decide ((getChan d (key r).1 (key r).2).state = 0)
  match j.placed.find? (fun p => p.station == st && idle p.res) with
  | some p => some (key p.res)
  | none => if st = 0xFFFF then (j.units.find? (fun r => idle r && !j.placed.any (fun p => p.res == r))).map key else none

/-- The saved state of channels is restored with their stations where the job holds a channel for each again (12 R321). -/
def restoreChans (d : Dev) (slot : Nat) : Dev :=
  (getJob d slot).savedChans.foldl (fun d x =>
    match chanHome d (getJob d slot) x.1 with
    | some k => modJob (setChan d k.1 k.2 x.2) slot (fun j => { j with savedChans := j.savedChans.erase x })
    | none => d) d

/-- The job runs again (R127 step 6): placed again, in epoch c + 1; a waiting JOB_START completes, mode 2 clears the flag (R90). -/
def resumeJob (d : Dev) (slot : Nat) (g : Gather) : Dev :=
  match acquire d slot 4 with
  | .error k => if g.waiter.isSome then failStart d slot 0x0005 k else jobFault d { code := 0x0C01, slot := slot }
  | .ok d =>
    let d := restoreChans (modJob d slot (fun j => { j with unrecov := j.unrecov && decide (g.mode ≠ 2) })) slot
    let d := (List.range (getJob d slot).image.stations.length).foldl (fun d st => rewriteArea d slot st) d
    let d := doneStart (goRunning d slot) slot g.waiter
    (List.range (getJob d slot).image.stations.length).foldl (regrowJoin slot) d

/-- RESUME (R127 step 6): the anchor sends it when every participant has restored; each participant then runs. -/
def resume (slot : Nat) (d : Dev) : DevOut :=
  let j := getJob d slot
  match restoring j with
  | none => noEvent
  | some g =>
    if isAnchor d j then
      onlyIf ((allParts j).all (fun p => g.restored.contains p)) (resumeJob (sendAll d slot 6 (le 2 j.partIndex ++ le 4 j.openEpoch)) slot g)
    else onlyIf (g.restored.contains j.partIndex) (resumeJob d slot g)

/-- RESUME. -/
def execResume (slot : Nat) (s : State) : Host.Outcome State Fault Refusal := onSlot slot s (fun _ d => resume slot d)

end Sys2Proof.Machine
end

