-- ==== Sys2Proof/Machine/Jobs.lean ====
section
/-!
DEFINITION. Job commands: JOB_LOAD, JOB_ABORT, JOB_QUERY, EPOCH_ROLLBACK, JOB_UNLOAD, PLACEMENT_QUERY, and their hedge messages (03 R87 to R95;
04 R114, R122, R125, R128; 02 R59, R63; 11 R277).
-/

namespace Sys2Proof.Machine

open Sys2Proof

/-- PARAM_BYTES is the length the station's chapter gives (02 R59). -/
def paramLenOk (im : Image) (s : StationD) : Bool :=
  let p := im.paramBlock s
  s.paramBytes == (match s.stype with
    | .intake | .select | .emit => 16
    | .unpack | .batch => 8
    | .parse => 32 + 32 * u8at p 1
    | .align | .shale => 32
    | .matchSt => 32 + 4 * u8at p 0x0F
    | .hashjoin => 16 + 4 * u8at p 2
    | .kernel => 64
    | .image => 80
    | .shuffle => 16 + 16 * s.outPorts
    | .layout => 16 + 256 * u8at p 1)

/-- A station's parameter rules, as its chapter gives them (log entry 10). -/
def stationFail (im : Image) (s : StationD) : Option Fail :=
  let ok (b : Bool) : Option Fail := if b then none else some ⟨2, 0, s.index⟩
  match s.stype with
  | .intake => ok (intakeOk im s)
  | .unpack => ok (unpackOk im s)
  | .parse => ok (parseOk im s)
  | .align => ok (alignOk im s && alignTypesOk im s)
  | .matchSt => ok (matchOk im s)
  | .hashjoin => ok (joinOk im s)
  | .kernel => kernelCheck im s
  | .select => ok (selectOk im s)
  | .image => ok (imageOk im s)
  | .shuffle => ok (shuffleOk im s)
  | .batch => ok (batchOk im s)
  | .layout => ok (layoutOk im s)
  | .shale => ok (shaleOk im s)
  | .emit => ok (emitOk im s)

/-- The image check of JOB_LOAD: R63 in order, then the station chapters' rules, then R277. -/
def loadImageFail (b : Bytes) : Option Fail :=
  match checkImage b paramLenOk paramRefsOk paramRsvOk with
  | some f => some f
  | none =>
    let im := readImage b
    match im.stations.findSome? (stationFail im) with
    | some f => some f
    | none => (channelsFail im).map (fun i => ⟨5, 0, i⟩)

/-- The participant list of a JOB_LOAD: this device alone, or the list in host memory. -/
def loadParts (m : Memory) (d : Dev) (c : Cmd) : List Nat :=
  let n := u16at c.body 2
  if n ≤ 1 then [ownAddr d] else (List.range n).map (fun i => u16at (hostRead m (u64at c.body 8) (2 * n)) (2 * i))

/-- A malformed participant field: area 8, condition 3 of R93, body offset. -/
def badParts (off : Nat) : Option (Nat × Nat) := some (0x0002, (⟨8, 3, off⟩ : Fail).detail)

/-- R93 items 3 and 4: the participants. -/
def partsFail (m : Memory) (d : Dev) (c : Cmd) : Option (Nat × Nat) :=
  let anchor := u16at c.body 0
  let n := u16at c.body 2
  let i := u16at c.body 4
  let a := u64at c.body 8
  if n = 0 ∨ 16384 < n then badParts 2
  else if n ≤ i then badParts 4
  else if n = 1 then
    if a ≠ 0 then badParts 8
    else if anchor = 0xFFFF ∨ d.hedge.addr = some anchor then none else badParts 0
  else if !hostOk d a (2 * n) then some (0x0007, a)
  else
    let ps := loadParts m d c
    if !nodup ps ∨ ps.any (fun p => decide (0x3FFF < p)) then badParts 8
    else if d.hedge.addr ≠ ps[i]? then badParts 4
    else if !ps.contains anchor then badParts 0
    else (ps.find? (fun p => !d.hedge.reach.contains p)).map (fun p => (0x000A, p))

/-- The intake log can be placed (R93 item 7, 13 R344): in the tier, or in HBM where there is none. -/
def logFits (d : Dev) (n : Nat) : Bool :=
  if strapTier d.root.straps then decide (n ≤ tierFree d) else n = 0 || (allocHbm d n).isSome

/-- JOB_LOAD's own checks: R63, then R93 in order. -/
def jobLoadCheck (m : Memory) (d : Dev) (c : Cmd) : Option (Nat × Nat) :=
  let b := cmdData m c
  if u16at c.body 6 ≠ 0 then badField 6
  else match loadImageFail b with
  | some f => some (0x0002, f.detail)
  | none =>
    let im := readImage b
    match d.jobs.findIdx? (fun j => decide (j.state = .free)) with
    | none => some (0x0004, 0)
    | some slot =>
      if d.jobs.any (fun j => decide (j.state ≠ .free) && j.image.jobTag == im.jobTag) then some (0x0002, (⟨1, 2, 0x00C⟩ : Fail).detail)
      else match partsFail m d c with
      | some e => some e
      | none =>
        match minShort d im with
        | some k => some (0x0005, k)
        | none =>
          match takeArea d slot im.spillBudget with
          | none => some (0x0005, 0x0A)
          | some d2 => if logFits d2 im.intakeLogBytes then none else some (0x0005, 0x0B)

/-- Adopts the checkpoint of the image's JOB_TAG for this participant (04 R128): committed, else prepared; the log behind it lies in the store. An image
other than the commit record's loses equivalence: the job is HELD (04 R125, R132; log entry 101). -/
def adopt (d : Dev) (slot : Nat) : Dev :=
  let j := getJob d slot
  let mine (k : Ckpt) : Bool := k.tag == j.image.jobTag && k.part == j.partIndex
  match d.ckpts.find? (fun k => mine k && k.final) with
  | some k =>
    let d := modJob d slot (fun j => { j with
      lastCommitted := some k.epoch, openEpoch := k.epoch + 1, log := k.log, logOver := k.logOver, mustMeet := k.marks, writtenHigh := k.writtenHigh,
      regionCrcs := k.regionCrcs, bound := k.bound })
    if k.imageCheck ≠ j.image.check then
      reportFault (setJState (modJob d slot (fun j => { j with unrecov := true })) slot .held 0x0C24) { code := 0x0C24, slot := slot, fflags := 5 }
    else d
  | none =>
    match d.ckpts.find? mine with
    | some k =>
      let d := { d with ckpts := d.ckpts.map (fun x => if mine x then { x with cut := 0 } else x) }
      modJob d slot (fun j => { j with log := k.log, logOver := k.logOver, writtenHigh := k.writtenHigh, regionCrcs := k.regionCrcs })
    | none => d

/-- JOB_LOAD takes effect: the first FREE slot holds the job, the minimum placement, the spill area and the intake log. -/
def jobLoadAct (m : Memory) (d : Dev) (c : Cmd) : Dev × Option Bytes :=
  let im := readImage (cmdData m c)
  let slot := (d.jobs.findIdx? (fun j => decide (j.state = .free))).getD 0
  let d := modJob d slot (fun _ => { image := im, anchor := u16at c.body 0, participants := loadParts m d c, partIndex := u16at c.body 4, openEpoch := im.firstEpoch })
  let d := reserveMin d slot
  let d := (takeArea d slot im.spillBudget).getD d
  let d := if strapTier d.root.straps then d else (takeArea d slot im.intakeLogBytes).getD d
  (adopt (setJState d slot .loaded 0) slot, some (padTo 16 (le 1 slot)))

/-- JOB_LOAD (R93). -/
def jobLoad : Service := { opcode := 0x0010, check := jobLoadCheck, act := jobLoadAct, slotOf := fun _ r => u8at r 0 }

/-- JOB_LOAD. -/
def execJobLoad (idx : Nat) (s : State) : Host.Outcome State Fault Refusal := runDev s (serve jobLoad idx)

/-- A job is stopped by JOB_ABORT (R88, R92, R128): its wait or commit ends with ABORTED, held bursts are discarded. A commit whose record is written
completes first; a final one leaves the job FINISHED (04 R119). -/
def abortJob (d : Dev) (slot : Nat) : Dev :=
  let d := endStart d slot 0
  let d := if (getJob d slot).state.live then endCommit d slot 0 else d
  let j := getJob d slot
  if j.state.live ∨ j.state = .held then setJState (haltJob d slot 0) slot .stopped 0 else d

/-- JOB_ABORT (R92): on every participant. -/
def jobAbort : Service :=
  { opcode := 0x0013, check := fun _ _ _ => none, act := fun _ d c => (sendAll (abortJob d c.slot) c.slot 9 [], some []) }

/-- JOB_ABORT. -/
def execJobAbort (idx : Nat) (s : State) : Host.Outcome State Fault Refusal := runDev s (serve jobAbort idx)

/-- A rebinding in progress names a slot (R99). -/
def rebinding (d : Dev) (slot : Nat) : Bool := d.win.inProg.any (fun c => c.begun && c.slots.contains slot)

/-- ABORT (R92): JOB_ABORT was issued on another participant; it waits for a rebinding in progress to finish (R99). -/
def execAbort (slot : Nat) (s : State) : Host.Outcome State Fault Refusal :=
  onSlot slot s (fun _ d =>
    if rebinding d slot then .next d
    else onlyIf (decide ((getJob d slot).state ≠ .free) && decide ((getJob d slot).participants.length > 1)) (abortJob d slot))

/-- An optional epoch in four bytes: all ones for none. -/
def epochBytes (e : Option Nat) : Bytes := le 4 (e.getD 0xFFFFFFFF)

/-- The 128 bytes of JOB_QUERY. -/
def queryReport (j : Job) : Bytes :=
  let prov := j.provisional || (j.commit.map (fun c => c.prov)).getD false
  le 1 j.state.code ++ le 1 (b2n j.unrecov + 2 * b2n prov + 4 * b2n j.partitioned + 8 * b2n j.overflowed) ++ zeros 2 ++ le 4 j.image.jobTag ++
  epochBytes j.lastCommitted ++ le 4 j.openEpoch ++ le 2 j.lastFault ++ le 2 j.restarts ++ le 2 j.anchor ++ zeros 2 ++ le 8 (4160 * spillTiles j) ++
  le 8 (logCharge j.fullLog) ++ zeros 24 ++ padTo 64 j.lastFaultEvent

/-- JOB_QUERY (R87). -/
def jobQuery : Service := { opcode := 0x0014, check := fun _ _ _ => none, act := fun _ d c => (d, some (queryReport (getJob d c.slot))) }

/-- JOB_QUERY. -/
def execJobQuery (idx : Nat) (s : State) : Host.Outcome State Fault Refusal := runDev s (serve jobQuery idx)

/-- A RUNNING job is rolled back (04 R122): provisional output and state are discarded; it restarts or is HELD. A commit whose record is written completes
first; a final one leaves the job FINISHED (04 R119). -/
def rollbackJob (d : Dev) (slot : Nat) (again : Bool) : Dev :=
  let d := endCommit d slot 0
  if (getJob d slot).state ≠ .running then d else
  let d := haltJob d slot 0
  let d := modJob d slot (fun j => { j with provisional := false, restarts := if again then min 0xFFFF (j.restarts + 1) else j.restarts })
  if again then modJob (setJState d slot .restarting 0) slot (fun j => { j with restart := some { mode := 1, since := d.time, passed := true } })
  else setJState d slot .held 0

/-- The rollback of a job on this participant, by its state (04 R122): RUNNING is rolled back; in HELD and STOPPED the flag of provisional output clears and
the state stays. -/
def rollbackHere (d : Dev) (slot : Nat) (again : Bool) : Dev :=
  if (getJob d slot).state = .running then rollbackJob d slot again
  else if ((getJob d slot).state = .held ∨ (getJob d slot).state = .stopped) ∧ !again then modJob d slot (fun j => { j with provisional := false })
  else d

/-- EPOCH_ROLLBACK (04 R122, 03 R92): on every participant. -/
def epochRollback : Service :=
  { opcode := 0x0016,
    check := fun _ d c => if 1 < u8at c.body 0 ∨ ((getJob d c.slot).state ≠ .running ∧ u8at c.body 0 = 1) then badField 0 else none,
    act := fun _ d c =>
      let r := u8at c.body 0
      let d := sendAll (rollbackHere d c.slot (decide (r = 1))) c.slot 10 (le 1 r)
      (d, some (padTo 8 (epochBytes (getJob d c.slot).lastCommitted))) }

/-- EPOCH_ROLLBACK. -/
def execEpochRollback (idx : Nat) (s : State) : Host.Outcome State Fault Refusal := runDev s (serve epochRollback idx)

/-- ROLLBACK (04 R122): EPOCH_ROLLBACK was issued on another participant; in a state that it does not concern it changes nothing. -/
def execRollback (slot : Nat) (again : Bool) (s : State) : Host.Outcome State Fault Refusal :=
  onSlot slot s (fun _ d => onlyIf (decide ((getJob d slot).participants.length > 1)) (rollbackHere d slot again))

/-- JOB_UNLOAD (R91): regions, areas, resources and feeds are given back; with checkpoint 0 the checkpoints and the anchor's record; the slot is FREE. -/
def unloadJob (d : Dev) (slot : Nat) (keep : Bool) : Dev :=
  let j := getJob d slot
  let d := j.regions.foldl (fun d b => unmapRegion d slot b) d
  let d := if keep then d else
    { d with ckpts := d.ckpts.filter (fun k => !(k.tag == j.image.jobTag && k.part == j.partIndex)),
             commits := if isAnchor d j then d.commits.filter (fun r => r.tag != j.image.jobTag) else d.commits,
             stables := d.stables.filter (fun x => !(x.tag == j.image.jobTag && x.part == j.partIndex)) }
  let d := (d.feeds.filter (fun f => f.slot == slot)).foldl (fun d f => sendClosed d f.id) d
  let d := { d with feeds := d.feeds.filter (fun f => f.slot != slot),
                    movers := { d.movers with chans := d.movers.chans.filter (fun x => x.2.arm.owner != slot || x.2.state == 3) } }
  modJob (setJState d slot .free 0) slot (fun _ => {})

/-- JOB_UNLOAD. -/
def jobUnload : Service :=
  { opcode := 0x0018, check := fun _ _ c => if 1 < u8at c.body 0 then badField 0 else none,
    act := fun _ d c =>
      let d := if (getJob d c.slot).state = .loaded ∨ (getJob d c.slot).state = .held ∨ (getJob d c.slot).state = .stopped then endStart d c.slot 0 else d
      (unloadJob d c.slot (decide (u8at c.body 0 = 1)), some []) }

/-- JOB_UNLOAD. -/
def execJobUnload (idx : Nat) (s : State) : Host.Outcome State Fault Refusal := runDev s (serve jobUnload idx)

/-- A placement record (R95). -/
def recBytes (p : PlaceRec) : Bytes :=
  le 2 p.station ++ le 2 p.inst ++ le 1 p.res.kind ++ le 1 p.reason ++ le 1 p.res.die ++ zeros 1 ++ le 4 p.res.index ++ le 2 p.counter ++ zeros 2 ++
  le 8 p.time ++ le 4 p.index ++ zeros 4

/-- The units the instances hold now (R95): in ascending station, instance, kind, die and index. A job without instances holds none. -/
def currentRecs (j : Job) : List PlaceRec :=
  if j.state = .running ∨ j.state = .suspended then
    sortBy (fun (p : PlaceRec) => ((((p.station * 65536 + p.inst) * 16 + p.res.kind) * 256 + p.res.die) * 65536) + p.res.index) j.placed
  else []

/-- PLACEMENT_QUERY's answer (R95): total, first position of the answer, overwritten, records. -/
def placementAnswer (j : Job) (what first limit room : Nat) : Bytes :=
  let (total, start, lost, recs) :=
    if what = 1 then
      let old := j.histTotal - j.hist.length
      (j.histTotal, max first old, old, if j.histTotal ≤ first then [] else j.hist.drop (max first old - old))
    else let rs := currentRecs j; (rs.length, first, 0, rs.drop first)
  let rs := recs.take (min limit ((room - 16) / 32))
  le 4 total ++ le 4 rs.length ++ le 4 (start + rs.length) ++ le 4 lost ++ (rs.map recBytes).flatten

/-- PLACEMENT_QUERY (R95). -/
def placementQuery : Service :=
  { opcode := 0x0019, check := fun _ _ c => if 1 < u8at c.body 0 then badField 0 else none,
    act := fun _ d c => (d, some (placementAnswer (getJob d c.slot) (u8at c.body 0) (u32at c.body 4) (u32at c.body 8) c.respBytes)) }

/-- PLACEMENT_QUERY. -/
def execPlacementQuery (idx : Nat) (s : State) : Host.Outcome State Fault Refusal := runDev s (serve placementQuery idx)

end Sys2Proof.Machine
end

