-- ==== Sys2Proof/Machine/KernelExec.lean ====
section
/-!
DEFINITION. The rows of the kernel op set (08 R228): each executes the next word of an open row group.
-/

namespace Sys2Proof.Machine

open Sys2Proof

/-- NOP (08 R228). -/
def execKNop (ka : KAt) (w : KWord) (s : State) : Host.Outcome State Fault Refusal := kernelRow 0x00 ka w s

/-- LDCOL (08 R228). -/
def execKLdcol (ka : KAt) (w : KWord) (s : State) : Host.Outcome State Fault Refusal := kernelRow 0x01 ka w s

/-- STCOL (08 R228). -/
def execKStcol (ka : KAt) (w : KWord) (s : State) : Host.Outcome State Fault Refusal := kernelRow 0x02 ka w s

/-- MOV (08 R228). -/
def execKMov (ka : KAt) (w : KWord) (s : State) : Host.Outcome State Fault Refusal := kernelRow 0x03 ka w s

/-- ROWIDX (08 R228). -/
def execKRowidx (ka : KAt) (w : KWord) (s : State) : Host.Outcome State Fault Refusal := kernelRow 0x04 ka w s

/-- INFO (08 R228). -/
def execKInfo (ka : KAt) (w : KWord) (s : State) : Host.Outcome State Fault Refusal := kernelRow 0x05 ka w s

/-- VALID (08 R228). -/
def execKValid (ka : KAt) (w : KWord) (s : State) : Host.Outcome State Fault Refusal := kernelRow 0x06 ka w s

/-- SETNULL (08 R228). -/
def execKSetnull (ka : KAt) (w : KWord) (s : State) : Host.Outcome State Fault Refusal := kernelRow 0x07 ka w s

/-- COALESCE (08 R228). -/
def execKCoalesce (ka : KAt) (w : KWord) (s : State) : Host.Outcome State Fault Refusal := kernelRow 0x08 ka w s

/-- SEL (08 R228). -/
def execKSel (ka : KAt) (w : KWord) (s : State) : Host.Outcome State Fault Refusal := kernelRow 0x09 ka w s

/-- LDPAY (08 R228). -/
def execKLdpay (ka : KAt) (w : KWord) (s : State) : Host.Outcome State Fault Refusal := kernelRow 0x0A ka w s

/-- STPAY (08 R228). -/
def execKStpay (ka : KAt) (w : KWord) (s : State) : Host.Outcome State Fault Refusal := kernelRow 0x0B ka w s

/-- LDTAB (08 R228). -/
def execKLdtab (ka : KAt) (w : KWord) (s : State) : Host.Outcome State Fault Refusal := kernelRow 0x0C ka w s

/-- BR (08 R228). -/
def execKBr (ka : KAt) (w : KWord) (s : State) : Host.Outcome State Fault Refusal := kernelRow 0x0D ka w s

/-- BRZ (08 R228). -/
def execKBrz (ka : KAt) (w : KWord) (s : State) : Host.Outcome State Fault Refusal := kernelRow 0x0E ka w s

/-- BRNZ (08 R228). -/
def execKBrnz (ka : KAt) (w : KWord) (s : State) : Host.Outcome State Fault Refusal := kernelRow 0x0F ka w s

/-- EMIT (08 R228). -/
def execKEmit (ka : KAt) (w : KWord) (s : State) : Host.Outcome State Fault Refusal := kernelRow 0x10 ka w s

/-- END (08 R228). -/
def execKEnd (ka : KAt) (w : KWord) (s : State) : Host.Outcome State Fault Refusal := kernelRow 0x11 ka w s

/-- RAISE (08 R228). -/
def execKRaise (ka : KAt) (w : KWord) (s : State) : Host.Outcome State Fault Refusal := kernelRow 0x12 ka w s

/-- SCOUNT (08 R228). -/
def execKScount (ka : KAt) (w : KWord) (s : State) : Host.Outcome State Fault Refusal := kernelRow 0x13 ka w s

/-- SANY (08 R228). -/
def execKSany (ka : KAt) (w : KWord) (s : State) : Host.Outcome State Fault Refusal := kernelRow 0x14 ka w s

/-- SALL (08 R228). -/
def execKSall (ka : KAt) (w : KWord) (s : State) : Host.Outcome State Fault Refusal := kernelRow 0x15 ka w s

/-- MWRITE (08 R228). -/
def execKMwrite (ka : KAt) (w : KWord) (s : State) : Host.Outcome State Fault Refusal := kernelRow 0x16 ka w s

/-- ADD (08 R228). -/
def execKAdd (ka : KAt) (w : KWord) (s : State) : Host.Outcome State Fault Refusal := kernelRow 0x20 ka w s

/-- SUB (08 R228). -/
def execKSub (ka : KAt) (w : KWord) (s : State) : Host.Outcome State Fault Refusal := kernelRow 0x21 ka w s

/-- MUL (08 R228). -/
def execKMul (ka : KAt) (w : KWord) (s : State) : Host.Outcome State Fault Refusal := kernelRow 0x22 ka w s

/-- DIV (08 R228). -/
def execKDiv (ka : KAt) (w : KWord) (s : State) : Host.Outcome State Fault Refusal := kernelRow 0x23 ka w s

/-- FMA (08 R228). -/
def execKFma (ka : KAt) (w : KWord) (s : State) : Host.Outcome State Fault Refusal := kernelRow 0x24 ka w s

/-- NEG (08 R228). -/
def execKNeg (ka : KAt) (w : KWord) (s : State) : Host.Outcome State Fault Refusal := kernelRow 0x25 ka w s

/-- ABS (08 R228). -/
def execKAbs (ka : KAt) (w : KWord) (s : State) : Host.Outcome State Fault Refusal := kernelRow 0x26 ka w s

/-- MIN (08 R228). -/
def execKMin (ka : KAt) (w : KWord) (s : State) : Host.Outcome State Fault Refusal := kernelRow 0x27 ka w s

/-- MAX (08 R228). -/
def execKMax (ka : KAt) (w : KWord) (s : State) : Host.Outcome State Fault Refusal := kernelRow 0x28 ka w s

/-- CLAMP (08 R228). -/
def execKClamp (ka : KAt) (w : KWord) (s : State) : Host.Outcome State Fault Refusal := kernelRow 0x29 ka w s

/-- SQRT (08 R228). -/
def execKSqrt (ka : KAt) (w : KWord) (s : State) : Host.Outcome State Fault Refusal := kernelRow 0x2A ka w s

/-- RECIP (08 R228). -/
def execKRecip (ka : KAt) (w : KWord) (s : State) : Host.Outcome State Fault Refusal := kernelRow 0x2B ka w s

/-- RSQRT (08 R228). -/
def execKRsqrt (ka : KAt) (w : KWord) (s : State) : Host.Outcome State Fault Refusal := kernelRow 0x2C ka w s

/-- EXP (08 R228). -/
def execKExp (ka : KAt) (w : KWord) (s : State) : Host.Outcome State Fault Refusal := kernelRow 0x2D ka w s

/-- LOG (08 R228). -/
def execKLog (ka : KAt) (w : KWord) (s : State) : Host.Outcome State Fault Refusal := kernelRow 0x2E ka w s

/-- LOG1P (08 R228). -/
def execKLog1p (ka : KAt) (w : KWord) (s : State) : Host.Outcome State Fault Refusal := kernelRow 0x2F ka w s

/-- EXPM1 (08 R228). -/
def execKExpm1 (ka : KAt) (w : KWord) (s : State) : Host.Outcome State Fault Refusal := kernelRow 0x30 ka w s

/-- FLOOR (08 R228). -/
def execKFloor (ka : KAt) (w : KWord) (s : State) : Host.Outcome State Fault Refusal := kernelRow 0x31 ka w s

/-- CEIL (08 R228). -/
def execKCeil (ka : KAt) (w : KWord) (s : State) : Host.Outcome State Fault Refusal := kernelRow 0x32 ka w s

/-- RINT (08 R228). -/
def execKRint (ka : KAt) (w : KWord) (s : State) : Host.Outcome State Fault Refusal := kernelRow 0x33 ka w s

/-- TRUNC (08 R228). -/
def execKTrunc (ka : KAt) (w : KWord) (s : State) : Host.Outcome State Fault Refusal := kernelRow 0x34 ka w s

/-- MOD (08 R228). -/
def execKMod (ka : KAt) (w : KWord) (s : State) : Host.Outcome State Fault Refusal := kernelRow 0x35 ka w s

/-- ADDS (08 R228). -/
def execKAdds (ka : KAt) (w : KWord) (s : State) : Host.Outcome State Fault Refusal := kernelRow 0x36 ka w s

/-- SUBS (08 R228). -/
def execKSubs (ka : KAt) (w : KWord) (s : State) : Host.Outcome State Fault Refusal := kernelRow 0x37 ka w s

/-- MULS (08 R228). -/
def execKMuls (ka : KAt) (w : KWord) (s : State) : Host.Outcome State Fault Refusal := kernelRow 0x38 ka w s

/-- SIGN (08 R228). -/
def execKSign (ka : KAt) (w : KWord) (s : State) : Host.Outcome State Fault Refusal := kernelRow 0x39 ka w s

/-- COPYSIGN (08 R228). -/
def execKCopysign (ka : KAt) (w : KWord) (s : State) : Host.Outcome State Fault Refusal := kernelRow 0x3A ka w s

/-- CMPEQ (08 R228). -/
def execKCmpeq (ka : KAt) (w : KWord) (s : State) : Host.Outcome State Fault Refusal := kernelRow 0x40 ka w s

/-- CMPNE (08 R228). -/
def execKCmpne (ka : KAt) (w : KWord) (s : State) : Host.Outcome State Fault Refusal := kernelRow 0x41 ka w s

/-- CMPLT (08 R228). -/
def execKCmplt (ka : KAt) (w : KWord) (s : State) : Host.Outcome State Fault Refusal := kernelRow 0x42 ka w s

/-- CMPLE (08 R228). -/
def execKCmple (ka : KAt) (w : KWord) (s : State) : Host.Outcome State Fault Refusal := kernelRow 0x43 ka w s

/-- CMPGT (08 R228). -/
def execKCmpgt (ka : KAt) (w : KWord) (s : State) : Host.Outcome State Fault Refusal := kernelRow 0x44 ka w s

/-- CMPGE (08 R228). -/
def execKCmpge (ka : KAt) (w : KWord) (s : State) : Host.Outcome State Fault Refusal := kernelRow 0x45 ka w s

/-- ISNAN (08 R228). -/
def execKIsnan (ka : KAt) (w : KWord) (s : State) : Host.Outcome State Fault Refusal := kernelRow 0x46 ka w s

/-- ISINF (08 R228). -/
def execKIsinf (ka : KAt) (w : KWord) (s : State) : Host.Outcome State Fault Refusal := kernelRow 0x47 ka w s

/-- ISFIN (08 R228). -/
def execKIsfin (ka : KAt) (w : KWord) (s : State) : Host.Outcome State Fault Refusal := kernelRow 0x48 ka w s

/-- AND (08 R228). -/
def execKAnd (ka : KAt) (w : KWord) (s : State) : Host.Outcome State Fault Refusal := kernelRow 0x50 ka w s

/-- OR (08 R228). -/
def execKOr (ka : KAt) (w : KWord) (s : State) : Host.Outcome State Fault Refusal := kernelRow 0x51 ka w s

/-- XOR (08 R228). -/
def execKXor (ka : KAt) (w : KWord) (s : State) : Host.Outcome State Fault Refusal := kernelRow 0x52 ka w s

/-- NOT (08 R228). -/
def execKNot (ka : KAt) (w : KWord) (s : State) : Host.Outcome State Fault Refusal := kernelRow 0x53 ka w s

/-- ANDN (08 R228). -/
def execKAndn (ka : KAt) (w : KWord) (s : State) : Host.Outcome State Fault Refusal := kernelRow 0x54 ka w s

/-- SHL (08 R228). -/
def execKShl (ka : KAt) (w : KWord) (s : State) : Host.Outcome State Fault Refusal := kernelRow 0x55 ka w s

/-- SHR (08 R228). -/
def execKShr (ka : KAt) (w : KWord) (s : State) : Host.Outcome State Fault Refusal := kernelRow 0x56 ka w s

/-- SAR (08 R228). -/
def execKSar (ka : KAt) (w : KWord) (s : State) : Host.Outcome State Fault Refusal := kernelRow 0x57 ka w s

/-- ROTL (08 R228). -/
def execKRotl (ka : KAt) (w : KWord) (s : State) : Host.Outcome State Fault Refusal := kernelRow 0x58 ka w s

/-- ROTR (08 R228). -/
def execKRotr (ka : KAt) (w : KWord) (s : State) : Host.Outcome State Fault Refusal := kernelRow 0x59 ka w s

/-- POPCNT (08 R228). -/
def execKPopcnt (ka : KAt) (w : KWord) (s : State) : Host.Outcome State Fault Refusal := kernelRow 0x5A ka w s

/-- CLZ (08 R228). -/
def execKClz (ka : KAt) (w : KWord) (s : State) : Host.Outcome State Fault Refusal := kernelRow 0x5B ka w s

/-- CTZ (08 R228). -/
def execKCtz (ka : KAt) (w : KWord) (s : State) : Host.Outcome State Fault Refusal := kernelRow 0x5C ka w s

/-- BSWAP (08 R228). -/
def execKBswap (ka : KAt) (w : KWord) (s : State) : Host.Outcome State Fault Refusal := kernelRow 0x5D ka w s

/-- CVT (08 R228). -/
def execKCvt (ka : KAt) (w : KWord) (s : State) : Host.Outcome State Fault Refusal := kernelRow 0x60 ka w s

/-- CVTS (08 R228). -/
def execKCvts (ka : KAt) (w : KWord) (s : State) : Host.Outcome State Fault Refusal := kernelRow 0x61 ka w s

/-- REINT (08 R228). -/
def execKReint (ka : KAt) (w : KWord) (s : State) : Host.Outcome State Fault Refusal := kernelRow 0x62 ka w s

/-- TIMEPART (08 R228). -/
def execKTimepart (ka : KAt) (w : KWord) (s : State) : Host.Outcome State Fault Refusal := kernelRow 0x63 ka w s

/-- TIMETRUNC (08 R228). -/
def execKTimetrunc (ka : KAt) (w : KWord) (s : State) : Host.Outcome State Fault Refusal := kernelRow 0x64 ka w s

/-- XXH64 (08 R228). -/
def execKXxh64 (ka : KAt) (w : KWord) (s : State) : Host.Outcome State Fault Refusal := kernelRow 0x68 ka w s

/-- MUR3L (08 R228). -/
def execKMur3l (ka : KAt) (w : KWord) (s : State) : Host.Outcome State Fault Refusal := kernelRow 0x69 ka w s

/-- MUR3H (08 R228). -/
def execKMur3h (ka : KAt) (w : KWord) (s : State) : Host.Outcome State Fault Refusal := kernelRow 0x6A ka w s

/-- CRC32C (08 R228). -/
def execKCrc32c (ka : KAt) (w : KWord) (s : State) : Host.Outcome State Fault Refusal := kernelRow 0x6B ka w s

/-- XXH64C (08 R228). -/
def execKXxh64c (ka : KAt) (w : KWord) (s : State) : Host.Outcome State Fault Refusal := kernelRow 0x6C ka w s

/-- HMOD (08 R228). -/
def execKHmod (ka : KAt) (w : KWord) (s : State) : Host.Outcome State Fault Refusal := kernelRow 0x6D ka w s

/-- HBUCKET (08 R228). -/
def execKHbucket (ka : KAt) (w : KWord) (s : State) : Host.Outcome State Fault Refusal := kernelRow 0x6E ka w s

/-- BUCKET (08 R228). -/
def execKBucket (ka : KAt) (w : KWord) (s : State) : Host.Outcome State Fault Refusal := kernelRow 0x70 ka w s

/-- BUCKETW (08 R228). -/
def execKBucketw (ka : KAt) (w : KWord) (s : State) : Host.Outcome State Fault Refusal := kernelRow 0x71 ka w s

/-- SLEN (08 R228). -/
def execKSlen (ka : KAt) (w : KWord) (s : State) : Host.Outcome State Fault Refusal := kernelRow 0x78 ka w s

/-- SCHARS (08 R228). -/
def execKSchars (ka : KAt) (w : KWord) (s : State) : Host.Outcome State Fault Refusal := kernelRow 0x79 ka w s

/-- SLOWER (08 R228). -/
def execKSlower (ka : KAt) (w : KWord) (s : State) : Host.Outcome State Fault Refusal := kernelRow 0x7A ka w s

/-- SUPPER (08 R228). -/
def execKSupper (ka : KAt) (w : KWord) (s : State) : Host.Outcome State Fault Refusal := kernelRow 0x7B ka w s

/-- SSUB (08 R228). -/
def execKSsub (ka : KAt) (w : KWord) (s : State) : Host.Outcome State Fault Refusal := kernelRow 0x7C ka w s

/-- SPREFIX (08 R228). -/
def execKSprefix (ka : KAt) (w : KWord) (s : State) : Host.Outcome State Fault Refusal := kernelRow 0x7D ka w s

/-- SSUFFIX (08 R228). -/
def execKSsuffix (ka : KAt) (w : KWord) (s : State) : Host.Outcome State Fault Refusal := kernelRow 0x7E ka w s

/-- SFIND (08 R228). -/
def execKSfind (ka : KAt) (w : KWord) (s : State) : Host.Outcome State Fault Refusal := kernelRow 0x7F ka w s

/-- SFIELD (08 R228). -/
def execKSfield (ka : KAt) (w : KWord) (s : State) : Host.Outcome State Fault Refusal := kernelRow 0x80 ka w s

/-- STOI (08 R228). -/
def execKStoi (ka : KAt) (w : KWord) (s : State) : Host.Outcome State Fault Refusal := kernelRow 0x81 ka w s

/-- STOF (08 R228). -/
def execKStof (ka : KAt) (w : KWord) (s : State) : Host.Outcome State Fault Refusal := kernelRow 0x82 ka w s

/-- DSTR (08 R228). -/
def execKDstr (ka : KAt) (w : KWord) (s : State) : Host.Outcome State Fault Refusal := kernelRow 0x83 ka w s

/-- SCAT (08 R228). -/
def execKScat (ka : KAt) (w : KWord) (s : State) : Host.Outcome State Fault Refusal := kernelRow 0x84 ka w s

/-- ACC (08 R228). -/
def execKAcc (ka : KAt) (w : KWord) (s : State) : Host.Outcome State Fault Refusal := kernelRow 0x88 ka w s

/-- ACCP (08 R228). -/
def execKAccp (ka : KAt) (w : KWord) (s : State) : Host.Outcome State Fault Refusal := kernelRow 0x89 ka w s

/-- ACCN (08 R228). -/
def execKAccn (ka : KAt) (w : KWord) (s : State) : Host.Outcome State Fault Refusal := kernelRow 0x8A ka w s

/-- ACCX (08 R228). -/
def execKAccx (ka : KAt) (w : KWord) (s : State) : Host.Outcome State Fault Refusal := kernelRow 0x8B ka w s

/-- SKETCH (08 R228). -/
def execKSketch (ka : KAt) (w : KWord) (s : State) : Host.Outcome State Fault Refusal := kernelRow 0x8C ka w s

/-- ACCRD (08 R228). -/
def execKAccrd (ka : KAt) (w : KWord) (s : State) : Host.Outcome State Fault Refusal := kernelRow 0x8D ka w s

/-- QREAD (08 R228). -/
def execKQread (ka : KAt) (w : KWord) (s : State) : Host.Outcome State Fault Refusal := kernelRow 0x8E ka w s

/-- ACCCLR (08 R228). -/
def execKAccclr (ka : KAt) (w : KWord) (s : State) : Host.Outcome State Fault Refusal := kernelRow 0x8F ka w s

/-- ACCEMIT (08 R228). -/
def execKAccemit (ka : KAt) (w : KWord) (s : State) : Host.Outcome State Fault Refusal := kernelRow 0x90 ka w s

/-- ACCMERGE (08 R228). -/
def execKAccmerge (ka : KAt) (w : KWord) (s : State) : Host.Outcome State Fault Refusal := kernelRow 0x91 ka w s

/-- EMBAG (08 R228). -/
def execKEmbag (ka : KAt) (w : KWord) (s : State) : Host.Outcome State Fault Refusal := kernelRow 0x98 ka w s

/-- MPACK (08 R228). -/
def execKMpack (ka : KAt) (w : KWord) (s : State) : Host.Outcome State Fault Refusal := kernelRow 0x99 ka w s

/-- MUNPACK (08 R228). -/
def execKMunpack (ka : KAt) (w : KWord) (s : State) : Host.Outcome State Fault Refusal := kernelRow 0x9A ka w s

/-- CDOT (08 R228). -/
def execKCdot (ka : KAt) (w : KWord) (s : State) : Host.Outcome State Fault Refusal := kernelRow 0x9B ka w s

end Sys2Proof.Machine
end

