-- ==== Sys2Proof/Machine/Rebind.lean ====
section
/-!
DEFINITION. Changes of placement while jobs hold the device: STATION_PIN, JOB_REBIND, replacement on saturation (03 R95 to R101; 01 R21 to R23;
07 R205, R206; 13 R338).
-/

namespace Sys2Proof.Machine

open Sys2Proof

/-- Takes an instance off its units; a unit that no other instance of the job uses returns to the free pool when `give` says so. -/
def unplace (d : Dev) (slot st inst : Nat) (give : Bool) : Dev :=
  modJob d slot (fun j =>
    let mine := (j.placed.filter (fun p => p.station == st && p.inst == inst)).map (·.res)
    let rest := j.placed.filter (fun p => !(p.station == st && p.inst == inst))
    { j with placed := rest, units := if give then j.units.filter (fun r => !mine.contains r || rest.any (fun p => p.res == r)) else j.units })

/-- The unit a STATION_PIN names. -/
def pinRes (j : Job) (c : Cmd) : Res := { kind := (j.image.stations.getD (u16at c.body 0) {}).stype.kind, die := u8at c.body 4, index := u32at c.body 8 }

/-- The job's pin of an instance. -/
def pinOf (j : Job) (st inst : Nat) : Option Res := (j.pins.find? (fun p => p.1 == st && p.2.1 == inst)).map (·.2.2)

/-- STATION_PIN's own checks (R96). INVALID_FIELD also for an instance that a RUNNING job does not have, for a unit to which another instance of the job is
pinned, and for a codec engine without room for the instance: DESIGN CHOICE, the rule names none of these (log entry 100). -/
def stationPinCheck (d : Dev) (c : Cmd) : Option (Nat × Nat) :=
  let j := getJob d c.slot
  let st := u16at c.body 0
  let inst := u16at c.body 2
  let r := pinRes j c
  let max := (j.image.stations.getD st {}).maxInstances
  if j.image.stations.length ≤ st then badField 0
  else if 1 < u8at c.body 5 then badField 5
  else if j.state = .loaded ∧ max ≠ 0 ∧ max ≤ inst then badField 2
  else if j.state = .running ∧ !(placedInsts j).contains (st, inst) then badField 2
  else if u8at c.body 5 = 0 then none
  else if !(kindUnits r.kind).contains r then badField 4
  else if !j.units.contains r ∧ !(freeUnits d r.kind).contains r then badField 8
  else if j.pins.any (fun p => p.2.2 == r && !(p.1 == st && p.2.1 == inst)) ∧ r.kind ≠ 3 then badField 8
  else if r.kind = 3 ∧ !unitFits j.image (j.placed.filter (fun p => !(p.station == st && p.inst == inst))) st r then badField 8
  else none

/-- Removes an instance's pin; on a LOADED job the unit it reserved returns to the free pool (R96), unless another pin names it too. -/
def unpin (d : Dev) (slot st inst : Nat) : Dev :=
  modJob d slot (fun j =>
    let r := pinOf j st inst
    let rest := j.pins.filter (fun p => !(p.1 == st && p.2.1 == inst))
    { j with pins := rest, units := if j.state = .loaded ∧ !rest.any (fun p => some p.2.2 == r) then j.units.filter (fun u => r != some u) else j.units })

/-- What a job's channels hold goes with their instances to the channels these were placed on (12 R321); `before` is where they stood. -/
def rehomeChans (d : Dev) (slot : Nat) (before : List PlaceRec) : Dev :=
  let key (r : Res) : Nat × Nat := (4 * r.die + r.index / 64, r.index % 64)
  let moves := before.filterMap (fun p =>
    if p.res.kind = 6 then ((getJob d slot).placed.find? (fun q => q.station == p.station && q.inst == p.inst && q.res != p.res)).map (fun q => (key p.res, key q.res)) else none)
  let gone := moves.filterMap (fun m => (assocGet d.movers.chans m.1).map (fun x => (m.2, x)))
  { d with movers := { d.movers with chans := d.movers.chans.filter (fun x => !moves.any (fun m => m.1 == x.1)) ++ gone } }

/-- Moves an instance of a running job to a unit; an instance that stands there takes the place it leaves (R96). -/
def placeInstead (d : Dev) (slot st inst : Nat) (r : Res) (reason counter : Nat) : Dev :=
  let j := getJob d slot
  let old := ((j.placed.find? (fun p => p.station == st && p.inst == inst)).map (·.res))
  match j.placed.find? (fun p => p.res == r && !(p.station == st && p.inst == inst)), decide (r.kind = 3) with
  | some other, false =>
    let d := unplace (unplace d slot st inst false) slot other.station other.inst false
    let d := placeOn d slot st inst r reason counter
    match old with
    | some o => placeOn d slot other.station other.inst o reason counter
    | none => d
  | _, _ => if old = some r then d else placeOn (unplace d slot st inst true) slot st inst r reason counter

/-- The same, the state of its channels with it. -/
def moveInst (d : Dev) (slot st inst : Nat) (r : Res) (reason counter : Nat) : Dev :=
  rehomeChans (placeInstead d slot st inst r reason counter) slot (getJob d slot).placed

/-- STATION_PIN takes effect (R96): LOADED reserves the unit; RUNNING moves the instance. -/
def stationPinAct (d : Dev) (c : Cmd) : Dev :=
  let j := getJob d c.slot
  let st := u16at c.body 0
  let inst := u16at c.body 2
  let r := pinRes j c
  if u8at c.body 5 = 0 then unpin d c.slot st inst
  else
    let d := modJob d c.slot (fun j => { j with pins := j.pins.filter (fun p => !(p.1 == st && p.2.1 == inst)) ++ [(st, inst, r)] })
    if j.state = .loaded then holdUnit d c.slot r else stepTables (moveInst d c.slot st inst r 3 0xFFFF) c.slot 3 0xFFFF

/-- STATION_PIN (R96). -/
def stationPin : Service := { opcode := 0x001A, check := fun _ d c => stationPinCheck d c, act := fun _ d c => (stationPinAct d c, some []) }

/-- A mover channel stands where its state can be saved (12 R318, R321). -/
def chanSaved (d : Dev) (key : Nat × Nat) (x : Chan) : Bool := chanSettled x && (x.state = 3 || (chanReads d key.1 key.2).isEmpty)

/-- A station stands at a tile boundary, and its channels where their state can move with it (02 R48, 12 R321). -/
def stationSettled (d : Dev) (slot st : Nat) : Bool :=
  atBoundary d slot st && (jobChans d slot).all (fun x => chanStation (getJob d slot) x.1 != st || chanSaved d x.1 x.2)

/-- STATION_PIN: on a RUNNING job the instance moves at its next tile boundary; until then the command waits. -/
def execStationPin (idx : Nat) (s : State) : Host.Outcome State Fault Refusal :=
  runDev s (fun m d =>
    match findCmd d idx with
    | some c =>
      if c.opcode = 0x001A ∧ (getJob d c.slot).state = .running ∧ u16at c.body 0 < (getJob d c.slot).image.stations.length ∧ !stationSettled d c.slot (u16at c.body 0) then .next d
      else serve stationPin idx m d
    | none => noEvent)

/-- The most units one JOB_REBIND moves (R97). -/
def rebindLimit (k : Nat) : Nat :=
  match k with
  | 1 => 1024 | 2 => 64 | 3 => 2 | 4 => 2 | 5 => 2 | 6 => 1024 | 7 => 8192 | _ => 1000

/-- What a slot, or the pool for 0xFF, holds of a kind. -/
def kindHeld (d : Dev) (slot k : Nat) : Nat :=
  if 64 ≤ slot then (if k = 7 then freeQueues d else if k = 8 then freeWeight d else (freeUnits d k).length)
  else
    let j := getJob d slot
    if k = 7 then j.queuesHeld else if k = 8 then j.weight else (j.units.filter (fun r => r.kind == k)).length

/-- How loaded a unit of a donor is: without an instance, beside another unit of its station, alone, pinned (R97 step 1). -/
def unitLoad (j : Job) (r : Res) : Nat :=
  let here := j.placed.filter (fun p => p.res == r)
  if j.pins.any (fun p => p.2.2 == r) then 3
  else if here.isEmpty then 0
  else if here.all (fun p => j.placed.any (fun q => q.station == p.station && q.res != r)) then 1
  else 2

/-- The units a donor, or the pool, gives up: the least loaded first. -/
def donorUnits (d : Dev) (slot k n : Nat) : List Res :=
  if 64 ≤ slot then (freeUnits d k).take n
  else let j := getJob d slot; (sortBy (unitLoad j) (j.units.filter (fun r => r.kind == k))).take n

/-- A job with its minimum placement (R87): an instance of every station, and its physical queues. -/
def wellPlaced (j : Job) : Bool :=
  (List.range j.image.stations.length).all (fun s => j.placed.any (fun p => p.station == s)) && decide (j.image.queues.length ≤ j.queuesHeld)

/-- The donor's instances stand on units it gives up, or its queues do: their state is saved (R97 steps 2 and 3). -/
def savesState (d : Dev) (donor k n : Nat) : Bool :=
  let j := getJob d donor
  decide (donor < 64) && decide (j.state = .running) &&
  (if k = 7 then decide (j.queuesHeld < j.image.queues.length + n) else (donorUnits d donor k n).any (fun r => j.placed.any (fun p => p.res == r)))

/-- A job state in which a rebinding may take or give units (R89, R99). -/
def JState.rebindable (s : JState) : Bool := s = .loaded || s = .running || s = .suspended || s = .held || s = .stopped || s = .finished

/-- JOB_REBIND's own checks (R97 to R99): `coded` is what the saved state takes. -/
def rebindCheck (d : Dev) (c : Cmd) (coded : Nat) : Option (Nat × Nat) :=
  let recip := u8at c.body 0
  let k := u8at c.body 1
  let n := u32at c.body 4
  if recip = c.slot ∨ (64 ≤ recip ∧ recip ≠ 0xFF) then badField 0
  else if k = 0 ∨ 8 < k then badField 1
  else if c.slot < 64 ∧ !(getJob d c.slot).state.rebindable then badState d c.slot
  else if recip < 64 ∧ !(getJob d recip).state.rebindable then badState d recip
  else if rebindLimit k < n then badField 4
  else if kindHeld d c.slot k < n then (if c.slot < 64 then badField 4 else some (0x0005, k))
  else if savesState d c.slot k n ∧ coded ≠ 0 ∧ (allocHbm d (roundUp coded 0x100000)).isNone then some (0x0005, 0x11)
  else none

/-- The physical queues that a donor, or the pool, gives up: a donor's last. -/
def donorQueues (d : Dev) (slot n : Nat) : List Nat := if 64 ≤ slot then poolQueues d n else let q := (getJob d slot).phys; q.drop (q.length - n)

/-- The channels that a job gives up leave their engines with what they hold: saved with their stations (12 R321). -/
def stashChans (d : Dev) (slot : Nat) (us : List Res) : Dev :=
  let gone (x : (Nat × Nat) × Chan) : Bool := x.2.arm.owner == slot && us.contains (chanRes x.1.1 x.1.2)
  let j := getJob d slot
  let kept := ((d.movers.chans.filter gone).filter (fun x => x.2.state != 3)).map (fun x => (chanStation j x.1, x.2))
  modJob { d with movers := { d.movers with chans := d.movers.chans.filter (fun x => !gone x) } } slot (fun j => { j with savedChans := j.savedChans ++ kept })

/-- Units of a kind leave a donor: its instances on them go, and their pins. -/
def takeFrom (d : Dev) (donor k n : Nat) (us : List Res) : Dev :=
  if 64 ≤ donor then d
  else modJob (if k = 6 then stashChans d donor us else d) donor (fun j =>
    if k = 7 then { j with phys := j.phys.take (j.phys.length - n) }
    else if k = 8 then { j with weight := j.weight - n }
    else { j with units := j.units.filter (fun r => !us.contains r), placed := j.placed.filter (fun p => !us.contains p.res), pins := j.pins.filter (fun p => !us.contains p.2.2) })

/-- Units of a kind come to a recipient. -/
def giveTo (d : Dev) (recip k n : Nat) (us : List Res) (qs : List Nat) : Dev :=
  if 64 ≤ recip then d
  else modJob d recip (fun j =>
    if k = 7 then { j with phys := j.phys ++ qs }
    else if k = 8 then { j with weight := j.weight + n }
    else { j with units := j.units ++ us })

/-- Stations of a job without an instance are placed on units it holds (R97 step 5). -/
def placeMissing (d : Dev) (slot : Nat) : Dev :=
  (List.range (getJob d slot).image.stations.length).foldl (fun d st =>
    let j := getJob d slot
    let k := (j.image.stations.getD st {}).stype.kind
    if j.placed.any (fun p => p.station == st) then d
    else match j.units.find? (fun r => r.kind == k && unitFits j.image j.placed st r) with
    | some r => placeOn d slot st 0 r 2 0xFFFF
    | none => d) d

/-- A donor or recipient after the units moved (R88, R98): a RUNNING job below its minimum placement is SUSPENDED, a SUSPENDED one that has it again runs. -/
def settleJob (d : Dev) (slot : Nat) : Dev :=
  if 64 ≤ slot ∨ !((getJob d slot).state = .running ∨ (getJob d slot).state = .suspended) then d
  else
    let d := stepTables (restoreChans (placeMissing d slot) slot) slot 2 0xFFFF
    if wellPlaced (getJob d slot) then
      (if (getJob d slot).state = .suspended then refillFeeds (setJState d slot .running 0) slot else d)
    else setJState d slot .suspended 0

/-- The recipient's state that was saved for units of the kind is restored; saved memory found bad is 0x0C02, and so is `shale`, the fault met while it was
decoded, 0 for none (R97 step 5, R102; 06 R180; log entry 111). -/
def restoreSaved (d : Dev) (recip k shale : Nat) : Dev :=
  if 64 ≤ recip then d
  else
    let mine := (getJob d recip).saved.filter (fun s => s.1 == k)
    let d := modJob d recip (fun j => { j with saved := j.saved.filter (fun s => s.1 != k) })
    if mine.any (fun s => s.2.2.any (fun a => poisoned d a.1 a.2)) then jobFault d { code := 0x0C02, slot := recip }
    else if !mine.isEmpty && shaleCode shale then jobFault d { code := 0x0C02, slot := recip, detail2 := shale }
    else d

/-- JOB_REBIND takes effect (R97, R98); `saved` and `coded` are the bytes saved, `duration` the time it took, `shale` a fault met while the
recipient's saved state was decoded. -/
def rebindAct (saved coded duration shale : Nat) (d : Dev) (c : Cmd) : Dev × Option Bytes :=
  let recip := u8at c.body 0
  let k := u8at c.body 1
  let n := u32at c.body 4
  let us := donorUnits d c.slot k n
  let keeps := savesState d c.slot k n
  let d := if keeps && decide (coded ≠ 0) then
      modJob d c.slot (fun j => { j with saved := j.saved ++ [(k, coded, (allocHbm d (roundUp coded 0x100000)).getD [])] })
    else d
  let qs := if k = 7 then donorQueues d c.slot n else []
  let d := giveTo (takeFrom d c.slot k n us) recip k n us qs
  let d := restoreSaved d recip k shale
  let d := settleJob (settleJob d c.slot) recip
  (d, some (le 4 n ++ zeros 4 ++ le 8 duration ++ le 8 (if keeps then saved else 0) ++ le 8 (if keeps then coded else 0)))

/-- JOB_REBIND (R97). -/
def jobRebind (saved coded duration shale : Nat) : Service :=
  { opcode := 0x0017, check := fun _ d c => rebindCheck d c coded, act := fun _ d c => rebindAct saved coded duration shale d c }

/-- The stations of a RUNNING donor that a rebinding drains (R97 step 2): those with an instance on a unit it gives up; all of them where the donor is left
below its minimum placement and so becomes SUSPENDED (R98). -/
def affectedStations (d : Dev) (donor k n : Nat) : List Nat :=
  if 64 ≤ donor ∨ (getJob d donor).state ≠ .running then []
  else
    let us := donorUnits d donor k n
    let j := getJob d donor
    let every := List.range j.image.stations.length
    if wellPlaced (getJob (placeMissing (takeFrom d donor k n us) donor) donor) then every.filter (fun st => j.placed.any (fun p => p.station == st && us.contains p.res)) else every

/-- The affected instances stand at tile boundaries, and the affected channels have read back what they wrote (R97 step 2; 12 R318). -/
def rebindReady (d : Dev) (c : Cmd) : Bool :=
  let k := u8at c.body 1
  let n := u32at c.body 4
  let sts := affectedStations d c.slot k n
  let us := donorUnits d c.slot k n
  let all := decide (sts.length = (getJob d c.slot).image.stations.length)
  sts.all (atBoundary d c.slot) &&
  (sts.isEmpty || (jobChans d c.slot).all (fun x => !(all || us.contains (chanRes x.1.1 x.1.2)) || chanSaved d x.1 x.2))

/-- The drain of a rebinding has begun (R97 steps 1 and 2). -/
def beginRebind (d : Dev) (c : Cmd) : Dev :=
  modWin d (fun w => { w with inProg := w.inProg.map (fun x => if x.index == c.index && x.chain == c.chain then { x with begun := true } else x) })

/-- A commit of a slot's job is in progress. -/
def committing (d : Dev) (slot : Nat) : Bool := decide (slot < 64) && (getJob d slot).commit.isSome

/-- JOB_REBIND: a commit of the donor or the recipient in progress completes first (R101); the affected instances drain, however long that takes (R97, R98);
then the units are handed over. -/
def execJobRebind (idx saved coded duration shale : Nat) (s : State) : Host.Outcome State Fault Refusal :=
  runDev s (fun m d =>
    match findCmd d idx with
    | some c =>
      if c.opcode = 0x0017 ∧ (committing d c.slot ∨ committing d (u8at c.body 0)) then .next d
      else if c.opcode = 0x0017 ∧ served d ∧ !mustWait d c ∧ ((jobRebind saved coded duration shale).refuses m d c).isNone ∧ !rebindReady d c then .next (beginRebind d c)
      else serve (jobRebind saved coded duration shale) idx m d
    | none => noEvent)

/-- Regions that a station probes: those its hints of kind 2 name, its match table, or for a kernel the table regions of its job. -/
def probedRegions (j : Job) (st : Nat) : List Nat :=
  let near := (j.image.hints.filter (fun h => h.station == st && h.kind == 2)).map (·.value)
  if !near.isEmpty then near
  else match (j.image.stations.getD st {}).stype with
  | .matchSt => [(matchP (j.image.param st)).region]
  | .kernel => (j.image.regions.filter (fun r => r.kind == 3)).map (·.id)
  | _ => []

/-- The ranges of HBM that hold the tables a station probes (01 R21): of its regions, or of its join tables. -/
def probedRanges (j : Job) (st : Nat) : List (Nat × Nat) :=
  (if (j.image.stations.getD st {}).stype = .hashjoin then (j.joinAreas.find? (fun a => a.1 == st)).elim [] (·.2)
   else (((j.regions.filter (fun b => (probedRegions j st).contains b.id && (b.whereCode == 1 || b.whereCode == 2))).map (·.extents)).flatten)).filter
    (fun x => decide (x.1 < hbmEnd))

/-- The unit of the free pool for an instance placed in response to a counter: for SAT_HBM_RANDOM a cluster of a compute die that borders a stack which holds
the station's shards, compute die s bordering stack s (01 R21; log entries 6, 30); else the lowest. -/
def unitNear (d : Dev) (slot st counter : Nat) : Option Res :=
  let j := getJob d slot
  let k := (descSt d slot st).stype.kind
  let near := (probedRanges j st).map (fun x => x.1 / stackBytes)
  if counter = 0x35F ∧ k = 1 ∧ !near.isEmpty then (freeUnits d k).find? (fun r => near.contains r.die) else (freeUnits d k).head?

/-- Adds an instance, or moves one, to a unit of the free pool (01 R21, R23). -/
def replaceInst (slot st inst counter : Nat) (d : Dev) : DevOut :=
  let j := getJob d slot
  let s := descSt d slot st
  let has := (placedInsts j).contains (st, inst)
  let count := ((placedInsts j).filter (fun p => p.1 == st)).length
  match unitNear d slot st counter with
  | none => noEvent
  | some r =>
    if has then .next (moveInst d slot st inst r 1 counter)
    else if s.dist = 0 ∨ (s.maxInstances ≠ 0 ∧ s.maxInstances ≤ count) then noEvent
    else match giveArea slot d (st, inst) with
    | .error _ => noEvent
    | .ok d => .next (placeOn d slot st inst r 1 counter)

/-- A match table grows towards the banks of step 1, or, without a WRITER, is replicated onto dies that it has no bank on (07 R205, R206). -/
def replaceTable (slot st inst counter : Nat) (d : Dev) : DevOut :=
  let j := getJob d slot
  let p := paramSt d slot st
  let cur := bankPlaces j st
  let g := if cur.length < tableBanks p then pickBanks (tableBanks p) cur (bankPool d slot)
    else if (matchP p).writer = 0xFFFF then replicaBanks (tableBanks p) cur (bankPool d slot) else []
  if g.isEmpty then noEvent else .next (stepTables (g.foldl (fun d r => placeOn d slot st inst r 1 counter) d) slot 1 counter)

/-- The memory-side cache is enabled for the range of HBM that holds a station's tables (01 R21; 13 R338): policy 1, recorded with kind 0. -/
def cacheTable (slot st counter : Nat) (d : Dev) : Dev :=
  match (probedRanges (getJob d slot) st).head? with
  | some x =>
    let a := x.1 / pageBytes * pageBytes
    if d.facts.cache.length < 64 ∧ !(d.facts.cache.any (fun x => x.1 == a)) then
      let n := roundUp (x.1 + x.2 - a) pageBytes
      let left := d.facts.dirty.filter (fun s => !(decide (a ≤ s.1) && decide (s.1 < a + n)))
      placeRec { d with facts := { d.facts with cache := d.facts.cache ++ [(a, n, 1)], dirty := left } } slot st 0
        { kind := 0, die := 32 + a / stackBytes, index := 0 } 1 counter
    else d
  | none => d

/-- SATURATION_REPLACEMENT (01 R21 to R23; 03 R95, R96): at a tile boundary, in response to a saturation counter; a pinned instance stays. For
SAT_HBM_RANDOM the cache is enabled too, whether or not an instance can move. -/
def saturationReplacement (slot st inst counter : Nat) (d : Dev) : DevOut :=
  let j := getJob d slot
  if counter < 0x35D ∨ 0x361 < counter ∨ j.pins.any (fun p => p.1 == st) then noEvent
  else if !stationSettled d slot st then .next d
  else
    let d := if counter = 0x35F then cacheTable slot st counter d else d
    match (if (descSt d slot st).stype = .matchSt then replaceTable slot st inst counter d else replaceInst slot st inst counter d) with
    | .next d => .next d
    | .nothing => if counter = 0x35F then .next d else noEvent
    | .fault f => .fault f

/-- SATURATION_REPLACEMENT. -/
def execSaturationReplacement (slot station inst counter : Nat) (s : State) : Host.Outcome State Fault Refusal :=
  onStation slot station (fun _ => true) s (fun _ d => saturationReplacement slot station inst counter d)

end Sys2Proof.Machine
end

