-- ==== Sys2Proof/Machine/Movers.lean ====
section
/-!
DEFINITION. Channel programs of the movers: arming, the checks at fetch, the instructions, completion, re-arming, staging (12 R304 to R324).
-/

namespace Sys2Proof.Machine

open Sys2Proof

/-- Consecutive pieces of 16 bytes. -/
def instrBytes (bs : Bytes) : List Bytes := (List.range (bs.length / 16)).map (fun i => slice bs (16 * i) 16)

/-- Reads an instruction (R307); none for an illegal opcode or a reserved field that is not zero. -/
def readInstr (b : Bytes) : Option MInstr :=
  match u8at b 0 with
  | 1 =>
    if bit (u8at b 1) 0 || bit (u8at b 2) 7 || bit (u8at b 2) 3 || !allZero b 3 1 || decide (pow2 18 ≤ u32at b 8) || !allZero b 12 4 then none
    else some (.move (u8at b 1) (u8at b 2 / 16) (u8at b 2 % 8) (u32at b 4) (u32at b 8))
  | 2 => if decide (4 ≤ u8at b 1) || !allZero b 2 2 || !allZero b 10 6 then none else some (.loop (u8at b 1) (u32at b 4) (toSigned 16 (u16at b 8)))
  | 3 => if !allZero b 1 3 || !allZero b 8 8 then none else some (.wait (u32at b 4))
  | 4 => if !allZero b 3 1 || !allZero b 12 4 then none else some (.signal (u8at b 1) (u8at b 2) (u32at b 4) (u32at b 8))
  | 5 => if allZero b 1 15 then some .done else none
  | _ => none

/-- COMPLETION of MFLAGS (R307). -/
def mfMode (f : Nat) : Nat := f / 64
/-- SRC_FIXED. -/
def mfSrcFixed (f : Nat) : Bool := bit f 5
/-- DST_FIXED. -/
def mfDstFixed (f : Nat) : Bool := bit f 4
/-- STREAM_SRC. -/
def mfStreamSrc (f : Nat) : Bool := bit f 3
/-- STREAM_DST. -/
def mfStreamDst (f : Nat) : Bool := bit f 2
/-- SEAL_CHECK. -/
def mfSealCheck (f : Nat) : Bool := bit f 1

/-- The count that only an end-of-stream tile ends (R313). -/
def endless : Nat := 0xFFFFFFFF

/-- A loop of a program: where it stands, where its body begins, iterations, counter. -/
structure LoopAt where
  pc : Nat
  first : Int
  times : Nat
  ctr : Nat
  deriving DecidableEq, Repr

/-- The loops of a program. -/
def loopsOf (prog : List MInstr) : List LoopAt :=
  prog.zipIdx.filterMap (fun x =>
    match x.1 with
    | .loop k n t => some { pc := x.2, first := (x.2 : Int) + t, times := n, ctr := k }
    | _ => none)

/-- A loop's body holds an instruction. -/
def LoopAt.holds (l : LoopAt) (p : Nat) : Bool := decide (l.first ≤ (p : Int)) && decide (p ≤ l.pc)

/-- One loop lies inside another. -/
def LoopAt.within (a b : LoopAt) : Bool := decide (b.first ≤ a.first) && decide (a.pc < b.pc)

/-- Condition 4 (R310): bodies nest, enclosing loops have other counters. -/
def loopsOk (prog : List MInstr) : Bool :=
  let ls := loopsOf prog
  ls.all (fun l => decide (1 ≤ l.times) && decide (l.first < (l.pc : Int)) && decide (0 ≤ l.first)) &&
  ls.all (fun a => ls.all (fun b => !(decide (a.pc < b.pc)) || decide ((a.pc : Int) < b.first) || (a.within b && decide (a.ctr ≠ b.ctr))))

/-- What one execution of an instruction adds to a register (R308). -/
def advance (r : Nat) (i : MInstr) : Nat :=
  match i with
  | .move f s t n _ =>
    if (!mfStreamSrc f && !mfSrcFixed f && s == r) || (!mfStreamDst f && !mfDstFixed f && t == r) then n else 0
  | _ => 0

/-- How often the loops run what they hold. -/
def timesOf (ls : List LoopAt) : Nat := ls.foldl (fun a l => a * l.times) 1

/-- The value of a register when an instruction is first executed. -/
def firstValue (prog : List MInstr) (regs : List Nat) (p r : Nat) : Nat :=
  let ls := loopsOf prog
  (prog.zipIdx.take p).foldl (fun a x => a + advance r x.1 * timesOf (ls.filter (fun l => l.holds x.2 && !l.holds p))) (regs.getD r 0)

/-- How far a register moves between the first and the last execution of an instruction. -/
def regSpan (prog : List MInstr) (p r : Nat) : Nat :=
  let ls := loopsOf prog
  (ls.filter (fun l => l.holds p)).foldl (fun a l =>
    a + (l.times - 1) * ((prog.zipIdx.filter (fun x => l.holds x.2)).foldl (fun b x => b + advance r x.1 * timesOf (ls.filter (fun k => k.holds x.2 && k.within l))) 0)) 0

/-- The range that a register of a MOVE covers over the whole program (R311). -/
def rangeOf (prog : List MInstr) (regs : List Nat) (p r n : Nat) : Nat × Nat := (firstValue prog regs p r, regSpan prog p r + n)

/-- The memory ends of an instruction: register, and true for the destination. -/
def memEnds (i : MInstr) : List (Nat × Bool) :=
  match i with
  | .move f s t _ _ => (if mfStreamSrc f then [] else [(s, false)]) ++ (if mfStreamDst f then [] else [(t, true)])
  | _ => []

/-- Condition 5 (R310). -/
def moveRegsOk (i : MInstr) : Bool :=
  match i with
  | .move f s t n _ => decide (mfMode f ≤ 2) && (mfStreamSrc f || decide (s ≤ 5)) && (mfStreamDst f || decide (t ≤ 5)) &&
      (mfStreamSrc f || mfStreamDst f || decide (s ≠ t)) && decide (1 ≤ n)
  | _ => true

/-- Condition 6 (R310). -/
def moveCountOk (i : MInstr) : Bool :=
  match i with
  | .move f _ _ n _ => if n = endless then mfStreamSrc f else !(mfStreamSrc f || mfStreamDst f) || decide (n % 4160 = 0)
  | _ => true

/-- The channel of an engine that an owner holds: a job's own, or Oluat's channel 63 (R305). -/
def ownsChan (d : Dev) (owner e c : Nat) : Bool :=
  if owner = 0xFE then decide (c = 63) else decide (owner < 64) && (getJob d owner).units.contains (chanRes e c)

/-- Condition 7 (R310). -/
def signalOk (d : Dev) (owner e : Nat) (i : MInstr) : Bool :=
  match i with
  | .signal k ch _ _ => k = 0 || (k = 1 && decide (ch < 64) && ownsChan d owner e ch)
  | _ => true

/-- Condition 8 (R310): over every execution, as R311 computes ranges. -/
def apartOk (prog : List MInstr) (regs : List Nat) (x : MInstr × Nat) : Bool :=
  match x.1 with
  | .move f s t n _ =>
    if mfStreamSrc f || mfStreamDst f then true
    else
      let a := rangeOf prog regs x.2 s n
      let b := rangeOf prog regs x.2 t n
      !rangesMeet a.1 a.2 b.1 b.2
  | _ => true

/-- Condition 9 (R310). -/
def waitOk (i : MInstr) : Bool :=
  match i with
  | .wait n => decide (1 ≤ n)
  | _ => true

/-- Memory that Oluat holds (13 R335, R341). -/
def oluatHolds (d : Dev) (a n : Nat) : Bool :=
  (decide (a + n ≤ hbmEnd) && decide (a % stackBytes + n ≤ stackReserve)) ||
  (strapTier d.root.straps && decide (tierBase ≤ a) && decide (a + n ≤ tierBase + 4 * pow2 30))

/-- The number of the first condition of R310 that a program fails. -/
def programFault (d : Dev) (e n : Nat) (raw : Bytes) (a : Arm) : Option Nat :=
  let ins := (instrBytes raw).map readInstr
  if n = 0 ∨ 256 < n ∨ a.program % 16 ≠ 0 ∨ !oluatHolds d a.program (16 * n) then some 1
  else if !ins.all (·.isSome) then some 2
  else if a.prog.getLast? ≠ some .done ∨ a.prog.dropLast.contains .done then some 3
  else if !loopsOk a.prog then some 4
  else if !a.prog.all moveRegsOk then some 5
  else if !a.prog.all moveCountOk then some 6
  else if !a.prog.all (signalOk d a.owner e) then some 7
  else if !a.prog.zipIdx.all (apartOk a.prog a.regs) then some 8
  else if !a.prog.all waitOk then some 9
  else none

/-- The owner's region table as ranges with access rights: bit 0 read, bit 1 write (R61, R311). A job's private areas are its own; Oluat's programs reach
every memory. -/
def ownerTable (d : Dev) (owner : Nat) : List (Nat × Nat × Nat) :=
  if owner = 0xFE then [(0, hbmEnd, 3), (tierBase, tierBase + tierBytes d, 3), (sramBase, sramEnd, 3), (pow2 62, hostBase, 3), (hostBase, hostBase + pow2 57, 3)]
  else
    let j := getJob d owner
    (j.regions.map (fun b => b.extents.map (fun x => (x.1, x.1 + x.2, ((regionRef j b.id).map (·.access)).getD 0)))).flatten ++ j.areas.map (fun x => (x.1, x.1 + x.2, 3))

/-- The first address of a range that is outside the region in which it starts, or without the access it needs (R311). Of a remote range, and of one whose
length an end-of-stream tile sets, only the start can be checked (R312). -/
def rangeFault (tab : List (Nat × Nat × Nat)) (write opened : Bool) (a n : Nat) : Option Nat :=
  let here := tab.filter (fun x => decide (x.1 ≤ a) && decide (a < x.2.1) && bit x.2.2 (b2n write))
  match here with
  | [] => some a
  | x :: _ => if opened || isRemote a || here.any (fun y => decide (a + n ≤ y.2.1)) then none else some x.2.1

/-- R311's check of a program. -/
def extentFault (d : Dev) (a : Arm) : Option Nat :=
  let tab := ownerTable d a.owner
  a.prog.zipIdx.findSome? (fun x =>
    match x.1 with
    | .move _ _ _ n _ => (memEnds x.1).findSome? (fun y =>
        let r := rangeOf a.prog a.regs x.2 y.1 n
        rangeFault tab y.2 (decide (n = endless)) r.1 r.2)
    | _ => none)

/-- A fault of a channel: a job fault of its owner, or a device fault on a channel of Oluat (R330). -/
def moverFault (d : Dev) (owner e c code detail2 : Nat) : Dev :=
  let det := moverDetail 0 e c ((getChan d e c).pc % 256)
  if owner < 64 then jobFault d { code := code, slot := owner, die := engineDie e, detail := det, detail2 := detail2 }
  else deviceFault d code det detail2 (engineDie e)

/-- The arm that a descriptor and its fetched program make (R306). -/
def readArm (desc prog : Bytes) (src : Option (Nat × Nat)) : Arm :=
  { program := u64at desc 0, owner := u8at desc 0x0A, regs := (List.range 6).map (fun i => u64at desc (0x10 + 8 * i)),
    prog := (instrBytes prog).filterMap readInstr, srcQueue := src }

/-- A program starts: the loop counters and the sync counter are as given (R309, R319). -/
def startArm (x : Chan) (a : Arm) : Chan := { state := 1, arm := a, regs := a.regs, ctr := x.ctr, sync := x.sync }

/-- A checked program runs, or waits for the one that runs (R319). -/
def acceptArm (d : Dev) (e c : Nat) (a : Arm) : Dev :=
  let x := getChan d e c
  if x.state = 0 then setChan d e c (startArm {} a) else setChan d e c { x with pending := some a }

/-- ARM on a channel its owner holds (R306, R310, R311, R319). -/
def armChan (d : Dev) (e c n : Nat) (raw : Bytes) (a : Arm) : Dev :=
  let x := getChan d e c
  if x.state ≠ 0 ∧ x.pending.isSome then
    (if a.owner < 64 then moverFault d a.owner e c 0x0404 0
     else deviceFaultReset d { code := 0x0404, die := engineDie e, detail := moverDetail 0 e c (x.pc % 256), detail2 := 0 })
  else match programFault d e n raw a with
  | some k => moverFault d a.owner e c 0x0405 k
  | none =>
    match extentFault d a with
    | some k => moverFault d a.owner e c 0x0403 k
    | none => acceptArm d e c a

/-- A row command about a channel. -/
def onChan (e c : Nat) (s : State) (f : Memory → Dev → Chan → DevOut) : Host.Outcome State Fault Refusal :=
  runDev s (fun m d => if 96 ≤ e ∨ 64 ≤ c then .fault .noSuchUnit else f m d (getChan d e c))

/-- Oluat takes COMPLETION 1 on every MOVE of its own traffic: all that channel 63 carries is data that a later write describes or commits (R305, R317). -/
def oluatModes (a : Arm) : Bool :=
  a.owner ≠ 0xFE || a.prog.all (fun i => match i with
    | .move f _ _ _ _ => mfMode f = 1
    | _ => true)

/-- Data of local memory, or the failing address: a poisoned sector (13 R351), or an address where no memory lies. -/
def localRead (m : Memory) (d : Dev) (a n : Nat) : Except Nat Bytes :=
  if !inLocal d a then .error a
  else match d.facts.poison.find? (fun s => decide (s < a + n) && decide (a < s + 64)) with
  | some s => .error s
  | none => .ok (memRead (seen m d) a n)

/-- The engine fetches an armed program from memory (R310) and arms the channel with it. -/
def fetchArm (m : Memory) (d : Dev) (e c : Nat) (desc : Bytes) (src : Option (Nat × Nat)) : DevOut :=
  let n := u16at desc 8
  let p := u64at desc 0
  let raw := if n = 0 ∨ 256 < n ∨ !oluatHolds d p (16 * n) then .ok [] else localRead m d p (16 * n)
  match raw with
  | .error y => .next (busError d e (memSource y) y)
  | .ok raw =>
    let a := readArm desc raw src
    onlyIf (oluatModes a) (armChan d e c n raw a)

/-- ARM (R306): Oluat writes a descriptor with zeros in its reserved bytes to a channel that the owner holds, on an engine in service. `prog` is what Oluat, who
builds every program, has stored at PROGRAM by then; none where the program stands there already. -/
def execArm (engine channel : Nat) (desc prog : Bytes) (src : Option (Nat × Nat)) (s : State) : Host.Outcome State Fault Refusal :=
  onChan engine channel s (fun m d x =>
    if decide (desc.length = 64) && allZero desc 0x0B 5 && ownsChan d (u8at desc 0x0A) engine channel && decide (x.state ≠ 3) && !(getEngine d engine).stopped then
      fetchArm m (if oluatHolds d (u64at desc 0) prog.length then devWrite d (u64at desc 0) prog else d) engine channel desc src
    else noEvent)

/-- A row command about the instruction a channel executes: the channel runs, or completes at it. -/
def onInstr (e c : Nat) (s : State) (f : Memory → Dev → Chan → MInstr → DevOut) : Host.Outcome State Fault Refusal :=
  onChan e c s (fun m d x =>
    if (x.state = 1 ∨ x.state = 2) ∧ !(getEngine d e).stopped then
      match x.arm.prog[x.pc]? with
      | some i => f m { d with free := d.free + 1 } x i
      | none => noEvent
    else noEvent)

/-- COMPLETION 0 takes the strap's mode (R315). -/
def barrierMode (d : Dev) (f : Nat) : Bool := mfMode f = 2 || (mfMode f = 0 && strapCompat d.root.straps)

/-- Issues a remote write of a channel and keeps it until the peer's first answer (R312, 15 R384). -/
def remoteWrite (e c : Nat) (d : Dev) (x : Nat × Bytes) : Dev :=
  let tag := 1 + d.movers.nextTag % 65535
  let ch := getChan d e c
  let o := (getTx d e (remoteParts x.1).1).next
  let d := { d with movers := { d.movers with nextTag := d.movers.nextTag + 1 } }
  let d := sendMem d 1 e tag (slotTag d ch.arm.owner) x.1 0 x.2
  let ch := getChan d e c
  setChan d e c { ch with sentWr := ch.sentWr ++ [{ tag := tag, oseq := o, addr := x.1, data := x.2 }] }

/-- A channel writes bytes: device memory, host memory, or a peer's memory in packets of at most 4,096 bytes. -/
def moverWrite (d : Dev) (e c : Nat) (barrier : Bool) (a : Nat) (bs : Bytes) : Dev :=
  if bs.length = 0 then d
  else if isRemote a then
    let d := remoteWrite e c d (a, bs.take 4096)
    noteWrite (if bs.length ≤ 4096 then d else remoteWrite e c d (a + 4096, bs.drop 4096)) e c barrier a bs.length
  else if hostBase ≤ a then
    (if hostOk d (a - hostBase) bs.length then noteWrite (hostWrite d (a - hostBase) bs) e c barrier a bs.length else busError d e 3 a)
  else noteWrite (devWrite d a bs) e c barrier a bs.length

/-- Answers from a peer are outstanding for the MOVE in progress: its bound may yet come (R312). -/
def remoteBusy (d : Dev) (e c : Nat) : Bool :=
  !(getChan d e c).sentWr.isEmpty || (chanReads d e c).any (fun r => isRemote r.addr || (r.dst.map isRemote).getD false)

/-- The MOVE is done (R308): each register it used advances by COUNT unless FIXED. -/
def endMove (d : Dev) (e c : Nat) : Dev :=
  let x := getChan d e c
  match x.arm.prog[x.pc]? with
  | some i => setChan d e c { x with
      regs := x.regs.zipIdx.map (fun r => (r.1 + advance r.2 i) % pow2 64), pc := x.pc + 1, moved := 0, atEnd := false, stage := [], srcEnd := none, dstEnd := none }
  | none => d

/-- A MOVE of COUNT `n` has nothing more to move: its count is reached, or the END_OF_STREAM tile is moved; only that ends one of 0xFFFF_FFFF (R313). -/
def Chan.moveDone (x : Chan) (n : Nat) : Bool := x.atEnd || (decide (n ≠ endless) && decide (n ≤ x.moved))

/-- The MOVE has moved `k` more bytes of `n`; `last` with the END_OF_STREAM tile. -/
def moreMoved (d : Dev) (e c n k : Nat) (last : Bool) : Dev :=
  let x := getChan d e c
  let x := { x with moved := x.moved + k, atEnd := x.atEnd || last }
  let d := setChan d e c x
  if x.moveDone n && !remoteBusy d e c then endMove d e c else d

/-- The bytes up to a known end. -/
def capAt (bound : Option Nat) (a k : Nat) : Nat :=
  match bound with
  | some b => min k (b - a)
  | none => k

/-- An address lies at or beyond a known end. -/
def pastEnd (bound : Option Nat) (a : Nat) : Bool :=
  match bound with
  | some b => decide (b ≤ a)
  | none => false

/-- One piece of a MOVE between memories: up to the next 4,096-byte boundary of its source (R308, R312, R321, R324). -/
def moveBytes (m : Memory) (d : Dev) (e c : Nat) (x : Chan) (f src dst n : Nat) : Dev :=
  let s := x.regs.getD src 0 + x.moved
  let t := x.regs.getD dst 0 + x.moved
  let k := capAt x.dstEnd t (capAt x.srcEnd s (min (n - x.moved) (4096 - s % 4096)))
  if remoteBusy d e c then d
  else if x.moveDone n then endMove d e c
  else if pastEnd x.srcEnd s then moverFault d x.arm.owner e c 0x0402 (x.srcEnd.getD 0)
  else if pastEnd x.dstEnd t then moverFault d x.arm.owner e c 0x0402 (x.dstEnd.getD 0)
  else if (chanReads d e c).any (fun r => (r.dst.map (fun a => rangesMeet a r.len s k || rangesMeet a r.len t k)).getD false) then d
  else if !canIssue d e s || !canIssue d e t then d
  else
    let r : ReadReq := { tag := 0, addr := s, len := k, reader := .mover e c, dst := some t, barrier := barrierMode d f }
    if isRemote s then moreMoved (remoteReadReq d e c r) e c n k false
    else if hostBase ≤ s then moreMoved (hostReadReq d { r with addr := s - hostBase }) e c n k false
    else match localRead m d s k with
    | .error a => busError d e (memSource a) a
    | .ok bs =>
      let d := moverWrite d e c (barrierMode d f) t bs
      if (getEngine d e).stopped then d else moreMoved d e c n k false

/-- A tile that a MOVE streamed ends the MOVE where it carries END_OF_STREAM (R313). -/
def tileMoved (d : Dev) (e c n : Nat) (t : Tile) : Dev := moreMoved d e c n 4160 t.eos

/-- A mover finds a seal broken (02 R33, R34; R330): the engine and channel stand in DETAIL. -/
def moverSealFault (d : Dev) (slot queue e c : Nat) (t : Tile) : Dev :=
  jobFault d { code := 0x0101, slot := slot, die := engineDie e, queue := queue, producer := t.producer, seqNo := t.seq,
               detail := moverDetail 0 e c ((getChan d e c).pc % 256) }

/-- The seal is to be checked and is broken. -/
def sealBroken (f : Nat) (t : Tile) : Bool := mfSealCheck f && decide (t.computeSeal ≠ t.crc)

/-- The tile that the first consumer of a queue takes next. -/
def nextTile (d : Dev) (slot n : Nat) : Option Tile := (getQ d slot n).tiles.find? (fun t => t.seq == (getQ d slot n).taken.getD 0 0)

/-- A tile leaves its queue into memory: the first consumer's slot is free again (02 R45). -/
def releaseTile (d : Dev) (slot n : Nat) (t : Tile) : Dev :=
  let d := modQ d slot n (fun q =>
    let q := { q with taken := setAt q.taken 0 (t.seq + 1), rows := setAt q.rows 0 (t.firstRow + t.rowCount), returned := setAt q.returned 0 (t.seq + 1), moved := true }
    { q with tiles := q.tiles.filter (fun y => decide (heldFrom q ≤ y.seq)) })
  closeValve (pump ((getQ d slot n).held.length + 1) d slot n) slot n

/-- A tile from memory goes into a free slot of its queue (R308). -/
def loadTile (d : Dev) (slot n : Nat) (t : Tile) : Dev :=
  modQ d slot n (fun q => { q with tiles := q.tiles ++ [t], nextSeq := t.seq + 1, nextRow := t.firstRow + t.rowCount, eos := q.eos || t.eos, moved := true })

/-- The end of the region in which a stream's memory end started, when its length is set by the stream (R312). -/
def streamEnd (d : Dev) (x : Chan) (r n : Nat) (write : Bool) : Option Nat :=
  let a := x.regs.getD r 0
  if n ≠ endless ∨ isRemote a then none
  else ((ownerTable d x.arm.owner).find? (fun y => decide (y.1 ≤ a) && decide (a < y.2.1) && bit y.2.2 (b2n write))).map (fun y => y.2.1)

/-- A tile streams from its queue to memory (R308, R312). -/
def streamOut (d : Dev) (e c : Nat) (x : Chan) (f dst n slot q : Nat) : Dev :=
  let a := x.regs.getD dst 0 + x.moved
  let stop := match streamEnd d x dst n true with
    | some b => some b
    | none => x.dstEnd
  match nextTile d slot q with
  | none => d
  | some t =>
    if sealBroken f t then moverSealFault d slot q e c t
    else if !canIssue d e a then d
    else
      let bs := t.bytes.take (capAt stop a 4160)
      let d := moverWrite d e c (barrierMode d f) a bs
      if (getEngine d e).stopped then d
      else if bs.length < 4160 then moverFault d x.arm.owner e c 0x0402 (stop.getD 0)
      else tileMoved (releaseTile d slot q t) e c n t

/-- A tile streams from memory into its queue: read whole, then placed when a slot is free (R308, R312, 14 R372). -/
def streamIn (m : Memory) (d : Dev) (e c : Nat) (x : Chan) (f src n slot q : Nat) : Dev :=
  let a := x.regs.getD src 0 + x.moved + x.stage.length
  let stop := match streamEnd d x src n false with
    | some b => some b
    | none => x.srcEnd
  let k := min (4160 - x.stage.length) (4096 - a % 4096)
  let put (d : Dev) (bs : Bytes) : Dev :=
    let t := Tile.ofBytes bs
    if sealBroken f t then moverSealFault d slot q e c t
    else if queueFull (getJob d slot) q (getQ d slot q) || !(getQ d slot q).held.isEmpty then setChan d e c { x with stage := bs }
    else tileMoved (loadTile (setChan d e c { x with stage := [] }) slot q t) e c n t
  let r : ReadReq := { tag := 0, addr := a, len := k, reader := .mover e c, stage := true, sealCheck := mfSealCheck f }
  if !(chanReads d e c).isEmpty then d
  else if x.stage.length = 4160 then put d x.stage
  else if capAt stop a (4160 - x.stage.length) < 4160 - x.stage.length then moverFault d x.arm.owner e c 0x0402 (stop.getD 0)
  else if !canIssue d e a then d
  else if isRemote a then remoteReadReq d e c r
  else if hostBase ≤ a then hostReadReq d { r with addr := a - hostBase }
  else match localRead m d a 4160 with
  | .error y => busError d e (memSource y) y
  | .ok bs => put d bs

/-- A station's job drains for a commit or a rebinding: its ports withdraw their demands (R320). -/
def drainsNow (d : Dev) (slot : Nat) : Bool :=
  ((getJob d slot).commit.map (fun k => k.step == 2)).getD false || d.win.inProg.any (fun c => c.begun && c.slot == slot)

/-- The first consumer of a queue demands its next tile (R320). -/
def demands (d : Dev) (slot q : Nat) : Option (Nat × Nat) :=
  match ((getJob d slot).image.queues.getD q {}).ends.head? with
  | some (st, p) => if takesTile d slot st p && !drainsNow d slot then some (st, p) else none
  | none => none

/-- A burst is fetched for a port that demands it, into staging (R320, R321). -/
def fetchBurst (d : Dev) (e c : Nat) (x : Chan) (f slot q : Nat) : Dev :=
  if x.held.isSome ∨ (demands d slot q).isNone then d
  else match nextTile d slot q with
  | none => d
  | some t => if sealBroken f t then moverSealFault d slot q e c t else setChan d e c { x with held := some t }

/-- The job of a queue end is running, so its queues exist. -/
def queueLive (d : Dev) (y : Option (Nat × Nat)) : Bool := (y.map (fun z => decide ((getJob d z.1).state = .running))).getD false

/-- A tile streams from one queue into a free slot of another (R308). -/
def streamAcross (d : Dev) (e c f n : Nat) (src dst : Nat × Nat) : Dev :=
  match nextTile d src.1 src.2 with
  | none => d
  | some t =>
    if sealBroken f t then moverSealFault d src.1 src.2 e c t
    else if queueFull (getJob d dst.1) dst.2 (getQ d dst.1 dst.2) || !(getQ d dst.1 dst.2).held.isEmpty then d
    else tileMoved (releaseTile (loadTile d dst.1 dst.2 t) src.1 src.2 t) e c n t

/-- One step of a MOVE (R308, R313). QUEUE names the queue of a stream end; between two queues it is the destination, and the source the one bound at arm.
Where both are one job-local queue the tile goes on to the consumer port that demands it (R320). Where a MOVE cannot go on it waits. -/
def moveStep (m : Memory) (d : Dev) (e c : Nat) (x : Chan) (f src dst n queue : Nat) : DevOut :=
  if !mfStreamSrc f && !mfStreamDst f then .next (moveBytes m d e c x f src dst n)
  else
    let y := physQueue d queue
    match y with
    | none => noEvent
    | some (slot, q) =>
      if !queueLive d y || remoteBusy d e c then .next d
      else if x.moveDone n then .next (endMove d e c)
      else if mfStreamSrc f && mfStreamDst f then
        (match x.arm.srcQueue with
         | none => noEvent
         | some s => .next (if !queueLive d (some s) then d else if s = (slot, q) then fetchBurst d e c x f slot q else streamAcross d e c f n s (slot, q)))
      else if mfStreamSrc f then .next (streamOut d e c x f dst n slot q)
      else .next (streamIn m d e c x f src n slot q)

/-- MOVE (R308). -/
def execMove (engine channel : Nat) (s : State) : Host.Outcome State Fault Refusal :=
  onInstr engine channel s (fun m d x i =>
    match i with
    | .move f src dst n q => moveStep m d engine channel x f src dst n q
    | _ => noEvent)

/-- LOOP (R309). -/
def loopStep (x : Chan) (k n : Nat) (t : Int) : Chan :=
  let v := (if x.ctr.getD k 0 = 0 then n else x.ctr.getD k 0) - 1
  { x with ctr := setAt x.ctr k v, pc := if v ≠ 0 then ((x.pc : Int) + t).toNat else x.pc + 1 }

/-- LOOP. -/
def execLoop (engine channel : Nat) (s : State) : Host.Outcome State Fault Refusal :=
  onInstr engine channel s (fun _ d x i =>
    match i with
    | .loop k n t => .next (setChan d engine channel (loopStep x k n t))
    | _ => noEvent)

/-- WAIT (R309). -/
def waitStep (x : Chan) (now n : Nat) : Chan :=
  if n ≤ x.sync then { x with sync := x.sync - n, pc := x.pc + 1, waiting := false }
  else { x with waiting := true, waitSince := if x.waiting then x.waitSince else now }

/-- WAIT. -/
def execWait (engine channel : Nat) (s : State) : Host.Outcome State Fault Refusal :=
  onInstr engine channel s (fun _ d x i =>
    match i with
    | .wait n => .next (setChan d engine channel (waitStep x d.time n))
    | _ => noEvent)

/-- WAIT_TIMEOUT (R309). -/
def execWaitTimeout (engine channel : Nat) (s : State) : Host.Outcome State Fault Refusal :=
  onInstr engine channel s (fun _ d x i =>
    match i with
    | .wait n => onlyIf (x.waiting && decide (x.sync < n)) (moverFault d x.arm.owner engine channel 0x0406 x.sync)
    | _ => noEvent)

/-- Adds to a sync counter of the engine (R309). -/
def addSync (d : Dev) (e c owner target n : Nat) : Dev :=
  let y := getChan d e target
  if 0xFFFFFFFF < y.sync + n then moverFault d owner e c 0x0407 target else setChan d e target { y with sync := y.sync + n }

/-- The completion point of a SIGNAL is passed (R309, R316). -/
def signalNow (d : Dev) (e c : Nat) (x : Chan) (kind ch n tag : Nat) : Dev :=
  let d := setChan d e c { x with state := 1, since := [], pc := x.pc + 1 }
  if kind = 0 then send d (.station x.arm.owner tag) else addSync d e c x.arm.owner ch n

/-- SIGNAL (R309, R316). -/
def execSignal (engine channel : Nat) (s : State) : Host.Outcome State Fault Refusal :=
  onInstr engine channel s (fun _ d x i =>
    match i with
    | .signal k ch n tag => .next (if allComplete d engine channel x then signalNow d engine channel x k ch n tag else issueBacks (setChan d engine channel { x with state := 2 }) engine channel false)
    | _ => noEvent)

/-- END (R309, R319): the channel is idle, or completes until the pending program may start. -/
def execMoverEnd (engine channel : Nat) (s : State) : Host.Outcome State Fault Refusal :=
  onInstr engine channel s (fun _ d x i =>
    match i with
    | .done =>
      .next (if !allComplete d engine channel x then issueBacks (setChan d engine channel { x with state := 2 }) engine channel false
             else if x.pending.isSome then issueBacks (setChan d engine channel { x with state := 2, since := [] }) engine channel true
             else idleChan d engine channel)
    | _ => noEvent)

/-- REARM_START (R319): the program before has completed, and every path it wrote has been read back. -/
def execRearmStart (engine channel : Nat) (s : State) : Host.Outcome State Fault Refusal :=
  onInstr engine channel s (fun _ d x i =>
    match i, x.pending with
    | .done, some a => onlyIf (x.state = 2 && x.since.isEmpty && allComplete d engine channel x && x.allPaths.all (·.answered)) (setChan d engine channel (startArm x a))
    | _, _ => noEvent)

/-- The destination path that a reference names; a ring is none. -/
def pathRef (r : PathRef) : Option Path :=
  match r with
  | .ring _ => none
  | .hbm s => some (.hbm s)
  | .tier => some .tier
  | .emtor p => some (.emtor p)
  | .peer a => some (.peer a)

/-- The source number of a failed read-back (R325, R330). -/
def pathSource (p : Path) : Nat :=
  match p with
  | .hbm _ => 1 | .tier => 2 | .emtor _ => 3 | .peer _ => 4

/-- The channel's read-back of a path is outstanding: it stands at a completion point, or its writes are read back for a save (R315, R318, R319). -/
def readBackOpen (d : Dev) (x : Chan) (p : Path) : Option Await :=
  let due := x.state = 2 || (decide (x.arm.owner < 64) && ((getJob d x.arm.owner).state = .suspended || drainsNow d x.arm.owner))
  if due then (x.since.filter (fun a => !a.barrier) ++ x.allPaths).find? (fun a => a.path == p && !a.answered) else none

/-- A read-back of a ring's memory (03 R68): it is outstanding while entries are not covered or the ring is being disabled. -/
def ringReturn (d : Dev) (e n : Nat) (ok : Bool) : DevOut :=
  if 3 ≤ n then .fault .noSuchUnit
  else
    let r := d.win.ring n
    onlyIf (r.unread || r.disabling) (if ok then ringReadBack n d else busError d e 3 r.base)

/-- READ_BACK_RETURN (R315, R316; 03 R68): one that is owed and could not be issued before is issued; a failed read-back is a bus error (R325). -/
def execReadBackReturn (engine channel : Nat) (path : PathRef) (ok : Bool) (s : State) : Host.Outcome State Fault Refusal :=
  onChan engine channel s (fun _ d x =>
    match path, pathRef path with
    | .ring n, _ => ringReturn d engine n ok
    | _, some p =>
      (match readBackOpen d x p with
       | some a =>
         if (getEngine d engine).stopped then noEvent
         else if !backOut d engine channel p then (let t := readBackReq engine channel d a; onlyIf (backOut t engine channel p) t)
         else .next (let d := dropBack d engine channel p
                     if ok then setChan d engine channel (readBackDone x p) else busError d engine (pathSource p) (a.last / 64 * 64))
       | none => noEvent)
    | _, none => noEvent)

/-- BARRIER_ACKNOWLEDGEMENT (R315): the HBM or tier controller's queue acknowledges the channel's barrier writes; an Emtor port does by its flit
acknowledgements, a peer by WRITE_ACK. -/
def execBarrierAcknowledgement (engine channel : Nat) (path : PathRef) (s : State) : Host.Outcome State Fault Refusal :=
  onChan engine channel s (fun _ d x =>
    let hit (a : Await) : Bool := pathRef path == some a.path && a.barrier && !a.answered
    let ctl := match path with
      | .hbm _ => true
      | .tier => true
      | _ => false
    onlyIf (ctl && x.since.any hit && !(getEngine d engine).stopped)
      (setChan d engine channel { x with since := x.since.map (fun a => if hit a then { a with answered := true } else a) }))

/-- The burst is in its port: the next may be fetched (R321). -/
def burstDone (d : Dev) (e c n : Nat) (t : Tile) : Dev := tileMoved (setChan d e c { (getChan d e c) with held := none }) e c n t

/-- BURST_DELIVER (R320, R321): the held tile goes to its consumer port on demand, once. -/
def burstDeliver (d : Dev) (e c n : Nat) (slot q : Nat) (t : Tile) : DevOut :=
  match demands d slot q with
  | none => .next d
  | some (st, p) =>
    if (getQ d slot q).taken.getD 0 0 ≠ t.seq then .next (burstDone d e c n t)
    else match tileConsume slot st p d with
    | .next d => .next (if stopped d slot then d else burstDone d e c n t)
    | r => r

/-- BURST_DELIVER. -/
def execBurstDeliver (engine channel : Nat) (s : State) : Host.Outcome State Fault Refusal :=
  onInstr engine channel s (fun _ d x i =>
    match i, x.held, instrQueue d i with
    | .move _ _ _ n _, some t, some (slot, q) => if queueLive d (some (slot, q)) then burstDeliver d engine channel n slot q t else noEvent
    | _, _, _ => noEvent)

end Sys2Proof.Machine
end

