-- ==== Sys2Proof/Machine/Traffic.lean ====
section
/-!
DEFINITION. Traffic that arrives: answers to reads, feed data, answers and tiles from the hedge, flush markers; the patrol (02 R36, R44; 13 R351 to R353;
14 R366, R371, R372, R378; 15 R384, R399).
-/

namespace Sys2Proof.Machine

open Sys2Proof

/-- The data of a read gather in staging; a whole tile whose seal is broken is found at the receive port (14 R372). -/
def stageData (d : Dev) (e c : Nat) (check : Bool) (bs : Bytes) : Dev :=
  let x := getChan d e c
  let all := x.stage ++ bs
  let d := setChan d e c { x with stage := all }
  let t := Tile.ofBytes all
  match (x.arm.prog[x.pc]?).bind (instrQueue d) with
  | some (slot, q) => if check && decide (all.length = 4160) && decide (t.computeSeal ≠ t.crc) then moverSealFault d slot q e c t else d
  | none => d

/-- The data of a mover's read return: discarded on a stopped engine or for a channel that no longer waits for them (12 R325). -/
def readReturned (d : Dev) (e c : Nat) (r : ReadReq) (bs : Bytes) : Dev :=
  if (getEngine d e).stopped ∨ (getChan d e c).state = 0 then d
  else if r.back.isSome then r.back.toList.foldl (fun d p => setChan d e c (readBackDone (getChan d e c) p)) d
  else if r.stage then stageData d e c r.sealCheck bs
  else match r.dst with
  | some a => moverWrite d e c r.barrier a bs
  | none => d

/-- A read of a mover failed (12 R325): a bus error, on an engine that is not already stopped. -/
def readFailed (d : Dev) (r : ReadReq) (source : Nat) : Dev :=
  match r.reader with
  | .mover e _ => if (getEngine d e).stopped then d else busError d e source r.addr
  | _ => d

/-- A read is no longer outstanding on a port. -/
def dropRead (d : Dev) (port tag : Nat) : Dev := modPort d port (fun l => { l with reads := l.reads.filter (fun r => r.tag != tag) })

/-- The outstanding read of a tag on a port. -/
def findRead (d : Dev) (port tag : Nat) : Option ReadReq := (d.ports.getD port {}).reads.find? (fun r => r.tag == tag)

/-- MEM_DATA (14 R371, R372, R378 rule 3). -/
def memData (port tag : Nat) (bs : Bytes) (error : Bool) (d : Dev) : Dev :=
  match findRead d port tag with
  | none => protocolError d ⟨false, port⟩ 3
  | some r =>
    if !error && decide (bs.length ≠ r.len) then protocolError d ⟨false, port⟩ 3
    else
      let d := dropRead d port tag
      if error then readFailed d r 3
      else match r.reader with
      | .mover e c => readReturned d e c r bs
      | _ => d

/-- MEM_DATA: with ERROR it carries no data (14 R369). -/
def execMemData (port tag : Nat) (data : Bytes) (error : Bool) (s : State) : Host.Outcome State Fault Refusal :=
  runDev s (fun _ d => if 2 ≤ port then .fault .noSuchUnit else onlyIf ((d.ports.getD port {}).up && (!error || data.isEmpty)) (memData port tag data error d))

/-- MEM_READ_TIMEOUT (14 R371 item 8): a missing reply is a bus error with source 3. -/
def execMemReadTimeout (port tag : Nat) (s : State) : Host.Outcome State Fault Refusal :=
  runDev s (fun _ d =>
    if 2 ≤ port then .fault .noSuchUnit
    else match findRead d port tag with
    | none => noEvent
    | some r => .next (readFailed (dropRead d port tag) r 3))

/-- FEED (14 R366, R378 rules 2 and 5): data within the credits join the feed's buffer; of a closed identifier they are discarded and counted, and their
credits are returned. -/
def feedData (port id : Nat) (bs : Bytes) (d : Dev) : Dev :=
  let held := (assocGet (d.ports.getD port {}).feedGranted id).getD 0
  let n := 1 + ceilDiv bs.length 16
  let d := modPort d port (fun l => { l with feedDue := assocSet l.feedDue id ((assocGet l.feedDue id).getD 0 - n) })
  if held = 0 then protocolError d ⟨false, port⟩ 5
  else if held < n then protocolError d ⟨false, port⟩ 2
  else if (getFeed d id).all Feed.closing then
    send (modPort d port (fun l => { l with counts := { l.counts with feedDiscarded := l.counts.feedDiscarded + bs.length } })) (.control (.emtor port) [(2, id, n)])
  else
    let d := modPort d port (fun l => { l with feedGranted := assocSet l.feedGranted id (held - n) })
    topUp (modFeed d id (fun f => { f with partBuf := f.partBuf ++ bs })) id

/-- FEED: 1 to 4,096 bytes (14 R369). -/
def execFeed (port feed : Nat) (data : Bytes) (s : State) : Host.Outcome State Fault Refusal :=
  runDev s (fun _ d =>
    if 2 ≤ port then .fault .noSuchUnit
    else onlyIf ((d.ports.getD port {}).up && decide (1 ≤ data.length) && decide (data.length ≤ 4096)) (feedData port feed data d))

/-- A global address of a peer's memory (13 R331). -/
def remoteAt (dest la : Nat) : Nat := pow2 62 + dest * pow2 48 + la

/-- An answer tells that a pair's packets up to an OSEQ, which counts modulo 2^32, were applied (15 R384); waiting packets follow. -/
def noteAcked (d : Dev) (e dest o : Nat) : Dev :=
  let x := getTx d e dest
  let k := (o + 1 + pow2 32 - x.acked % pow2 32) % pow2 32
  releaseTx d (if x.acked + k ≤ x.next then { x with acked := x.acked + k } else x)

/-- A read past the peer's region end (12 R312): what lies below the end is read again, the MOVE learns its bound. -/
def cutRead (d : Dev) (e c : Nat) (r : ReadReq) (bound : Nat) : Dev :=
  let x := getChan d e c
  if (getEngine d e).stopped ∨ x.state = 0 ∨ (r.dst.isNone ∧ !r.stage) then d
  else if bound ≤ r.addr then moverFault d x.arm.owner e c 0x0402 bound
  else
    let k := bound - r.addr
    if r.stage then setChan d e c { x with srcEnd := some bound }
    else remoteReadReq (setChan d e c { x with srcEnd := some bound, moved := x.moved - (r.len - k) }) e c { r with len := k }

/-- MEM_DATA of the hedge (15 R384, R399 rule 3; 12 R312). -/
def hedgeMemData (l : Nat) (p : Packet) (d : Dev) : Dev :=
  let mine (r : ReadReq) : Bool := r.tag == p.tag && decide ((remoteParts r.addr).1 = p.src) && (match r.reader with
    | .mover e _ => e == p.engine
    | _ => false)
  let error := bit p.pflags 0
  if p.jobTag ≠ 0xFFFFFFFF ∧ !(d.links.getD l {}).isAdmitted then protocolError d ⟨true, l⟩ 5
  else match d.hedge.reads.find? mine with
  | none => protocolError d ⟨true, l⟩ 3
  | some r =>
    if !error && decide (p.data.length ≠ r.len) then protocolError d ⟨true, l⟩ 3
    else
      let d := { d with hedge := { d.hedge with reads := d.hedge.reads.filter (fun q => !mine q) } }
      let d := noteAcked d p.engine p.src (p.aux % pow2 32)
      let bound := remoteAt p.src p.addr
      match r.reader with
      | .mover e c =>
        if error then (if p.addr = 0 ∨ r.addr + r.len ≤ bound then readFailed d r 4 else cutRead d e c r bound)
        else
          let x := getChan d e c
          let d := if p.addr = 0 ∨ x.state = 0 then d else setChan d e c { x with srcEnd := some bound }
          readReturned d e c r p.data
      | _ => d

/-- HEDGE_MEM_DATA (15 R384): with ERROR it carries no data. -/
def execHedgeMemData (link : Nat) (p : PktArg) (s : State) : Host.Outcome State Fault Refusal :=
  runDev s (fun _ d =>
    if 48 ≤ link then .fault .noSuchUnit
    else onlyIf (forThis d link p && (!bit p.pflags 0 || p.data.isEmpty)) (hedgeMemData link (pktOf 3 p) d))

/-- The channel of an engine that waits for the answer to a write. -/
def writer (d : Dev) (e dest tag : Nat) : Option (Nat × SentWr) :=
  d.movers.chans.findSome? (fun x =>
    if x.1.1 = e then (x.2.sentWr.find? (fun w => w.tag == tag && decide ((remoteParts w.addr).1 = dest))).map (fun w => (x.1.2, w)) else none)

/-- A refused write (12 R312, 15 R384): past the region's end it is the bound, and every byte below the end is written; in no region it is a bus error. -/
def writeRefused (d : Dev) (p : Packet) : Dev :=
  let e := p.engine
  let bound := remoteAt p.src p.addr
  match writer d e p.src p.tag with
  | some (c, w) =>
    if p.addr = 0 then (if (getEngine d e).stopped then d else busError d e 4 w.addr)
    else
      let below := w.data.take (bound - w.addr)
      let d := if below.isEmpty then d else sendMem d 1 e 0 p.jobTag w.addr 0 below
      let x := getChan d e c
      moverFault (setChan d e c { x with sentWr := [] }) x.arm.owner e c 0x0402 bound
  | none =>
    match slotOfTag d p.jobTag with
    | some s =>
      if p.addr = 0 then (if (getEngine d e).stopped then d else busError d e 4 bound)
      else jobFault d { code := 0x0402, slot := s, die := engineDie e, detail := moverDetail 0 e ((lowestChan (getJob d s) e).getD 0) 0, detail2 := bound }
    | none => d

/-- Writes that an acknowledgement covers no longer wait; the MOVE in progress learns its bound (12 R312). -/
def ackWrites (d : Dev) (e dest endAddr : Nat) : Dev :=
  let hit (w : SentWr) : Bool := decide ((remoteParts w.addr).1 = dest) && decide (w.oseq < (getTx d e dest).acked)
  let f (x : (Nat × Nat) × Chan) : (Nat × Nat) × Chan :=
    if x.1.1 = e ∧ x.2.sentWr.any hit then
      (x.1, { x.2 with sentWr := x.2.sentWr.filter (fun w => !hit w), dstEnd := if endAddr = 0 then x.2.dstEnd else some (remoteAt dest endAddr) })
    else x
  { d with movers := { d.movers with chans := d.movers.chans.map f } }

/-- WRITE_ACK (15 R384). -/
def writeAck (l : Nat) (p : Packet) (d : Dev) : Dev :=
  let o := p.aux % pow2 32
  if p.jobTag ≠ 0xFFFFFFFF ∧ !(d.links.getD l {}).isAdmitted then protocolError d ⟨true, l⟩ 5
  else
    let d := noteAcked d p.engine p.src o
    if bit p.pflags 0 then writeRefused d p else ackWrites d p.engine p.src p.addr

/-- WRITE_ACK. -/
def execWriteAck (link : Nat) (p : PktArg) (s : State) : Host.Outcome State Fault Refusal :=
  runDev s (fun _ d => if 48 ≤ link then .fault .noSuchUnit else onlyIf (forThis d link p) (writeAck link (pktOf 4 p) d))

/-- The batch stations that take a queue as their input. -/
def batchesOf (j : Job) (q : Nat) : List Nat :=
  (List.range j.image.stations.length).filter (fun st => decide ((j.image.stations.getD st {}).stype = .batch) && ((inQueueNo j st 0).map (·.1)) == some q)

/-- What is expected of a participant's next tile of a queue (02 R35). -/
def expectFar (d : Dev) (slot st h q : Nat) : Expect :=
  let j := getJob d slot
  let y := (batchSt d slot st).holder h
  let qd := j.image.queues.getD q {}
  { jobTag := j.image.jobTag, jobSlot := slot, queue := q, seq := y.nextSeq, firstRow := y.nextRow, format := qd.format, columns := qd.columns,
    types := (getQ d slot q).types }

/-- A batch station's stream of another participant takes its next tile; empty tiles in the middle are done with at once. -/
def takeFar (d : Dev) (slot st h q : Nat) (t : Tile) : Dev :=
  match checkTile (expectFar d slot st h q) t with
  | some code => jobFault d { code := code, slot := slot, die := stationDie (getJob d slot) st, queue := q, producer := t.producer, consumer := st, seqNo := t.seq }
  | none =>
    let d := modQ d slot q (fun x => { x with types := (mergeTypes x.types t).getD x.types })
    modHolder d slot st h (fun y => { y with
      nextSeq := t.seq + 1, nextRow := t.firstRow + t.rowCount, early := y.early.filter (fun x => x.seq != t.seq),
      tiles := if t.rowCount = 0 && !t.eos && t.format = TFmt.columns.code then y.tiles else y.tiles ++ [t] })

/-- Takes what is next in SEQ order (02 R44). -/
def takeInOrder : Nat → Dev → Nat → Nat → Nat → Nat → Dev
  | 0, d, _, _, _, _ => d
  | n + 1, d, slot, st, h, q =>
    let y := (batchSt d slot st).holder h
    match y.early.find? (fun t => t.seq == y.nextSeq) with
    | none => d
    | some t =>
      let d := takeFar d slot st h q t
      if stopped d slot then d else takeInOrder n d slot st h q

/-- Answers a flush marker once every tile below its SEQ is there (15 R384). -/
def answerFlush (d : Dev) (slot st h q : Nat) : Dev :=
  let y := (batchSt d slot st).holder h
  let j := getJob d slot
  match y.flush with
  | some k =>
    if stopped d slot || decide (y.nextSeq < k) then d
    else
      let p : Packet := { ptype := 0x11, src := partAddr d j h, engine := 0xFF, jobTag := j.image.jobTag }
      reply (modHolder d slot st h (fun y => { y with flush := none })) p { ptype := 0x12, aux := q * pow2 48 + k }
  | none => d

/-- The fault of a tile that the receive port cannot place in its queue (02 R37). -/
def arrivalFault (d : Dev) (l slot code : Nat) (t : Tile) : Dev :=
  jobFault d { code := code, slot := slot, die := linkDie ⟨true, l⟩, queue := t.queue, producer := t.producer, seqNo := t.seq % pow2 48 }

/-- A tile from another participant reaches a batch station. Each participant's stream has the slots of one physical queue (02 R46); a tile beyond them is
0x0111, one whose SEQ the stream has passed or holds is 0x0106 (02 R37). -/
def farTile (l slot h q : Nat) (t : Tile) (d : Dev) (st : Nat) : Dev :=
  let y := (batchSt d slot st).holder h
  if stopped d slot then d
  else if t.seq < y.nextSeq ∨ y.early.any (fun x => x.seq == t.seq) then arrivalFault d l slot 0x0106 t
  else if 4096 ≤ y.early.length + y.tiles.length then arrivalFault d l slot 0x0111 t
  else
    let d := modHolder d slot st h (fun y => { y with early := y.early ++ [t] })
    answerFlush (takeInOrder (((batchSt d slot st).holder h).early.length) d slot st h q) slot st h q

/-- Tiles of a queue that are on this device and not yet freed. -/
def QRun.present (q : QRun) : List Tile := q.tiles ++ q.spilled ++ q.held

/-- The lowest SEQ that some consumer has not taken. -/
def QRun.lowest (q : QRun) : Nat := q.taken.foldl min (q.taken.headD 0)

/-- Every tile of a queue below a SEQ has been received: it was taken, or it is here (15 R384). -/
def QRun.received (q : QRun) (k : Nat) : Bool :=
  decide (k ≤ q.lowest + (q.present.filter (fun t => decide (q.lowest ≤ t.seq) && decide (t.seq < k))).length)

/-- Answers the flush markers of a queue whose tiles are all here. -/
def answerMarks (d : Dev) (slot n : Nat) : Dev :=
  let j := getJob d slot
  let q := getQ d slot n
  let ready := q.marks.filter (fun m => q.received m.2)
  ready.foldl (fun d m =>
    reply d { ptype := 0x11, src := partAddr d j m.1, engine := 0xFF, jobTag := j.image.jobTag } { ptype := 0x12, aux := n * pow2 48 + m.2 })
    (modQ d slot n (fun q => { q with marks := q.marks.filter (fun m => !ready.contains m) }))

/-- A tile that crossed the hedge enters its queue's slot on this device; its consumers take it in SEQ order (02 R44, R45). A tile whose SEQ is here already
or was taken is 0x0106, one for which no slot is free 0x0111 (02 R37). The queue keeps one sequence (02 R29). -/
def enterQueue (l slot : Nat) (t : Tile) (d : Dev) : Dev :=
  let q := getQ d slot t.queue
  if t.seq < q.lowest ∨ q.present.any (fun x => x.seq == t.seq) then arrivalFault d l slot 0x0106 t
  else if queueFull (getJob d slot) t.queue q then arrivalFault d l slot 0x0111 t
  else answerMarks (modQ d slot t.queue (fun q => { q with
    tiles := q.tiles ++ [t], moved := true, eos := q.eos || t.eos, nextSeq := max q.nextSeq (t.seq + 1), nextRow := max q.nextRow (t.firstRow + t.rowCount) })) slot t.queue

/-- The participant index of a hedge address. -/
def senderPart (j : Job) (addr : Nat) : Option Nat := j.participants.findIdx? (· == addr)

/-- HEDGE_TILE (02 R33, R34, R36, R44): checked at the receive port, restamped with the local slot, resealed, put in order. A tile for a job that does not
run here is in flight from before a stop and is discarded (04 R127). -/
def hedgeTile (l : Nat) (p : Packet) (d : Dev) : DevOut :=
  let t := Tile.ofBytes p.data
  if p.jobTag ≠ 0xFFFFFFFF ∧ !(d.links.getD l {}).isAdmitted then .next (protocolError d ⟨true, l⟩ 5)
  else match slotOfTag d p.jobTag with
  | none => .next d
  | some slot =>
    let j := getJob d slot
    if j.state ≠ .running then .next d
    else if t.computeSeal ≠ t.crc then .next (arrivalFault d l slot 0x0101 t)
    else if j.image.queues.length ≤ t.queue then .next (arrivalFault d l slot 0x0105 t)
    else match senderPart j p.src with
    | none => noEvent
    | some h =>
      let t := ({ t with jobSlot := slot }).sealed
      if (farQueues j).contains t.queue then .next ((batchesOf j t.queue).foldl (farTile l slot h t.queue t) d)
      else .next (enterQueue l slot t d)

/-- HEDGE_TILE: one tile of 4,160 bytes (15 R382). -/
def execHedgeTile (link : Nat) (p : PktArg) (s : State) : Host.Outcome State Fault Refusal :=
  runDev s (fun _ d =>
    if 48 ≤ link then .fault .noSuchUnit
    else if forThis d link p && decide (p.data.length = 4160) then hedgeTile link (pktOf 0x10 p) d else noEvent)

/-- FLUSH (15 R384): answered when every tile of the sender below the SEQ has been received. -/
def flushMark (l : Nat) (p : Packet) (d : Dev) : DevOut :=
  if p.jobTag ≠ 0xFFFFFFFF ∧ !(d.links.getD l {}).isAdmitted then .next (protocolError d ⟨true, l⟩ 5)
  else match slotOfTag d p.jobTag with
  | none => .next d
  | some slot =>
    let j := getJob d slot
    let q := p.aux / pow2 48
    if j.state ≠ .running then .next d
    else match senderPart j p.src, batchesOf j q with
    | some h, st :: _ => .next (answerFlush (modHolder d slot st h (fun y => { y with flush := some (p.aux % pow2 48) })) slot st h q)
    | some h, [] => onlyIf (decide (q < j.image.queues.length)) (answerMarks (modQ d slot q (fun x => { x with marks := x.marks ++ [(h, p.aux % pow2 48)] })) slot q)
    | none, _ => noEvent

/-- FLUSH. -/
def execFlush (link : Nat) (p : PktArg) (s : State) : Host.Outcome State Fault Refusal :=
  runDev s (fun _ d => if 48 ≤ link then .fault .noSuchUnit else if forThis d link p then flushMark link (pktOf 0x11 p) d else noEvent)

/-- FLUSH_ACK (15 R384): one marker less is awaited on the queue (R118 step 3). -/
def flushAck (l : Nat) (p : Packet) (d : Dev) : DevOut :=
  if p.jobTag ≠ 0xFFFFFFFF ∧ !(d.links.getD l {}).isAdmitted then .next (protocolError d ⟨true, l⟩ 5)
  else match slotOfTag d p.jobTag with
  | none => .next d
  | some slot =>
    let j := getJob d slot
    let q := p.aux / pow2 48
    if j.state ≠ .running then .next d
    else onlyIf (decide (0 < (getQ d slot q).flushing) && (senderPart j p.src).isSome) (modQ d slot q (fun x => { x with flushing := x.flushing - 1 }))

/-- FLUSH_ACK. -/
def execFlushAck (link : Nat) (p : PktArg) (s : State) : Host.Outcome State Fault Refusal :=
  runDev s (fun _ d => if 48 ≤ link then .fault .noSuchUnit else if forThis d link p then flushAck link (pktOf 0x12 p) d else noEvent)

/-- The cluster index of an SRAM address (13 R331). -/
def clusterOf (a : Nat) : Nat := (a - sramBase) / 0x40000

/-- The monitor that counts a sector's corrections (13 R350, 16 R421). -/
def correctionCount (a : Nat) : Nat :=
  if a < hbmEnd then 0x400 + a / stackBytes
  else if sramBase ≤ a then 0x1000 + clusterOf a
  else 0x438 + tierChannel a

/-- DETAIL of SCRUB_POISONED (13 R354). -/
def scrubMemory (a : Nat) : Nat := if a < hbmEnd then 1 else if sramBase ≤ a then 4 else 2

/-- Job slots that hold a sector: by a region, a private area, or a cluster. -/
def sectorHolders (d : Dev) (a : Nat) : List Nat :=
  (List.range 64).filter (fun s =>
    let j := getJob d s
    decide (j.state ≠ .free) &&
    (j.regions.any (fun b => b.whereCode != 0 && b.whereCode != 3 && b.extents.any (fun x => rangesMeet a 64 x.1 x.2)) ||
     (j.areas ++ ((j.shaleAreas ++ j.joinAreas).map (·.2)).flatten ++ (j.saved.map (·.2.2)).flatten).any (fun x => rangesMeet a 64 x.1 x.2) ||
     (decide (sramBase ≤ a) && j.units.contains { kind := 1, die := clusterOf a / 256, index := clusterOf a % 256 }) ||
     d.ckpts.any (fun k => k.tag == j.image.jobTag && k.part == j.partIndex && k.area.any (fun x => rangesMeet a 64 x.1 x.2))))

/-- A cluster's uncorrectable error (R353): a second, of another sector, within 1 h requires a full reset. -/
def clusterError (d : Dev) (a : Nat) : Dev :=
  let c := clusterOf a
  let again := ((assocGet d.facts.clusterErr c).map (fun t => decide (d.time < t + 3600000000000))).getD false
  let d := { d with facts := { d.facts with clusterErr := assocSet d.facts.clusterErr c d.time } }
  if !again then d
  else match sectorHolders d a with
  | [] => deviceFaultReset d { code := 0x0504, die := c / 256, detail := c, detail2 := a }
  | s :: _ => jobFaultReset d { code := 0x0504, slot := s, die := c / 256, detail := c, detail2 := a }

/-- A sector is poisoned (R351): a checkpoint that lies there fails its check on restore (04 R132). -/
def poisonSector (d : Dev) (a : Nat) : Dev :=
  { d with facts := { d.facts with poison := if d.facts.poison.contains a then d.facts.poison else d.facts.poison ++ [a] } }

/-- Counts a correction of a memory, by its monitor (R350). -/
def countCorrection (d : Dev) (i : Nat) : Dev := { d with power := { d.power with counts := assocSet d.power.counts i ((assocGet d.power.counts i).getD 0 + 1) } }

/-- The patrol has found a sector uncorrectable (R352): a job that holds it is told, else it is only counted. -/
def patrolFound (d : Dev) (a mem : Nat) : Dev :=
  match sectorHolders d a with
  | [] => { d with facts := { d.facts with freeBad := d.facts.freeBad + 1 } }
  | hs => hs.foldl (fun d s => jobNotice d { code := 0x0508, slot := s, detail := mem, detail2 := a }) d

/-- PATROL of a memory (R350, R352, R353): a corrected sector is counted; an uncorrectable one is poisoned there, and a job that holds it is told. -/
def patrol (addr : Nat) (bad corrected : Bool) (d : Dev) : Dev :=
  let a := addr / 64 * 64
  if bad then
    let known := d.facts.poison.contains a
    let d := poisonSector { d with facts := { d.facts with dirty := d.facts.dirty.filter (fun s => s.1 != a) } } a
    let d := patrolFound d a (scrubMemory a)
    if sramBase ≤ a ∧ !known then clusterError d a else d
  else if corrected then countCorrection d (correctionCount a)
  else d

/-- PATROL of a cache slice (R349 to R352): a corrected line is counted, and so is a clean one that is fetched again; an uncorrectable dirty one is
poisoned in the cache, and a job that holds the sector is told. -/
def patrolLine (addr slice : Nat) (bad corrected : Bool) (d : Dev) : Dev :=
  let a := addr / 64 * 64
  if corrected then countCorrection d (0x418 + slice)
  else if bad then
    let d := poisonSector d a
    patrolFound { d with facts := { d.facts with dirty := d.facts.dirty.filter (fun s => s.1 != a) ++ [(a, slice)] } } a 3
  else d

/-- PATROL; only HBM addresses are cached (R337, R338). -/
def execPatrol (addr slice : Nat) (bad corrected : Bool) (s : State) : Host.Outcome State Fault Refusal :=
  runDev s (fun _ d =>
    if !inLocal d addr then .fault .noSuchAddress
    else if slice = 255 then onlyIf (!(bad && corrected)) (patrol addr bad corrected d)
    else if 32 ≤ slice then .fault .noSuchUnit
    else onlyIf (decide (addr < hbmEnd)) (patrolLine addr slice bad corrected d))

end Sys2Proof.Machine
end

