-- ==== Sys2Proof/Machine/Dispatch.lean ====
section
/-!
DEFINITION. The dispatch: one arm per constructor of `Instr`, one per row of spec/opcode_table.json.
-/

namespace Sys2Proof.Machine

open Sys2Proof

/-- The effect of a command on everything but the queue. -/
def exec (i : Instr) (s : State) : Host.Outcome State Fault Refusal :=
  match i with
  | .identify idx => Sys2Proof.Machine.execIdentify idx s
  | .attest idx => Sys2Proof.Machine.execAttest idx s
  | .jobLoad idx => Sys2Proof.Machine.execJobLoad idx s
  | .jobStart idx => Sys2Proof.Machine.execJobStart idx s
  | .jobAbort idx => Sys2Proof.Machine.execJobAbort idx s
  | .jobQuery idx => Sys2Proof.Machine.execJobQuery idx s
  | .epochCommit idx => Sys2Proof.Machine.execEpochCommit idx s
  | .epochRollback idx => Sys2Proof.Machine.execEpochRollback idx s
  | .jobRebind idx saved coded duration shale => Sys2Proof.Machine.execJobRebind idx saved coded duration shale s
  | .jobUnload idx => Sys2Proof.Machine.execJobUnload idx s
  | .placementQuery idx => Sys2Proof.Machine.execPlacementQuery idx s
  | .stationPin idx => Sys2Proof.Machine.execStationPin idx s
  | .feedOpen idx => Sys2Proof.Machine.execFeedOpen idx s
  | .feedClose idx => Sys2Proof.Machine.execFeedClose idx s
  | .feedWatermark idx => Sys2Proof.Machine.execFeedWatermark idx s
  | .regionMap idx => Sys2Proof.Machine.execRegionMap idx s
  | .regionUnmap idx => Sys2Proof.Machine.execRegionUnmap idx s
  | .powerSet idx => Sys2Proof.Machine.execPowerSet idx s
  | .powerQuery idx => Sys2Proof.Machine.execPowerQuery idx s
  | .clockSet idx => Sys2Proof.Machine.execClockSet idx s
  | .powerCap idx => Sys2Proof.Machine.execPowerCap idx s
  | .monitorRead idx => Sys2Proof.Machine.execMonitorRead idx s
  | .monitorAlarmSet idx => Sys2Proof.Machine.execMonitorAlarmSet idx s
  | .hedgeDiscover idx => Sys2Proof.Machine.execHedgeDiscover idx s
  | .hedgeAddress idx => Sys2Proof.Machine.execHedgeAddress idx s
  | .hedgeRouteSet idx => Sys2Proof.Machine.execHedgeRouteSet idx s
  | .hedgeStatus idx => Sys2Proof.Machine.execHedgeStatus idx s
  | .peerApprove idx => Sys2Proof.Machine.execPeerApprove idx s
  | .fwStage idx => Sys2Proof.Machine.execFwStage idx s
  | .fwActivate idx => Sys2Proof.Machine.execFwActivate idx s
  | .matchTableLoad idx => Sys2Proof.Machine.execMatchTableLoad idx s
  | .matchTableUpdate idx => Sys2Proof.Machine.execMatchTableUpdate idx s
  | .diagRun idx => Sys2Proof.Machine.execDiagRun idx s
  | .resetDevice idx => Sys2Proof.Machine.execResetDevice idx s
  | .unknownCommand idx => Sys2Proof.Machine.execUnknownCommand idx s
  | .cmdDoorbell stores value => Sys2Proof.Machine.execCmdDoorbell stores value s
  | .cplDoorbell value => Sys2Proof.Machine.execCplDoorbell value s
  | .evtDoorbell value => Sys2Proof.Machine.execEvtDoorbell value s
  | .ringEnableSet value => Sys2Proof.Machine.execRingEnableSet value s
  | .ringDisable value => Sys2Proof.Machine.execRingDisable value s
  | .faultLatchClear => Sys2Proof.Machine.execFaultLatchClear s
  | .evtLostRead => Sys2Proof.Machine.execEvtLostRead s
  | .regReadLowWord off len => Sys2Proof.Machine.execRegReadLowWord off len s
  | .fullReset value => Sys2Proof.Machine.execFullReset value s
  | .regWrite off len value => Sys2Proof.Machine.execRegWrite off len value s
  | .commandFetch gaps => Sys2Proof.Machine.execCommandFetch gaps s
  | .notify ring => Sys2Proof.Machine.execNotify ring s
  | .tileConsume slot station port => Sys2Proof.Machine.execTileConsume slot station port s
  | .creditReturn slot station port => Sys2Proof.Machine.execCreditReturn slot station port s
  | .watchdogSample => Sys2Proof.Machine.execWatchdogSample s
  | .spillValveOpen slot queue => Sys2Proof.Machine.execSpillValveOpen slot queue s
  | .spillRefill slot queue => Sys2Proof.Machine.execSpillRefill slot queue s
  | .saturationReplacement slot station inst counter => Sys2Proof.Machine.execSaturationReplacement slot station inst counter s
  | .intakeObject slot station => Sys2Proof.Machine.execIntakeObject slot station s
  | .feedRecords feed => Sys2Proof.Machine.execFeedRecords feed s
  | .feedWatermarkMessage feed => Sys2Proof.Machine.execFeedWatermarkMessage feed s
  | .unpackObject slot station => Sys2Proof.Machine.execUnpackObject slot station s
  | .parseRecord slot station => Sys2Proof.Machine.execParseRecord slot station s
  | .brambleDivert slot station => Sys2Proof.Machine.execBrambleDivert slot station s
  | .brambleReturn slot station unit => Sys2Proof.Machine.execBrambleReturn slot station unit s
  | .alignRow slot station port => Sys2Proof.Machine.execAlignRow slot station port s
  | .emitTile slot station => Sys2Proof.Machine.execEmitTile slot station s
  | .shaleEncodeBlock slot station => Sys2Proof.Machine.execShaleEncodeBlock slot station s
  | .shaleCompressorResume slot station => Sys2Proof.Machine.execShaleCompressorResume slot station s
  | .shaleDecodeBlock slot station => Sys2Proof.Machine.execShaleDecodeBlock slot station s
  | .shaleDecompressorResume slot station => Sys2Proof.Machine.execShaleDecompressorResume slot station s
  | .matchSearch slot station cells shadow => Sys2Proof.Machine.execMatchSearch slot station cells shadow s
  | .searchRepeat slot station cells shadow => Sys2Proof.Machine.execSearchRepeat slot station cells shadow s
  | .pairCommit slot station => Sys2Proof.Machine.execPairCommit slot station s
  | .scrub slot station ord cells shadow => Sys2Proof.Machine.execScrub slot station ord cells shadow s
  | .tableBuildComplete slot station => Sys2Proof.Machine.execTableBuildComplete slot station s
  | .frequencySample slot station => Sys2Proof.Machine.execFrequencySample slot station s
  | .hashjoinBuildRow slot station => Sys2Proof.Machine.execHashjoinBuildRow slot station s
  | .hashjoinProbeRow slot station => Sys2Proof.Machine.execHashjoinProbeRow slot station s
  | .rowGroup slot station => Sys2Proof.Machine.execRowGroup slot station s
  | .endProgram slot station => Sys2Proof.Machine.execEndProgram slot station s
  | .kNop ka w => Sys2Proof.Machine.execKNop ka w s
  | .kLdcol ka w => Sys2Proof.Machine.execKLdcol ka w s
  | .kStcol ka w => Sys2Proof.Machine.execKStcol ka w s
  | .kMov ka w => Sys2Proof.Machine.execKMov ka w s
  | .kRowidx ka w => Sys2Proof.Machine.execKRowidx ka w s
  | .kInfo ka w => Sys2Proof.Machine.execKInfo ka w s
  | .kValid ka w => Sys2Proof.Machine.execKValid ka w s
  | .kSetnull ka w => Sys2Proof.Machine.execKSetnull ka w s
  | .kCoalesce ka w => Sys2Proof.Machine.execKCoalesce ka w s
  | .kSel ka w => Sys2Proof.Machine.execKSel ka w s
  | .kLdpay ka w => Sys2Proof.Machine.execKLdpay ka w s
  | .kStpay ka w => Sys2Proof.Machine.execKStpay ka w s
  | .kLdtab ka w => Sys2Proof.Machine.execKLdtab ka w s
  | .kBr ka w => Sys2Proof.Machine.execKBr ka w s
  | .kBrz ka w => Sys2Proof.Machine.execKBrz ka w s
  | .kBrnz ka w => Sys2Proof.Machine.execKBrnz ka w s
  | .kEmit ka w => Sys2Proof.Machine.execKEmit ka w s
  | .kEnd ka w => Sys2Proof.Machine.execKEnd ka w s
  | .kRaise ka w => Sys2Proof.Machine.execKRaise ka w s
  | .kScount ka w => Sys2Proof.Machine.execKScount ka w s
  | .kSany ka w => Sys2Proof.Machine.execKSany ka w s
  | .kSall ka w => Sys2Proof.Machine.execKSall ka w s
  | .kMwrite ka w => Sys2Proof.Machine.execKMwrite ka w s
  | .kAdd ka w => Sys2Proof.Machine.execKAdd ka w s
  | .kSub ka w => Sys2Proof.Machine.execKSub ka w s
  | .kMul ka w => Sys2Proof.Machine.execKMul ka w s
  | .kDiv ka w => Sys2Proof.Machine.execKDiv ka w s
  | .kFma ka w => Sys2Proof.Machine.execKFma ka w s
  | .kNeg ka w => Sys2Proof.Machine.execKNeg ka w s
  | .kAbs ka w => Sys2Proof.Machine.execKAbs ka w s
  | .kMin ka w => Sys2Proof.Machine.execKMin ka w s
  | .kMax ka w => Sys2Proof.Machine.execKMax ka w s
  | .kClamp ka w => Sys2Proof.Machine.execKClamp ka w s
  | .kSqrt ka w => Sys2Proof.Machine.execKSqrt ka w s
  | .kRecip ka w => Sys2Proof.Machine.execKRecip ka w s
  | .kRsqrt ka w => Sys2Proof.Machine.execKRsqrt ka w s
  | .kExp ka w => Sys2Proof.Machine.execKExp ka w s
  | .kLog ka w => Sys2Proof.Machine.execKLog ka w s
  | .kLog1p ka w => Sys2Proof.Machine.execKLog1p ka w s
  | .kExpm1 ka w => Sys2Proof.Machine.execKExpm1 ka w s
  | .kFloor ka w => Sys2Proof.Machine.execKFloor ka w s
  | .kCeil ka w => Sys2Proof.Machine.execKCeil ka w s
  | .kRint ka w => Sys2Proof.Machine.execKRint ka w s
  | .kTrunc ka w => Sys2Proof.Machine.execKTrunc ka w s
  | .kMod ka w => Sys2Proof.Machine.execKMod ka w s
  | .kAdds ka w => Sys2Proof.Machine.execKAdds ka w s
  | .kSubs ka w => Sys2Proof.Machine.execKSubs ka w s
  | .kMuls ka w => Sys2Proof.Machine.execKMuls ka w s
  | .kSign ka w => Sys2Proof.Machine.execKSign ka w s
  | .kCopysign ka w => Sys2Proof.Machine.execKCopysign ka w s
  | .kCmpeq ka w => Sys2Proof.Machine.execKCmpeq ka w s
  | .kCmpne ka w => Sys2Proof.Machine.execKCmpne ka w s
  | .kCmplt ka w => Sys2Proof.Machine.execKCmplt ka w s
  | .kCmple ka w => Sys2Proof.Machine.execKCmple ka w s
  | .kCmpgt ka w => Sys2Proof.Machine.execKCmpgt ka w s
  | .kCmpge ka w => Sys2Proof.Machine.execKCmpge ka w s
  | .kIsnan ka w => Sys2Proof.Machine.execKIsnan ka w s
  | .kIsinf ka w => Sys2Proof.Machine.execKIsinf ka w s
  | .kIsfin ka w => Sys2Proof.Machine.execKIsfin ka w s
  | .kAnd ka w => Sys2Proof.Machine.execKAnd ka w s
  | .kOr ka w => Sys2Proof.Machine.execKOr ka w s
  | .kXor ka w => Sys2Proof.Machine.execKXor ka w s
  | .kNot ka w => Sys2Proof.Machine.execKNot ka w s
  | .kAndn ka w => Sys2Proof.Machine.execKAndn ka w s
  | .kShl ka w => Sys2Proof.Machine.execKShl ka w s
  | .kShr ka w => Sys2Proof.Machine.execKShr ka w s
  | .kSar ka w => Sys2Proof.Machine.execKSar ka w s
  | .kRotl ka w => Sys2Proof.Machine.execKRotl ka w s
  | .kRotr ka w => Sys2Proof.Machine.execKRotr ka w s
  | .kPopcnt ka w => Sys2Proof.Machine.execKPopcnt ka w s
  | .kClz ka w => Sys2Proof.Machine.execKClz ka w s
  | .kCtz ka w => Sys2Proof.Machine.execKCtz ka w s
  | .kBswap ka w => Sys2Proof.Machine.execKBswap ka w s
  | .kCvt ka w => Sys2Proof.Machine.execKCvt ka w s
  | .kCvts ka w => Sys2Proof.Machine.execKCvts ka w s
  | .kReint ka w => Sys2Proof.Machine.execKReint ka w s
  | .kTimepart ka w => Sys2Proof.Machine.execKTimepart ka w s
  | .kTimetrunc ka w => Sys2Proof.Machine.execKTimetrunc ka w s
  | .kXxh64 ka w => Sys2Proof.Machine.execKXxh64 ka w s
  | .kMur3l ka w => Sys2Proof.Machine.execKMur3l ka w s
  | .kMur3h ka w => Sys2Proof.Machine.execKMur3h ka w s
  | .kCrc32c ka w => Sys2Proof.Machine.execKCrc32c ka w s
  | .kXxh64c ka w => Sys2Proof.Machine.execKXxh64c ka w s
  | .kHmod ka w => Sys2Proof.Machine.execKHmod ka w s
  | .kHbucket ka w => Sys2Proof.Machine.execKHbucket ka w s
  | .kBucket ka w => Sys2Proof.Machine.execKBucket ka w s
  | .kBucketw ka w => Sys2Proof.Machine.execKBucketw ka w s
  | .kSlen ka w => Sys2Proof.Machine.execKSlen ka w s
  | .kSchars ka w => Sys2Proof.Machine.execKSchars ka w s
  | .kSlower ka w => Sys2Proof.Machine.execKSlower ka w s
  | .kSupper ka w => Sys2Proof.Machine.execKSupper ka w s
  | .kSsub ka w => Sys2Proof.Machine.execKSsub ka w s
  | .kSprefix ka w => Sys2Proof.Machine.execKSprefix ka w s
  | .kSsuffix ka w => Sys2Proof.Machine.execKSsuffix ka w s
  | .kSfind ka w => Sys2Proof.Machine.execKSfind ka w s
  | .kSfield ka w => Sys2Proof.Machine.execKSfield ka w s
  | .kStoi ka w => Sys2Proof.Machine.execKStoi ka w s
  | .kStof ka w => Sys2Proof.Machine.execKStof ka w s
  | .kDstr ka w => Sys2Proof.Machine.execKDstr ka w s
  | .kScat ka w => Sys2Proof.Machine.execKScat ka w s
  | .kAcc ka w => Sys2Proof.Machine.execKAcc ka w s
  | .kAccp ka w => Sys2Proof.Machine.execKAccp ka w s
  | .kAccn ka w => Sys2Proof.Machine.execKAccn ka w s
  | .kAccx ka w => Sys2Proof.Machine.execKAccx ka w s
  | .kSketch ka w => Sys2Proof.Machine.execKSketch ka w s
  | .kAccrd ka w => Sys2Proof.Machine.execKAccrd ka w s
  | .kQread ka w => Sys2Proof.Machine.execKQread ka w s
  | .kAccclr ka w => Sys2Proof.Machine.execKAccclr ka w s
  | .kAccemit ka w => Sys2Proof.Machine.execKAccemit ka w s
  | .kAccmerge ka w => Sys2Proof.Machine.execKAccmerge ka w s
  | .kEmbag ka w => Sys2Proof.Machine.execKEmbag ka w s
  | .kMpack ka w => Sys2Proof.Machine.execKMpack ka w s
  | .kMunpack ka w => Sys2Proof.Machine.execKMunpack ka w s
  | .kCdot ka w => Sys2Proof.Machine.execKCdot ka w s
  | .selectGroup slot station => Sys2Proof.Machine.execSelectGroup slot station s
  | .imageDecode slot station => Sys2Proof.Machine.execImageDecode slot station s
  | .imageWarp slot station => Sys2Proof.Machine.execImageWarp slot station s
  | .shuffleStoreRow slot station => Sys2Proof.Machine.execShuffleStoreRow slot station s
  | .sampleStoreComplete slot station => Sys2Proof.Machine.execSampleStoreComplete slot station s
  | .shuffleEmit slot station port => Sys2Proof.Machine.execShuffleEmit slot station port s
  | .batchAssemble slot station holder => Sys2Proof.Machine.execBatchAssemble slot station holder s
  | .layoutTransfer slot station => Sys2Proof.Machine.execLayoutTransfer slot station s
  | .batchEmit slot station => Sys2Proof.Machine.execBatchEmit slot station s
  | .consumedPoll slot station stores => Sys2Proof.Machine.execConsumedPoll slot station stores s
  | .startBarrier slot part mode check => Sys2Proof.Machine.execStartBarrier slot part mode check s
  | .startBarrierTimeout slot missing => Sys2Proof.Machine.execStartBarrierTimeout slot missing s
  | .prepare slot part epoch cause => Sys2Proof.Machine.execPrepare slot part epoch cause s
  | .checkpointWritten slot size mismatch => Sys2Proof.Machine.execCheckpointWritten slot size mismatch s
  | .prepared slot part epoch dirSeal => Sys2Proof.Machine.execPrepared slot part epoch dirSeal s
  | .commit slot epoch time => Sys2Proof.Machine.execCommit slot epoch time s
  | .commitTimeout slot part => Sys2Proof.Machine.execCommitTimeout slot part s
  | .progressSend slot => Sys2Proof.Machine.execProgressSend slot s
  | .progress slot part => Sys2Proof.Machine.execProgress slot part s
  | .participantLost slot part => Sys2Proof.Machine.execParticipantLost slot part s
  | .stop slot src code => Sys2Proof.Machine.execStop slot src code s
  | .unitIdleTimeout slot die => Sys2Proof.Machine.execUnitIdleTimeout slot die s
  | .recoveryReset => Sys2Proof.Machine.execRecoveryReset s
  | .restoreComplete slot part epoch shale => Sys2Proof.Machine.execRestoreComplete slot part epoch shale s
  | .resume slot => Sys2Proof.Machine.execResume slot s
  | .abort slot => Sys2Proof.Machine.execAbort slot s
  | .rollback slot again => Sys2Proof.Machine.execRollback slot again s
  | .waitEdges slot part edges => Sys2Proof.Machine.execWaitEdges slot part edges s
  | .partials slot station part data => Sys2Proof.Machine.execPartials slot station part data s
  | .validCounts slot station part window count => Sys2Proof.Machine.execValidCounts slot station part window count s
  | .sampleHoldings slot station part held => Sys2Proof.Machine.execSampleHoldings slot station part held s
  | .arm engine channel desc prog src => Sys2Proof.Machine.execArm engine channel desc prog src s
  | .move engine channel => Sys2Proof.Machine.execMove engine channel s
  | .loop engine channel => Sys2Proof.Machine.execLoop engine channel s
  | .wait engine channel => Sys2Proof.Machine.execWait engine channel s
  | .signal engine channel => Sys2Proof.Machine.execSignal engine channel s
  | .moverEnd engine channel => Sys2Proof.Machine.execMoverEnd engine channel s
  | .waitTimeout engine channel => Sys2Proof.Machine.execWaitTimeout engine channel s
  | .readBackReturn engine channel path ok => Sys2Proof.Machine.execReadBackReturn engine channel path ok s
  | .rearmStart engine channel => Sys2Proof.Machine.execRearmStart engine channel s
  | .burstDeliver engine channel => Sys2Proof.Machine.execBurstDeliver engine channel s
  | .moverBusError engine source addr => Sys2Proof.Machine.execMoverBusError engine source addr s
  | .moverDrainComplete engine => Sys2Proof.Machine.execMoverDrainComplete engine s
  | .drainTimeout engine => Sys2Proof.Machine.execDrainTimeout engine s
  | .moverClear engine => Sys2Proof.Machine.execMoverClear engine s
  | .patrol addr slice bad corrected => Sys2Proof.Machine.execPatrol addr slice bad corrected s
  | .trainingFrame link bs => Sys2Proof.Machine.execTrainingFrame link bs s
  | .trainingStepTimeout link => Sys2Proof.Machine.execTrainingStepTimeout link s
  | .trainingRetry link => Sys2Proof.Machine.execTrainingRetry link s
  | .fastRetrain link => Sys2Proof.Machine.execFastRetrain link s
  | .flitReceive link times => Sys2Proof.Machine.execFlitReceive link times s
  | .controlFlit link entries => Sys2Proof.Machine.execControlFlit link entries s
  | .memData port tag data error => Sys2Proof.Machine.execMemData port tag data error s
  | .feed port feed data => Sys2Proof.Machine.execFeed port feed data s
  | .memReadTimeout port tag => Sys2Proof.Machine.execMemReadTimeout port tag s
  | .codewordLockLoss link => Sys2Proof.Machine.execCodewordLockLoss link s
  | .lowPowerIdle link => Sys2Proof.Machine.execLowPowerIdle link s
  | .wake link => Sys2Proof.Machine.execWake link s
  | .hedgeMemWrite link p => Sys2Proof.Machine.execHedgeMemWrite link p s
  | .hedgeMemRead link p => Sys2Proof.Machine.execHedgeMemRead link p s
  | .hedgeMemData link p => Sys2Proof.Machine.execHedgeMemData link p s
  | .writeAck link p => Sys2Proof.Machine.execWriteAck link p s
  | .writeAckTimer engine src => Sys2Proof.Machine.execWriteAckTimer engine src s
  | .hedgeTile link p => Sys2Proof.Machine.execHedgeTile link p s
  | .flush link p => Sys2Proof.Machine.execFlush link p s
  | .flushAck link p => Sys2Proof.Machine.execFlushAck link p s
  | .linkState link r => Sys2Proof.Machine.execLinkState link r s
  | .discovery link phase recs => Sys2Proof.Machine.execDiscovery link phase recs s
  | .ident link aux data => Sys2Proof.Machine.execIdent link aux data s
  | .identTimeout link => Sys2Proof.Machine.execIdentTimeout link s
  | .identRetry link => Sys2Proof.Machine.execIdentRetry link s
  | .admitLink link approve => Sys2Proof.Machine.execAdmit link approve s
  | .timeSync link kind t1 t2 t3 => Sys2Proof.Machine.execTimeSync link kind t1 t2 t3 s
  | .timeSyncTick => Sys2Proof.Machine.execTimeSyncTick s
  | .packetForward link ptype p => Sys2Proof.Machine.execPacketForward link ptype p s
  | .escapeTimeout link ptype p => Sys2Proof.Machine.execEscapeTimeout link ptype p s
  | .hedgeLinkDown link reason => Sys2Proof.Machine.execHedgeLinkDown link reason s
  | .enumerate next => Sys2Proof.Machine.execEnumerate next s
  | .lastDeviceTimeout => Sys2Proof.Machine.execLastDeviceTimeout s
  | .chainCommand up bs => Sys2Proof.Machine.execChainCommand up bs s
  | .chainFrameForward up bs => Sys2Proof.Machine.execChainFrameForward up bs s
  | .turnPass up => Sys2Proof.Machine.execTurnPass up s
  | .heartbeatTick => Sys2Proof.Machine.execHeartbeatTick s
  | .heartbeat src => Sys2Proof.Machine.execHeartbeat src s
  | .heartbeatMissing missing => Sys2Proof.Machine.execHeartbeatMissing missing s
  | .referenceLost => Sys2Proof.Machine.execReferenceLost s
  | .referenceReturn => Sys2Proof.Machine.execReferenceReturn s
  | .thermalTrip die => Sys2Proof.Machine.execThermalTrip die s
  | .domainWakeTimeout die domain => Sys2Proof.Machine.execDomainWakeTimeout die domain s
  | .monitorSample readings sat railsOut => Sys2Proof.Machine.execMonitorSample readings sat railsOut s
  | .powerOn straps tierGib => Sys2Proof.Machine.execPowerOn straps tierGib s
  | .resetNAssert cool => Sys2Proof.Machine.execResetNAssert cool s
  | .bootComplete selfTest hbmFail tierFail flashFail => Sys2Proof.Machine.execBootComplete selfTest hbmFail tierFail flashFail s
  | .bootStepTimeout die => Sys2Proof.Machine.execBootStepTimeout die s
  | .bypass => Sys2Proof.Machine.execBypass s
  | .idcode => Sys2Proof.Machine.execIdcode s
  | .samplePreload => Sys2Proof.Machine.execSamplePreload s
  | .extest => Sys2Proof.Machine.execExtest s
  | .extestPulse => Sys2Proof.Machine.execExtestPulse s
  | .extestTrain => Sys2Proof.Machine.execExtestTrain s
  | .debugChallenge => Sys2Proof.Machine.execDebugChallenge s
  | .debugToken bs => Sys2Proof.Machine.execDebugToken bs s
  | .debugStatus => Sys2Proof.Machine.execDebugStatus s
  | .railRemoval vaon tier => Sys2Proof.Machine.execRailRemoval vaon tier s
  | .resetNRelease => Sys2Proof.Machine.execResetNRelease s
  | .barrierAcknowledgement engine channel path => Sys2Proof.Machine.execBarrierAcknowledgement engine channel path s

end Sys2Proof.Machine
end

