-- ==== Sys2Proof/Machine/Step.lean ====
section
/-!
DEFINITION. The step: the command at the front of the queue is executed; on an empty queue only time passes.
-/

namespace Sys2Proof.Machine

open Sys2Proof

/-- What an idle step adds to the device timestamp: 1 µs (log entry 25). -/
def idleStep (s : State) : State := { s with dev := { s.dev with time := s.dev.time + idleNs } }

/-- One step (log entry 25). -/
def step (s : State) : Host.Outcome State Fault Refusal :=
  match s.pending with
  | [] => .next (idleStep s)
  | c :: rest => exec c { s with pending := rest }

/-- The state with the command that a word spells in front of its queue; unchanged where it spells none. -/
def State.withFetchWord (s : State) (nbits w : Nat) : State :=
  match Sys2Proof.decodeTableWord nbits w with
  | some c => { s with pending := c :: s.pending }
  | none => s

end Sys2Proof.Machine
end

