-- ==== Sys2Proof/Safety.lean ====
section
/-!
DEFINITION. What counts as a safe run, and the words in which statements are made: the end of a command, the row commands of a running station,
the kernel word that is due.
-/

namespace Sys2Proof

open Sys2Proof.Machine

/-- What every step keeps: the memory is in canonical form, and no write of a finished command is still posted. -/
def Inv (s : State) : Prop := Memory.wf s.mem = true ∧ s.dev.posted = []

/-- The step answers a next state. -/
def Goes (s : State) : Prop := ∃ t, step s = .next t

/-- Every step of a run of `n` steps answers a next state that keeps the invariant. -/
def SafeRun : Nat → State → Prop
  | 0, s => Inv s
  | n + 1, s => Inv s ∧ ∃ t, step s = .next t ∧ SafeRun n t

/-- The device as a command finds it: what the last command sent is gone, no write is posted. -/
abbrev start (s : State) : Dev := fresh s.dev

/-- The device as a row command of a station finds it: one more free value has been counted (log entry 2). -/
abbrev rowStart (s : State) : Dev := { fresh s.dev with free := s.dev.free + 1 }

/-- The state in which a command ends with a device: its posted writes have reached memory, the queue is as it was. -/
def ended (s : State) (d : Dev) : State := { pending := s.pending, mem := applyPosts s.mem d.posted, dev := { d with posted := [] } }

/-- The command answers the next state that a device gives. -/
def Takes (c : Instr) (s : State) (d : Dev) : Prop := exec c s = .next (ended s d)

/-- A row command finds its station: the job of the slot runs and the station is of the type. -/
def AtStation (s : State) (slot st : Nat) (ok : SType → Bool) : Prop :=
  slot < 64 ∧ (getJob s.dev slot).state = .running ∧ st < (getJob s.dev slot).image.stations.length ∧ ok (descSt s.dev slot st).stype = true

/-- A row command finds its queue. -/
def AtQueue (s : State) (slot queue : Nat) : Prop :=
  slot < 64 ∧ (getJob s.dev slot).state = .running ∧ queue < (getJob s.dev slot).image.queues.length

/-- The mailbox command with a ring index is due: it is in progress, carries the row's code, the rings are served, it need not wait, and no check of R79
turns it away. -/
def Due (s : State) (sv : Service) (idx : Nat) (c : Cmd) : Prop :=
  findCmd s.dev idx = some c ∧ c.opcode = sv.opcode ∧ served s.dev = true ∧ mustWait s.dev c = false ∧ sv.refuses s.mem (start s) c = none

/-- The kernel word of a row is due: the station's row group is open in context `c`, the program's next word is this one, and the group's budget of words
is not used up (08 R223). -/
def WordDue (s : State) (ka : KAt) (op : Nat) (w : KWord) (c : Ctx) : Prop :=
  AtStation s ka.slot ka.station (· = .kernel) ∧ (kernelSt s.dev ka.slot ka.station).ctx = some c ∧
  c.pc < (descSt s.dev ka.slot ka.station).programWords ∧ c.steps < 1048576 ∧
  progWord (getJob s.dev ka.slot).image (descSt s.dev ka.slot ka.station) c.pc = { op := op, ty := w.ty, d := w.d, a := w.a, b := w.b, c := w.c, imm := w.imm }

/-- The word's fields as the program holds them. -/
def KWord.prog (w : KWord) (op : Nat) : PWord := { op := op, ty := w.ty, d := w.d, a := w.a, b := w.b, c := w.c, imm := w.imm }

/-- What the word acts on: the context has moved past it. -/
def wordStart (s : State) (ka : KAt) (c : Ctx) : KM :=
  { d := rowStart s, k := { kernelSt s.dev ka.slot ka.station with ctx := none }, c := { c with pc := c.pc + 1, steps := c.steps + 1 } }

/-- The device after a word that ends normally: the context is kept, or the group closes where the word ended it. -/
def wordEnd (ka : KAt) (x : KM) : Dev :=
  if x.c.done then closeCtx ka.slot ka.station x else setKind x.d ka.slot ka.station (.kernel { x.k with ctx := some x.c })

/-- The terms that a cell has counted. -/
def Machine.KCell.terms : KCell → Nat
  | .sum a => a.count
  | .count n => n
  | .ext _ _ => 0

end Sys2Proof
end

