-- ==== Sys2Proof/WellFormed.lean ====
section
/-!
DEFINITION. Well-formed commands: every operand that names a unit names one that exists (01 R15, 03 R87, 12 R304, 14 R355, 15 R379), and every number
fits the field that carries it. A command that is not well-formed still has an answer: `exec` stops with `noSuchUnit`, or finds no such event.
-/

namespace Sys2Proof

/-- A number fits a field of `w` bits. -/
def fits (w v : Nat) : Bool := decide (v < 2 ^ w)

/-- A job slot, 0 to 63. -/
def slotOk (slot : Nat) : Bool := decide (slot < 64)
/-- A mover engine, 0 to 95 (12 R304). -/
def engineOk (engine : Nat) : Bool := decide (engine < 96)
/-- A channel of an engine, 0 to 63 (12 R304). -/
def channelOk (channel : Nat) : Bool := decide (channel < 64)
/-- A hedge link, 0 to 47 (15 R379). -/
def hedgeLinkOk (link : Nat) : Bool := decide (link < 48)
/-- An Emtor port, 0 or 1 (14 R355). -/
def portOk (port : Nat) : Bool := decide (port < 2)
/-- A die, 0 to 99 (16 R414). -/
def dieOk (die : Nat) : Bool := decide (die < 100)

/-- A named link exists. -/
def LinkRef.wf (r : LinkRef) : Bool := if r.hedge then hedgeLinkOk r.num else portOk r.num

/-- Where a kernel op executes is a slot and a station number. -/
def KAt.wf (k : KAt) : Bool := slotOk k.slot && fits 16 k.station

/-- The fields of a program word fit it (08 R221). -/
def KWord.wf (w : KWord) : Bool := fits 8 w.ty && fits 8 w.d && fits 8 w.a && fits 8 w.b && fits 8 w.c && fits 16 w.imm

/-- The fields of a packet fit its header, and its data its LENGTH (15 R381). -/
def PktArg.wf (p : PktArg) : Bool :=
  fits 8 p.pflags && fits 14 p.dest && fits 16 p.src && fits 8 p.hops && fits 8 p.engine && fits 32 p.jobTag && fits 16 p.tag && fits 64 p.addr && fits 64 p.aux &&
  decide (p.data.length ≤ 4160)

/-- A link of a record exists. -/
def TopoLink.wf (k : TopoLink) : Bool := hedgeLinkOk k.link

/-- A record of a device's links: an address of 14 bits where it holds one, links that exist (15 R390). -/
def TopoRec.wf (r : TopoRec) : Bool := (r.addr.map (fits 14)).getD true && fits 32 r.seqNo && r.links.all TopoLink.wf

/-- A destination path or a ring exists (12 R314, 03 R64). -/
def PathRef.wf (p : PathRef) : Bool :=
  match p with
  | .ring n => decide (n < 3)
  | .hbm stack => decide (stack < 24)
  | .tier => true
  | .emtor port => portOk port
  | .peer addr => fits 14 addr

/-- A soft error names a cell group and bits of a unit (07 R197). -/
def CellHit.wf (c : CellHit) : Bool := decide (c.part < 5) && fits 64 c.flip

/-- Every operand of a command is one that the row admits. -/
def wfInstr (i : Instr) : Bool :=
  match i with
  | .identify idx => fits 16 idx
  | .attest idx => fits 16 idx
  | .jobLoad idx => fits 16 idx
  | .jobStart idx => fits 16 idx
  | .jobAbort idx => fits 16 idx
  | .jobQuery idx => fits 16 idx
  | .epochCommit idx => fits 16 idx
  | .epochRollback idx => fits 16 idx
  | .jobRebind idx _ _ _ shale => fits 16 idx && fits 16 shale
  | .jobUnload idx => fits 16 idx
  | .placementQuery idx => fits 16 idx
  | .stationPin idx => fits 16 idx
  | .feedOpen idx => fits 16 idx
  | .feedClose idx => fits 16 idx
  | .feedWatermark idx => fits 16 idx
  | .regionMap idx => fits 16 idx
  | .regionUnmap idx => fits 16 idx
  | .powerSet idx => fits 16 idx
  | .powerQuery idx => fits 16 idx
  | .clockSet idx => fits 16 idx
  | .powerCap idx => fits 16 idx
  | .monitorRead idx => fits 16 idx
  | .monitorAlarmSet idx => fits 16 idx
  | .hedgeDiscover idx => fits 16 idx
  | .hedgeAddress idx => fits 16 idx
  | .hedgeRouteSet idx => fits 16 idx
  | .hedgeStatus idx => fits 16 idx
  | .peerApprove idx => fits 16 idx
  | .fwStage idx => fits 16 idx
  | .fwActivate idx => fits 16 idx
  | .matchTableLoad idx => fits 16 idx
  | .matchTableUpdate idx => fits 16 idx
  | .diagRun idx => fits 16 idx
  | .resetDevice idx => fits 16 idx
  | .unknownCommand idx => fits 16 idx
  | .cmdDoorbell _ value => fits 64 value
  | .cplDoorbell value => fits 64 value
  | .evtDoorbell value => fits 64 value
  | .ringEnableSet value => fits 64 value
  | .ringDisable value => fits 64 value
  | .faultLatchClear => true
  | .evtLostRead => true
  | .regReadLowWord off len => fits 12 off && fits 4 len
  | .fullReset value => fits 64 value
  | .regWrite off len value => fits 16 off && (len = 4 || len = 8) && fits 64 value
  | .commandFetch _ => true
  | .notify ring => decide (ring < 2)
  | .tileConsume slot station port => slotOk slot && fits 16 station && fits 8 port
  | .creditReturn slot station port => slotOk slot && fits 16 station && fits 8 port
  | .watchdogSample => true
  | .spillValveOpen slot queue => slotOk slot && fits 16 queue
  | .spillRefill slot queue => slotOk slot && fits 16 queue
  | .saturationReplacement slot station inst counter => slotOk slot && fits 16 station && fits 16 inst && fits 16 counter
  | .intakeObject slot station => slotOk slot && fits 16 station
  | .feedRecords feed => fits 16 feed
  | .feedWatermarkMessage feed => fits 16 feed
  | .unpackObject slot station => slotOk slot && fits 16 station
  | .parseRecord slot station => slotOk slot && fits 16 station
  | .brambleDivert slot station => slotOk slot && fits 16 station
  | .brambleReturn slot station unit => slotOk slot && fits 16 station && fits 16 unit
  | .alignRow slot station port => slotOk slot && fits 16 station && fits 8 port
  | .emitTile slot station => slotOk slot && fits 16 station
  | .shaleEncodeBlock slot station => slotOk slot && fits 16 station
  | .shaleCompressorResume slot station => slotOk slot && fits 16 station
  | .shaleDecodeBlock slot station => slotOk slot && fits 16 station
  | .shaleDecompressorResume slot station => slotOk slot && fits 16 station
  | .matchSearch slot station cells _ => slotOk slot && fits 16 station && cells.all CellHit.wf
  | .searchRepeat slot station cells _ => slotOk slot && fits 16 station && cells.all CellHit.wf
  | .pairCommit slot station => slotOk slot && fits 16 station
  | .scrub slot station _ cells _ => slotOk slot && fits 16 station && cells.all CellHit.wf
  | .tableBuildComplete slot station => slotOk slot && fits 16 station
  | .frequencySample slot station => slotOk slot && fits 16 station
  | .hashjoinBuildRow slot station => slotOk slot && fits 16 station
  | .hashjoinProbeRow slot station => slotOk slot && fits 16 station
  | .rowGroup slot station => slotOk slot && fits 16 station
  | .endProgram slot station => slotOk slot && fits 16 station
  | .kNop ka w => ka.wf && w.wf
  | .kLdcol ka w => ka.wf && w.wf
  | .kStcol ka w => ka.wf && w.wf
  | .kMov ka w => ka.wf && w.wf
  | .kRowidx ka w => ka.wf && w.wf
  | .kInfo ka w => ka.wf && w.wf
  | .kValid ka w => ka.wf && w.wf
  | .kSetnull ka w => ka.wf && w.wf
  | .kCoalesce ka w => ka.wf && w.wf
  | .kSel ka w => ka.wf && w.wf
  | .kLdpay ka w => ka.wf && w.wf
  | .kStpay ka w => ka.wf && w.wf
  | .kLdtab ka w => ka.wf && w.wf
  | .kBr ka w => ka.wf && w.wf
  | .kBrz ka w => ka.wf && w.wf
  | .kBrnz ka w => ka.wf && w.wf
  | .kEmit ka w => ka.wf && w.wf
  | .kEnd ka w => ka.wf && w.wf
  | .kRaise ka w => ka.wf && w.wf
  | .kScount ka w => ka.wf && w.wf
  | .kSany ka w => ka.wf && w.wf
  | .kSall ka w => ka.wf && w.wf
  | .kMwrite ka w => ka.wf && w.wf
  | .kAdd ka w => ka.wf && w.wf
  | .kSub ka w => ka.wf && w.wf
  | .kMul ka w => ka.wf && w.wf
  | .kDiv ka w => ka.wf && w.wf
  | .kFma ka w => ka.wf && w.wf
  | .kNeg ka w => ka.wf && w.wf
  | .kAbs ka w => ka.wf && w.wf
  | .kMin ka w => ka.wf && w.wf
  | .kMax ka w => ka.wf && w.wf
  | .kClamp ka w => ka.wf && w.wf
  | .kSqrt ka w => ka.wf && w.wf
  | .kRecip ka w => ka.wf && w.wf
  | .kRsqrt ka w => ka.wf && w.wf
  | .kExp ka w => ka.wf && w.wf
  | .kLog ka w => ka.wf && w.wf
  | .kLog1p ka w => ka.wf && w.wf
  | .kExpm1 ka w => ka.wf && w.wf
  | .kFloor ka w => ka.wf && w.wf
  | .kCeil ka w => ka.wf && w.wf
  | .kRint ka w => ka.wf && w.wf
  | .kTrunc ka w => ka.wf && w.wf
  | .kMod ka w => ka.wf && w.wf
  | .kAdds ka w => ka.wf && w.wf
  | .kSubs ka w => ka.wf && w.wf
  | .kMuls ka w => ka.wf && w.wf
  | .kSign ka w => ka.wf && w.wf
  | .kCopysign ka w => ka.wf && w.wf
  | .kCmpeq ka w => ka.wf && w.wf
  | .kCmpne ka w => ka.wf && w.wf
  | .kCmplt ka w => ka.wf && w.wf
  | .kCmple ka w => ka.wf && w.wf
  | .kCmpgt ka w => ka.wf && w.wf
  | .kCmpge ka w => ka.wf && w.wf
  | .kIsnan ka w => ka.wf && w.wf
  | .kIsinf ka w => ka.wf && w.wf
  | .kIsfin ka w => ka.wf && w.wf
  | .kAnd ka w => ka.wf && w.wf
  | .kOr ka w => ka.wf && w.wf
  | .kXor ka w => ka.wf && w.wf
  | .kNot ka w => ka.wf && w.wf
  | .kAndn ka w => ka.wf && w.wf
  | .kShl ka w => ka.wf && w.wf
  | .kShr ka w => ka.wf && w.wf
  | .kSar ka w => ka.wf && w.wf
  | .kRotl ka w => ka.wf && w.wf
  | .kRotr ka w => ka.wf && w.wf
  | .kPopcnt ka w => ka.wf && w.wf
  | .kClz ka w => ka.wf && w.wf
  | .kCtz ka w => ka.wf && w.wf
  | .kBswap ka w => ka.wf && w.wf
  | .kCvt ka w => ka.wf && w.wf
  | .kCvts ka w => ka.wf && w.wf
  | .kReint ka w => ka.wf && w.wf
  | .kTimepart ka w => ka.wf && w.wf
  | .kTimetrunc ka w => ka.wf && w.wf
  | .kXxh64 ka w => ka.wf && w.wf
  | .kMur3l ka w => ka.wf && w.wf
  | .kMur3h ka w => ka.wf && w.wf
  | .kCrc32c ka w => ka.wf && w.wf
  | .kXxh64c ka w => ka.wf && w.wf
  | .kHmod ka w => ka.wf && w.wf
  | .kHbucket ka w => ka.wf && w.wf
  | .kBucket ka w => ka.wf && w.wf
  | .kBucketw ka w => ka.wf && w.wf
  | .kSlen ka w => ka.wf && w.wf
  | .kSchars ka w => ka.wf && w.wf
  | .kSlower ka w => ka.wf && w.wf
  | .kSupper ka w => ka.wf && w.wf
  | .kSsub ka w => ka.wf && w.wf
  | .kSprefix ka w => ka.wf && w.wf
  | .kSsuffix ka w => ka.wf && w.wf
  | .kSfind ka w => ka.wf && w.wf
  | .kSfield ka w => ka.wf && w.wf
  | .kStoi ka w => ka.wf && w.wf
  | .kStof ka w => ka.wf && w.wf
  | .kDstr ka w => ka.wf && w.wf
  | .kScat ka w => ka.wf && w.wf
  | .kAcc ka w => ka.wf && w.wf
  | .kAccp ka w => ka.wf && w.wf
  | .kAccn ka w => ka.wf && w.wf
  | .kAccx ka w => ka.wf && w.wf
  | .kSketch ka w => ka.wf && w.wf
  | .kAccrd ka w => ka.wf && w.wf
  | .kQread ka w => ka.wf && w.wf
  | .kAccclr ka w => ka.wf && w.wf
  | .kAccemit ka w => ka.wf && w.wf
  | .kAccmerge ka w => ka.wf && w.wf
  | .kEmbag ka w => ka.wf && w.wf
  | .kMpack ka w => ka.wf && w.wf
  | .kMunpack ka w => ka.wf && w.wf
  | .kCdot ka w => ka.wf && w.wf
  | .selectGroup slot station => slotOk slot && fits 16 station
  | .imageDecode slot station => slotOk slot && fits 16 station
  | .imageWarp slot station => slotOk slot && fits 16 station
  | .shuffleStoreRow slot station => slotOk slot && fits 16 station
  | .sampleStoreComplete slot station => slotOk slot && fits 16 station
  | .shuffleEmit slot station port => slotOk slot && fits 16 station && fits 8 port
  | .batchAssemble slot station holder => slotOk slot && fits 16 station && fits 16 holder
  | .layoutTransfer slot station => slotOk slot && fits 16 station
  | .batchEmit slot station => slotOk slot && fits 16 station
  | .consumedPoll slot station _ => slotOk slot && fits 16 station
  | .startBarrier slot part _ check => slotOk slot && fits 16 part && fits 64 check
  | .startBarrierTimeout slot missing => slotOk slot && fits 16 missing
  | .prepare slot part epoch cause => slotOk slot && fits 16 part && fits 32 epoch && decide (cause ≤ 2)
  | .checkpointWritten slot size mismatch => slotOk slot && fits 64 size && mismatch.all (fun x => fits 32 x.1 && fits 12 x.2)
  | .prepared slot part epoch dirSeal => slotOk slot && fits 16 part && fits 32 epoch && decide (dirSeal.length = 8)
  | .commit slot epoch time => slotOk slot && fits 32 epoch && fits 64 time
  | .commitTimeout slot part => slotOk slot && fits 16 part
  | .progressSend slot => slotOk slot
  | .progress slot part => slotOk slot && fits 16 part
  | .participantLost slot part => slotOk slot && fits 16 part
  | .stop slot src code => slotOk slot && fits 14 src && fits 16 code
  | .unitIdleTimeout slot die => slotOk slot && dieOk die
  | .recoveryReset => true
  | .restoreComplete slot part epoch shale => slotOk slot && fits 16 part && (epoch.map (fits 32)).getD true && fits 16 shale
  | .resume slot => slotOk slot
  | .abort slot => slotOk slot
  | .rollback slot _ => slotOk slot
  | .waitEdges slot part _ => slotOk slot && fits 16 part
  | .partials slot station part _ => slotOk slot && fits 16 station && fits 16 part
  | .validCounts slot station part _ _ => slotOk slot && fits 16 station && fits 16 part
  | .sampleHoldings slot station part _ => slotOk slot && fits 16 station && fits 16 part
  | .arm engine channel desc _ _ => engineOk engine && channelOk channel && decide (desc.length = 64)
  | .move engine channel => engineOk engine && channelOk channel
  | .loop engine channel => engineOk engine && channelOk channel
  | .wait engine channel => engineOk engine && channelOk channel
  | .signal engine channel => engineOk engine && channelOk channel
  | .moverEnd engine channel => engineOk engine && channelOk channel
  | .waitTimeout engine channel => engineOk engine && channelOk channel
  | .readBackReturn engine channel path _ => engineOk engine && channelOk channel && path.wf
  | .rearmStart engine channel => engineOk engine && channelOk channel
  | .burstDeliver engine channel => engineOk engine && channelOk channel
  | .moverBusError engine source addr => engineOk engine && (decide (1 ≤ source) && decide (source ≤ 5)) && fits 64 addr
  | .moverDrainComplete engine => engineOk engine
  | .drainTimeout engine => engineOk engine
  | .moverClear engine => engineOk engine
  | .patrol addr slice _ _ => fits 64 addr && (decide (slice < 32) || decide (slice = 255))
  | .trainingFrame link bs => link.wf && decide (bs.length = 32)
  | .trainingStepTimeout link => link.wf
  | .trainingRetry link => link.wf
  | .fastRetrain link => link.wf
  | .flitReceive link times => link.wf && times.all (fun lanes => lanes.all (fun l => l.all (fits 10)))
  | .controlFlit link entries => link.wf && decide (entries.length ≤ 30)
  | .memData port tag data _ => portOk port && fits 16 tag && decide (data.length ≤ 4096)
  | .feed port feed data => portOk port && fits 16 feed && decide (data.length ≤ 4096)
  | .memReadTimeout port tag => portOk port && fits 16 tag
  | .codewordLockLoss link => link.wf
  | .lowPowerIdle link => link.wf
  | .wake link => link.wf
  | .hedgeMemWrite link p => hedgeLinkOk link && p.wf
  | .hedgeMemRead link p => hedgeLinkOk link && p.wf
  | .hedgeMemData link p => hedgeLinkOk link && p.wf
  | .writeAck link p => hedgeLinkOk link && p.wf
  | .writeAckTimer engine src => fits 8 engine && fits 14 src
  | .hedgeTile link p => hedgeLinkOk link && p.wf
  | .flush link p => hedgeLinkOk link && p.wf
  | .flushAck link p => hedgeLinkOk link && p.wf
  | .linkState link r => hedgeLinkOk link && r.wf
  | .discovery link _ recs => hedgeLinkOk link && recs.all TopoRec.wf
  | .ident link _ _ => hedgeLinkOk link
  | .identTimeout link => hedgeLinkOk link
  | .identRetry link => hedgeLinkOk link
  | .admitLink link _ => hedgeLinkOk link
  | .timeSync link _ _ _ _ => hedgeLinkOk link
  | .timeSyncTick => true
  | .packetForward link ptype p => hedgeLinkOk link && fits 8 ptype && p.wf
  | .escapeTimeout link ptype p => hedgeLinkOk link && fits 8 ptype && p.wf
  | .hedgeLinkDown link reason => hedgeLinkOk link && (decide (1 ≤ reason) && decide (reason ≤ 5))
  | .enumerate _ => true
  | .lastDeviceTimeout => true
  | .chainCommand _ _ => true
  | .chainFrameForward _ _ => true
  | .turnPass _ => true
  | .heartbeatTick => true
  | .heartbeat src => fits 14 src
  | .heartbeatMissing missing => fits 16 missing
  | .referenceLost => true
  | .referenceReturn => true
  | .thermalTrip die => dieOk die
  | .domainWakeTimeout die domain => dieOk die && fits 16 domain
  | .monitorSample _ _ _ => true
  | .powerOn straps _ => fits 32 straps
  | .resetNAssert _ => true
  | .bootComplete _ _ _ _ => true
  | .bootStepTimeout die => dieOk die
  | .bypass => true
  | .idcode => true
  | .samplePreload => true
  | .extest => true
  | .extestPulse => true
  | .extestTrain => true
  | .debugChallenge => true
  | .debugToken _ => true
  | .debugStatus => true
  | .railRemoval _ _ => true
  | .resetNRelease => true
  | .barrierAcknowledgement engine channel path => engineOk engine && channelOk channel && path.wf

/-- A well-formed command. -/
abbrev WellFormed (i : Instr) : Prop := wfInstr i = true

end Sys2Proof
end

