-- ==== Sys2Proof/Certificates/Slice0/Obligations.lean ====
section
/-!
DEFINITION. The statements for the provers: one definition per claim, each with the rule of spec/ it formalises or the sections it rests on.
-/

open Sys2Proof Sys2Proof.Machine

/-- O1. For every command and every state: a step of the state with that command at the front of its queue is exec of the command on the state with
the rest of the queue. On an empty queue a step answers the state whose device timestamp is 1,000 ns later and which is otherwise the same: the
model's choice of log entry 25, no rule of the spec. -/
def Obligations.StepRunsFront : Prop :=
  (∀ (c : Instr) (rest : List Instr) (s : State), step { s with pending := c :: rest } = exec c { s with pending := rest }) ∧
  (∀ s : State, s.pending = [] → step s = .next { s with dev := { s.dev with time := s.dev.time + 1000 } })

/-- O2. The state right after reset has a memory in canonical form and no posted write: the model's form of memory (log entry 1). -/
def Obligations.ResetInvariant : Prop :=
  Inv State.reset

/-- O3. From every state whose memory is in canonical form and which has no posted write, whatever command stands in front of the queue, a step that
answers a next state answers one whose memory is in canonical form and which has no posted write: every write a command makes has reached memory when
it ends. -/
def Obligations.StepKeepsInvariant : Prop :=
  ∀ s t : State, Inv s → step s = .next t → Inv t

/-- O4. For every command of the table and every state: if exec answers a next state, its queue is the queue of the state before, it has no posted
write, and its memory is the memory before with the command's writes applied, in their order, as some list of writes. -/
def Obligations.ExecKeepsQueue : Prop :=
  ∀ (c : Instr) (s t : State), exec c s = .next t → t.pending = s.pending ∧ t.dev.posted = [] ∧ ∃ ps : List Post, t.mem = applyPosts s.mem ps

/-- O5. For every memory, address and bytes: after the bytes are written from the address upward, each address of the run reads the byte written there
and every other address reads what it read before; after the contents of a range are lost, the addresses of the range read as unlisted ones do and the
others as before. For every memory in canonical form: reading n bytes from an address gives n bytes, byte i of them the byte at the address plus i,
and a run of bytes written and read back is the run. That an unlisted address reads 0 is the model's choice (log entry 1). -/
def Obligations.MemoryReadAfterWrite : Prop :=
  (∀ (m : Memory) (a : Nat) (bs : Bytes) (x lo hi : Nat),
    memByte (memWrite m a bs) x = (if a ≤ x ∧ x < a + bs.length then bs.getD (x - a) 0 else memByte m x) ∧
    memByte (memLose m lo hi) x = (if lo ≤ x ∧ x < hi then 0 else memByte m x)) ∧
  (∀ (m : Memory) (a n : Nat) (bs : Bytes), Memory.wf m = true →
    (memRead m a n).length = n ∧ (∀ i, i < n → (memRead m a n).getD i 0 = memByte m (a + i)) ∧ memRead (memWrite m a bs) a bs.length = bs)

/-- O6. In the state right after reset ID reads 0x59440201, WINDOW_VERSION reads 2, every other 32-bit offset of the window reads zero, every ring is
disabled, every job slot is FREE and the device is BOOTING: the Reset columns of the register tables. -/
def Obligations.ResetRegisters : Prop :=
  (∀ off : Nat, readReg32 State.reset.dev off = if off = 0x000 then 0x59440201 else if off = 0x004 then 2 else 0) ∧
  (∀ n : Nat, ((State.reset.dev.win.ring n).enabled = false)) ∧ (∀ slot : Nat, (getJob State.reset.dev slot).state = .free) ∧
  State.reset.dev.power.state = .booting ∧ State.reset.pending = [] ∧ State.reset.mem = []

/-- O7. REG_WRITE, CMD_DOORBELL (after the driver's stores have reached host memory), CPL_DOORBELL, EVT_DOORBELL, RING_ENABLE_SET, RING_DISABLE,
FAULT_LATCH_CLEAR and FULL_RESET answer the next state that a write of their register leaves; EVT_LOST_READ and REG_READ_LOW_WORD the one that their
read leaves, for every state and operand. -/
def Obligations.WindowRows : Prop :=
  ∀ (s : State) (off len value : Nat) (stores : List (Nat × Bytes)),
    Takes (.regWrite off len value) s (writeReg (start s) off len value) ∧
    Takes (.cmdDoorbell stores value) s (writeReg (hostStores (start s) stores) 0x020 4 value) ∧
    Takes (.cplDoorbell value) s (writeReg (start s) 0x038 4 value) ∧
    Takes (.evtDoorbell value) s (writeReg (start s) 0x050 4 value) ∧
    Takes (.ringEnableSet value) s (writeReg (start s) 0x058 4 (ringEnables s.dev.win ||| value % 8)) ∧
    Takes (.ringDisable value) s (writeReg (start s) 0x058 4 (ringEnables s.dev.win &&& (7 - value % 8))) ∧
    Takes .faultLatchClear s (writeReg (start s) 0x060 8 (2 ^ 63)) ∧
    Takes (.fullReset value) s (writeReg (start s) 0x070 4 value) ∧
    Takes (.regReadLowWord off len) s (regReadLow off len (start s)) ∧
    Takes .evtLostRead s (if windowUp s.dev then { start s with sent := [.regData s.dev.win.evtLost false], win := { s.dev.win with lastRead := s.dev.win.evtLost, evtLost := 0 } }
      else { start s with sent := [.regData 0xFFFFFFFF false], win := { s.dev.win with lastRead := 0xFFFFFFFF } })

/-- O8. While the window can be reached: a 32-bit write of the low word of a BASE register changes no ring; the high word written after it gives a
disabled ring the base that the two words hold, in 4 KiB units; an enabled ring's base stays; a read of the low word answers it, and what the next
read of the high word gives is the high word as it stood then; a 64-bit read answers both words; an offset of the window that is not listed reads zero
and a write to it changes nothing. -/
def Obligations.WideRegisters : Prop :=
  ∀ (s : State) (n off lo hi : Nat), windowUp s.dev = true → (n, off) ∈ [(0, 0x010), (1, 0x028), (2, 0x040)] →
    (∃ t, exec (.regWrite off 4 lo) s = .next t ∧ t.dev.win.cmd = s.dev.win.cmd ∧ t.dev.win.cpl = s.dev.win.cpl ∧ t.dev.win.evt = s.dev.win.evt ∧ t.mem = s.mem ∧
      ∃ u, exec (.regWrite (off + 4) 4 hi) t = .next u ∧ u.mem = s.mem ∧
        (u.dev.win.ring n).base = (if (s.dev.win.ring n).enabled then (s.dev.win.ring n).base else ((hi % 2 ^ 32) * 2 ^ 32 + lo % 2 ^ 32) / 4096 * 4096)) ∧
    (∃ t, exec (.regReadLowWord off 4) s = .next t ∧ t.dev.win.lastRead = (s.dev.win.ring n).base % 2 ^ 32 ∧ readReg32 t.dev (off + 4) = (s.dev.win.ring n).base >>> 32) ∧
    (∃ t, exec (.regReadLowWord off 8) s = .next t ∧ t.dev.win.lastRead = (s.dev.win.ring n).base ∧ t.dev.sent = [.regData (s.dev.win.ring n).base false]) ∧
    (∀ o : Nat, o % 4 = 0 → 0x078 ≤ o → o < 0x1000 → readReg32 s.dev o = 0 ∧ Takes (.regWrite o 4 lo) s (start s))

/-- O9. For each ring, disabled, while the window can be reached, RING_ENABLE_SET of its bit: where BASE is zero, or its last byte would lie at or
above 2^57, or LOG2_ENTRIES is outside 4 to 12, 4 to 14 or 6 to 16, the ring stays disabled and RING_CONFIG_ERROR is set; otherwise the ring is
enabled and, where nothing was held for it, its head and tail are 0 and its PHASE is 1. PHASE alternates exactly when the tail wraps to 0. While a
ring is enabled a write to its BASE or SIZE changes nothing of it. -/
def Obligations.RingEnable : Prop :=
  ∀ (s : State) (n off v : Nat) (lohi : Nat × Nat), windowUp s.dev = true → (n, off, lohi) ∈ [(0, 0x010, (4, 12)), (1, 0x028, (4, 14)), (2, 0x040, (6, 16))] →
    let r := s.dev.win.ring n
    let bytes := if n = 0 then 256 else if n = 1 then 32 else 64
    let valid := r.base ≠ 0 ∧ r.base + bytes * 2 ^ r.size ≤ 2 ^ 57 ∧ lohi.1 ≤ r.size ∧ r.size ≤ lohi.2
    (r.enabled = false → ¬ valid → ∃ t, exec (.ringEnableSet (2 ^ n)) s = .next t ∧ (t.dev.win.ring n).enabled = false ∧ t.dev.win.ringConfigError = true) ∧
    (r.enabled = false → valid → ∃ t, exec (.ringEnableSet (2 ^ n)) s = .next t ∧ (t.dev.win.ring n).enabled = true ∧
      (s.dev.win.held = [] → s.dev.root.bootFaults = [] →
        (t.dev.win.ring n).head = 0 ∧ (t.dev.win.ring n).tail = 0 ∧ (t.dev.win.ring n).phase = true)) ∧
    (∀ q : Ring, q.push.tail = (q.tail + 1) % 2 ^ q.size ∧ q.push.phase = (if q.tail + 1 = 2 ^ q.size then !q.phase else q.phase)) ∧
    (r.enabled = true → ∃ t u, exec (.regWrite off 8 v) s = .next t ∧ t.dev.win.ring n = r ∧ exec (.regWrite (off + 8) 4 v) s = .next u ∧ u.dev.win.ring n = r)

/-- O10. While the window can be reached, on an enabled ring: a CMD_DOORBELL whose index lies in the ring becomes the tail, one outside leaves the
ring as it is and sets DOORBELL_ERROR; the completion and event heads likewise. RING_DISABLE of a ring's bit disables it at once where no write is
waiting for its read-back, else the bit reads 1 on and the ring takes no further access. -/
def Obligations.DoorbellsAndDisable : Prop :=
  ∀ (s : State) (v n : Nat), windowUp s.dev = true →
    (s.dev.win.cmd.enabled = true → ∃ t, exec (.cmdDoorbell [] v) s = .next t ∧
      (if v % 65536 < 2 ^ s.dev.win.cmd.size then t.dev.win.cmd = { s.dev.win.cmd with tail := v % 65536 }
       else t.dev.win.cmd = s.dev.win.cmd ∧ t.dev.win.doorbellError = true)) ∧
    (s.dev.win.cpl.enabled = true → ∃ t, exec (.cplDoorbell v) s = .next t ∧ t.dev.win.cpl.head = (if v % 65536 < 2 ^ s.dev.win.cpl.size then v % 65536 else s.dev.win.cpl.head) ∧
      (2 ^ s.dev.win.cpl.size ≤ v % 65536 → t.dev.win.doorbellError = true)) ∧
    (s.dev.win.evt.enabled = true → ∃ t, exec (.evtDoorbell v) s = .next t ∧ t.dev.win.evt.head = (if v % 65536 < 2 ^ s.dev.win.evt.size then v % 65536 else s.dev.win.evt.head) ∧
      (2 ^ s.dev.win.evt.size ≤ v % 65536 → t.dev.win.doorbellError = true)) ∧
    (n < 3 → (s.dev.win.ring n).enabled = true → ∃ t, exec (.ringDisable (2 ^ n)) s = .next t ∧
      (if (s.dev.win.ring n).unread then (t.dev.win.ring n).enabled = true ∧ (t.dev.win.ring n).live = false
       else (t.dev.win.ring n).enabled = false) ∧ (t.dev.win.ring n).base = (s.dev.win.ring n).base)

/-- O11. While the window can be reached: FULL_RESET with key 0xA5C3 and bit 0 set leaves a device with every job slot FREE, every ring disabled, no
command in progress, the full resets since power-on one more (saturating) with cause 2, and its hedge address as it was; with another key or without
the bit nothing changes. -/
def Obligations.FullResetWrite : Prop :=
  ∀ (s : State) (v : Nat), windowUp s.dev = true →
    (if (v / 65536) % 65536 = 0xA5C3 ∧ v.testBit 0 = true then
       ∃ t, exec (.fullReset v) s = .next t ∧ (∀ slot, (getJob t.dev slot).state = .free) ∧ (∀ n, (t.dev.win.ring n).enabled = false) ∧ t.dev.win.inProg = [] ∧
         t.dev.win.resets = (if s.dev.win.resets < 65535 then s.dev.win.resets + 1 else s.dev.win.resets) ∧ t.dev.win.lastCause = 2 ∧ t.dev.hedge.addr = s.dev.hedge.addr
     else Takes (.fullReset v) s (start s))

/-- O12. Reporting a fault while VALID is clear latches its code, slot, die and time and sets LATER to 0; while VALID is set it changes nothing of the
latch but LATER, one more and at most 0xFFFF; in both cases the FAULT entry is then written to the event ring, or dropped and counted where the ring
cannot take it. FAULT_LATCH_CLEAR clears the register while the window can be reached. -/
def Obligations.FaultLatch : Prop :=
  (∀ (d : Dev) (f : FaultInfo),
    let e := reportFault d f
    (d.win.latchValid = false → e.win.latchValid = true ∧ e.win.latchCode = f.code ∧ e.win.latchSlot = f.slot ∧ e.win.latchDie = f.die ∧ e.win.latchLater = 0 ∧ e.win.faultTime = d.time) ∧
    (d.win.latchValid = true → e.win.latchValid = true ∧ e.win.latchCode = d.win.latchCode ∧ e.win.latchSlot = d.win.latchSlot ∧ e.win.latchDie = d.win.latchDie ∧
      e.win.faultTime = d.win.faultTime ∧ e.win.latchLater = (if d.win.latchLater < 65535 then d.win.latchLater + 1 else d.win.latchLater)) ∧
    (∃ c : Dev, e = writeEvent c (faultEntry d f) ∧ c.win.evt = d.win.evt ∧ c.posted = d.posted)) ∧
  (∀ s : State, windowUp s.dev = true → ∃ t, exec .faultLatchClear s = .next t ∧ latchReg t.dev.win = 0)

/-- O13. With a port up and the event ring enabled: an event raised on a full ring writes nothing, adds one to EVT_LOST (saturating at 0xFFFFFFFF) and
makes the next entry carry LOST; on a ring with room its 64 bytes are written at the tail with EFLAGS bit 0 the PHASE and bit 1 LOST where an event
was dropped before, LOST is then gone, and the tail moves on by one. -/
def Obligations.EventRingFull : Prop :=
  ∀ (d : Dev) (e : Bytes), d.win.evt.live = true → (hostPort d).isSome = true →
    (d.win.evt.full = true → (writeEvent d e).posted = d.posted ∧ (writeEvent d e).win.evt = d.win.evt ∧ (writeEvent d e).win.lostFlag = true ∧
      (writeEvent d e).win.evtLost = (if d.win.evtLost < 0xFFFFFFFF then d.win.evtLost + 1 else d.win.evtLost)) ∧
    (d.win.evt.full = false → (writeEvent d e).win.lostFlag = false ∧ (writeEvent d e).win.evt = d.win.evt.push ∧ (writeEvent d e).win.evtLost = d.win.evtLost ∧
      (writeEvent d e).posted = d.posted ++ [.write (hostBase + (d.win.evt.base + 64 * d.win.evt.tail))
        (e.set 3 (byteOf ((if d.win.evt.phase then 1 else 0) + 2 * (if d.win.lostFlag then 1 else 0))))])

/-- O14. With the rings served, a port up, both rings enabled, a slot waiting, fewer than 32 commands in progress and fewer than the completion ring's
free entries: COMMAND_FETCH reads the 256 bytes of the slot at CMD_HEAD, puts the command it spells last among those in progress and advances CMD_HEAD
past it; where the host memory fails the read the command completes with HOST_ACCESS_ERROR. With 32 in progress, or with the completion ring's free
entries not above those in progress, no slot is fetched. -/
def Obligations.CommandFetch : Prop :=
  ∀ (s : State) (gaps : List (Nat × Nat)),
    let w := s.dev.win
    let n := (ringCmds w).length
    let a := w.cmd.base + 256 * w.cmd.head
    let d := { start s with hostGaps := gaps, win := { w with cmd := { w.cmd with head := (w.cmd.head + 1) % 2 ^ w.cmd.size } } }
    (served s.dev = true → (hostPort s.dev).isSome = true → w.cmd.live = true → w.cpl.live = true → w.cmd.head ≠ w.cmd.tail → n < 32 → n < w.cpl.room →
      (hostOk d a 256 = true → Takes (.commandFetch gaps) s { d with win := { d.win with inProg := w.inProg ++ [readSlot (hostRead s.mem a 256) w.cmd.head] } }) ∧
      (hostOk d a 256 = false → Takes (.commandFetch gaps) s (complete d { index := w.cmd.head } 0x0007 a [] 0xFF))) ∧
    (32 ≤ n ∨ w.cpl.room ≤ n → Takes (.commandFetch gaps) s (start s))

/-- O15. For the completion ring (0) and the event ring (1), with entries to announce, a port up and 2 µs since the ring's last notify: NOTIFY sends
one notify with the ring's tail on the lowest port that is up, and nothing is left to announce; within 2 µs of the last, or with nothing to announce,
none is sent. -/
def Obligations.NotifyRate : Prop :=
  ∀ (s : State) (ring : Nat), ring < 2 →
    let r := s.dev.win.ring (ring + 1)
    (∀ p, hostPort s.dev = some p → r.announce = true → (∀ t0, r.notified = some t0 → t0 + 2000 ≤ s.dev.time) →
      ∃ t, exec (.notify ring) s = .next t ∧ t.dev.sent = [.notify p ring r.tail] ∧ (t.dev.win.ring (ring + 1)) = { r with announce := false, notified := some s.dev.time } ∧ t.mem = s.mem) ∧
    (∀ t0, r.notified = some t0 → s.dev.time < t0 + 2000 → Takes (.notify ring) s (start s)) ∧
    (r.announce = false → Takes (.notify ring) s (start s))

/-- The mailbox rows that serve their command with no wait of their own: service and row. -/
def mailboxRows : List (Service × (Nat → Instr)) :=
  [(identify, .identify), (attest, .attest), (jobLoad, .jobLoad), (jobStart, .jobStart), (jobAbort, .jobAbort), (jobQuery, .jobQuery),
   (epochRollback, .epochRollback), (jobUnload, .jobUnload), (placementQuery, .placementQuery), (feedOpen, .feedOpen), (feedClose, .feedClose),
   (feedWatermark, .feedWatermark), (regionMap, .regionMap), (regionUnmap, .regionUnmap), (powerSet, .powerSet), (powerQuery, .powerQuery),
   (clockSet, .clockSet), (powerCap, .powerCap), (monitorRead, .monitorRead), (alarmSet, .monitorAlarmSet), (hedgeDiscover, .hedgeDiscover),
   (hedgeAddress, .hedgeAddress), (routeSet, .hedgeRouteSet), (hedgeStatus, .hedgeStatus), (peerApprove, .peerApprove), (fwStageCmd, .fwStage),
   (fwActivate, .fwActivate), (matchTableLoad, .matchTableLoad), (matchTableUpdate, .matchTableUpdate), (diagRun, .diagRun), (resetDevice, .resetDevice)]

/-- What a served command comes to: its effect and completion at once, or its effect with the completion to follow when its protocol ends. -/
def Served (s : State) (i : Instr) (sv : Service) (c : Cmd) : Prop :=
  (∀ d resp, sv.act s.mem (wakeD0 (start s) sv.opcode) c = (d, some resp) → Takes i s (sv.after (complete d c 0 0 resp (sv.slotOf c resp)) c)) ∧
  (∀ d, sv.act s.mem (wakeD0 (start s) sv.opcode) c = (d, none) → Takes i s (acceptCmd d c))

/-- O16. For every row of the command catalogue: where the rings are served, the command with the row's code is in progress, need not wait and passes
every check, the row answers the next state of its effect, completed with SUCCESS and its response, or accepted where a protocol completes it later
(JOB_START, EPOCH_COMMIT, HEDGE_DISCOVER, JOB_REBIND). STATION_PIN on a station of a RUNNING job that is not settled, EPOCH_COMMIT at step 6 of a
commit, and JOB_REBIND during one or before the affected instances have drained wait: that is excluded for these three. -/
def Obligations.MailboxRows : Prop :=
  (∀ row ∈ mailboxRows, ∀ (s : State) (idx : Nat) (c : Cmd), Due s row.1 idx c → Served s (row.2 idx) row.1 c) ∧
  (∀ (s : State) (idx : Nat) (c : Cmd), Due s epochCommit idx c → ((getJob s.dev c.slot).commit.map (fun x => x.step)) ≠ some 6 → Served s (.epochCommit idx) epochCommit c) ∧
  (∀ (s : State) (idx : Nat) (c : Cmd), Due s stationPin idx c → ((getJob s.dev c.slot).state = .running → stationSettled s.dev c.slot (u16at c.body 0) = true) →
    Served s (.stationPin idx) stationPin c) ∧
  (∀ (s : State) (idx saved coded duration shale : Nat) (c : Cmd), Due s (jobRebind saved coded duration shale) idx c → committing s.dev c.slot = false →
    committing s.dev (u8at c.body 0) = false → rebindReady (start s) c = true → Served s (.jobRebind idx saved coded duration shale) (jobRebind saved coded duration shale) c)

/-- O17. The codes the catalogue assigns are the 34 of the opcode list; a command in progress with any other code, while the rings are served and a
port is up, completes with status 0x0001, DETAIL zero and no response: memory apart from the completion's writes, jobs, links, movers, power, root,
feeds and checkpoints stay as they are, and the command leaves those in progress. -/
def Obligations.ReservedCode : Prop :=
  (∀ op : Nat, cmdKind op = none ↔ op ∉ [0x0001, 0x0002, 0x0010, 0x0011, 0x0013, 0x0014, 0x0015, 0x0016, 0x0017, 0x0018, 0x0019, 0x001A, 0x0020, 0x0021, 0x0022,
    0x0030, 0x0031, 0x0040, 0x0041, 0x0042, 0x0043, 0x0050, 0x0051, 0x0060, 0x0061, 0x0062, 0x0063, 0x0064, 0x0070, 0x0071, 0x0080, 0x0081, 0x0090, 0x00F0]) ∧
  (∀ (s : State) (idx : Nat) (c : Cmd), findCmd s.dev idx = some c → cmdKind c.opcode = none → served s.dev = true → (hostPort s.dev).isSome = true →
    Takes (.unknownCommand idx) s (complete (start s) c 0x0001 0 [] c.slot) ∧
    let d := complete (start s) c 0x0001 0 [] c.slot
    findCmd d idx ≠ some c ∧ d.jobs = s.dev.jobs ∧ d.links = s.dev.links ∧ d.movers = s.dev.movers ∧ d.power = s.dev.power ∧ d.root = s.dev.root ∧
    d.feeds = s.dev.feeds ∧ d.ckpts = s.dev.ckpts ∧ d.commits = s.dev.commits ∧ d.hedge = s.dev.hedge ∧ d.facts = s.dev.facts)

/-- O18. For every row of the catalogue, with the rings served and a port up: a command that a check turns away completes with that check's status and
DETAIL, and jobs, feeds, power, root die, links, hedge, movers, memory facts and checkpoints stay as they are; a command of a job slot behind an
earlier one in progress on the same slot changes nothing, unless it is JOB_QUERY or PLACEMENT_QUERY, which never wait while a port is up. -/
def Obligations.RefusedCommand : Prop :=
  (∀ row ∈ mailboxRows, ∀ (s : State) (idx st dt : Nat) (c : Cmd), findCmd s.dev idx = some c → c.opcode = row.1.opcode → served s.dev = true →
    mustWait s.dev c = false → row.1.refuses s.mem (start s) c = some (st, dt) →
      Takes (row.2 idx) s (complete (start s) c st dt [] c.slot) ∧
      let d := complete (start s) c st dt [] c.slot
      d.jobs = s.dev.jobs ∧ d.feeds = s.dev.feeds ∧ d.power = s.dev.power ∧ d.root = s.dev.root ∧ d.links = s.dev.links ∧ d.hedge = s.dev.hedge ∧
      d.movers = s.dev.movers ∧ d.facts = s.dev.facts ∧ d.ckpts = s.dev.ckpts ∧ d.commits = s.dev.commits) ∧
  (∀ row ∈ mailboxRows, ∀ (s : State) (idx : Nat) (c : Cmd), findCmd s.dev idx = some c → c.opcode = row.1.opcode → served s.dev = true → c.slot < 64 →
    earlierOnSlot s.dev.win c = true → c.opcode ≠ 0x0014 → c.opcode ≠ 0x0019 → Takes (row.2 idx) s (start s)) ∧
  (∀ (d : Dev) (c : Cmd), (hostPort d).isSome = true → (c.opcode = 0x0014 ∨ c.opcode = 0x0019) → mustWait d c = false)

/-- O19. With a port up and the completion ring enabled and not full, completing a ring command writes the response, if there is one, at RESP_ADDR, in
front of the events that the command caused, and behind them 32 bytes at the tail of the completion ring: CMD_ID, OPCODE, STATUS, DETAIL,
RESP_WRITTEN, CMD_INDEX, JOB_SLOT, PHASE in bit 0 of CPFLAGS with its other bits zero, and DONE_TIME, each field at its offset; the tail moves on by
one. -/
def Obligations.CompletionEntry : Prop :=
  ∀ (d : Dev) (c : Cmd) (st dt slot : Nat) (resp : Bytes), c.chain = false → (hostPort d).isSome = true → d.win.cpl.live = true → d.win.cpl.full = false →
    c.cmdId < 2 ^ 32 → c.opcode < 2 ^ 16 → st < 2 ^ 16 → dt < 2 ^ 64 → resp.length < 2 ^ 32 → c.index < 2 ^ 16 → slot < 2 ^ 8 → d.time < 2 ^ 64 →
    ∃ e : Bytes, e.length = 32 ∧ u32at e 0x00 = c.cmdId ∧ u16at e 0x04 = c.opcode ∧ u16at e 0x06 = st ∧ u64at e 0x08 = dt ∧ u32at e 0x10 = resp.length ∧
      u16at e 0x14 = c.index ∧ u8at e 0x16 = slot ∧ u8at e 0x17 = (if d.win.cpl.phase then 1 else 0) ∧ u64at e 0x18 = d.time ∧
      (complete d c st dt resp slot).posted = (if resp = [] then [] else [.write (hostBase + c.respAddr) resp]) ++ d.posted ++
        [.write (hostBase + (d.win.cpl.base + 32 * d.win.cpl.tail)) e] ∧
      (complete d c st dt resp slot).win.cpl = d.win.cpl.push

/-- O20. A PEER_APPROVE on a verified link whose expected digest differs from the identity presented there is turned away with INVALID_FIELD, and so
is a RESET_DEVICE whose key is not 0x0000A5C3, unless a check that every command meets turned it away before; a FW_ACTIVATE and a RESET_DEVICE that
are due complete with SUCCESS and then the full reset starts, with cause 4 and 3: every job slot is FREE and no ring is enabled. -/
def Obligations.ResetAndApproveRules : Prop :=
  (∀ (m : Memory) (d : Dev) (c : Cmd), (d.links.getD (u8at c.body 0) {}).isVerified = true → u8at c.body 0 < 48 →
    (d.links.getD (u8at c.body 0) {}).peer.digest ≠ slice c.body 8 32 → (peerApprove.check m d c).map (·.1) = some 0x0002) ∧
  (∀ (m : Memory) (d : Dev) (c : Cmd), u32at c.body 0 ≠ 0x0000A5C3 → (resetDevice.check m d c).map (·.1) = some 0x0002) ∧
  (∀ (s : State) (idx : Nat) (c : Cmd), Due s fwActivate idx c → Takes (.fwActivate idx) s (fullReset (complete (setPending (wakeD0 (start s) 0x0071) (u8at c.body 0)) c 0 0 [] c.slot) 4)) ∧
  (∀ (s : State) (idx : Nat) (c : Cmd), Due s resetDevice idx c → ∃ t, exec (.resetDevice idx) s = .next t ∧ t.dev.win.lastCause = 3 ∧
    (∀ slot, (getJob t.dev slot).state = .free) ∧ (∀ n, (t.dev.win.ring n).enabled = false)) ∧
  (∀ (s : State) (idx : Nat) (c : Cmd), Due s fwActivate idx c → ∃ t, exec (.fwActivate idx) s = .next t ∧ t.dev.win.lastCause = 4 ∧
    (∀ slot, (getJob t.dev slot).state = .free) ∧ (∀ n, (t.dev.win.ring n).enabled = false))

/-- The record of the job's final commit is written: the commit is at step 6. -/
abbrev lastStep (j : Job) : Prop := j.commit.map (fun x => (x.step, x.cause)) = some (6, 1)

/-- O21. When they are due: CLOCK_SET leaves the arithmetic step and POWER_CAP the cap that the body names; JOB_ABORT leaves the job STOPPED;
EPOCH_ROLLBACK of a RUNNING job leaves it HELD with restart 0 and RESTARTING with restart 1 (both leave it FINISHED where the record of its final
commit is written already, 04 R119); JOB_UNLOAD leaves the slot FREE, without regions, units and feeds, and with checkpoint 0 without the job's
checkpoint of this participant. POWER_SET to D2 or D3 while some job is RUNNING, SUSPENDED or RESTARTING does not pass its check. The other job slots
keep their states. -/
def Obligations.PowerAndJobCommands : Prop :=
  ∀ (s : State) (idx : Nat) (c : Cmd),
    (Due s clockSet idx c → ∃ t, exec (.clockSet idx) s = .next t ∧ t.dev.power.step = u8at c.body 0 ∧ t.dev.jobs = s.dev.jobs) ∧
    (Due s powerCap idx c → ∃ t, exec (.powerCap idx) s = .next t ∧ t.dev.power.cap = u16at c.body 0 ∧ t.dev.jobs = s.dev.jobs) ∧
    (Due s jobAbort idx c → ∃ t, exec (.jobAbort idx) s = .next t ∧
      (getJob t.dev c.slot).state = (if (getJob s.dev c.slot).state.live = true ∧ lastStep (getJob s.dev c.slot) then .finished else .stopped) ∧
      ∀ k, k ≠ c.slot → (getJob t.dev k).state = (getJob s.dev k).state) ∧
    (Due s epochRollback idx c → (getJob s.dev c.slot).state = .running → ∃ t, exec (.epochRollback idx) s = .next t ∧
      (getJob t.dev c.slot).state = (if lastStep (getJob s.dev c.slot) then .finished else if u8at c.body 0 = 1 then .restarting else .held) ∧ ∀ k, k ≠ c.slot → (getJob t.dev k).state = (getJob s.dev k).state) ∧
    (Due s jobUnload idx c → ∃ t, exec (.jobUnload idx) s = .next t ∧ getJob t.dev c.slot = {} ∧ (∀ f ∈ t.dev.feeds, f.slot ≠ c.slot) ∧
      (u8at c.body 0 = 0 → ∀ k ∈ t.dev.ckpts, ¬ (k.tag = (getJob s.dev c.slot).image.jobTag ∧ k.part = (getJob s.dev c.slot).partIndex)) ∧
      ∀ k, k ≠ c.slot → (getJob t.dev k).state = (getJob s.dev k).state) ∧
    (∀ m, 2 ≤ u8at c.body 0 → (∃ k, k < 64 ∧ (getJob s.dev k).state.live = true) → powerSet.check m s.dev c ≠ none)

/-- What taking a checked tile leaves: SEQ, FIRST_ROW and the column types of the queue move on, the tile stands at the port (its empty head rows skipped). -/
def tileTaken (d : Dev) (slot st port n k : Nat) (t : Tile) : Dev :=
  let ty := (descSt d slot st).stype
  modIn (modQ d slot n (fun q => { q with
      taken := setAt q.taken k (t.seq + 1), rows := setAt q.rows k (t.firstRow + t.rowCount), types := (mergeTypes q.types t).getD q.types, moved := true })) slot st port
    (fun p => if t.format = TFmt.columns.code ∧ ty ≠ .kernel ∧ ty ≠ .emit ∧ ty ≠ .shale then (takeTile ty p t).skip ((takeTile ty p t).inbox.length + 1) else takeTile ty p t)

/-- O22. On a running job: a station that can take a tile takes the next tile of its queue when every check of R35 passes, and for a select station
its own check of the column types (SEQ, FIRST_ROW and the column types move on, the tile goes to the port, to a kernel's port when that port's check
passes, and to the other participants where the queue spans them); a finished tile's credit returns, its slot is freed when every consumer has
returned it and a waiting tile moves in, while a credit returned for a slot that the consumer does not hold is the job fault 0x0111; the oldest
spilled tile returns to a free slot; the valve opens on the lowest-numbered blocked queue of a cycle ten samples without progress; a watchdog sample
looks at every job; the anchor keeps reported wait edges, another participant opens the valves that the anchor's message names; a saturated station's
instance at a tile boundary moves to the unit of the free pool that R21 gives, a match table grows into the free banks, and for SAT_HBM_RANDOM the
cache is enabled first. -/
def Obligations.QueueRows : Prop :=
  ∀ (s : State) (slot st port n k : Nat),
    (∀ t, AtStation s slot st (fun _ => true) → inQueueNo (getJob s.dev slot) st port = some (n, k) →
      (getQ s.dev slot n).tiles.find? (fun x => x.seq == (getQ s.dev slot n).taken.getD k 0) = some t → takesTile s.dev slot st port = true →
      checkTile (expectOf (getJob s.dev slot) slot n k (getQ s.dev slot n)) t = none →
      ((descSt s.dev slot st).stype = .select → selTypes (selP (paramSt s.dev slot st)) (getQ s.dev slot n).types t = none) →
      let d := tileTaken (rowStart s) slot st port n k t
      ((∀ x, (getSt d slot st).kind ≠ .kernel x) → Takes (.tileConsume slot st port) s (forwardTile d slot n t)) ∧
      (∀ x y, (getSt d slot st).kind = .kernel x → kernelPortCheck (paramSt s.dev slot st) port x (getIn d slot st port) t = .ok y →
        Takes (.tileConsume slot st port) s (setKind d slot st (.kernel y)))) ∧
    (AtStation s slot st (fun _ => true) → inQueueNo (getJob s.dev slot) st port = some (n, k) → 0 < (getIn s.dev slot st port).finished →
      ((getQ s.dev slot n).valve = true → (getQ s.dev slot n).held = []) →
      ∃ u, exec (.creditReturn slot st port) s = .next u ∧ u.mem = s.mem ∧ (getIn u.dev slot st port).finished = (getIn s.dev slot st port).finished - 1 ∧
        (getQ u.dev slot n).returned = setAt (getQ s.dev slot n).returned k ((getQ s.dev slot n).returned.getD k 0 + 1)) ∧
    (AtStation s slot st (fun _ => true) → inQueueNo (getJob s.dev slot) st port = some (n, k) → (getIn s.dev slot st port).finished = 0 →
      (getQ s.dev slot n).taken.getD k 0 ≤ (getQ s.dev slot n).returned.getD k 0 →
      ∃ u, exec (.creditReturn slot st port) s = .next u ∧ (getJob u.dev slot).lastFault = 0x0111 ∧ (getJob u.dev slot).state ≠ .running) ∧
    (∀ t r, AtQueue s slot n → (getQ s.dev slot n).spilled = t :: r → queueFull (getJob s.dev slot) n (getQ s.dev slot n) = false → t.computeSeal = t.crc →
      ∃ u, exec (.spillRefill slot n) s = .next u ∧ u.mem = s.mem ∧ (getQ u.dev slot n).spilled = r ∧ (getQ u.dev slot n).tiles = (getQ s.dev slot n).tiles ++ [t]) ∧
    (let es := waitEdges s.dev slot
     let blocked := ((cycleEdges (getJob s.dev slot) es n).filter (fun e => e.2.2)).map (·.2.1)
     AtQueue s slot n → (getQ s.dev slot n).valve = false → n ∈ blocked → 10 ≤ (getQ s.dev slot n).stuck → (∀ k ∈ blocked, n ≤ k) →
      ∃ u, exec (.spillValveOpen slot n) s = .next u ∧
        (if (ownEdges s.dev slot).any (fun e => e.2.1 == n && e.2.2) then (getQ u.dev slot n).valve = true ∨ (getJob u.dev slot).lastFault = 0x0112
         else (getQ u.dev slot n).stuck = 0 ∧ (getQ u.dev slot n).valve = false)) ∧
    (served s.dev = true → Takes .watchdogSample s ((List.range 64).foldl watchJob (start s))) ∧
    (∀ part edges, slot < 64 → (getJob s.dev slot).state = .running → part < (getJob s.dev slot).participants.length → part ≠ (getJob s.dev slot).partIndex →
      (isAnchor s.dev (getJob s.dev slot) = true → ∃ u, exec (.waitEdges slot part edges) s = .next u ∧ assocGet (getJob u.dev slot).farEdges part = some edges) ∧
      (isAnchor s.dev (getJob s.dev slot) = false → partAddr s.dev (getJob s.dev slot) part = (getJob s.dev slot).anchor →
        Takes (.waitEdges slot part edges) s
          ((edges.filter (fun e => e.2.2 && queueBlocked (getJob s.dev slot) e.2.1 (getQ s.dev slot e.2.1) && !(getQ s.dev slot e.2.1).valve)).foldl (fun d e => openValve d slot e.2.1)
            (modJob (start s) slot (fun j => { j with heard := assocSet j.heard part s.dev.time }))))) ∧
    (∀ inst counter, AtStation s slot st (fun _ => true) → 0x35D ≤ counter → counter ≤ 0x361 →
      (getJob s.dev slot).pins.any (fun p => p.1 == st) = false → stationSettled s.dev slot st = true →
      let d := if counter = 0x35F then cacheTable slot st counter (rowStart s) else rowStart s
      ((descSt s.dev slot st).stype ≠ .matchSt → (∀ r, unitNear d slot st counter = some r → (placedInsts (getJob d slot)).contains (st, inst) = true →
        Takes (.saturationReplacement slot st inst counter) s (moveInst d slot st inst r 1 counter))) ∧
      ((descSt s.dev slot st).stype = .matchSt → (bankPlaces (getJob d slot) st).length < tableBanks (paramSt d slot st) →
        let g := pickBanks (tableBanks (paramSt d slot st)) (bankPlaces (getJob d slot) st) (bankPool d slot)
        g ≠ [] → Takes (.saturationReplacement slot st inst counter) s (stepTables (g.foldl (fun d r => placeOn d slot st inst r 1 counter) d) slot 1 counter)))

/-- O23. Where a station can take the next tile of its queue: if the seal fails the tile raises 0x0101 whatever else is wrong; else the first that
fails of HDR_VERSION 0x0102, the reserved header fields 0x0103, JOB_TAG and JOB_SLOT 0x0104, QUEUE 0x0105, SEQ and FIRST_ROW 0x0106, FORMAT 0x0107,
shape and column types 0x0108 is the code of the job fault: TILE_CONSUME then leaves that code as the job's last fault, the job no longer RUNNING
(FINISHED where a final commit's record was written already), and the tile unused. -/
def Obligations.TileChecked : Prop :=
  (∀ (x : Expect) (t : Tile),
    let bad : List (Bool × Nat) := [
      (t.computeSeal != t.crc, 0x0101), (t.version != 2, 0x0102),
      (decide (64 ≤ t.jobSlot ∨ 8 ≤ t.flags ∨ 65536 ≤ t.queue ∨ 2 ^ 48 ≤ t.seq ∨ t.rsv1 ≠ 0 ∨ 2 ^ 48 ≤ t.firstRow ∨ t.rsv2 ≠ 0), 0x0103),
      (decide (t.jobTag ≠ x.jobTag ∨ t.jobSlot ≠ x.jobSlot), 0x0104), (t.queue != x.queue, 0x0105), (decide (t.seq ≠ x.seq ∨ t.firstRow ≠ x.firstRow), 0x0106),
      (decide (t.format ≠ x.format ∨ TFmt.ofCode t.format = none), 0x0107), (!shapeOk t x.columns || mergeTypes x.types t == none, 0x0108)]
    checkTile x t = (bad.find? (fun p => p.1)).map (fun p => p.2)) ∧
  (∀ (s : State) (slot st port n k code : Nat) (t : Tile), AtStation s slot st (fun _ => true) → inQueueNo (getJob s.dev slot) st port = some (n, k) →
    (getQ s.dev slot n).tiles.find? (fun x => x.seq == (getQ s.dev slot n).taken.getD k 0) = some t → takesTile s.dev slot st port = true →
    checkTile (expectOf (getJob s.dev slot) slot n k (getQ s.dev slot n)) t = some code →
    ∃ u, exec (.tileConsume slot st port) s = .next u ∧ (getJob u.dev slot).lastFault = code ∧
      ((((getJob u.dev slot).state = .restarting ∨ (getJob u.dev slot).state = .held) ∧ (getJob u.dev slot).rt = {}) ∨
        (((getJob s.dev slot).commit.map (·.step)) = some 6 ∧ (getJob u.dev slot).state = .finished)))

/-- O24. CRC-64/NVME of the ASCII digits 1 to 9 is 0xAE8B14860A799888; a tile in memory is 4,160 bytes, its seal at 0x38, computed over bytes 0x00 to
0x37 and the 4,096 payload bytes; for every two tiles whose 4,152 sealed bytes differ in exactly one byte the seals differ, so a tile with one byte
changed after it was sealed fails its first check with 0x0101. -/
def Obligations.SealFindsOneByte : Prop :=
  crc64 [0x31, 0x32, 0x33, 0x34, 0x35, 0x36, 0x37, 0x38, 0x39] = 0xAE8B14860A799888 ∧
  (∀ t : Tile, t.bytes.length = 4160 ∧ (t.crc < 2 ^ 64 → u64at t.bytes 0x38 = t.crc) ∧ t.sealed.crc = crc64 (t.bytes.take 56 ++ t.bytes.drop 64)) ∧
  (∀ (a b : Tile) (i : Nat), i < 4152 →
    let x := a.head ++ padTo 4096 a.payload
    let y := b.head ++ padTo 4096 b.payload
    x[i]? ≠ y[i]? → (∀ j, j ≠ i → x[j]? = y[j]?) → a.computeSeal ≠ b.computeSeal ∧ ∀ e : Expect, b.crc = a.computeSeal → checkTile e b = some 0x0101)

/-- O25. For every tile whose fields fit their places in the header (one byte, two, four or eight as R27 gives them) and whose payload is 4,096 bytes:
reading its 4,160 bytes gives the tile, so no field of the header is dropped or overlaps another. -/
def Obligations.TileBytesRoundTrip : Prop :=
  ∀ t : Tile, t.version < 2 ^ 8 → t.format < 2 ^ 8 → t.jobSlot < 2 ^ 8 → t.flags < 2 ^ 8 → t.jobTag < 2 ^ 32 → t.producer < 2 ^ 16 → t.rowCount < 2 ^ 16 → t.queue < 2 ^ 32 →
    t.seq < 2 ^ 64 → t.epoch < 2 ^ 32 → t.payloadBytes < 2 ^ 16 → t.rsv1 < 2 ^ 16 → t.columns < 2 ^ 64 → t.firstRow < 2 ^ 64 → t.rsv2 < 2 ^ 64 → t.crc < 2 ^ 64 →
    t.payload.length = 4096 → Tile.ofBytes t.bytes = t

/-- O26. For every list of records, not empty, that fits a payload (two bytes of end offset a record and their bytes, at most 4,096 in all): the
payload has that length, and reading it by its end offsets gives the records back, in order, empty ones among them. -/
def Obligations.RecordsRoundTrip : Prop :=
  ∀ rs : List Bytes, rs ≠ [] → 2 * rs.length + rs.flatten.length ≤ 4096 →
    (encodeRecords rs).length = 2 * rs.length + rs.flatten.length ∧ decodeRecords rs.length (encodeRecords rs) = some rs

/-- O27. For a queue of a running job, sealing a tile while SEQ and FIRST_ROW are below 2^48: the queue's SEQ is one more and its FIRST_ROW that many
rows more; with the valve closed and a free slot and no tile waiting the tile, with its seal in place, is the last in the slots; with the valve closed
and the queue full it waits behind those that wait; with the valve open and the queue full it is spilled last, unless the spill area would then exceed
the job's budget, which is the fault 0x0112. -/
def Obligations.TileSealedInOrder : Prop :=
  ∀ (d : Dev) (slot st port rows cols : Nat) (pl : Bytes),
    let n := outQueueNo (getJob d slot) st port
    let q := getQ d slot n
    let u := sealTile d slot st port rows cols pl false
    slot < 64 → n < (getJob d slot).rt.queues.length → (getJob d slot).state = .running → q.nextSeq < 2 ^ 48 → q.nextRow < 2 ^ 48 →
    (∃ t : Tile, t.seq = q.nextSeq ∧ t.firstRow = q.nextRow ∧ t.rowCount = rows ∧ t.crc = t.computeSeal ∧ t.jobTag = (getJob d slot).image.jobTag ∧ t.queue = n ∧ t.version = 2 ∧
      (queueFull (getJob d slot) n q = false → q.held = [] → q.valve = false → getQ u slot n = { q with nextSeq := q.nextSeq + 1, nextRow := q.nextRow + rows, tiles := q.tiles ++ [t], moved := true }) ∧
      (queueFull (getJob d slot) n q = true → q.valve = false → getQ u slot n = { q with nextSeq := q.nextSeq + 1, nextRow := q.nextRow + rows, held := q.held ++ [t], moved := q.moved || q.held.isEmpty }) ∧
      (queueFull (getJob d slot) n q = true → q.valve = true → 4160 * (spillTiles (getJob d slot) + 1) ≤ (getJob d slot).image.spillBudget →
        getQ u slot n = { q with nextSeq := q.nextSeq + 1, nextRow := q.nextRow + rows, spilled := q.spilled ++ [t], moved := true }) ∧
      (queueFull (getJob d slot) n q = true → q.valve = true → (getJob d slot).image.spillBudget < 4160 * (spillTiles (getJob d slot) + 1) →
        (getJob u slot).lastFault = 0x0112 ∧ (getJob u slot).state ≠ .running))

/-- O28. An intake station that has not ended and whose output is free: the next object its manifest or region gives once the manifest has been read,
is read and goes on as BYTES objects (FORM 0), as checked tiles (FORM 1) or as the length-prefixed records it holds (FORM 2); an entry that cannot be
is the fault 0x0B01; past the last object the station ends its stream; an item of a replayed log goes the way it went before. A feed's whole message
of records, none missing before it and no mark or close of a command due before it, is taken when the job takes it now: records already seen are
passed over, the next sequence and the credits move on. A watermark not below the feed's is taken at its position; one below it is ignored and
counted; a mark or close of a command that waited behind the message then follows. -/
def Obligations.IntakeRows : Prop :=
  ∀ (s : State) (slot st : Nat),
    let p := paramSt s.dev slot st
    let x := intakeSt s.dev slot st
    (AtStation s slot st (· = .intake) → (getSt s.dev slot st).ended = false → outBlocked s.dev slot st = false → u8at p 0 ≠ 2 →
      (u16at p 6 = 0xFFFF ∨ x.man.isSome = true → readManifest s.mem (rowStart s) slot st = .ok (rowStart s)) ∧
      (∀ e k, readManifest s.mem (rowStart s) slot st = .ok e → stopped e slot = false → (intakeSt e slot st).obj = k →
        (objectRef e slot st k = .none → Takes (.intakeObject slot st) s (endStation e slot st)) ∧
        (∀ i, objectRef e slot st k = .bad i → Takes (.intakeObject slot st) s (stationFault e slot st 0x0B01 i 0)) ∧
        (∀ off n bs d, objectRef e slot st k = .at off n → readInput s.mem e slot st (u16at p 4) off n = .ok (bs, d) → stopped d slot = false →
        (u8at p 1 = 0 → Takes (.intakeObject slot st) s
          ((segments (u8at p 2) bs).foldl (fun d b => addObject d slot st 0 b) (modIntake d slot st (fun y => { y with obj := y.obj + 1 })))) ∧
        (u8at p 1 = 1 → Takes (.intakeObject slot st) s
          ((tilesIn (n / 4160) bs).foldl (passTile slot st (totalTiles e slot st (objectBound e slot st) 0)) (modIntake d slot st (fun y => { y with obj := y.obj + 1 })))) ∧
        (2 ≤ u8at p 1 → (splitRecords (bs.length + 1) bs 0).2 = none → Takes (.intakeObject slot st) s
          ((splitRecords (bs.length + 1) bs 0).1.foldl (fun d r => addRec d slot st 0 r) (modIntake d slot st (fun y => { y with obj := y.obj + 1 }))))))) ∧
    (∀ it r, AtStation s slot st (· = .intake) → (getSt s.dev slot st).ended = false → outBlocked s.dev slot st = false → u8at p 0 = 2 → x.todo = it :: r →
      Takes (.intakeObject slot st) s (feedItem (modIntake (rowStart s) slot st (fun y => { y with todo := r })) slot st it)) ∧
    (∀ id f first rs n, getFeed s.dev id = some f → f.waits.head?.any (fun w => w.1 == 0) = false → feedMsg f.partBuf = (.recs first rs, n) → first ≤ f.nextSeq →
      feedTakes s.dev f ((rs.drop (f.nextSeq - first)).map (LogItem.record f.station)) = true →
      Takes (.feedRecords id) s (settleFeed id (f.waits.length + 1) (((rs.drop (f.nextSeq - first)).map (LogItem.record f.station)).foldl
        (fun d it => takeItem d f.slot f.station it) (modFeed (feedTaken (start s) f n) id (fun y => { y with nextSeq := max y.nextSeq (first + rs.length) }))))) ∧
    (∀ id f v n, getFeed s.dev id = some f → f.waits.head?.any (fun w => w.1 == 0) = false → feedMsg f.partBuf = (.mark v, n) → f.mode ≠ 0 →
      (f.mark ≤ v → feedTakes s.dev f [.mark f.station v] = true →
        Takes (.feedWatermarkMessage id) s (settleFeed id (f.waits.length + 1)
          (takeItem (modFeed (feedTaken (start s) f n) id (fun y => { y with mark := v })) f.slot f.station (.mark f.station v)))) ∧
      (v < f.mark → Takes (.feedWatermarkMessage id) s (settleFeed id (f.waits.length + 1) (modJob (feedTaken (start s) f n) f.slot (fun j => { j with marksIgnored := j.marksIgnored + 1 })))))

/-- O29. On a running job, with the outputs free: an unpack station decompresses its next object and hands on what it gives, whole where nothing is
wrong; a parse station with a unit in hand writes the unit's next row (or keeps it in the window behind a unit still away); a unit diverted to the
bramble lane with no row out, or one that only the lane decodes, goes into the window as away and is counted; the n-th unit away of a parse station
returns with everything no other unit is ahead of; an align station that holds fewer than HOLD_TILES tiles, or whose port stands at the frontier,
classifies the next row of the port and releases what the watermarks allow, and a port at its end counts as infinite. -/
def Obligations.DecodeRows : Prop :=
  ∀ (s : State) (slot st port unit : Nat),
    (∀ b r, AtStation s slot st (· = .unpack) → (getSt s.dev slot st).ended = false → outBlocked s.dev slot st = false → (getIn s.dev slot st 0).objs = b :: r →
      u16at (paramSt s.dev slot st) 2 = 0xFFFF → (unpackBytes (u8at (paramSt s.dev slot st) 0) (findDict []) b).err = none →
      Takes (.unpackObject slot st) s (addObject (modIn (rowStart s) slot st 0 InPort.popObj) slot st 0 (unpackBytes (u8at (paramSt s.dev slot st) 0) (findDict []) b).out)) ∧
    (∀ x u us, AtStation s slot st (· = .parse) → (getSt s.dev slot st).ended = false → outBlocked s.dev slot st = false → parseSt s.dev slot st = x →
      windowRows x.window < 65536 → x.todo = u :: us →
      (∀ r rs, u.lane = false → u.rows = r :: rs →
        let e := emitParsed slot st (modParse (rowStart s) slot st (fun y => { y with todo := if rs = [] then us else { u with rows := rs, begun := true } :: us })) (r, x.obj)
        Takes (.parseRecord slot st) s (if stopped e slot then e else closeParse e slot st)) ∧
      (u.begun = false → brambleAway s.dev < 4096 →
        let e := divertUnit slot st (modParse (rowStart s) slot st (fun y => { y with todo := us })) (u.rows.map (fun r => (r, x.obj)))
        let t := if stopped e slot then e else closeParse e slot st
        Takes (.brambleDivert slot st) s t ∧ (u.lane = true → Takes (.parseRecord slot st) s t))) ∧
    (∀ e i, AtStation s slot st (· = .parse) → outBlocked s.dev slot st = false →
      ((parseSt s.dev slot st).window.zipIdx.filter (fun e => e.1.away))[unit]? = some (e, i) →
      Takes (.brambleReturn slot st unit) s (drainParse slot st ((parseSt s.dev slot st).window.length + 1)
        (modParse (rowStart s) slot st (fun y => { y with window := modifyAt y.window i (fun e => { e with away := false }) })))) ∧
    (∀ r fs, AtStation s slot st (· = .align) → port < (descSt s.dev slot st).inPorts → outBlocked s.dev slot st = false → (getIn s.dev slot st port).row? = some (r, fs) →
      (tilesOf ((alignSt s.dev slot st).hold.map (·.2)) [] < u32at (paramSt s.dev slot st) 4 ∨
        thrOf (getJob s.dev slot).image.latenessUs ((alignSt s.dev slot st).w.getD port 0) = frontierOf (getJob s.dev slot).image.latenessUs (alignSt s.dev slot st).w) →
      Takes (.alignRow slot st port) s (alignRow slot st port (modIn (rowStart s) slot st port InPort.nextRow) r fs)) ∧
    (AtStation s slot st (· = .align) → port < (descSt s.dev slot st).inPorts → outBlocked s.dev slot st = false → (getIn s.dev slot st port).row? = none →
      (getIn s.dev slot st port).done = true → (alignSt s.dev slot st).w.getD port 0 ≠ 2 ^ 64 - 1 →
      Takes (.alignRow slot st port) s (alignRelease (modAlign (rowStart s) slot st (fun y => { y with w := setAt y.w port (2 ^ 64 - 1) })) slot st))

/-- O30. The frontier of watermarks is the lowest of their thresholds, each a watermark less the lateness, infinite for an infinite one. After a
release every row the station holds, in time or late, has a time at or above the frontier; putting a row into a queue that is in the order of (time,
feed number, sequence) leaves it in that order and holding the same rows and the new one. -/
def Obligations.AlignReleases : Prop :=
  (∀ (d : Dev) (slot st : Nat) (e : AlignKey × Row), e ∈ (alignSt (alignRelease d slot st) slot st).hold ++ (alignSt (alignRelease d slot st) slot st).late →
    frontierOf (getJob d slot).image.latenessUs (alignSt d slot st).w ≤ e.1.1) ∧
  (∀ (lat : Nat) (ws : List Nat) (w : Nat), w ∈ ws → frontierOf lat ws ≤ (if w = 2 ^ 64 - 1 then 2 ^ 64 - 1 else w - lat)) ∧
  (∀ (k : AlignKey) (r : Row) (q : List (AlignKey × Row)), q.Pairwise (fun a b => keyLt b.1 a.1 = false) →
    (keyInsert k r q).Pairwise (fun a b => keyLt b.1 a.1 = false) ∧ (keyInsert k r q).Perm ((k, r) :: q))

/-- O31. For every list of records below 2^32 bytes, written each as its 32-bit length and its bytes: FORM 2 reads exactly these records and reports
nothing cut; with further bytes behind them, not empty, in which fewer bytes remain than a length needs or names, it reads the same records, those
bytes as one more, and reports the offset at which they start. -/
def Obligations.PrefixedRecords : Prop :=
  ∀ (rs : List Bytes) (c : Bytes), (∀ r ∈ rs, r.length < 2 ^ 32) →
    let bs := (rs.map (fun r => le 4 r.length ++ r)).flatten
    splitRecords (bs.length + 1) bs 0 = (rs, none) ∧
    (c ≠ [] → (c.length < 4 ∨ c.length < 4 + u32at c 0) → splitRecords ((bs ++ c).length + 1) (bs ++ c) 0 = (rs ++ [c], some bs.length))

/-- O32. An emit station in MODE 1 writes its tile at OFFSET + 4,160 x SEQ whole, or its payload behind what it wrote, and the job has provisional
output; one of a channel gathers the tiles of a batch, and a complete batch is written with a credit and no boundary before it, phase by phase, each
when the writes before it have been read back: its runs into the slot WRITTEN mod S, then its descriptor, then WRITTEN one higher; without a credit
nothing changes, and CONSUMED is read: it is kept, while a value below the last or above the highest WRITTEN is the fault 0x0C47. -/
def Obligations.EmitRows : Prop :=
  ∀ (s : State) (slot st : Nat),
    let j := getJob s.dev slot
    let p := paramSt s.dev slot st
    let x := emitSt s.dev slot st
    let c := emitCtx j.image st
    (∀ t r d, AtStation s slot st (· = .emit) → u8at p 0 = 1 → (getSt s.dev slot st).ended = false → (getIn s.dev slot st 0).inbox = t :: r →
      let off := if u8at p 1 = 0 then u64at p 8 + 4160 * t.seq else u64at p 8 + x.pos
      let bs := if u8at p 1 = 0 then t.bytes else t.used
      regWrite (rowStart s) (bindingOr j (u16at p 2)) (stationEngine j st) j.image.jobTag off bs = .ok d → t.eos = false →
      Takes (.emitTile slot st) s (modIn (setKind (modJob d slot (fun j => { j with provisional := true })) slot st
        (.emit { x with pos := x.pos + (if u8at p 1 = 0 then 0 else bs.length) })) slot st 0 InPort.drop)) ∧
    (∀ b, AtStation s slot st (· = .emit) → u8at p 0 = 2 → (getSt s.dev slot st).ended = false → x.ready = some b →
      (x.consumed + c.slots ≤ x.written → Takes (.batchEmit slot st) s (rowStart s)) ∧
      (writesBack (rowStart s) slot st = false → Takes (.batchEmit slot st) s (rowStart s)) ∧
      (x.written < x.consumed + c.slots → writesBack (rowStart s) slot st = true → (x.phase ≠ 0 ∨ c.ch.channel ≠ 0 ∨ j.image.epochBatches = 0 ∨ b < nextBound j) →
        Takes (.batchEmit slot st) s (let e := writeBatch slot st c b (rowStart s); if stopped e slot then e else emitDone slot st e))) ∧
    (∀ t r, AtStation s slot st (· = .emit) → u8at p 0 = 2 → (getSt s.dev slot st).ended = false → x.ready = none → (getIn s.dev slot st 0).inbox = t :: r → 64 ≤ t.payloadBytes →
      Takes (.batchEmit slot st) s (tryBatch slot st (setKind (modIn (rowStart s) slot st 0 InPort.drop) slot st (.emit
        { x with runs := x.runs ++ [(u64at t.used 8, (t.used.drop 64).take (u32at t.used 0x10))], ready := if (u8at t.used 0x14).testBit 0 then some (u64at t.used 0) else x.ready })))) ∧
    (∀ bs stores, AtStation s slot st (· = .emit) → u8at p 0 = 2 → x.ready ≠ none → x.consumed + c.slots ≤ x.written →
      regRead s.mem (hostStores (rowStart s) stores) (bindingOr j c.ch.descRegion) 0x18 8 = .ok bs →
      (x.consumed ≤ u64at bs 0 → (assocGet j.consumedLast c.ch.channel).getD 0 ≤ u64at bs 0 → u64at bs 0 ≤ (assocGet j.writtenHigh c.ch.channel).getD 0 →
        Takes (.consumedPoll slot st stores) s (modJob (setKind (hostStores (rowStart s) stores) slot st (.emit { x with consumed := u64at bs 0 })) slot
          (fun j => { j with consumedLast := assocSet j.consumedLast c.ch.channel (u64at bs 0) }))) ∧
      (u64at bs 0 < max x.consumed ((assocGet j.consumedLast c.ch.channel).getD 0) ∨ (assocGet j.writtenHigh c.ch.channel).getD 0 < u64at bs 0 → ∃ u, exec (.consumedPoll slot st stores) s = .next u ∧ (getJob u.dev slot).lastFault = 0x0C47 ∧ (getJob u.dev slot).state ≠ .running)) ∧
    (∀ i : BatchInfo, let ws (n : Nat) := batchWrites s.dev j c { x with phase := n } i
      ws 0 = x.runs.map (fun r => (c.ch.outputRegion, x.written % c.slots * c.slotBytes + r.1, r.2)) ∧
      (∃ desc, ws 1 = [(c.ch.descRegion, 64 + x.written % c.slots * c.descBytes, desc)] ∧ u64at desc 8 = i.batch % 2 ^ 64 ∧ u8at desc 1 = c.ch.channel % 256) ∧
      ws 2 = [(c.ch.descRegion, 0x10, le 8 (x.written + 1))])

/-- O33. A running shale station that is neither stopped nor ended codes the block that is ready, or takes the next bytes of the input tile into its
stream first, no more than the block still needs; stopped for want of a slot it goes on when no block holds the slot, stopped for want of granules it
finishes the block in hand when its extent is free. The decompressor runs on its next block while it is not stopped on a full buffer, and out of a
full buffer when the output queue can take more bytes. -/
def Obligations.ShaleRows : Prop :=
  ∀ (s : State) (slot st : Nat), AtStation s slot st (· = .shale) →
    let x := shaleSt s.dev slot st
    let q := shaleP (paramSt s.dev slot st)
    (x.stop = 0 → (getSt s.dev slot st).ended = false →
      (blockReady x = true → Takes (.shaleEncodeBlock slot st) s (encodeStep slot st (rowStart s))) ∧
      (∀ t r, blockReady x = false → (getIn s.dev slot st 0).inbox = t :: r → (getIn s.dev slot st 0).pos < 4160 → Takes (.shaleEncodeBlock slot st) s
        (let i := getIn s.dev slot st 0
         let n := min (4096 * (x.block + (if x.half.isSome then 2 else 1)) - x.received) (4160 - i.pos)
         let whole := decide (4160 ≤ i.pos + n)
         encodeStep slot st (modShale (modIn (rowStart s) slot st 0 (fun p => if whole then p.drop else { p with pos := p.pos + n })) slot st
          (fun y => { y with bytes := y.bytes ++ (t.bytes.drop i.pos).take n, received := y.received + n, closed := t.eos && whole }))))) ∧
    (x.stop = 1 → (∀ b ∈ x.blocks, b.index + q.slots ≠ x.block) →
      Takes (.shaleCompressorResume slot st) s (encodeStep slot st (modShale (rowStart s) slot st (fun y => { y with stop := 0 })))) ∧
    (∀ b, x.stop = 2 → x.half = some b → extentFree x q.granules b = true →
      Takes (.shaleCompressorResume slot st) s (closeBlock slot st (rowStart s) b (placeExtent x.poolHead (ceilDiv b.ovf.length 64) q.granules).2.2)) ∧
    (∀ b ∈ x.blocks, x.full = false → b.index = x.dblock → Takes (.shaleDecodeBlock slot st) s (decodeStep slot st (rowStart s))) ∧
    (x.full = true → x.out.length < 4160 * freeSlots s.dev slot (outQueueNo (getJob s.dev slot) st 0) →
      Takes (.shaleDecompressorResume slot st) s (decodeStep slot st (modShale (rowStart s) slot st (fun y => { y with full := false }))))

/-- O34. For every stream, restart interval, level from 1 to 9, ratio and block of at most 4,096 bytes inside it: decoding the code words of R175 by
R178, behind the bytes before the block, delivers exactly the first CODED_IN bytes of the block, with every code word read, no fault raised and
CODED_IN not above the block's length; the code words fit the slot. -/
def Obligations.ShaleBlockRoundTrip : Prop :=
  ∀ (a : Array Byte) (restart level ratio i n room : Nat), 1 ≤ level → level ≤ 9 → 1 ≤ n → n ≤ 4096 → 4096 * i + n ≤ a.size →
    let code := (codeBlock a 0 restart level ratio i n).1
    let ci := (codeBlock a 0 restart level ratio i n).2
    ci ≤ room →
    ci ≤ n ∧ code.length ≤ slotBytes ratio - 24 ∧
    ∃ t, decodeCodes code ci (4096 * i) (windowAt restart i) 0 (4 * 4096 + 8) {} room (a.extract 0 (4096 * i)) = (t, a.extract 0 (4096 * i + ci), .codesDone) ∧
      t.done = ci ∧ t.cpos = code.length

/-- O35. A running match station whose output is free searches the next row of its tile once the pairs of the tiles before it are committed (a row
with a null key column goes out as a miss with the null-key flag), after the soft errors given with the command; a search that was not clean is issued
again; the oldest held pair commits when its tile is searched and the writer has finished it; an entry that a built table holds in its banks, without
a double-bit shadow error, is scrubbed; a table whose region has a good header, its records and masks is built with every record valid and the saved
changes laid over it (the placement step it then stands at is the model's reading of R205, log entry 30); the frequency sample orders the ordinals by
count, chooses anew what the CAM holds, and begins again. -/
def Obligations.MatchRows : Prop :=
  ∀ (s : State) (slot st ord : Nat) (cells : List CellHit) (shadow : List ShadowHit), AtStation s slot st (· = .matchSt) →
    let q := matchP (paramSt s.dev slot st)
    let x := matchSt s.dev slot st
    let d := modMatch (rowStart s) slot st (fun x => x.upset cells shadow)
    (∀ r fs t ts, (getSt s.dev slot st).ended = false → x.redo = none → outBlocked s.dev slot st = false → (getIn s.dev slot st 0).inbox = t :: ts →
      (getIn s.dev slot st 0).row? = some (r, fs) → pairsThrough d slot st t.seq q = true →
      (rowKey r q.keys = none → Takes (.matchSearch slot st cells shadow) s (matchDeliver slot st q (modIn d slot st 0 InPort.nextRow) r none true)) ∧
      (∀ k, rowKey r q.keys = some k → Takes (.matchSearch slot st cells shadow) s (searchRow slot st q [] (countSt d slot st (1 + x.step) 1) r k))) ∧
    (∀ o r fs, x.redo = some o → (getIn s.dev slot st 0).row? = some (r, fs) →
      Takes (.searchRepeat slot st cells shadow) s (searchRow slot st q o d r ((rowKey r q.keys).getD []))) ∧
    (∀ p n k seq hs, x.held = (seq, p) :: hs → inQueueNo (getJob s.dev slot) st 0 = some (n, k) → seq < (getQ s.dev slot n).taken.getD k 0 →
      (∀ t ∈ (getIn s.dev slot st 0).inbox, seq < t.seq) → writerDone s.dev slot st seq q = true →
      Takes (.pairCommit slot st) s (modMatch (rowStart s) slot st (fun y => (({ y with held := hs } : MatchSt).pair q.w p).rechoose q))) ∧
    (x.built = true → ord < q.capacity → (∃ c ∈ x.copies, x.place q c ord ≠ none) → (x.upset cells shadow).shadowBad ord = false →
      ∃ n, Takes (.scrub slot st ord cells shadow) s (modMatch (rowStart s) slot st
        (fun _ => { ((x.upset cells shadow).readShadow ord).rewrite ord with scrubbed := x.scrubbed + n })) ∧ n ≤ 1) ∧
    (∀ h b, x.built = false → 64 ≤ (bindingOr (getJob s.dev slot) q.region).bytes →
      regRead s.mem (rowStart s) (bindingOr (getJob s.dev slot) q.region) 0 64 = .ok h → q.headerOk h = true →
      64 + u32at h 8 * q.recBytes ≤ (bindingOr (getJob s.dev slot) q.region).bytes →
      regRead s.mem (rowStart s) (bindingOr (getJob s.dev slot) q.region) 64 (u32at h 8 * q.recBytes) = .ok b →
      (∀ i < u32at h 8, q.maskOk ((q.record b i).mask.getD 0 0) = true) →
      let y := x.changed.foldl (fun y h => y.half q.w h)
        { x with built := true, entries := (List.range (u32at h 8)).map (q.record b), cells := [], shadow := [] }
      Takes (.tableBuildComplete slot st) s (setTable (rowStart s) slot st (if (getJob s.dev slot).replaying then 4 else 0) 0xFFFF y)) ∧
    (x.built = true → Takes (.frequencySample slot st) s
      (modMatch (rowStart s) slot st (fun x => MatchSt.rechoose { x with hot := ((sortBy (fun (f : Nat × Nat) => f.2) x.freq).reverse).map (·.1), freq := [] } q)))

/-- O36. For a table whose entries stand by ascending ordinal, with no flipped cell, entries of W units and a key of W units: the search is clean and
finds exactly the ordinals of the valid entries with ((s ^ key) & mask) = 0 in every unit, with SELECT 0, and with SELECT 1 when every entry's mask
covers HASH_MASK; its first hit is not above any entry that matches. Building a table and applying a pair leave the entries by ascending ordinal.
Where a cell of an entry is flipped in the replica that serves the search, the entry lies in the banks that the key selects, and the flip makes the
two lines of a unit disagree, the search is not clean. -/
def Obligations.SearchFindsLowest : Prop :=
  (∀ (x : MatchSt) (q : MatchP) (s : List Nat), x.cells = [] → s.length = q.w → 1 ≤ q.w → (∀ u ∈ s, u < 2 ^ 64) →
    (∀ e ∈ x.entries, e.key.length = q.w ∧ e.mask.length = q.w ∧ (∀ u ∈ e.key, u < 2 ^ 64) ∧ (∀ u ∈ e.mask, u < 2 ^ 64)) →
    x.entries.Pairwise (fun a b => a.ord < b.ord) → (q.select = 0 ∨ ∀ e ∈ x.entries, e.mask.getD 0 0 &&& q.hashMask = q.hashMask) →
    (x.search q s).clean = true ∧
    (x.search q s).hits = (x.entries.filter (fun e => e.valid && (List.range q.w).all (fun u => ((s.getD u 0 ^^^ e.key.getD u 0) &&& e.mask.getD u 0) == 0))).map (·.ord) ∧
    (∀ e ∈ x.entries, e.hits s = true → ∃ o, (x.search q s).hits.head? = some o ∧ o ≤ e.ord)) ∧
  (∀ (x : MatchSt) (w : Nat) (p : MPair), x.entries.Pairwise (fun a b => a.ord < b.ord) → (x.pair w p).entries.Pairwise (fun a b => a.ord < b.ord)) ∧
  (∀ (q : MatchP) (b : Bytes) (n : Nat), ((List.range n).map (q.record b)).Pairwise (fun a c => a.ord < c.ord)) ∧
  (∀ (x : MatchSt) (q : MatchP) (s : List Nat) (c : CellHit) (u : Nat), c ∈ x.cells → c.copy = x.copyNo → u < q.w →
    (∃ p, x.place q x.sets c.ord = some p ∧ (q.select = 0 ∨ p.1 = q.group (s.getD 0 0) x.sets.length)) →
    (x.lines x.copyNo (x.entry q.w c.ord) s u).1 ≠ (x.lines x.copyNo (x.entry q.w c.ord) s u).2 → (x.search q s).clean = false)

/-- O37. The next build row joins its partition's table when its memory, or more of HBM or the tier, is enough (no more is taken where what it has
will do) and DUP 2 finds no earlier row with its key; the next probe row, when the output is free and its matches are at most 65,535 where DUP is 0,
gives its output rows, which leave by partition at the end of its tile; a select station takes the rows of its open group, and closes the last group
when its input has ended. A probe row gives a row a match with KIND 0 and 1, one with nulls for a miss with KIND 1, itself once on a match with KIND
2, itself on a miss with KIND 3. -/
def Obligations.JoinSelectRows : Prop :=
  (∀ (s : State) (slot st : Nat),
    let p := paramSt s.dev slot st
    let sd := descSt s.dev slot st
    let x := joinSt s.dev slot st
    (∀ r ord, AtStation s slot st (· = .hashjoin) → (getIn s.dev slot st 0).row? = some (r, ord) →
      let row : BuildRow := { part := partOf r sd.keyColumn sd.partitions, key := keyForm r sd.keyColumn, row := r }
      let mine := x.build.filter (fun b => b.part == row.part)
      (u8at p 1 = 2 → row.key ≠ none → ∀ b ∈ mine, b.key ≠ row.key) →
      (∀ e, growJoin (rowStart s) slot st (joinBytes (x.build ++ [row])) = some e →
        Takes (.hashjoinBuildRow slot st) s (modJoin (modIn e slot st 0 InPort.nextRow) slot st (fun x => { x with build := x.build ++ [row] }))) ∧
      (joinBytes (x.build ++ [row]) ≤ ((((getJob s.dev slot).joinAreas.find? (fun a => a.1 == st)).elim [] (·.2)).foldl (fun a e => a + joinRoom e) 0) →
        growJoin (rowStart s) slot st (joinBytes (x.build ++ [row])) = some (rowStart s))) ∧
    (∀ r ord, AtStation s slot st (· = .hashjoin) → (getSt s.dev slot st).ended = false → outBlocked s.dev slot st = false →
      (getIn s.dev slot st 1).row? = some (r, ord) →
      let k := keyForm r sd.keyColumn
      let part := partOf r sd.keyColumn sd.partitions
      let found := if k = none then [] else (x.build.filter (fun b => b.part == part && b.key == k)).map (·.row)
      let ms := if u8at p 1 = 1 then found.take 1 else found
      (u8at p 1 = 0 → found.length ≤ 65535) →
      ∃ types, ∃ e, e = modIn (modJoin (rowStart s) slot st (fun x => { x with out := x.out ++ (probeOut types p r ms).map (fun o => (part, o)) })) slot st 1 InPort.nextRow ∧
        Takes (.hashjoinProbeRow slot st) s (if (getIn s.dev slot st 1).finished < (getIn e slot st 1).finished then flushJoin e slot st else e)) ∧
    (∀ t ts, AtStation s slot st (· = .select) → (getSt s.dev slot st).ended = false → outBlocked s.dev slot st = false → (getIn s.dev slot st 0).inbox = t :: ts →
      Takes (.selectGroup slot st) s (selRows slot st (selP p) (t.rowCount + 1 - (getIn s.dev slot st 0).pos) (rowStart s))) ∧
    (AtStation s slot st (· = .select) → (getSt s.dev slot st).ended = false → outBlocked s.dev slot st = false → (getIn s.dev slot st 0).inbox = [] →
      inputsDone s.dev slot st = true → Takes (.selectGroup slot st) s (endStation (closeGroup (rowStart s) slot st (selP p)) slot st))) ∧
  (∀ (types : List (Nat × Ty)) (p : Bytes) (r : Row) (ms : List Row),
    (u8at p 0 = 0 → probeOut types p r ms = ms.map (fun b => joinRow types p r (some b))) ∧
    (u8at p 0 = 1 → probeOut types p r ms = if ms = [] then [joinRow types p r none] else ms.map (fun b => joinRow types p r (some b))) ∧
    (u8at p 0 = 2 → probeOut types p r ms = if ms = [] then [] else [r]) ∧ (u8at p 0 = 3 → probeOut types p r ms = if ms = [] then [r] else []))

/-- O38. For every integer and class F type and every stored bits: the key is computed as the pseudocode of R249 gives it, the bucket is the top 12
bits of the left-aligned key, NaN is what the table of R249 calls NaN, no value but a NaN has key 0 or 2^w - 1 among the floating-point types, and
both zeros have one key; keys of signed integers are in the order of their values. Candidates are ranked by falling key, equal keys by rising index
with TIES 0, none lost or doubled. -/
def Obligations.KeysInValueOrder : Prop :=
  (∀ (t : Ty) (bits : Nat) (nanHigh : Bool), t.isInt = true ∨ t.isF = true →
    let w := t.width
    let b := bits % 2 ^ w
    let top := 2 ^ (w - 1)
    let mask := 2 ^ w - 1
    let nan : Bool := match t with
      | .fp16 => decide (0x7C00 < b &&& 0x7FFF)
      | .bf16 => decide (0x7F80 < b &&& 0x7FFF)
      | .fp32 => decide (0x7F800000 < b &&& 0x7FFFFFFF)
      | .e5m2 => decide (0x7C < b &&& 0x7F)
      | .e4m3 => decide (b &&& 0x7F = 0x7F)
      | _ => false
    let c := if b = top then 0 else b
    topkKey t bits nanHigh =
      (if t.isInt then (if t.isSigned then b ^^^ top else b) else if nan then (if nanHigh then mask else 0) else if c &&& top ≠ 0 then mask ^^^ c else c ||| top) ∧
    topkBucket (topkKey t bits nanHigh) w = ((topkKey t bits nanHigh) <<< (64 - w)) % 2 ^ 64 / 2 ^ 52 ∧
    (t.isF = true → nan = false → topkKey t bits nanHigh ≠ 0 ∧ topkKey t bits nanHigh ≠ mask) ∧
    (t.isF = true → topkKey t 0 nanHigh = topkKey t top nanHigh)) ∧
  (∀ (t : Ty) (a b : Nat), t.isSigned = true → a < 2 ^ t.width → b < 2 ^ t.width →
    let value (n : Nat) : Int := if n < 2 ^ (t.width - 1) then n else (n : Int) - 2 ^ t.width
    (topkKey t a false < topkKey t b false ↔ value a < value b)) ∧
  (∀ (q : SelP) (cs : List Cand), q.ties = 0 →
    (q.ranked cs).Perm cs ∧ (q.ranked cs).Pairwise (fun a b => b.key < a.key ∨ (a.key = b.key ∧ a.index ≤ b.index)))

/-- O39. A running image station whose staging area is not full takes its next JPEG, or its next tile of pixels, with its sample number and record
into the window, to the bramble lane where it is one the engine diverts or is told to; an image behind a hole flag goes out as a hole, the tiles of
one image gather and the last makes it whole. The oldest staged image is warped and leaves with all that no other image is ahead of; the n-th image
away returns to the staging area. -/
def Obligations.ImageRows : Prop :=
  ∀ (s : State) (slot st unit : Nat), AtStation s slot st (· = .image) →
    let q := imgP (paramSt s.dev slot st)
    let x := imageSt s.dev slot st
    let away (b : Bytes) (cut : Bool) (r : Bytes) (d : Dev) : Dev :=
      modImage (if cut then countSt (modIn d slot st 0 InPort.popObj) slot st 0 1 else modIn d slot st 0 InPort.popObj) slot st
        (fun x => { x with ordinal := x.ordinal + 1, window := x.window ++ [{ away := cut, src := jpegSource q (q.base + x.ordinal) r b }] })
    (∀ b bs r, (getSt s.dev slot st).ended = false → q.input = 0 → (getIn s.dev slot st 0).objs = b :: bs → stagedCount x < 2 →
      (x.window.dropWhile (fun e => !e.away)).length < 65536 → q.base + x.ordinal < 2 ^ 48 → readRecord s.mem (rowStart s) slot st q (q.base + x.ordinal) = .ok r →
      (jpegDiverts b = false → Takes (.imageDecode slot st) s (away b false r (rowStart s))) ∧
      (brambleAway s.dev < 4096 → Takes (.brambleDivert slot st) s (away b true r (rowStart s)) ∧
        (jpegDiverts b = true → Takes (.imageDecode slot st) s (away b true r (rowStart s))))) ∧
    (∀ t ts, (getSt s.dev slot st).ended = false → q.input ≠ 0 → (getIn s.dev slot st 0).inbox = t :: ts → stagedCount x < 2 → t.payloadBytes ≠ 0 → pixelFails x t = none →
      u64at t.used 0 < 2 ^ 48 →
      (bit (u8at t.used 0x12) 1 = true → Takes (.imageDecode slot st) s (modImage (modIn (rowStart s) slot st 0 InPort.drop) slot st
        (fun x => { x with ordinal := x.ordinal + 1, window := x.window ++ [{ away := false, src := { sample := u64at t.used 0, hole := some t.used } }] }))) ∧
      (∀ p, bit (u8at t.used 0x12) 1 = false → (x.part = some p ∨ x.part = none ∧ ∃ r, readRecord s.mem (rowStart s) slot st q (u64at t.used 0) = .ok r ∧
          p = { sample := u64at t.used 0, w := u16at t.used 8, h := u16at t.used 0x0A, channels := u8at t.used 0x10, ty := (Ty.ofCode (u8at t.used 0x11)).getD .u8,
                ycc := bit (u8at t.used 0x12) 2, record := r }) →
        let e := modIn (rowStart s) slot st 0 InPort.drop
        let i := { p with data := p.data ++ pixelEls t }
        let w := u16at t.used 8
        let h := u16at t.used 0x0A
        (bit (u8at t.used 0x12) 0 = false → Takes (.imageDecode slot st) s (modImage e slot st (fun x => { x with part := some i, got := x.got + t.rowCount }))) ∧
        (bit (u8at t.used 0x12) 0 = true → 0 < w → w ≤ 8192 → 0 < h → h ≤ 8192 → w * h * u8at t.used 0x10 * ((Ty.ofCode (u8at t.used 0x11)).getD .u8).bytes ≤ 0x10000000 →
          Takes (.imageDecode slot st) s (modImage e slot st (fun x => { x with part := none, got := 0, ordinal := x.ordinal + 1, window := x.window ++ [{ away := false, src := i }] }))))) ∧
    (∀ i, (getSt s.dev slot st).ended = false → outBlocked s.dev slot st = false → x.window.findIdx? (fun e => !e.away && e.tiles.isNone) = some i →
      Takes (.imageWarp slot st) s (drainImages slot st (x.window.length + 1) (modImage (rowStart s) slot st (fun y => { y with
        window := modifyAt y.window i (fun e => { e with tiles := some (imageTiles (getJob s.dev slot).image q e.src), src := { sample := e.src.sample } }) })))) ∧
    (∀ e i, ((x.window.zipIdx.filter (fun e => e.1.away))[unit]?) = some (e, i) →
      Takes (.brambleReturn slot st unit) s (modImage (rowStart s) slot st (fun x => { x with window := modifyAt x.window i (fun e => { e with away := false }) })))

/-- The rows of the elementwise words, with their codes (08 R228). -/
def elementRows : List (Nat × (KAt → KWord → Instr)) :=
  [(0x03, .kMov), (0x06, .kValid), (0x07, .kSetnull), (0x08, .kCoalesce), (0x09, .kSel), (0x20, .kAdd),
   (0x21, .kSub), (0x22, .kMul), (0x23, .kDiv), (0x24, .kFma), (0x25, .kNeg), (0x26, .kAbs),
   (0x27, .kMin), (0x28, .kMax), (0x29, .kClamp), (0x2A, .kSqrt), (0x2B, .kRecip), (0x2C, .kRsqrt),
   (0x2D, .kExp), (0x2E, .kLog), (0x2F, .kLog1p), (0x30, .kExpm1), (0x31, .kFloor), (0x32, .kCeil),
   (0x33, .kRint), (0x34, .kTrunc), (0x35, .kMod), (0x36, .kAdds), (0x37, .kSubs), (0x38, .kMuls),
   (0x39, .kSign), (0x3A, .kCopysign), (0x40, .kCmpeq), (0x41, .kCmpne), (0x42, .kCmplt), (0x43, .kCmple),
   (0x44, .kCmpgt), (0x45, .kCmpge), (0x46, .kIsnan), (0x47, .kIsinf), (0x48, .kIsfin), (0x50, .kAnd),
   (0x51, .kOr), (0x52, .kXor), (0x53, .kNot), (0x54, .kAndn), (0x55, .kShl), (0x56, .kShr),
   (0x57, .kSar), (0x58, .kRotl), (0x59, .kRotr), (0x5A, .kPopcnt), (0x5B, .kClz), (0x5C, .kCtz),
   (0x5D, .kBswap), (0x60, .kCvt), (0x61, .kCvts), (0x62, .kReint), (0x63, .kTimepart), (0x64, .kTimetrunc),
   (0x68, .kXxh64), (0x69, .kMur3l), (0x6A, .kMur3h), (0x6B, .kCrc32c), (0x6C, .kXxh64c), (0x6D, .kHmod),
   (0x6E, .kHbucket), (0x70, .kBucket), (0x71, .kBucketw), (0x78, .kSlen), (0x79, .kSchars), (0x7A, .kSlower),
   (0x7B, .kSupper), (0x7C, .kSsub), (0x7D, .kSprefix), (0x7E, .kSsuffix), (0x7F, .kSfind), (0x80, .kSfield),
   (0x81, .kStoi), (0x82, .kStof), (0x83, .kDstr), (0x84, .kScat)]

/-- O40. For each of the elementwise words of R228 that is due in the open row group: with the dictionary region of DSTR readable and the string heap
not passed, the row completes; D holds the op's result of the sources of each row (in scalar form the first, zero for null), the heap in use is what
the results take, and the group stands behind the word. The op's result of the sources is the function of R225 to R234 and R242. -/
def Obligations.ElementWords : Prop :=
  ∀ (s : State) (ka : KAt) (w : KWord) (c : Ctx) (r : Nat × (KAt → KWord → Instr)) (f : EArg → Srcs → Option Val) (dict : Bytes),
    r ∈ elementRows → WordDue s ka r.1 w c → elementOp r.1 = some f →
    let e := kenv s.mem (rowStart s) ka.slot ka.station
    let x := wordStart s ka c
    let reg := bindingOr (getJob s.dev ka.slot) w.imm
    (if r.1 = 0x83 then regRead s.mem (rowStart s) reg 0 reg.bytes = .ok dict else dict = []) →
    let out := elementOut f e (w.prog r.1) x.c dict
    heapAfter r.1 x.c out ≤ e.p.heap →
    Takes (r.2 ka w) s (wordEnd ka { x with c := { writeOp x.c w.d out with heap := heapAfter r.1 x.c out } })

/-- O41. Each of these words, when it is due, completes and the group stands behind it; BR, BRZ and BRNZ when taken add the signed IMM to the address
of the next word, else nothing; END ends the group, ROWIDX gives the rows' ordinals, SCOUNT, SANY and SALL count the valid rows of a, ACCCLR empties
the array; LDCOL gives the column of the port's rows when no row has it in another type, LDPAY and STPAY when every offset and width stay within
4,096, LDTAB when every valid index lies in the region. -/
def Obligations.PlainWords : Prop :=
  ∀ (s : State) (ka : KAt) (w : KWord) (c : Ctx) (op : Nat), WordDue s ka op w c →
    let e := kenv s.mem (rowStart s) ka.slot ka.station
    let x := wordStart s ka c
    let p := w.prog op
    let at' (y : Ctx) : Dev := wordEnd ka { x with c := y }
    let bools := ((readOp e.p x.c x.c.n w.a .bool).filterMap id).map (fun v => decide (v.n % 2 = 1))
    let jump : Dev := at' { x.c with pc := ((x.c.pc : Int) + toSigned 16 w.imm).toNat }
    (op = 0x00 → Takes (.kNop ka w) s (wordEnd ka x)) ∧
    (op = 0x02 → ∃ y, kStcol e p x = .ok y ∧ Takes (.kStcol ka w) s (wordEnd ka y)) ∧
    (op = 0x04 → Takes (.kRowidx ka w) s (at' (x.c.setSlot w.d (x.c.rows.map (fun r => some (.bits r.ord)))))) ∧
    (op = 0x05 → ∃ y, kInfo e p x = .ok y ∧ Takes (.kInfo ka w) s (wordEnd ka y)) ∧
    (op = 0x0D → Takes (.kBr ka w) s jump) ∧
    (op = 0x0E → Takes (.kBrz ka w) s (if rawOp e.p x.c w.a = 0 then jump else wordEnd ka x)) ∧
    (op = 0x0F → Takes (.kBrnz ka w) s (if rawOp e.p x.c w.a = 0 then wordEnd ka x else jump)) ∧
    (op = 0x11 → Takes (.kEnd ka w) s (closeCtx ka.slot ka.station { x with c := { x.c with done := true } })) ∧
    (op = 0x13 → Takes (.kScount ka w) s (at' (x.c.setScalar w.d (bools.count true)))) ∧
    (op = 0x14 → Takes (.kSany ka w) s (at' (x.c.setScalar w.d (if true ∈ bools then 1 else 0)))) ∧
    (op = 0x15 → Takes (.kSall ka w) s (at' (x.c.setScalar w.d (if false ∈ bools then 0 else 1)))) ∧
    (op = 0x8F → Takes (.kAccclr ka w) s (wordEnd ka { x with k := { x.k with arrays := modifyAt x.k.arrays (field w.imm 3 0) (fun _ => []) } })) ∧
    (op = 0x99 → ∃ y, kMpack e p x = .ok y ∧ Takes (.kMpack ka w) s (wordEnd ka y)) ∧
    (op = 0x9A → ∃ y, kMunpack e p x = .ok y ∧ Takes (.kMunpack ka w) s (wordEnd ka y)) ∧
    (op = 0x9B → ∃ y, kCdot e p x = .ok y ∧ Takes (.kCdot ka w) s (wordEnd ka y)) ∧
    (op = 0x01 → (∀ r ∈ portRows x (field w.imm 10 8), ∀ row, r = some row → ∀ u, Row.ty row (field w.imm 5 0) = some u → u = e.p.slotTy w.d) →
      Takes (.kLdcol ka w) s (at' (x.c.setSlot w.d ((portRows x (field w.imm 10 8)).map (fun r => r.bind (fun r => Row.get r (field w.imm 5 0))))))) ∧
    (op = 0x0A → (∀ o ∈ readOp e.p x.c (if w.d < 0x40 then x.c.n else 1) w.a .u32, ∀ v, o = some v → v.n + p.type.bytes ≤ 4096) →
      ∃ y, kLdpay e p x = .ok y ∧ Takes (.kLdpay ka w) s (wordEnd ka y)) ∧
    (op = 0x0B → (∀ o ∈ readOp e.p x.c (if w.a < 0x40 ∨ w.b < 0x40 then x.c.n else 1) w.b .u32, ∀ v, o = some v → v.n + p.type.bytes ≤ 4096) →
      ∃ y, kStpay e p x = .ok y ∧ Takes (.kStpay ka w) s (wordEnd ka y)) ∧
    (op = 0x0C → (∀ o ∈ readOp e.p x.c (if w.d < 0x40 then x.c.n else 1) w.a (operandTy e.p p.type .index w.a), ∀ v, o = some v →
        let i := (operandTy e.p p.type .index w.a).toInt v.n
        let reg := bindingOr (getJob s.dev ka.slot) w.imm
        0 ≤ i ∧ (i.toNat + 1) * p.type.bytes ≤ reg.bytes ∧ ∃ b, regRead s.mem (rowStart s) reg (i.toNat * p.type.bytes) p.type.bytes = .ok b) →
      ∃ y, kLdtab e p x = .ok y ∧ Takes (.kLdtab ka w) s (wordEnd ka y))

/-- O42. ACC, ACCN, ACCX, ACCP, SKETCH and ACCMERGE complete when every cell is below CELLS and no count can reach 2^64; ACCRD and QREAD when the
cells they read are in range; ACCEMIT, EMIT of rows and of a payload when their tiles are sealed without a fault of the job; MWRITE when its pairs are
issued; EMBAG when every valid index lies in its table and can be read. RAISE stops the job with 0x08F0, DETAIL the low half of a, DETAIL2 the ordinal
of the group's first row. -/
def Obligations.ArrayWords : Prop :=
  ∀ (s : State) (ka : KAt) (w : KWord) (c : Ctx) (op : Nat), WordDue s ka op w c →
    let e := kenv s.mem (rowStart s) ka.slot ka.station
    let x := wordStart s ka c
    let p := w.prog op
    let below (a : ArrD) (cs : List (Option Nat)) : Prop := ∀ o ∈ cs, ∀ n, o = some n → n < a.cells
    let room (a : ArrD) : Prop := ∀ cell, (getCell x.k (field w.imm 3 0) a.kind cell).terms + x.c.n < 2 ^ 64
    (∀ a, e.p.arr p = some a →
      (op = 0x88 → below a (sumCells e p x) → room a → ∃ y, kAcc e p x = .ok y ∧ Takes (.kAcc ka w) s (wordEnd ka y)) ∧
      (op = 0x8A → below a (sumCells e p x) → room a → ∃ y, kAccn e p x = .ok y ∧ Takes (.kAccn ka w) s (wordEnd ka y)) ∧
      (op = 0x8B → below a (sumCells e p x) → room a → ∃ y, kAccx e p x = .ok y ∧ Takes (.kAccx ka w) s (wordEnd ka y)) ∧
      (op = 0x89 → below a ((readOp e.p x.c x.c.n w.c .u32).map (fun v => v.map Val.n)) → room a →
        ∃ y, kAccp e p x = .ok y ∧ Takes (.kAccp ka w) s (wordEnd ka y)) ∧
      (op = 0x8C → below a ((cellOp e.p x.c x.c.n w.b).map (fun o => o.map (fun k => 4096 * k + 4095))) → room a →
        ∃ y, kSketch e p x = .ok y ∧ Takes (.kSketch ka w) s (wordEnd ka y)) ∧
      (op = 0x91 → 0 < a.cells → (∀ cell, (getCell x.k (field w.imm 3 0) a.kind cell).terms + (x.c.rows.map (fun r => (Acc.decode r.acc).count)).sum < 2 ^ 64) →
        ∃ y, kAccmerge e p x = .ok y ∧ Takes (.kAccmerge ka w) s (wordEnd ka y)) ∧
      (op = 0x8D → let mode := field w.imm 15 12
        below a ((cellOp e.p x.c (if w.d < 0x40 then x.c.n else 1) w.a).map (fun o => o.map (fun n => if 2 ≤ mode ∧ mode ≤ 5 then n + 1 else n))) →
        Takes (.kAccrd ka w) s (wordEnd ka { x with c := writeOp x.c w.d ((cellOp e.p x.c (if w.d < 0x40 then x.c.n else 1) w.a).map
          (fun o => o.bind (fun n => readCell x.k a (field w.imm 3 0) mode n p.type))) })) ∧
      (op = 0x8E → below a ((cellOp e.p x.c (if w.d < 0x40 then x.c.n else 1) w.a).map (fun o => o.map (fun k => 4096 * k + 4095))) →
        ∃ y, kQread e p x = .ok y ∧ Takes (.kQread ka w) s (wordEnd ka y)) ∧
      (op = 0x90 →
        let d := (List.range a.cells).foldl (fun d n => addResult d ka.slot ka.station (field w.imm 10 8) (getCell x.k (field w.imm 3 0) 0 n).acc.encode)
          (flushPend x.d ka.slot ka.station (field w.imm 10 8))
        stopped d ka.slot = false → Takes (.kAccemit ka w) s (wordEnd ka { x with d := d }))) ∧
    (op = 0x10 →
      let port := field w.imm 2 0
      let k := if bit w.imm 9 then { x.k with stop := true } else x.k
      (bit w.imm 10 = false → ∀ d,
        let mask := readOp e.p x.c x.c.n w.a .bool
        let sel := (List.range x.c.n).filter (fun i => bit w.imm 8 || ((mask.getD i none).map (fun v => decide (v.n % 2 = 1))).getD false)
        emitRows e port x sel (if sel = [] then x.d else flushPend x.d ka.slot ka.station port) = .ok d →
        Takes (.kEmit ka w) s (wordEnd ka { d := d, k := k, c := { x.c with staged := x.c.staged.filter (fun s => s.1 != port) } })) ∧
      (bit w.imm 10 = true → rawOp e.p x.c w.b ≤ 4096 → rawOp e.p x.c w.c ≤ 4096 →
        let q := (outQueues e.im ka.station port).head?.getD {}
        let d := if (getOut x.d ka.slot ka.station port).rows = [] then x.d else sealRows x.d ka.slot ka.station port false
        let d := addTile (if (getOut d ka.slot ka.station port).recs = [] then d else sealRecs d ka.slot ka.station port false) ka.slot ka.station port
          (rawOp e.p x.c w.b) (if hasColumns q.format then q.columns else 0) (padTo (rawOp e.p x.c w.c) x.c.build)
        stopped d ka.slot = false → Takes (.kEmit ka w) s (wordEnd ka { d := d, k := k, c := { x.c with build := [] } }))) ∧
    (∀ t q d, op = 0x16 → writtenTable e.im e.p = some (t, q) →
      let seq := if x.c.endProg then (match inQueueNo (getJob x.d ka.slot) ka.station 0 with
        | some (n, k) => (getQ x.d ka.slot n).taken.getD k 0 - 1
        | none => 0) else x.c.seq
      let go := readOp e.p x.c x.c.n w.c .bool
      let sel := (List.range x.c.n).filter (fun i => ((go.getD i none).map (fun v => decide (v.n % 2 = 1))).getD false)
      issuePairs e p q t.index seq x (readOp e.p x.c x.c.n w.a .u32) sel x.d = .ok d → Takes (.kMwrite ka w) s (wordEnd ka { x with d := d })) ∧
    (op = 0x98 →
      let k := e.p.const w.c
      let reg := bindingOr (getJob s.dev ka.slot) (embagRegion k)
      let t := (Ty.ofCode (field k 23 16)).getD .fp32
      (∀ i < x.c.n, ∀ j < embagK p, ∀ v, (x.c.slot (w.a + j)).getD i none = some v →
        let n := (e.p.slotTy (w.a + j)).toInt v.n
        0 ≤ n ∧ n.toNat < reg.bytes / embagRow k ∧ ∃ b, regRead s.mem (rowStart s) reg (n.toNat * embagRow k) (embagD p * t.bytes) = .ok b) →
      ∃ y, kEmbag e p x = .ok y ∧ Takes (.kEmbag ka w) s (wordEnd ka y)) ∧
    (op = 0x12 → Takes (.kRaise ka w) s (stationFault (rowStart s) ka.slot ka.station 0x08F0 (rawOp e.p x.c w.a % 2 ^ 32) x.c.first))

/-- The rows of the other kernel words, with their codes (08 R228). -/
def otherWordRows : List (Nat × (KAt → KWord → Instr)) :=
  [(0x00, .kNop), (0x01, .kLdcol), (0x02, .kStcol), (0x04, .kRowidx), (0x05, .kInfo), (0x0A, .kLdpay),
   (0x0B, .kStpay), (0x0C, .kLdtab), (0x0D, .kBr), (0x0E, .kBrz), (0x0F, .kBrnz), (0x10, .kEmit),
   (0x11, .kEnd), (0x12, .kRaise), (0x13, .kScount), (0x14, .kSany), (0x15, .kSall), (0x16, .kMwrite),
   (0x88, .kAcc), (0x89, .kAccp), (0x8A, .kAccn), (0x8B, .kAccx), (0x8C, .kSketch), (0x8D, .kAccrd),
   (0x8E, .kQread), (0x8F, .kAccclr), (0x90, .kAccemit), (0x91, .kAccmerge), (0x98, .kEmbag), (0x99, .kMpack),
   (0x9A, .kMunpack), (0x9B, .kCdot)]

/-- O43. A running kernel station that has not ended runs the group that is open to its end, or opens the next when its input is there and its output
is free; a word that begins a group opens it in the same way. At the end of its input and with the output free it seals its output where it has no end
program, sends its partials and seals on a device other than the anchor, or runs the end program once all partials are there, combined with its own.
The anchor keeps a participant's partials once, and a partial is combined by folding its cells into the arrays. A word due when the group has used its
1,048,576 words is the fault 0x0801. -/
def Obligations.KernelGroups : Prop :=
  ∀ (s : State) (slot st part : Nat) (data : Bytes), AtStation s slot st (· = .kernel) →
    let k := kernelSt s.dev slot st
    let j := getJob s.dev slot
    let kp := kparam j.image (descSt s.dev slot st)
    ((getSt s.dev slot st).ended = false → k.ctx ≠ none → Takes (.rowGroup slot st) s (runGroup s.mem slot st (rowStart s))) ∧
    (∀ d, (getSt s.dev slot st).ended = false → k.ctx = none → outBlocked s.dev slot st = false → openGroup slot st (rowStart s) = .ready d →
      Takes (.rowGroup slot st) s (runGroup s.mem slot st d) ∧
      (∀ r ∈ elementRows ++ otherWordRows, ∀ w : KWord, ∀ c, (kernelSt d slot st).ctx = some c → c.pc < (descSt d slot st).programWords →
        progWord (getJob d slot).image (descSt d slot st) c.pc = w.prog r.1 →
        Takes (r.2 ⟨slot, st⟩ w) s (kfinish slot st d (kstep (kenv s.mem d slot st) { d := d, k := { kernelSt d slot st with ctx := none }, c := c })))) ∧
    ((getSt s.dev slot st).ended = false → kernelDone s.dev slot st = true → outBlocked s.dev slot st = false → sidesEnded (rowStart s) slot st = .ok () →
      (kp.endEntry = noOffset → Takes (.endProgram slot st) s (endStation (rowStart s) slot st)) ∧
      (kp.endEntry ≠ noOffset → isAnchor s.dev j = false →
        Takes (.endProgram slot st) s (endStation (sendCoord (rowStart s) slot 11 j.anchor (le 2 st ++ partialsBytes kp k)) slot st)) ∧
      (∀ y, kp.endEntry ≠ noOffset → isAnchor s.dev j = true → j.participants.length ≤ k.partials.length + 1 → k.partials.foldl (combinePart kp) (.ok k) = .ok y →
        ∃ side, Takes (.endProgram slot st) s
          (runGroup s.mem slot st (modKernel (rowStart s) slot st (fun _ => openCtx kp y { rows := [{ ord := 0, seq := 0 }], side := side, endProg := true, pc := kp.endEntry }))))) ∧
    (k.partials = [] → k.partials.foldl (combinePart kp) (.ok k) = .ok k) ∧
    (isAnchor s.dev j = true → part < j.participants.length → part ≠ j.partIndex → part ∉ k.partials.map (·.1) →
      Takes (.partials slot st part data) s (setKind (rowStart s) slot st (.kernel { k with partials := k.partials ++ [(part, data)] }))) ∧
    (∀ i cell v a k2, readPartials kp data.length data = [(i, cell, v)] → kp.arrays[i]? = some a → foldCell a i cell v k = .ok k2 →
      combinePart kp (.ok k) (part, data) = .ok k2) ∧
    (∀ r ∈ elementRows ++ otherWordRows, ∀ w c, k.ctx = some c → c.pc < (descSt s.dev slot st).programWords → 1048576 ≤ c.steps →
      progWord j.image (descSt s.dev slot st) c.pc = w.prog r.1 →
      Takes (r.2 ⟨slot, st⟩ w) s (stationFault (rowStart s) slot st 0x0801 c.pc c.first))

/-- O44. For every integer type, its value v of the bits, and bits within its width: ADD, SUB, MUL, FMA, NEG and ABS give the exact result modulo
2^width; ADDS, SUBS and MULS the exact result limited to the type; DIV the quotient truncated toward zero and MOD the remainder with the dividend's
sign, null for a divisor of zero, and the most negative value divided by -1 gives itself; SHL and SHR by the width or more give 0, else the shifted
bits; SAR copies the top bit in, whatever the count; ROTL and ROTR move every bit by the count modulo the width. Every elementwise op gives with
TIME_US what it gives with U64. -/
def Obligations.IntegerOps : Prop :=
  (∀ (x : EArg) (a b c n : Nat), x.ty.isInt = true → a < 2 ^ x.ty.width → b < 2 ^ x.ty.width → c < 2 ^ x.ty.width → n < 2 ^ 32 →
    let w := x.ty.width
    let v (n : Nat) : Int := if x.ty.isSigned ∧ 2 ^ (w - 1) ≤ n then (n : Int) - 2 ^ w else n
    let wrapped (i : Int) : Option Val := some (.bits (i % 2 ^ w).toNat)
    let lo : Int := if x.ty.isSigned then -2 ^ (w - 1) else 0
    let hi : Int := if x.ty.isSigned then 2 ^ (w - 1) - 1 else 2 ^ w - 1
    let limited (i : Int) : Option Val := wrapped (max lo (min hi i))
    let two : Srcs := { a := some (.bits a), b := some (.bits b), c := some (.bits c) }
    let count : Srcs := { a := some (.bits a), b := some (.bits n), c := none }
    elAdd x two = wrapped (v a + v b) ∧ elSub x two = wrapped (v a - v b) ∧ elMul x two = wrapped (v a * v b) ∧ elFma x two = wrapped (v a * v b + v c) ∧
    elNeg x two = wrapped (-v a) ∧ elAbs x two = wrapped (v a).natAbs ∧
    elAdds x two = limited (v a + v b) ∧ elSubs x two = limited (v a - v b) ∧ elMuls x two = limited (v a * v b) ∧
    elDiv x two = (if v b = 0 then none else wrapped (Int.tdiv (v a) (v b))) ∧ elMod x two = (if v b = 0 then none else wrapped (Int.tmod (v a) (v b))) ∧
    (v b = -1 → v a = lo → elDiv x two = some (.bits a)) ∧
    elShl x count = some (.bits (if w ≤ n then 0 else a * 2 ^ n % 2 ^ w)) ∧ elShr x count = some (.bits (if w ≤ n then 0 else a / 2 ^ n)) ∧
    (∃ r, elSar x count = some (.bits r) ∧ r < 2 ^ w ∧ ∀ i < w, r.testBit i = if i + n < w then a.testBit (i + n) else a.testBit (w - 1)) ∧
    (∃ r, elRotl x count = some (.bits r) ∧ r < 2 ^ w ∧ ∀ i < w, r.testBit ((i + n) % w) = a.testBit i) ∧
    (∃ r, elRotr x count = some (.bits r) ∧ r < 2 ^ w ∧ ∀ i < w, r.testBit i = a.testBit ((i + n) % w))) ∧
  (∀ (op : Nat) (f : EArg → Srcs → Option Val) (x : EArg) (s : Srcs), elementOp op = some f →
    let u (t : Ty) : Ty := if t = .time then .u64 else t
    f x s = f { x with ty := u x.ty, td := u x.td, ta := u x.ta, tb := u x.tb, tc := u x.tc } s)

/-- O45. Adding the same elements in any order gives the same accumulator; the accumulator of two lists of terms is the sum of theirs, whatever the
split; combining cells of SUM and COUNT, and of MIN and MAX over integers, is commutative and associative, its overflow included; an accumulator whose
VALUE fits 416 bits and whose COUNT fits 64 is read back from its record of 64 bytes unchanged. -/
def Obligations.SumsWithoutOrder : Prop :=
  (∀ (t : Ty) (xs ys : List Nat), xs.Perm ys → xs.foldl (fun (a : Acc) b => a.addElem t b) {} = ys.foldl (fun (a : Acc) b => a.addElem t b) {}) ∧
  (∀ (t : Ty) (xs ys : List Nat), (xs ++ ys).foldl (fun (a : Acc) b => a.addElem t b) {} =
    (xs.foldl (fun (a : Acc) b => a.addElem t b) {}).add (ys.foldl (fun (a : Acc) b => a.addElem t b) {})) ∧
  (∀ (t : Ty) (xs ys : List (Nat × Nat)), xs.Perm ys →
    xs.foldl (fun (a : Acc) b => a.addProd t b.1 b.2) {} = ys.foldl (fun (a : Acc) b => a.addProd t b.1 b.2) {}) ∧
  (∀ (a : ArrD) (x y z : KCell),
    let good (c : KCell) : Prop := match c with
      | .sum _ => a.kind = 0
      | .count _ => a.kind = 1
      | .ext st v => 2 ≤ a.kind ∧ a.ty.isInt = true ∧ st ≤ 2 ∧ v < 2 ^ 64 ∧ (st ≠ 1 → v = 0)
    good x → good y → good z →
    joinCells a x y = joinCells a y x ∧ (joinCells a x y).bind (fun u => joinCells a u z) = (joinCells a y z).bind (fun u => joinCells a x u)) ∧
  (∀ a : Acc, -2 ^ 415 ≤ a.value → a.value < 2 ^ 415 → a.count < 2 ^ 64 → a.encode.length = 64 ∧ Acc.decode a.encode = a)

/-- O46. A running shuffle station whose store is not complete files the next row under the channels it names and its sample index, below each
channel's N, and counts a row that names none; after the last row its store is complete and the other participants hear what it holds. What a
participant holds is kept. A complete store, with every participant's holdings there, each index of each channel held once, begins emission at
position 0; the next held position of a port's channel goes out as its stored row, and a port past its last position ends its stream. -/
def Obligations.ShuffleRows : Prop :=
  ∀ (s : State) (slot st port part : Nat) (held : List (Nat × Nat)), AtStation s slot st (· = .shuffle) →
    let j := getJob s.dev slot
    let sd := descSt s.dev slot st
    let x := shuffleSt s.dev slot st
    let chs := (shufEntries j.image sd).map (·.channel)
    (∀ r ord i, x.full = false → (getIn s.dev slot st 0).row? = some (r, ord) → sampleIndex r (u8at (paramSt s.dev slot st) 0) = some i →
      (∀ c ∈ rowChannels j.image sd r, i < (channelD j.image c).samples) →
      Takes (.shuffleStoreRow slot st) s (if rowChannels j.image sd r = [] then countSt (modIn (rowStart s) slot st 0 InPort.nextRow) slot st 0 1
        else modShuffle (modIn (rowStart s) slot st 0 InPort.nextRow) slot st (fun x => { x with store := x.store ++ (rowChannels j.image sd r).map (fun c => (c, i, r)) }))) ∧
    ((getSt s.dev slot st).kind = .shuffle x → x.full = false → (getIn s.dev slot st 0).row? = none → inputsDone s.dev slot st = true →
      ∃ u, exec (.shuffleStoreRow slot st) s = .next u ∧ shuffleSt u.dev slot st = { x with full := true } ∧ u.mem = s.mem) ∧
    (part < j.participants.length → part ≠ j.partIndex →
      Takes (.sampleHoldings slot st part held) s (modShuffle (rowStart s) slot st (fun x => { x with holds := assocSet x.holds part held }))) ∧
    (x.full = true → x.emitting = false → j.participants.length ≤ x.holds.length + 1 →
      (∀ c ∈ chs, heldSamples x c = List.range (channelD j.image c).samples) →
      Takes (.sampleStoreComplete slot st) s (modShuffle (rowStart s) slot st (fun x => { x with emitting := true, pos := chs.map (fun _ => 0) }))) ∧
    (port < sd.outPorts → x.emitting = true → (getOut s.dev slot st port).eos = false → (getQ s.dev slot (outQueueNo j st port)).held = [] →
      let e := shufEntry (paramSt s.dev slot st) port
      let mine := (x.store.filter (fun y => y.1 == e.channel)).map (·.2.1)
      (∀ p i, nextPos j.image (channelD j.image e.channel) e.passes mine (x.pos.getD port 0) = some (p, i) →
        Takes (.shuffleEmit slot st port) s (addRow slot st port (modShuffle (rowStart s) slot st (fun x => { x with pos := setAt x.pos port (p + 1) }))
          (((x.store.find? (fun y => y.1 == e.channel && y.2.1 == i)).map (·.2.2)).getD []))) ∧
      (nextPos j.image (channelD j.image e.channel) e.passes mine (x.pos.getD port 0) = none → e.passes ≠ 0 →
        let d := endPort (rowStart s) slot st port
        Takes (.shuffleEmit slot st port) s (if ∀ p < sd.outPorts, (getOut d slot st p).eos = true then modSt d slot st (fun s => { s with ended := true }) else d)))

/-- O47. For every N from 1 to 2^48 and whatever round keys: the sample at an offset below N lies below N and stands at that offset, and the offset of
a sample below N lies below N and holds that sample, so a pass holds every sample exactly once. With the round keys 3, 5, 6 and 12 the pass over 10
samples holds 8, 5, 9, 2, 6, 7, 4, 3, 0, 1. -/
def Obligations.PermuterBijective : Prop :=
  (∀ (keys : List Nat) (n : Nat), 1 ≤ n → n ≤ 2 ^ 48 →
    (∀ r < n, sampleAt keys n r < n ∧ positionOf keys n (sampleAt keys n r) = r) ∧
    (∀ s < n, positionOf keys n s < n ∧ sampleAt keys n (positionOf keys n s) = s)) ∧
  (List.range 10).map (sampleAt [3, 5, 6, 12] 10) = [8, 5, 9, 2, 6, 7, 4, 3, 0, 1]

/-- O48. A running batch station takes the next sample of a holder's stream whose window is not full and whose output is free: the rows of one sample,
or a tile of an image; then its counts are told and what every stream has passed is resolved. The last tile of a stream closes its sample in progress
and ends the stream; so does the end of the station's own input; and where a filter dropped what its own shuffle emitted, the stream goes by those
positions. Another participant's count of a window is kept, and what it resolves leaves. A layout station gathers the slice in hand, and with the
batch's last slice, its slot image computed, sends its runs. -/
def Obligations.BatchRows : Prop :=
  ∀ (s : State) (slot st h window count : Nat),
    (AtStation s slot st (· = .batch) →
      let c := batchCtx (rowStart s) slot st
      let x := batchSt s.dev slot st
      let done (d : Dev) : Dev := settleBatch c (modHolder (closeSample c h d) slot st h (fun y => { y with ended := true }))
      (h < c.parts → (x.holder h).ended = false → (getSt s.dev slot st).ended = false → outBlocked s.dev slot st = false →
        (x.waiting.length < 65536 ∨ (x.holder h).next ≤ x.next) →
        (∀ t pos, headTile (rowStart s) c h = some (t, pos) → 0 < t.rowCount ∨ 0 < t.payloadBytes →
          let e := if batchPixels c.im st then takeImageTile c h t (rowStart s) else takeRows c h (t.rowCount + 1 - pos) true (rowStart s)
          stopped e slot = false → Takes (.batchAssemble slot st h) s (if t.eos = true ∧ headTile e c h = none ∧ h ≠ c.own then done e else settleBatch c e)) ∧
        (∀ t pos, headTile (rowStart s) c h = some (t, pos) → t.rowCount = 0 → t.payloadBytes = 0 → t.eos = true → h ≠ c.own →
          Takes (.batchAssemble slot st h) s (done (tookTile c h (rowStart s)))) ∧
        (headTile (rowStart s) c h = none → h = c.own → inputsDone s.dev slot st = true → Takes (.batchAssemble slot st h) s (done (rowStart s))) ∧
        (∀ e, headTile (rowStart s) c h = none → h = c.own → inputsDone s.dev slot st = false → goBy c (rowStart s) = some e →
          Takes (.batchAssemble slot st h) s (settleBatch c e))) ∧
      (h < c.parts → h ≠ c.own → (getSt s.dev slot st).ended = false →
        Takes (.validCounts slot st h window count) s (settleBatch c (modBatch (rowStart s) slot st (fun x => { x with told := assocSet x.told (h, window) count }))))) ∧
    (AtStation s slot st (· = .layout) → (getSt s.dev slot st).ended = false → outBlocked s.dev slot st = false →
      ∀ t ts, (getIn s.dev slot st 0).inbox = t :: ts → 64 ≤ t.used.length →
        let d := modLayout (modIn (rowStart s) slot st 0 InPort.drop) slot st (fun x => { x with slots := takeSlice t.used x.slots })
        (bit (u8at t.used 0x0D) 1 = false → Takes (.layoutTransfer slot st) s d) ∧
        (∀ img, bit (u8at t.used 0x0D) 1 = true → slotImage s.mem d slot st (u64at t.used 0) = .ok img →
          let e := modBatch (modLayout d slot st (fun x => { x with slots := [] })) slot (batchOf (getJob d slot).image st)
            (fun x => { x with shapes := x.shapes.filter (fun s => s.1.1 != u64at t.used 0) })
          Takes (.layoutTransfer slot st) s ((slotRuns img).zipIdx.foldl
            (fun d (r, i) => addTile d slot st 0 0 0 (tensorPayload (u64at t.used 0) r (decide (i + 1 = (slotRuns img).length)))) e)))

/-- O49. For a batch station: a corrupt sample of a bulk channel only counts; any other sample takes the next slot, and when the slots reach
BATCH_SAMPLES the batch is closed behind those that wait to leave, with its number, FIRST the number times BATCH_SAMPLES, its samples, its holes and
their mask, PASS that of its first sample, SKIPPED the corrupt samples at positions below its last sample's on a bulk channel and 0 on a strict one,
and the next batch begins empty. -/
def Obligations.BatchesFill : Prop :=
  ∀ (c : BatchCtx) (d : Dev) (x : BatchSt) (s : Sample), (getSt d c.slot c.st).kind = .batch x →
    x.slots.length < c.ch.batchSamples →
    let y := batchSt (putSample c d s) c.slot c.st
    let slots := x.slots ++ [s]
    (c.ch.kind ≠ 1 → s.parts = none → y = { x with corrupt := x.corrupt + 1, next := s.pos + 1 }) ∧
    (¬(c.ch.kind ≠ 1 ∧ s.parts = none) → slots.length < c.ch.batchSamples → y.slots = slots ∧ y.ready = x.ready ∧ y.batch = x.batch ∧ y.next = s.pos + 1) ∧
    (¬(c.ch.kind ≠ 1 ∧ s.parts = none) → slots.length = c.ch.batchSamples →
      y.slots = [] ∧ y.batch = x.batch + 1 ∧ y.next = s.pos + 1 ∧
      ∃ i, y.ready = x.ready ++ [(i, slots)] ∧ i.batch = x.batch ∧ i.first = x.batch * c.ch.batchSamples ∧ i.samples = c.ch.batchSamples ∧
        i.holes = (slots.filter (fun z => z.parts = none)).length ∧ i.skipped = (if c.ch.kind = 1 then 0 else x.corrupt) ∧
        i.pass = (if c.ch.kind = 1 then x.batch * c.ch.batchSamples / c.ch.samples else if x.slots = [] then s.pos / c.ch.samples else x.pass) ∧
        ∀ q < c.ch.batchSamples, i.mask.testBit q = decide ((slots[q]?).map (·.parts) = some none))

/-- O50. On a running job: PREPARE makes a participant drain, at the anchor for its own commit at step 1, elsewhere at the anchor's word for the open
epoch, and at the anchor another participant's notice begins a commit of the open epoch; the checkpoint of a drained job with room for it is written,
with the commit-stable state it refers to, and readiness sent, and a block whose verification failed is the fault 0x0250; the anchor takes a
participant's readiness for its epoch and records the commit when all are there; COMMIT finishes the anchor's recorded commit, or a prepared one
elsewhere; a participant that is not prepared in time is the fault 0x0C20, one that reports progress was heard, and a reachable one that fell silent
outside steps 3 and 4 is the fault 0x0C04. -/
def Obligations.CommitRows : Prop :=
  ∀ (s : State) (slot part epoch cause size time : Nat) (dirSeal : Bytes), slot < 64 → (getJob s.dev slot).state = .running →
    let j := getJob s.dev slot
    let d := start s
    let heard := noteHeard d slot part
    (∀ c, part ∈ allParts j → cause ≤ 2 → isAnchor s.dev j = true → part = j.partIndex → j.commit = some c → c.step = 1 → c.epoch = epoch →
      Takes (.prepare slot part epoch cause) s (beginDrain d slot c)) ∧
    (part ∈ allParts j → cause ≤ 2 → cause ≠ 1 → isAnchor s.dev j = true → part ≠ j.partIndex → j.commit = none → epoch = j.openEpoch →
      Takes (.prepare slot part epoch cause) s (startCommit heard slot cause [])) ∧
    (part ∈ allParts j → cause ≤ 2 → isAnchor s.dev j = false → partAddr s.dev j part = j.anchor → epoch = j.openEpoch → j.commit = none →
      Takes (.prepare slot part epoch cause) s (beginDrain heard slot { epoch := epoch, cause := cause })) ∧
    (∀ c states e area, j.commit = some c → c.step = 2 → drained s.dev slot c = true → stateRegions s.mem (rowStart s) j = .ok states →
      ckptRoom (s.dev.ckpts.length + 1) (rowStart s) size = some (e, area) →
      Takes (.checkpointWritten slot size none) s (writeCkpt (writeStables e slot) slot c (newCkpt e slot c size area states))) ∧
    (∀ c x, j.commit = some c → c.step = 2 → drained s.dev slot c = true →
      Takes (.checkpointWritten slot size (some x)) s (jobFaultReset (rowStart s) { code := 0x0250, slot := slot, detail := x.1 % pow2 32, detail2 := x.2 })) ∧
    (∀ c, part ∈ allParts j → part ≠ j.partIndex → j.commit = some c → c.step ≠ 6 → epoch ≠ 0xFFFFFFFF → isAnchor s.dev j = true → epoch = c.epoch →
      Takes (.prepared slot part epoch dirSeal) s (recordCommit (modCommit heard slot (·.ready part (padTo 8 dirSeal))) slot)) ∧
    (∀ c, j.commit = some c → c.epoch = epoch → (if isAnchor s.dev j then c.step = 6 ∧ c.time = time else c.step = 4) →
      Takes (.commit slot epoch time) s (finalIfDue (finishCommit d slot { c with time := time }) slot)) ∧
    (∀ c, j.commit = some c → part ∈ allParts j → part ∉ c.prepared →
      (if isAnchor s.dev j then c.step = 1 ∨ c.step = 2 ∨ c.step = 4 else c.step = 2 ∧ part = j.partIndex) →
      Takes (.commitTimeout slot part) s (jobFault d { code := 0x0C20, slot := slot, detail := partAddr s.dev j part })) ∧
    (∀ c, j.commit = some c → c.step = 2 → Takes (.progressSend slot) s
      (if isAnchor s.dev j then sendAll d slot 8 (le 2 j.partIndex ++ le 4 c.epoch) else sendCoord d slot 8 j.anchor (le 2 j.partIndex ++ le 4 c.epoch))) ∧
    (fromOther j part = true → Takes (.progress slot part) s heard) ∧
    (fromOther j part = true → partAddr s.dev j part ∈ s.dev.hedge.reach → atWork s.dev j part = false → Takes (.participantLost slot part) s (jobFault d { code := 0x0C04, slot := slot }))

/-- O51. The anchor adds a record of the open commit when it is at step 4 and every participant is prepared, twice, with the directory seals it holds,
and moves it to step 6; otherwise recording changes nothing. Finishing a commit makes its epoch the last committed one, leaves of the job's
checkpoints on this device only that epoch's, and the final commit ends the job. A job fault of a running job ends its commit: at step 6 the epoch is
committed, and the job FINISHED if it was the final one; before step 6 the last committed epoch stays; the job that restarts or is held opens the
epoch behind the last committed one, with nothing in flight. -/
def Obligations.CommitFacts : Prop :=
  (∀ (d : Dev) (slot : Nat) (c : Commit), (getJob d slot).state ≠ .free → (getJob d slot).commit = some c →
    let j := getJob d slot
    let all := c.step = 4 ∧ isAnchor d j = true ∧ ∀ p ∈ allParts j, p ∈ c.prepared
    (¬all → recordCommit d slot = d) ∧
    (all → (recordCommit d slot).commits = d.commits.filter (fun x => x.tag != j.image.jobTag) ++
        List.replicate 2 { tag := j.image.jobTag, epoch := c.epoch, time := d.time, imageCheck := j.image.check, participants := j.participants, seals := c.seals } ∧
      (getJob (recordCommit d slot) slot).commit = some { c with step := 6, time := d.time })) ∧
  (∀ (d : Dev) (slot : Nat) (c : Commit), (getJob d slot).state = .running →
    let u := finishCommit d slot c
    (getJob u slot).lastCommitted = some c.epoch ∧ (getJob u slot).commit = none ∧
    (getJob u slot).state = (if c.cause = 1 then .finished else .running) ∧
    (∀ k ∈ u.ckpts, k.tag = (getJob d slot).image.jobTag → k.part = (getJob d slot).partIndex → k.epoch = c.epoch ∧ k.final = true)) ∧
  (∀ (d : Dev) (f : FaultInfo) (c : Commit), f.slot < 64 → (getJob d f.slot).state = .running → (getJob d f.slot).commit = some c →
    let j := getJob d f.slot
    let k := getJob (jobFault d f) f.slot
    k.commit = none ∧ k.lastFault = f.code ∧
    (c.step = 6 → k.lastCommitted = some c.epoch) ∧ (c.step ≠ 6 → k.lastCommitted = j.lastCommitted) ∧
    (c.step = 6 → c.cause = 1 → k.state = .finished) ∧
    (¬(c.step = 6 ∧ c.cause = 1) → (k.state = .restarting ∨ k.state = .held) ∧ k.rt = {} ∧
      k.openEpoch = (match k.lastCommitted with | some e => e + 1 | none => j.image.firstEpoch)))

/-- O52. STOP of another participant stops a live job, or one that waits to start, with 0x0C03; a unit that did not return to idle makes a full reset
due, and a full reset due happens with LAST_CAUSE 5. ABORT and ROLLBACK do here what the command did elsewhere, ABORT once no rebinding of the job is
in progress. At the anchor a participant with the same image arrives at the barrier of a job that waits to start; elsewhere the anchor's word passes
it; a participant missing for 10 s ends the start with TIMEOUT. A participant that restores takes the anchor's recorded epoch, the anchor notes
another's restore, and when all have restored RESUME places the job again and runs it. -/
def Obligations.RestartRows : Prop :=
  ∀ (s : State) (slot part mode check src code shale : Nat) (again : Bool) (epoch : Option Nat), slot < 64 →
    let j := getJob s.dev slot
    let d := start s
    (j.state ≠ .free → j.state.live = true ∨ j.start.isSome = true → src ∈ j.participants → s.dev.hedge.addr ≠ some src →
      Takes (.stop slot src code) s (stopJob d { code := 0x0C03, slot := slot, detail := src, detail2 := code } code)) ∧
    (∀ die, die < 100 → j.state = .restarting ∨ j.state = .held →
      ∃ u, exec (.unitIdleTimeout slot die) s = .next u ∧ u.dev.root.resetCause = some 5) ∧
    (s.dev.root.resetCause ≠ none → ∃ u, exec .recoveryReset s = .next u ∧ u.dev.win.lastCause = 5) ∧
    (rebinding s.dev slot = false → j.state ≠ .free → 1 < j.participants.length → Takes (.abort slot) s (abortJob d slot)) ∧
    (rebinding s.dev slot = true → Takes (.abort slot) s d) ∧
    (1 < j.participants.length → Takes (.rollback slot again) s (rollbackHere d slot again)) ∧
    (fromOther j part = true → mode ≤ 2 → isAnchor s.dev j = true → j.state.startable = true → check = j.image.check →
      let g := j.start.getD { since := s.dev.time }
      Takes (.startBarrier slot part mode check) s (barrierIfAll s.mem
        (modJob (noteHeard d slot part) slot (fun j => { j with start := some { g with arrived := (g.arrived ++ [part]).eraseDups } })) slot)) ∧
    (∀ g, fromOther j part = true → mode ≤ 2 → isAnchor s.dev j = false → j.start = some g → g.passed = false → check = j.image.check →
      partAddr s.dev j part = j.anchor → Takes (.startBarrier slot part mode check) s (passBarrier s.mem d slot)) ∧
    (∀ g p, j.start = some g → g.passed = false → j.participants.findIdx? (· == src) = some p → (isAnchor s.dev j = true → p ∉ g.arrived) →
      Takes (.startBarrierTimeout slot src) s (failStart d slot 0x000B src)) ∧
    (∀ g, part = j.partIndex → restoring j = some g → part ∉ g.restored → (isAnchor s.dev j = true → epoch = recordEpoch s.dev j) → (shale = 0 ∨ shaleCode shale = true) →
      Takes (.restoreComplete slot part epoch shale) s (restoreOwn slot epoch shale g s.mem (rowStart s))) ∧
    (∀ g, part ≠ j.partIndex → fromOther j part = true → isAnchor s.dev j = true → j.restart = some g →
      Takes (.restoreComplete slot part epoch shale) s (modRestoring (noteHeard d slot part) slot (fun g => { g with restored := (g.restored ++ [part]).eraseDups }))) ∧
    (∀ g, restoring j = some g → isAnchor s.dev j = true → (∀ p ∈ allParts j, p ∈ g.restored) →
      Takes (.resume slot) s (resumeJob (sendAll d slot 6 (le 2 j.partIndex ++ le 4 j.openEpoch)) slot g)) ∧
    (∀ g, restoring j = some g → isAnchor s.dev j = false → j.partIndex ∈ g.restored → Takes (.resume slot) s (resumeJob d slot g))

/-- O53. A descriptor of 64 bytes whose owner holds the channel of a running engine, with a program that the engine fetches from memory and that
passes, and ranges that do, starts on an idle channel and is pending on another. On a running engine a channel in execution takes the instruction it
stands at: LOOP counts and branches, WAIT consumes the sync counter or waits and after its limit faults with 0x0406, SIGNAL and END wait at state 2
for the MOVEs before, whose owed read-backs are issued, then SIGNAL tells the station or adds to a sync counter, whose overflow is 0x0407, and END
leaves the channel idle, or at state 2 with a program pending, which then starts; a MOVE between memories, out of the queue it names or into it,
through it to the port that demands the tile, or from the queue bound at arm into it, moves on. A read-back due that is out and a barrier
acknowledgement are noted, one owed and not out is issued, and a held burst goes to its port. -/
def Obligations.MoverRows : Prop :=
  ∀ (s : State) (e c : Nat), e < 96 → c < 64 → (getEngine s.dev e).stopped = false →
    let x := getChan s.dev e c
    let d := rowStart s
    (∀ desc prog src raw, desc.length = 64 → allZero desc 0x0B 5 = true → ownsChan s.dev (u8at desc 0x0A) e c = true → x.state ≠ 3 → (x.state = 0 ∨ x.pending = none) →
      let at_ := u64at desc 0
      let t := if oluatHolds s.dev at_ prog.length then devWrite (start s) at_ prog else start s
      let a := readArm desc raw src
      localRead s.mem t at_ (16 * u16at desc 8) = .ok raw → oluatModes a = true → programFault t e (u16at desc 8) raw a = none → extentFault t a = none →
      Takes (.arm e c desc prog src) s (setChan t e c (if x.state = 0 then { state := 1, arm := a, regs := a.regs } else { x with pending := some a }))) ∧
    (∀ i, x.state = 1 ∨ x.state = 2 → x.arm.prog[x.pc]? = some i →
      (∀ k n t, i = .loop k n t →
        let v := (if x.ctr.getD k 0 = 0 then n else x.ctr.getD k 0) - 1
        Takes (.loop e c) s (setChan d e c { x with ctr := setAt x.ctr k v, pc := if v = 0 then x.pc + 1 else ((x.pc : Int) + t).toNat })) ∧
      (∀ n, i = .wait n →
        (n ≤ x.sync → Takes (.wait e c) s (setChan d e c { x with sync := x.sync - n, pc := x.pc + 1, waiting := false })) ∧
        (x.sync < n → Takes (.wait e c) s (setChan d e c { x with waiting := true, waitSince := if x.waiting then x.waitSince else s.dev.time })) ∧
        (x.sync < n → x.waiting = true → Takes (.waitTimeout e c) s (moverFault d x.arm.owner e c 0x0406 x.sync))) ∧
      (∀ k ch n tag, i = .signal k ch n tag →
        let y := { x with state := 1, since := [], pc := x.pc + 1 }
        (allComplete s.dev e c x = false → Takes (.signal e c) s (issueBacks (setChan d e c { x with state := 2 }) e c false)) ∧
        (allComplete s.dev e c x = true → k = 0 → Takes (.signal e c) s (send (setChan d e c y) (.station x.arm.owner tag))) ∧
        (allComplete s.dev e c x = true → k ≠ 0 →
          let z := getChan (setChan d e c y) e ch
          (z.sync + n ≤ 0xFFFFFFFF → Takes (.signal e c) s (setChan (setChan d e c y) e ch { z with sync := z.sync + n })) ∧
          (0xFFFFFFFF < z.sync + n → Takes (.signal e c) s (moverFault (setChan d e c y) x.arm.owner e c 0x0407 ch)))) ∧
      (i = .done →
        (allComplete s.dev e c x = false → Takes (.moverEnd e c) s (issueBacks (setChan d e c { x with state := 2 }) e c false)) ∧
        (allComplete s.dev e c x = true → x.pending = none → Takes (.moverEnd e c) s (idleChan d e c)) ∧
        (allComplete s.dev e c x = true → x.pending ≠ none → Takes (.moverEnd e c) s (issueBacks (setChan d e c { x with state := 2, since := [] }) e c true)) ∧
        (∀ a, x.pending = some a → x.state = 2 → x.since = [] → allComplete s.dev e c x = true → (∀ p ∈ x.allPaths, p.answered = true) →
          Takes (.rearmStart e c) s (setChan d e c (startArm x a)))) ∧
      (∀ f src dst n w, i = .move f src dst n w →
        (mfStreamSrc f = false → mfStreamDst f = false → Takes (.move e c) s (moveBytes s.mem d e c x f src dst n)) ∧
        (∀ slot q, physQueue s.dev w = some (slot, q) → (getJob s.dev slot).state = .running → remoteBusy s.dev e c = false → x.moveDone n = false →
          (mfStreamSrc f = true → mfStreamDst f = false → Takes (.move e c) s (streamOut d e c x f dst n slot q)) ∧
          (mfStreamSrc f = false → mfStreamDst f = true → Takes (.move e c) s (streamIn s.mem d e c x f src n slot q)) ∧
          (mfStreamSrc f = true → mfStreamDst f = true → ∀ slot' q', x.arm.srcQueue = some (slot', q') → (getJob s.dev slot').state = .running →
            Takes (.move e c) s (if (slot', q') = (slot, q) then fetchBurst d e c x f slot q else streamAcross d e c f n (slot', q') (slot, q)))) ∧
        (∀ slot q t st p, x.held = some t → instrQueue s.dev i = some (slot, q) → (getJob s.dev slot).state = .running → demands s.dev slot q = some (st, p) →
          ((getQ s.dev slot q).taken.getD 0 0 ≠ t.seq → Takes (.burstDeliver e c) s (burstDone d e c n t)) ∧
          (∀ u, (getQ s.dev slot q).taken.getD 0 0 = t.seq → tileConsume slot st p d = .next u → stopped u slot = false →
            Takes (.burstDeliver e c) s (burstDone u e c n t))))) ∧
    (∀ r p a, pathRef r = some p → readBackOpen s.dev x p = some a →
      (backOut s.dev e c p = true → Takes (.readBackReturn e c r true) s (setChan (dropBack (start s) e c p) e c (readBackDone x p))) ∧
      (backOut s.dev e c p = false → backOut (readBackReq e c (start s) a) e c p = true → Takes (.readBackReturn e c r true) s (readBackReq e c (start s) a))) ∧
    (∀ k, k < 3 → (s.dev.win.ring k).unread = true ∨ (s.dev.win.ring k).disabling = true → Takes (.readBackReturn e c (.ring k) true) s (ringReadBack k (start s))) ∧
    (∀ r p a, (r = .tier ∨ ∃ k, r = .hbm k) → pathRef r = some p → a ∈ x.since → a.path = p → a.barrier = true → a.answered = false →
      Takes (.barrierAcknowledgement e c r) s (setChan (start s) e c
        { x with since := x.since.map (fun a => if a.path = p ∧ a.barrier = true ∧ a.answered = false then { a with answered := true } else a) }))

/-- O54. A bus error of a running engine from a source 1 to 5 takes effect; with no read outstanding the drain completes, a drain not done in time
makes a full reset due. MOVER_CLEAR of a stopped and drained engine returns the engine and all its channels to reset and changes no other, of any
other engine it changes nothing. PATROL of a sector of local memory poisons a bad one, counts a corrected one and passes over a good one; of a line of
a cache slice it poisons a dirty one, which a read then reports as 0x0502 of the slice, and counts a corrected one or a clean one fetched again; at an
address where no memory lies it stops. -/
def Obligations.MoverStops : Prop :=
  ∀ (s : State) (e source addr slice : Nat) (bad corrected : Bool), e < 96 →
    let g := getEngine s.dev e
    (1 ≤ source → source ≤ 5 → g.stopped = false → Takes (.moverBusError e source addr) s (busError (start s) e source addr)) ∧
    (g.draining = true → (∀ c < 64, chanReads s.dev e c = []) → Takes (.moverDrainComplete e) s (setEngine (start s) e { g with draining := false })) ∧
    (g.draining = true → ∃ u, exec (.drainTimeout e) s = .next u ∧ u.dev.root.resetCause = some 5) ∧
    (∃ u, exec (.moverClear e) s = .next u ∧ u.mem = s.mem ∧
      (g.stopped = true → g.draining = false → getEngine u.dev e = {} ∧ ∀ c, getChan u.dev e c = {}) ∧
      (¬(g.stopped = true ∧ g.draining = false) → u.dev = start s) ∧
      ∀ k, k ≠ e → getEngine u.dev k = getEngine s.dev k ∧ ∀ c, getChan u.dev k c = getChan s.dev k c) ∧
    (inLocal s.dev addr = true → (bad = false ∨ corrected = false) → Takes (.patrol addr 255 bad corrected) s (patrol addr bad corrected (start s))) ∧
    (inLocal s.dev addr = true → ∃ u, exec (.patrol addr 255 true false) s = .next u ∧ addr / 64 * 64 ∈ u.dev.facts.poison) ∧
    (inLocal s.dev addr = true → slice < 32 → addr < hbmEnd →
      (∃ u, exec (.patrol addr slice true false) s = .next u ∧ addr / 64 * 64 ∈ u.dev.facts.poison ∧ poisonFault u.dev addr = (0x0502, slice)) ∧
      (∃ u, exec (.patrol addr slice bad true) s = .next u ∧ u.dev.facts = s.dev.facts ∧ u.mem = s.mem ∧
        assocGet u.dev.power.counts (0x418 + slice) = some ((assocGet s.dev.power.counts (0x418 + slice)).getD 0 + 1))) ∧
    (inLocal s.dev addr = true → ∃ u, exec (.patrol addr 255 false true) s = .next u ∧
      assocGet u.dev.power.counts (correctionCount (addr / 64 * 64)) = some ((assocGet s.dev.power.counts (correctionCount (addr / 64 * 64))).getD 0 + 1) ∧ u.mem = s.mem) ∧
    (inLocal s.dev addr = false → exec (.patrol addr slice bad corrected) s = .fault .noSuchAddress)

/-- O55. After a bus error of a running engine: the engine is STOPPED and DRAINING; each of its listed channels is at state 3, none of them holds a
burst, a pending arm, staged data or unissued writes; a running job that holds one of its channels 0 to 62, with no commit in progress, is RESTARTING
or HELD with last fault 0x0401 and nothing in flight; a job that holds none of them and that channel 63 was not moving for keeps its state. -/
def Obligations.BusErrorStopsEngine : Prop :=
  ∀ (s : State) (e source addr : Nat), e < 96 → 1 ≤ source → source ≤ 5 → (getEngine s.dev e).stopped = false →
    ∃ u, exec (.moverBusError e source addr) s = .next u ∧
      (getEngine u.dev e).stopped = true ∧ (getEngine u.dev e).draining = true ∧
      (∀ x ∈ u.dev.movers.chans, x.1.1 = e → x.2.state = 3 ∧ x.2.pending = none ∧ x.2.held = none ∧ x.2.stage = [] ∧ x.2.sentWr = []) ∧
      (∀ x ∈ s.dev.movers.chans, x.1.1 = e → ∃ y ∈ u.dev.movers.chans, y.1 = x.1) ∧
      (∀ k < 64, (getJob s.dev k).state = .running → (getJob s.dev k).commit = none → (∃ c < 63, (getJob s.dev k).units.contains (chanRes e c) = true) →
        ((getJob u.dev k).state = .restarting ∨ (getJob u.dev k).state = .held) ∧ (getJob u.dev k).lastFault = 0x0401 ∧ (getJob u.dev k).rt = {}) ∧
      (∀ k < 64, (∀ c < 63, (getJob s.dev k).units.contains (chanRes e c) = false) → k ∉ oluatSlots s.dev (getChan s.dev e 63) → (getJob u.dev k).state = (getJob s.dev k).state)

/-- O56. On every link of the device: a training frame of a link that may train and is down for no lasting reason advances its training if its check
holds and is ignored otherwise; a step over its limit fails the training, and 10 ms after a first or second failure step 1 starts again; a link that
is up starts a fast retrain, goes down with reason 4 on codeword lock loss, enters low power when idle in D2 and is woken by WAKE; its CONTROL flits
are taken, and its flits from the codewords of its lanes. On a port that is up MEM_DATA answers a read and FEED brings 1 to 4,096 bytes; a read that
is not answered in time fails with source 3. -/
def Obligations.LinkRows : Prop :=
  ∀ (s : State) (r : LinkRef), linkRefOk r = true →
    let l := getLink s.dev r
    let d := start s
    (∀ bs, Takes (.trainingFrame r bs) s
      (if frameOk bs && linkEnabled s.dev r && !l.up && !([1, 2, 3].contains l.downReason) then trainFrame d r bs else d)) ∧
    (1 ≤ l.step → Takes (.trainingStepTimeout r) s (trainingFails d r)) ∧
    (1 ≤ l.failures → l.failures < 3 → l.step = 0 → l.up = false → linkEnabled s.dev r = true →
      Takes (.trainingRetry r) s (send (modAny d r (fun l => { l with step := 1 })) (.train (linkId r) 1))) ∧
    (l.up = true → Takes (.fastRetrain r) s (fastRetrain d r)) ∧
    (l.up = true → Takes (.codewordLockLoss r) s (linkDown d r 4 0)) ∧
    (l.up = true → s.dev.power.state = .d2 → l.lowPower = false → Takes (.lowPowerIdle r) s (modAny d r (fun l => { l with lowPower := true }))) ∧
    (l.lowPower = true → Takes (.wake r) s (send (modAny d r (fun l => { l with lowPower := false })) (.wake (linkId r)))) ∧
    (∀ entries, l.up = true ∨ l.step = 6 → Takes (.controlFlit r entries) s (controlFlit r entries d)) ∧
    (∀ times, l.up = true → times.all (lanesOk l.width) = true → Takes (.flitReceive r times) s (flitArrive r times d)) ∧
    (r.hedge = false →
      (∀ tag data error, l.up = true → (error = true → data = []) → Takes (.memData r.num tag data error) s (memData r.num tag data error d)) ∧
      (∀ feed data, l.up = true → 1 ≤ data.length → data.length ≤ 4096 → Takes (.feed r.num feed data) s (feedData r.num feed data d)) ∧
      (∀ tag q, findRead s.dev r.num tag = some q → Takes (.memReadTimeout r.num tag) s (readFailed (dropRead d r.num tag) q 3)))

/-- O57. On a link that is up: a flit whose CHECK fails or that overlaps an uncorrectable codeword is counted and taken no further, the next expected
SEQ and the credits stay, and a NAK of the last accepted SEQ goes out unless one went out for it within 2 µs; a sequenced flit with another SEQ than
the expected one does the same without being counted; while discarding, an expected flit without the REPLAY flag changes nothing; the expected flit,
its transactions within the credits granted, is acknowledged, adds its credits and moves the expected SEQ on by one, modulo 4,096; one whose
transactions break a rule is a protocol error and nothing of it is taken. An ACK of an idle flit moves the acknowledged count to the flit it names and
never beyond the flits sent. WAKE leaves SEQ and credits. -/
def Obligations.FlitsInOrder : Prop :=
  ∀ (d : Dev) (r : LinkRef) (bs : Bytes) (bad : Bool), linkRefOk r = true → (getLink d r).up = true →
    let l := getLink d r
    let u := flitReceive r bs bad d
    let k := getLink u r
    let last := (l.rxSeq + 4095) % 4096
    let recent := l.naked.any (fun x => decide (x.1 = last) && decide (d.time < x.2 + 2000))
    let good := bad = false ∧ crc64 (slice bs 0 248) = u64at bs 248 ∧ u8at bs 1 < 8 ∧ u16at bs 2 < 4096 ∧ u16at bs 4 < 4096
    let plain := bit (u8at bs 1) 0 = false ∧ bit (u8at bs 1) 1 = false
    (bad = true ∨ crc64 (slice bs 0 248) ≠ u64at bs 248 →
      k.rxSeq = l.rxSeq ∧ k.credits = l.credits ∧ k.txAcked = l.txAcked ∧ k.discarding = true ∧ k.counts.crcErrors = l.counts.crcErrors + 1 ∧
      u.sent = (if recent then d.sent else d.sent ++ [.nak (linkId r) last])) ∧
    (good → plain → (u8at bs 0 = 1 ∨ u8at bs 0 = 2) → u16at bs 2 ≠ l.rxSeq → l.discarding = false →
      k.rxSeq = l.rxSeq ∧ k.credits = l.credits ∧ k.txAcked = l.txAcked ∧ k.discarding = true ∧ k.counts.crcErrors = l.counts.crcErrors ∧
      u.sent = (if recent then d.sent else d.sent ++ [.nak (linkId r) last])) ∧
    (good → plain → (u8at bs 0 = 1 ∨ u8at bs 0 = 2) → u16at bs 2 = l.rxSeq → l.discarding = true → bit (u8at bs 1) 2 = false → u = d) ∧
    (good → plain → u16at bs 2 = l.rxSeq → (l.discarding = true → bit (u8at bs 1) 2 = true) →
      (u8at bs 0 = 2 ∨ (u8at bs 0 = 1 ∧ ∃ x, walkSlots r.hedge 15 l (slice bs 8 240) = .inr x)) →
      k.rxSeq = (l.rxSeq + 1) % 4096 ∧ k.credits = addCredits l.credits (u16at bs 6 / 8192) (u16at bs 6 % 8192) ∧ k.txAcked = l.txAcked ∧
      k.discarding = false ∧ k.up = true ∧ u.sent = d.sent ++ [.ack (linkId r) l.rxSeq]) ∧
    (∀ rule, good → plain → u8at bs 0 = 1 → u16at bs 2 = l.rxSeq → (l.discarding = true → bit (u8at bs 1) 2 = true) →
      walkSlots r.hedge 15 l (slice bs 8 240) = .inl rule → u = protocolError d r rule) ∧
    (good → u8at bs 0 = 0 → u16at bs 6 = 0 → allZero bs 8 240 = true → bit (u8at bs 1) 0 = true → bit (u8at bs 1) 1 = false → l.txAcked ≤ l.txSent →
      (ackCovers l (u16at bs 4)).isSome = true →
      k.txAcked % 4096 = (u16at bs 4 + 1) % 4096 ∧ l.txAcked ≤ k.txAcked ∧ k.txAcked ≤ k.txSent ∧ k.txSent = l.txSent ∧ k.rxSeq = l.rxSeq ∧ k.credits = l.credits) ∧
    (∀ s t, s.dev = d → exec (.wake r) s = .next t →
      (getLink t.dev r).rxSeq = l.rxSeq ∧ (getLink t.dev r).txSent = l.txSent ∧ (getLink t.dev r).txAcked = l.txAcked ∧
      (getLink t.dev r).credits = l.credits ∧ (getLink t.dev r).granted = l.granted)

/-- O58. On every hedge link: a memory packet for this device on a verified link, with 1 to 4,096 bytes, is applied in its order; HEDGE_MEM_DATA and
WRITE_ACK answer the mover that waits for them, and writes applied but not acknowledged are acknowledged by the timer; a tile of a running job from a
participant, its seal good and its queue one of the job's, is restamped with the local slot, sealed again and goes to the batch stations of its queue
or into the queue; a FLUSH of a participant is answered when its tiles are there, HEDGE_TILE, FLUSH and FLUSH_ACK of a job this device does not hold
change nothing, and a FLUSH_ACK awaited from a participant counts. A verified link carries link states, discovery, ADMIT and time alignment, and a
packet for another device is forwarded, on the escape path after its wait; on a link that is up IDENT's two messages are taken, and an exchange that
has not passed times out with 0x0704 and is repeated; a link that is up goes down with its reason. -/
def Obligations.HedgeRows : Prop :=
  ∀ (s : State) (link : Nat), link < 48 →
    let l := s.dev.links.getD link {}
    let d := start s
    (∀ p, forThis s.dev link p = true →
      (1 ≤ p.data.length → p.data.length ≤ 4096 → Takes (.hedgeMemWrite link p) s (memPacket link (pktOf 1 p) s.mem d)) ∧
      (1 ≤ p.aux >>> 32 → p.aux >>> 32 ≤ 4096 → Takes (.hedgeMemRead link p) s (memPacket link (pktOf 2 p) s.mem d)) ∧
      ((bit p.pflags 0 = true → p.data = []) → Takes (.hedgeMemData link p) s (hedgeMemData link (pktOf 3 p) d)) ∧
      Takes (.writeAck link p) s (writeAck link (pktOf 4 p) d) ∧
      (∀ slot h, (p.jobTag = 0xFFFFFFFF ∨ l.isAdmitted = true) → slotOfTag s.dev p.jobTag = some slot → (getJob s.dev slot).state = .running →
        let j := getJob s.dev slot
        let t := Tile.ofBytes p.data
        let q := p.aux / pow2 48
        senderPart j p.src = some h →
        (p.data.length = 4160 → t.computeSeal = t.crc → t.queue < j.image.queues.length →
          let t' := ({ t with jobSlot := slot }).sealed
          Takes (.hedgeTile link p) s (if (farQueues j).contains t.queue then (batchesOf j t.queue).foldl (farTile link slot h t.queue t') d else enterQueue link slot t' d)) ∧
        (∀ st sts, batchesOf j q = st :: sts →
          Takes (.flush link p) s (answerFlush (modHolder d slot st h (fun y => { y with flush := some (p.aux % pow2 48) })) slot st h q)) ∧
        (batchesOf j q = [] → q < j.image.queues.length →
          Takes (.flush link p) s (answerMarks (modQ d slot q (fun x => { x with marks := x.marks ++ [(h, p.aux % pow2 48)] })) slot q))) ∧
      ((p.jobTag = 0xFFFFFFFF ∨ l.isAdmitted = true) → slotOfTag s.dev p.jobTag = none →
        (p.data.length = 4160 → Takes (.hedgeTile link p) s d) ∧ Takes (.flush link p) s d ∧ Takes (.flushAck link p) s d) ∧
      (∀ slot, p.jobTag ≠ 0xFFFFFFFF → l.isAdmitted = true → slotOfTag s.dev p.jobTag = some slot → (getJob s.dev slot).state = .running →
        0 < (getQ s.dev slot (p.aux / pow2 48)).flushing → (senderPart (getJob s.dev slot) p.src).isSome = true →
        Takes (.flushAck link p) s (modQ d slot (p.aux / pow2 48) (fun x => { x with flushing := x.flushing - 1 })))) ∧
    (∀ e src, 0 < (getRx s.dev e src).unacked → Takes (.writeAckTimer e src) s (sendAck d (getRx s.dev e src))) ∧
    (l.isVerified = true →
      (∀ r, Takes (.linkState link r) s (linkState link r d)) ∧
      (∀ phase recs, phase = 1 ∨ phase = 2 ∨ phase = 4 → Takes (.discovery link phase recs) s (discovery link phase recs d)) ∧
      (∀ yes, Takes (.admitLink link yes) s (linkChanged (modLink d link (fun k => { k with peer := { k.peer with peerApproves := yes } })))) ∧
      (∀ t1 t2 t3, Takes (.timeSync link 1 t1 t2 t3) s (sendOn d link { ptype := 0x3A, src := srcAddr d, aux := 2, data := le 8 t1 ++ le 8 d.time ++ le 8 d.time })) ∧
      (∀ t1 t2 t3, s.dev.hedge.t1 = some t1 → Takes (.timeSync link 2 t1 t2 t3) s
        (checkBound (applyOffset { d with hedge := { d.hedge with t1 := none } } ((((t2 : Int) - t1) - ((d.time : Int) - t3)) / 2)))) ∧
      (∀ ptype p, forwardable s.dev ptype p = true →
        Takes (.packetForward link ptype p) s (packetForward link (pktOf ptype p) d) ∧
        (bit p.pflags 1 = false → Takes (.escapeTimeout link ptype p) s (escapeTimeout link (pktOf ptype p) d)))) ∧
    Takes .timeSyncTick s (timeSyncTick d) ∧
    (l.up = true →
      (∀ data, data.length = 1984 → Takes (.ident link 1 data) s (identKey link data d)) ∧
      (∀ data, data.length = 3309 → l.peer.key ≠ [] → Takes (.ident link 2 data) s (identSign link data d)) ∧
      (l.peer.verified = false → Takes (.identTimeout link) s (deviceFault d 0x0704 link 3 (linkDie ⟨true, link⟩)) ∧ Takes (.identRetry link) s (sendIdent d link)) ∧
      (∀ reason, 1 ≤ reason → reason ≤ 5 → Takes (.hedgeLinkDown link reason) s (linkDown d ⟨true, link⟩ reason 0)))

/-- O59. On a powered always-on island: ENUMERATE clears the address and takes NEXT where the strap is high and NEXT is at most 64, and sends NEXT, or
NEXT plus 1 where the strap is high, on downstream; the last device answers ENUM_DONE; a frame that fails its CRC or carries a reserved KIND is
discarded and counted; a COMMAND for this device is taken, run at its LAST frame, answered from the store when its CID was answered before, and
refused with BAD_STATE while another is in progress; a frame for others goes on in its direction; the turn is used for one frame and passed; an
addressed device sends heartbeats, notes those of later devices, and reports the one just behind it as lost after three silent intervals. -/
def Obligations.ChainRows : Prop :=
  ∀ s : State, chainOn s.dev = true →
    let d := start s
    let ch := s.dev.chain
    (∀ next, 1 ≤ next → next < 256 → ∃ u, exec (.enumerate next) s = .next u ∧
      u.dev.chain.addr = (if strapChainPos s.dev.root.straps ∧ next ≤ 64 then next else 0) ∧
      u.dev.chain.store = ch.store ++ [(false, { dest := 0xFF, src := 0, kind := 1, data := le 1 (if strapChainPos s.dev.root.straps then (next + 1) % 256 else next) })]) ∧
    (∀ n, ch.enumNext = some n → Takes .lastDeviceTimeout s (lastDevice n d)) ∧
    (∀ bs, readFrame bs = none →
      Takes (.chainCommand false bs) s { d with chain := { ch with discarded := ch.discarded + 1 } } ∧
      ∀ up, Takes (.chainFrameForward up bs) s { d with chain := { ch with discarded := ch.discarded + 1 } }) ∧
    (∀ bs f, readFrame bs = some f → f.kind = 4 ∨ f.kind = 5 → ch.addr ≠ 0 → f.dest = ch.addr ∨ f.dest = 0xFF →
      let e := if f.dest = 0xFF then storeFrame d false f else d
      (∀ all, assocGet ch.answers f.cid = some all → f.kind = 4 → f.offset = 0 → Takes (.chainCommand false bs) s
        (modChain e (fun c => { c with store := c.store ++ (respFrames c.addr f.cid (all.length / 4096 + 1) 0 all).map (fun x => (true, x)) }))) ∧
      (assocGet ch.answers f.cid = none →
        (ch.cid = none → f.kind = 4 → f.offset = 0 →
          let e' := modChain e (fun c => { c with cid := some f.cid, buf := f.data })
          Takes (.chainCommand false bs) s (if f.last then runChain s.mem e' (chainCmd f.cid f.data) else e')) ∧
        (ch.cid = some f.cid →
          let buf := putAt ch.buf f.offset f.data
          let e' := modChain e (fun c => { c with buf := buf })
          Takes (.chainCommand false bs) s (if f.last then runChain s.mem e' (chainCmd f.cid buf) else e')) ∧
        (∀ x, ch.cid = some x → x ≠ f.cid → f.kind = 4 → f.offset = 0 → Takes (.chainCommand false bs) s (refuseSecond e f)))) ∧
    (∀ bs f up, readFrame bs = some f → up = true ∨ f.dest ≠ ch.addr ∨ ch.addr = 0 → Takes (.chainFrameForward up bs) s (storeFrame d up f)) ∧
    Takes (.turnPass true) s (send (sendStored d true) (.turn true)) ∧
    (ch.turnDown = true → Takes (.turnPass false) s (send (modChain (sendStored d false) (fun c => { c with turnDown := false })) (.turn false))) ∧
    (ch.turnDown = false → Takes (.turnPass false) s { d with chain := { ch with turnDown := true, enumNext := none } }) ∧
    (ch.addr ≠ 0 → Takes .heartbeatTick s { d with chain := { ch with
      store := ch.store ++ [(true, { dest := 0, src := ch.addr, kind := 3, data := heartbeatData d })], watch := ch.watch.map (fun w => (w.1, w.2.1 + 1, w.2.2)) } }) ∧
    (∀ src, ch.addr ≠ 0 → ch.addr < src → src ≤ 64 → Takes (.heartbeat src) s { d with chain := { ch with watch := assocSet ch.watch src (0, false) } }) ∧
    (∀ n, ch.watch.find? (fun w => w.1 == ch.addr + 1) = some (ch.addr + 1, n, false) → 3 ≤ n →
      Takes (.heartbeatMissing (ch.addr + 1)) s (heartbeatMissing (ch.addr + 1) d))

/-- O60. POWER_ON of a device without a latched strap word starts it; with it latched, RESET_N makes a full reset with LAST_CAUSE 1 in which every job
slot is FREE and the boot waits until release, unless the trip holds; the reference is lost once and returns once, and the boot runs again; a trip
puts THERMTRIP_N out; rails go in D3, when tripped, or with VAON at any time, and leave no boot running. A boot that may go on completes, or runs over
a step's limit. A domain that does not wake makes a full reset due. The monitor hub samples while it runs. With the rails on, JTAG's BYPASS, IDCODE
and SAMPLE answer, the EXTEST instructions as BYPASS outside RECOVERY, and the debug challenge, token and status are taken. -/
def Obligations.BoardRows : Prop :=
  ∀ s : State,
    let r := s.dev.root
    let d := start s
    let f := { d with free := d.free + 1 }
    (∀ straps tier, r.strapsLatched = false → Takes (.powerOn straps tier) s (powerOn straps tier d)) ∧
    (∀ cool, r.strapsLatched = true → r.resetNLow = false → Takes (.resetNAssert cool) s (resetNAssert cool d)) ∧
    (r.strapsLatched = true → r.resetNLow = false → r.tripped = false →
      ∃ u, exec (.resetNAssert true) s = .next u ∧ u.dev.win.lastCause = 1 ∧ u.dev.win.resets = min (s.dev.win.resets + 1) (max 0xFFFF s.dev.win.resets) ∧
        u.dev.root.resetNLow = true ∧ u.dev.root.bootStep = 2 ∧ u.dev.hedge.addr = s.dev.hedge.addr ∧ ∀ k, (getJob u.dev k).state = .free) ∧
    (r.resetNLow = true → Takes .resetNRelease s { d with root := { r with resetNLow := false } }) ∧
    (r.refOk = true → r.strapsLatched = true → Takes .referenceLost s (referenceLost d)) ∧
    (r.refOk = false → Takes .referenceReturn s { d with root := { r with refOk := true, bootStep := 2 } }) ∧
    (∀ die, die < 100 → r.tripped = false → r.strapsLatched = true → ∃ u, exec (.thermalTrip die) s = .next u ∧
      u.dev.sent = [.thermtrip] ∧ u.dev.root.tripped = true ∧ u.dev.root.tripDie = some die ∧ u.dev.root.bootStep = 0) ∧
    (∀ vaon tier, vaon = true ∨ s.dev.power.state = .d3 ∨ r.tripped = true → ∃ u, exec (.railRemoval vaon tier) s = .next u ∧
      u.dev.root.mainOn = false ∧ u.dev.root.bootStep = 0 ∧ (tier = true → u.dev.ckpts = []) ∧ (vaon = true → u.dev.root.strapsLatched = false ∧ u.dev.root.peers = [])) ∧
    (∀ self hbm tier flash, bootReady r = true → Takes (.bootComplete self hbm tier flash) s (bootRun d self hbm tier flash)) ∧
    (∀ die, bootReady r = true → pendingTarget r = none → Takes (.bootStepTimeout die) s (enterRecovery (bootFault d 0x0E05 r.bootStep die rootDie))) ∧
    (∀ die t, bootReady r = true → pendingTarget r = some t → Takes (.bootStepTimeout die) s (secondRun d t (0x100 + r.bootStep))) ∧
    (∀ die domain, die < 100 → s.dev.power.waking.contains die = true →
      ∃ u, exec (.domainWakeTimeout die domain) s = .next u ∧ u.dev.root.resetCause = some 5 ∧ u.dev.power.waking.contains die = false) ∧
    (∀ readings sat rails, hubOn s.dev = true → Takes (.monitorSample readings sat rails) s (monitorSample readings sat rails d)) ∧
    (r.railsOn = true →
      let load (d : Dev) (code : Nat) (out : Bytes) := send { d with root := { r with jtag := code } } (.tdo out)
      Takes .bypass s (load d 0 [0]) ∧ Takes .idcode s (load d 1 Config.bsdlIdcode) ∧ Takes .samplePreload s (load f 2 (Config.bsdlCapture d.free)) ∧
      (∀ x ∈ [(Instr.extest, 3), (Instr.extestPulse, 4), (Instr.extestTrain, 5)],
        Takes x.1 s (if s.dev.power.state = .recovery then load f x.2 (Config.bsdlCapture d.free) else load d 0 [0])) ∧
      Takes .debugChallenge s (send d (.tdo (challenge d))) ∧ Takes .debugStatus s (send d (.tdo [byteOf r.debugResult])) ∧
      ∀ bs, Takes (.debugToken bs) s (debugToken bs d))
end

