-- ==== Sys2Proof/Laws/Bytes.lean ====
section
/-!
SUPPORT. Bounds of the checks, little-endian fields read back, and a tile read back from its bytes.
-/

namespace Sys2Proof.Machine

open Sys2Proof

/-- One bit of a CRC whose polynomial fits `k` bits keeps the register in `k` bits. -/
theorem crcBit_lt {k poly c : Nat} (hp : poly < 2 ^ k) (hc : c < 2 ^ k) : crcBit poly c < 2 ^ k := by
  have h : c / 2 < 2 ^ k := Nat.lt_of_le_of_lt (Nat.div_le_self c 2) hc
  unfold crcBit
  split
  · exact Nat.xor_lt_two_pow h hp
  · exact h

/-- So do several bits. -/
theorem crcBits_lt {k poly : Nat} (hp : poly < 2 ^ k) : ∀ {n c : Nat}, c < 2 ^ k → crcBits poly n c < 2 ^ k
  | 0, _, hc => hc
  | n + 1, _, hc => crcBits_lt hp (n := n) (crcBit_lt hp hc)

/-- So does a run over bytes. -/
theorem crcRun_lt {k poly : Nat} (hp : poly < 2 ^ k) (hk : 8 ≤ k) : ∀ {bs : Bytes} {c : Nat}, c < 2 ^ k → crcRun poly bs c < 2 ^ k
  | [], _, hc => hc
  | b :: bs, _, hc =>
    crcRun_lt (bs := bs) hp hk (crcBits_lt hp (n := 8) (Nat.xor_lt_two_pow hc (Nat.lt_of_lt_of_le b.isLt (Nat.pow_le_pow_right (by decide) hk))))

/-- A CRC-64 fits 64 bits. -/
theorem crc64_lt (bs : Bytes) : crc64 bs < 2 ^ 64 :=
  Nat.xor_lt_two_pow (crcRun_lt (by decide) (by decide) (by decide)) (by decide)

/-- A number read back from its little-endian bytes. -/
theorem leNat_le (n : Nat) : ∀ v : Nat, leNat (le n v) = v % 2 ^ (8 * n) := by
  induction n with
  | zero => intro v; exact (Nat.mod_one v).symm
  | succ n ih =>
    intro v
    have e : (byteOf v).toNat = v % 256 := by simp [byteOf]
    have p : 2 ^ (8 * (n + 1)) = 256 * 2 ^ (8 * n) := by rw [Nat.mul_succ, Nat.pow_add, Nat.mul_comm]
    show (byteOf v).toNat + 256 * leNat (le n (v >>> 8)) = _
    rw [ih, e, p, Nat.shiftRight_eq_div_pow, Nat.mod_mul]

/-- `n` bytes are written. -/
theorem le_length (n : Nat) : ∀ v : Nat, (le n v).length = n := by
  induction n with
  | zero => intro _; rfl
  | succ n ih => intro v; exact congrArg (· + 1) (ih _)

/-- A field that stands behind others, whatever follows. -/
theorem slice_mid {a b c : Bytes} {off len : Nat} (ha : a.length = off) (hb : b.length = len) : slice (a ++ b ++ c) off len = b := by
  have e : ((a ++ b ++ c).drop off).take len = b := by rw [List.append_assoc, List.drop_left' ha, List.take_left' hb]
  simp only [slice, e, hb, Nat.sub_self]
  exact List.append_nil b

/-- The field at the end. -/
theorem slice_end {a b : Bytes} {off len : Nat} (ha : a.length = off) (hb : b.length = len) : slice (a ++ b) off len = b := by
  have h := slice_mid (c := []) ha hb
  rwa [List.append_nil] at h

/-- Padding takes a list to its length, and adds nothing at that length. -/
theorem padTo_length (n : Nat) (bs : Bytes) : (padTo n bs).length = n := by
  simp only [padTo, zeros, List.length_append, List.length_take, List.length_replicate]
  omega

theorem padTo_self {n : Nat} {bs : Bytes} (h : bs.length = n) : padTo n bs = bs := by
  subst h
  simp only [padTo, List.take_length, Nat.sub_self]
  exact List.append_nil bs

/-- The header has 56 bytes. -/
theorem Tile.head_length (t : Tile) : t.head.length = 56 := by simp only [Tile.head, List.length_append, le_length]

/-- The seal and the payload of a tile read back from its bytes. -/
theorem Tile.ofBytes_crc (t : Tile) (h : t.crc < 2 ^ 64) : (Tile.ofBytes t.bytes).crc = t.crc := by
  have e : slice t.bytes 0x38 8 = le 8 t.crc := slice_mid t.head_length (le_length 8 t.crc)
  simp only [Tile.ofBytes, u64at, uat, e, leNat_le]
  exact Nat.mod_eq_of_lt h

theorem Tile.ofBytes_payload (t : Tile) : (Tile.ofBytes t.bytes).payload = padTo 4096 t.payload :=
  slice_end (by rw [List.length_append, t.head_length, le_length]) (padTo_length _ _)

/-- A tile whose header is read back from its bytes is read back sealed. -/
theorem Tile.ofBytes_sealed (t : Tile) (h : (Tile.ofBytes t.sealed.bytes).head = t.head) :
    (Tile.ofBytes t.sealed.bytes).computeSeal = (Tile.ofBytes t.sealed.bytes).crc := by
  rw [Tile.ofBytes_crc _ (crc64_lt _)]
  unfold Tile.computeSeal
  rw [h, Tile.ofBytes_payload, padTo_self (padTo_length _ _)]
  rfl

end Sys2Proof.Machine
end

