-- ==== Sys2Proof/Laws/State.lean ====
section
/-!
SUPPORT. Each field of the device after each named update of it, true by computation.
-/

namespace Sys2Proof.Machine

open Sys2Proof

section
variable (d : Dev)

@[simp] theorem fresh_time : (fresh d).time = d.time := rfl
@[simp] theorem fresh_free : (fresh d).free = d.free := rfl
@[simp] theorem fresh_posted : (fresh d).posted = [] := rfl
@[simp] theorem fresh_sent : (fresh d).sent = [] := rfl
@[simp] theorem fresh_win : (fresh d).win = d.win := rfl
@[simp] theorem fresh_root : (fresh d).root = d.root := rfl
@[simp] theorem fresh_power : (fresh d).power = d.power := rfl
@[simp] theorem fresh_ports : (fresh d).ports = d.ports := rfl
@[simp] theorem fresh_links : (fresh d).links = d.links := rfl
@[simp] theorem fresh_hedge : (fresh d).hedge = d.hedge := rfl
@[simp] theorem fresh_chain : (fresh d).chain = d.chain := rfl
@[simp] theorem fresh_movers : (fresh d).movers = d.movers := rfl
@[simp] theorem fresh_facts : (fresh d).facts = d.facts := rfl
@[simp] theorem fresh_hostGaps : (fresh d).hostGaps = d.hostGaps := rfl
@[simp] theorem fresh_jobs : (fresh d).jobs = d.jobs := rfl
@[simp] theorem fresh_feeds : (fresh d).feeds = d.feeds := rfl
@[simp] theorem fresh_nextFeed : (fresh d).nextFeed = d.nextFeed := rfl
@[simp] theorem fresh_ckpts : (fresh d).ckpts = d.ckpts := rfl
@[simp] theorem fresh_commits : (fresh d).commits = d.commits := rfl
@[simp] theorem fresh_stables : (fresh d).stables = d.stables := rfl

end

section
variable (d : Dev) (a : Nat) (bs : Bytes)

@[simp] theorem post_time : (post d a bs).time = d.time := rfl
@[simp] theorem post_free : (post d a bs).free = d.free := rfl
@[simp] theorem post_posted : (post d a bs).posted = d.posted ++ [.write a bs] := rfl
@[simp] theorem post_sent : (post d a bs).sent = d.sent := rfl
@[simp] theorem post_win : (post d a bs).win = d.win := rfl
@[simp] theorem post_root : (post d a bs).root = d.root := rfl
@[simp] theorem post_power : (post d a bs).power = d.power := rfl
@[simp] theorem post_ports : (post d a bs).ports = d.ports := rfl
@[simp] theorem post_links : (post d a bs).links = d.links := rfl
@[simp] theorem post_hedge : (post d a bs).hedge = d.hedge := rfl
@[simp] theorem post_chain : (post d a bs).chain = d.chain := rfl
@[simp] theorem post_movers : (post d a bs).movers = d.movers := rfl
@[simp] theorem post_facts : (post d a bs).facts = d.facts := rfl
@[simp] theorem post_hostGaps : (post d a bs).hostGaps = d.hostGaps := rfl
@[simp] theorem post_jobs : (post d a bs).jobs = d.jobs := rfl
@[simp] theorem post_feeds : (post d a bs).feeds = d.feeds := rfl
@[simp] theorem post_nextFeed : (post d a bs).nextFeed = d.nextFeed := rfl
@[simp] theorem post_ckpts : (post d a bs).ckpts = d.ckpts := rfl
@[simp] theorem post_commits : (post d a bs).commits = d.commits := rfl
@[simp] theorem post_stables : (post d a bs).stables = d.stables := rfl

end

section
variable (d : Dev) (o : Out)

@[simp] theorem send_time : (send d o).time = d.time := rfl
@[simp] theorem send_free : (send d o).free = d.free := rfl
@[simp] theorem send_posted : (send d o).posted = d.posted := rfl
@[simp] theorem send_sent : (send d o).sent = d.sent ++ [o] := rfl
@[simp] theorem send_win : (send d o).win = d.win := rfl
@[simp] theorem send_root : (send d o).root = d.root := rfl
@[simp] theorem send_power : (send d o).power = d.power := rfl
@[simp] theorem send_ports : (send d o).ports = d.ports := rfl
@[simp] theorem send_links : (send d o).links = d.links := rfl
@[simp] theorem send_hedge : (send d o).hedge = d.hedge := rfl
@[simp] theorem send_chain : (send d o).chain = d.chain := rfl
@[simp] theorem send_movers : (send d o).movers = d.movers := rfl
@[simp] theorem send_facts : (send d o).facts = d.facts := rfl
@[simp] theorem send_hostGaps : (send d o).hostGaps = d.hostGaps := rfl
@[simp] theorem send_jobs : (send d o).jobs = d.jobs := rfl
@[simp] theorem send_feeds : (send d o).feeds = d.feeds := rfl
@[simp] theorem send_nextFeed : (send d o).nextFeed = d.nextFeed := rfl
@[simp] theorem send_ckpts : (send d o).ckpts = d.ckpts := rfl
@[simp] theorem send_commits : (send d o).commits = d.commits := rfl
@[simp] theorem send_stables : (send d o).stables = d.stables := rfl

end

section
variable (d : Dev) (f : Window → Window)

@[simp] theorem modWin_time : (modWin d f).time = d.time := rfl
@[simp] theorem modWin_free : (modWin d f).free = d.free := rfl
@[simp] theorem modWin_posted : (modWin d f).posted = d.posted := rfl
@[simp] theorem modWin_sent : (modWin d f).sent = d.sent := rfl
@[simp] theorem modWin_win : (modWin d f).win = f d.win := rfl
@[simp] theorem modWin_root : (modWin d f).root = d.root := rfl
@[simp] theorem modWin_power : (modWin d f).power = d.power := rfl
@[simp] theorem modWin_ports : (modWin d f).ports = d.ports := rfl
@[simp] theorem modWin_links : (modWin d f).links = d.links := rfl
@[simp] theorem modWin_hedge : (modWin d f).hedge = d.hedge := rfl
@[simp] theorem modWin_chain : (modWin d f).chain = d.chain := rfl
@[simp] theorem modWin_movers : (modWin d f).movers = d.movers := rfl
@[simp] theorem modWin_facts : (modWin d f).facts = d.facts := rfl
@[simp] theorem modWin_hostGaps : (modWin d f).hostGaps = d.hostGaps := rfl
@[simp] theorem modWin_jobs : (modWin d f).jobs = d.jobs := rfl
@[simp] theorem modWin_feeds : (modWin d f).feeds = d.feeds := rfl
@[simp] theorem modWin_nextFeed : (modWin d f).nextFeed = d.nextFeed := rfl
@[simp] theorem modWin_ckpts : (modWin d f).ckpts = d.ckpts := rfl
@[simp] theorem modWin_commits : (modWin d f).commits = d.commits := rfl
@[simp] theorem modWin_stables : (modWin d f).stables = d.stables := rfl

end

section
variable (d : Dev) (p : Nat) (f : Link → Link)

@[simp] theorem modPort_time : (modPort d p f).time = d.time := rfl
@[simp] theorem modPort_free : (modPort d p f).free = d.free := rfl
@[simp] theorem modPort_posted : (modPort d p f).posted = d.posted := rfl
@[simp] theorem modPort_sent : (modPort d p f).sent = d.sent := rfl
@[simp] theorem modPort_win : (modPort d p f).win = d.win := rfl
@[simp] theorem modPort_root : (modPort d p f).root = d.root := rfl
@[simp] theorem modPort_power : (modPort d p f).power = d.power := rfl
@[simp] theorem modPort_ports : (modPort d p f).ports = modifyAt d.ports p f := rfl
@[simp] theorem modPort_links : (modPort d p f).links = d.links := rfl
@[simp] theorem modPort_hedge : (modPort d p f).hedge = d.hedge := rfl
@[simp] theorem modPort_chain : (modPort d p f).chain = d.chain := rfl
@[simp] theorem modPort_movers : (modPort d p f).movers = d.movers := rfl
@[simp] theorem modPort_facts : (modPort d p f).facts = d.facts := rfl
@[simp] theorem modPort_hostGaps : (modPort d p f).hostGaps = d.hostGaps := rfl
@[simp] theorem modPort_jobs : (modPort d p f).jobs = d.jobs := rfl
@[simp] theorem modPort_feeds : (modPort d p f).feeds = d.feeds := rfl
@[simp] theorem modPort_nextFeed : (modPort d p f).nextFeed = d.nextFeed := rfl
@[simp] theorem modPort_ckpts : (modPort d p f).ckpts = d.ckpts := rfl
@[simp] theorem modPort_commits : (modPort d p f).commits = d.commits := rfl
@[simp] theorem modPort_stables : (modPort d p f).stables = d.stables := rfl

end

section
variable (d : Dev) (l : Nat) (f : Link → Link)

@[simp] theorem modLink_time : (modLink d l f).time = d.time := rfl
@[simp] theorem modLink_free : (modLink d l f).free = d.free := rfl
@[simp] theorem modLink_posted : (modLink d l f).posted = d.posted := rfl
@[simp] theorem modLink_sent : (modLink d l f).sent = d.sent := rfl
@[simp] theorem modLink_win : (modLink d l f).win = d.win := rfl
@[simp] theorem modLink_root : (modLink d l f).root = d.root := rfl
@[simp] theorem modLink_power : (modLink d l f).power = d.power := rfl
@[simp] theorem modLink_ports : (modLink d l f).ports = d.ports := rfl
@[simp] theorem modLink_links : (modLink d l f).links = modifyAt d.links l f := rfl
@[simp] theorem modLink_hedge : (modLink d l f).hedge = d.hedge := rfl
@[simp] theorem modLink_chain : (modLink d l f).chain = d.chain := rfl
@[simp] theorem modLink_movers : (modLink d l f).movers = d.movers := rfl
@[simp] theorem modLink_facts : (modLink d l f).facts = d.facts := rfl
@[simp] theorem modLink_hostGaps : (modLink d l f).hostGaps = d.hostGaps := rfl
@[simp] theorem modLink_jobs : (modLink d l f).jobs = d.jobs := rfl
@[simp] theorem modLink_feeds : (modLink d l f).feeds = d.feeds := rfl
@[simp] theorem modLink_nextFeed : (modLink d l f).nextFeed = d.nextFeed := rfl
@[simp] theorem modLink_ckpts : (modLink d l f).ckpts = d.ckpts := rfl
@[simp] theorem modLink_commits : (modLink d l f).commits = d.commits := rfl
@[simp] theorem modLink_stables : (modLink d l f).stables = d.stables := rfl

end

section
variable (d : Dev) (slot : Nat) (f : Job → Job)

@[simp] theorem modJob_time : (modJob d slot f).time = d.time := rfl
@[simp] theorem modJob_free : (modJob d slot f).free = d.free := rfl
@[simp] theorem modJob_posted : (modJob d slot f).posted = d.posted := rfl
@[simp] theorem modJob_sent : (modJob d slot f).sent = d.sent := rfl
@[simp] theorem modJob_win : (modJob d slot f).win = d.win := rfl
@[simp] theorem modJob_root : (modJob d slot f).root = d.root := rfl
@[simp] theorem modJob_power : (modJob d slot f).power = d.power := rfl
@[simp] theorem modJob_ports : (modJob d slot f).ports = d.ports := rfl
@[simp] theorem modJob_links : (modJob d slot f).links = d.links := rfl
@[simp] theorem modJob_hedge : (modJob d slot f).hedge = d.hedge := rfl
@[simp] theorem modJob_chain : (modJob d slot f).chain = d.chain := rfl
@[simp] theorem modJob_movers : (modJob d slot f).movers = d.movers := rfl
@[simp] theorem modJob_facts : (modJob d slot f).facts = d.facts := rfl
@[simp] theorem modJob_hostGaps : (modJob d slot f).hostGaps = d.hostGaps := rfl
@[simp] theorem modJob_jobs : (modJob d slot f).jobs = modifyAt d.jobs slot f := rfl
@[simp] theorem modJob_feeds : (modJob d slot f).feeds = d.feeds := rfl
@[simp] theorem modJob_nextFeed : (modJob d slot f).nextFeed = d.nextFeed := rfl
@[simp] theorem modJob_ckpts : (modJob d slot f).ckpts = d.ckpts := rfl
@[simp] theorem modJob_commits : (modJob d slot f).commits = d.commits := rfl
@[simp] theorem modJob_stables : (modJob d slot f).stables = d.stables := rfl

end

section
variable (d : Dev) (e : Nat) (x : Engine)

@[simp] theorem setEngine_time : (setEngine d e x).time = d.time := rfl
@[simp] theorem setEngine_free : (setEngine d e x).free = d.free := rfl
@[simp] theorem setEngine_posted : (setEngine d e x).posted = d.posted := rfl
@[simp] theorem setEngine_sent : (setEngine d e x).sent = d.sent := rfl
@[simp] theorem setEngine_win : (setEngine d e x).win = d.win := rfl
@[simp] theorem setEngine_root : (setEngine d e x).root = d.root := rfl
@[simp] theorem setEngine_power : (setEngine d e x).power = d.power := rfl
@[simp] theorem setEngine_ports : (setEngine d e x).ports = d.ports := rfl
@[simp] theorem setEngine_links : (setEngine d e x).links = d.links := rfl
@[simp] theorem setEngine_hedge : (setEngine d e x).hedge = d.hedge := rfl
@[simp] theorem setEngine_chain : (setEngine d e x).chain = d.chain := rfl
@[simp] theorem setEngine_movers : (setEngine d e x).movers = { d.movers with engines := assocSet d.movers.engines e x } := rfl
@[simp] theorem setEngine_facts : (setEngine d e x).facts = d.facts := rfl
@[simp] theorem setEngine_hostGaps : (setEngine d e x).hostGaps = d.hostGaps := rfl
@[simp] theorem setEngine_jobs : (setEngine d e x).jobs = d.jobs := rfl
@[simp] theorem setEngine_feeds : (setEngine d e x).feeds = d.feeds := rfl
@[simp] theorem setEngine_nextFeed : (setEngine d e x).nextFeed = d.nextFeed := rfl
@[simp] theorem setEngine_ckpts : (setEngine d e x).ckpts = d.ckpts := rfl
@[simp] theorem setEngine_commits : (setEngine d e x).commits = d.commits := rfl
@[simp] theorem setEngine_stables : (setEngine d e x).stables = d.stables := rfl

end

section
variable (d : Dev) (e c : Nat) (x : Chan)

@[simp] theorem setChan_time : (setChan d e c x).time = d.time := rfl
@[simp] theorem setChan_free : (setChan d e c x).free = d.free := rfl
@[simp] theorem setChan_posted : (setChan d e c x).posted = d.posted := rfl
@[simp] theorem setChan_sent : (setChan d e c x).sent = d.sent := rfl
@[simp] theorem setChan_win : (setChan d e c x).win = d.win := rfl
@[simp] theorem setChan_root : (setChan d e c x).root = d.root := rfl
@[simp] theorem setChan_power : (setChan d e c x).power = d.power := rfl
@[simp] theorem setChan_ports : (setChan d e c x).ports = d.ports := rfl
@[simp] theorem setChan_links : (setChan d e c x).links = d.links := rfl
@[simp] theorem setChan_hedge : (setChan d e c x).hedge = d.hedge := rfl
@[simp] theorem setChan_chain : (setChan d e c x).chain = d.chain := rfl
@[simp] theorem setChan_movers : (setChan d e c x).movers = { d.movers with chans := assocSet d.movers.chans (e, c) x } := rfl
@[simp] theorem setChan_facts : (setChan d e c x).facts = d.facts := rfl
@[simp] theorem setChan_hostGaps : (setChan d e c x).hostGaps = d.hostGaps := rfl
@[simp] theorem setChan_jobs : (setChan d e c x).jobs = d.jobs := rfl
@[simp] theorem setChan_feeds : (setChan d e c x).feeds = d.feeds := rfl
@[simp] theorem setChan_nextFeed : (setChan d e c x).nextFeed = d.nextFeed := rfl
@[simp] theorem setChan_ckpts : (setChan d e c x).ckpts = d.ckpts := rfl
@[simp] theorem setChan_commits : (setChan d e c x).commits = d.commits := rfl
@[simp] theorem setChan_stables : (setChan d e c x).stables = d.stables := rfl

end

section
variable (d : Dev) (f : Chain → Chain)

@[simp] theorem modChain_time : (modChain d f).time = d.time := rfl
@[simp] theorem modChain_free : (modChain d f).free = d.free := rfl
@[simp] theorem modChain_posted : (modChain d f).posted = d.posted := rfl
@[simp] theorem modChain_sent : (modChain d f).sent = d.sent := rfl
@[simp] theorem modChain_win : (modChain d f).win = d.win := rfl
@[simp] theorem modChain_root : (modChain d f).root = d.root := rfl
@[simp] theorem modChain_power : (modChain d f).power = d.power := rfl
@[simp] theorem modChain_ports : (modChain d f).ports = d.ports := rfl
@[simp] theorem modChain_links : (modChain d f).links = d.links := rfl
@[simp] theorem modChain_hedge : (modChain d f).hedge = d.hedge := rfl
@[simp] theorem modChain_chain : (modChain d f).chain = f d.chain := rfl
@[simp] theorem modChain_movers : (modChain d f).movers = d.movers := rfl
@[simp] theorem modChain_facts : (modChain d f).facts = d.facts := rfl
@[simp] theorem modChain_hostGaps : (modChain d f).hostGaps = d.hostGaps := rfl
@[simp] theorem modChain_jobs : (modChain d f).jobs = d.jobs := rfl
@[simp] theorem modChain_feeds : (modChain d f).feeds = d.feeds := rfl
@[simp] theorem modChain_nextFeed : (modChain d f).nextFeed = d.nextFeed := rfl
@[simp] theorem modChain_ckpts : (modChain d f).ckpts = d.ckpts := rfl
@[simp] theorem modChain_commits : (modChain d f).commits = d.commits := rfl
@[simp] theorem modChain_stables : (modChain d f).stables = d.stables := rfl

end

section
variable (d : Dev) (slot n : Nat) (f : QRun → QRun)

@[simp] theorem modQ_time : (modQ d slot n f).time = d.time := rfl
@[simp] theorem modQ_free : (modQ d slot n f).free = d.free := rfl
@[simp] theorem modQ_posted : (modQ d slot n f).posted = d.posted := rfl
@[simp] theorem modQ_sent : (modQ d slot n f).sent = d.sent := rfl
@[simp] theorem modQ_win : (modQ d slot n f).win = d.win := rfl
@[simp] theorem modQ_root : (modQ d slot n f).root = d.root := rfl
@[simp] theorem modQ_power : (modQ d slot n f).power = d.power := rfl
@[simp] theorem modQ_ports : (modQ d slot n f).ports = d.ports := rfl
@[simp] theorem modQ_links : (modQ d slot n f).links = d.links := rfl
@[simp] theorem modQ_hedge : (modQ d slot n f).hedge = d.hedge := rfl
@[simp] theorem modQ_chain : (modQ d slot n f).chain = d.chain := rfl
@[simp] theorem modQ_movers : (modQ d slot n f).movers = d.movers := rfl
@[simp] theorem modQ_facts : (modQ d slot n f).facts = d.facts := rfl
@[simp] theorem modQ_hostGaps : (modQ d slot n f).hostGaps = d.hostGaps := rfl
@[simp] theorem modQ_feeds : (modQ d slot n f).feeds = d.feeds := rfl
@[simp] theorem modQ_nextFeed : (modQ d slot n f).nextFeed = d.nextFeed := rfl
@[simp] theorem modQ_ckpts : (modQ d slot n f).ckpts = d.ckpts := rfl
@[simp] theorem modQ_commits : (modQ d slot n f).commits = d.commits := rfl
@[simp] theorem modQ_stables : (modQ d slot n f).stables = d.stables := rfl

end

section
variable (d : Dev) (slot st : Nat) (f : StRun → StRun)

@[simp] theorem modSt_time : (modSt d slot st f).time = d.time := rfl
@[simp] theorem modSt_free : (modSt d slot st f).free = d.free := rfl
@[simp] theorem modSt_posted : (modSt d slot st f).posted = d.posted := rfl
@[simp] theorem modSt_sent : (modSt d slot st f).sent = d.sent := rfl
@[simp] theorem modSt_win : (modSt d slot st f).win = d.win := rfl
@[simp] theorem modSt_root : (modSt d slot st f).root = d.root := rfl
@[simp] theorem modSt_power : (modSt d slot st f).power = d.power := rfl
@[simp] theorem modSt_ports : (modSt d slot st f).ports = d.ports := rfl
@[simp] theorem modSt_links : (modSt d slot st f).links = d.links := rfl
@[simp] theorem modSt_hedge : (modSt d slot st f).hedge = d.hedge := rfl
@[simp] theorem modSt_chain : (modSt d slot st f).chain = d.chain := rfl
@[simp] theorem modSt_movers : (modSt d slot st f).movers = d.movers := rfl
@[simp] theorem modSt_facts : (modSt d slot st f).facts = d.facts := rfl
@[simp] theorem modSt_hostGaps : (modSt d slot st f).hostGaps = d.hostGaps := rfl
@[simp] theorem modSt_feeds : (modSt d slot st f).feeds = d.feeds := rfl
@[simp] theorem modSt_nextFeed : (modSt d slot st f).nextFeed = d.nextFeed := rfl
@[simp] theorem modSt_ckpts : (modSt d slot st f).ckpts = d.ckpts := rfl
@[simp] theorem modSt_commits : (modSt d slot st f).commits = d.commits := rfl
@[simp] theorem modSt_stables : (modSt d slot st f).stables = d.stables := rfl

end

section
variable (d : Dev) (slot st p : Nat) (f : InPort → InPort)

@[simp] theorem modIn_time : (modIn d slot st p f).time = d.time := rfl
@[simp] theorem modIn_free : (modIn d slot st p f).free = d.free := rfl
@[simp] theorem modIn_posted : (modIn d slot st p f).posted = d.posted := rfl
@[simp] theorem modIn_sent : (modIn d slot st p f).sent = d.sent := rfl
@[simp] theorem modIn_win : (modIn d slot st p f).win = d.win := rfl
@[simp] theorem modIn_root : (modIn d slot st p f).root = d.root := rfl
@[simp] theorem modIn_power : (modIn d slot st p f).power = d.power := rfl
@[simp] theorem modIn_ports : (modIn d slot st p f).ports = d.ports := rfl
@[simp] theorem modIn_links : (modIn d slot st p f).links = d.links := rfl
@[simp] theorem modIn_hedge : (modIn d slot st p f).hedge = d.hedge := rfl
@[simp] theorem modIn_chain : (modIn d slot st p f).chain = d.chain := rfl
@[simp] theorem modIn_movers : (modIn d slot st p f).movers = d.movers := rfl
@[simp] theorem modIn_facts : (modIn d slot st p f).facts = d.facts := rfl
@[simp] theorem modIn_hostGaps : (modIn d slot st p f).hostGaps = d.hostGaps := rfl
@[simp] theorem modIn_feeds : (modIn d slot st p f).feeds = d.feeds := rfl
@[simp] theorem modIn_nextFeed : (modIn d slot st p f).nextFeed = d.nextFeed := rfl
@[simp] theorem modIn_ckpts : (modIn d slot st p f).ckpts = d.ckpts := rfl
@[simp] theorem modIn_commits : (modIn d slot st p f).commits = d.commits := rfl
@[simp] theorem modIn_stables : (modIn d slot st p f).stables = d.stables := rfl

end

section
variable (d : Dev) (slot st p : Nat) (f : OutPort → OutPort)

@[simp] theorem modOut_time : (modOut d slot st p f).time = d.time := rfl
@[simp] theorem modOut_free : (modOut d slot st p f).free = d.free := rfl
@[simp] theorem modOut_posted : (modOut d slot st p f).posted = d.posted := rfl
@[simp] theorem modOut_sent : (modOut d slot st p f).sent = d.sent := rfl
@[simp] theorem modOut_win : (modOut d slot st p f).win = d.win := rfl
@[simp] theorem modOut_root : (modOut d slot st p f).root = d.root := rfl
@[simp] theorem modOut_power : (modOut d slot st p f).power = d.power := rfl
@[simp] theorem modOut_ports : (modOut d slot st p f).ports = d.ports := rfl
@[simp] theorem modOut_links : (modOut d slot st p f).links = d.links := rfl
@[simp] theorem modOut_hedge : (modOut d slot st p f).hedge = d.hedge := rfl
@[simp] theorem modOut_chain : (modOut d slot st p f).chain = d.chain := rfl
@[simp] theorem modOut_movers : (modOut d slot st p f).movers = d.movers := rfl
@[simp] theorem modOut_facts : (modOut d slot st p f).facts = d.facts := rfl
@[simp] theorem modOut_hostGaps : (modOut d slot st p f).hostGaps = d.hostGaps := rfl
@[simp] theorem modOut_feeds : (modOut d slot st p f).feeds = d.feeds := rfl
@[simp] theorem modOut_nextFeed : (modOut d slot st p f).nextFeed = d.nextFeed := rfl
@[simp] theorem modOut_ckpts : (modOut d slot st p f).ckpts = d.ckpts := rfl
@[simp] theorem modOut_commits : (modOut d slot st p f).commits = d.commits := rfl
@[simp] theorem modOut_stables : (modOut d slot st p f).stables = d.stables := rfl

end

section
variable (d : Dev) (slot st : Nat) (k : KindSt)

@[simp] theorem setKind_time : (setKind d slot st k).time = d.time := rfl
@[simp] theorem setKind_free : (setKind d slot st k).free = d.free := rfl
@[simp] theorem setKind_posted : (setKind d slot st k).posted = d.posted := rfl
@[simp] theorem setKind_sent : (setKind d slot st k).sent = d.sent := rfl
@[simp] theorem setKind_win : (setKind d slot st k).win = d.win := rfl
@[simp] theorem setKind_root : (setKind d slot st k).root = d.root := rfl
@[simp] theorem setKind_power : (setKind d slot st k).power = d.power := rfl
@[simp] theorem setKind_ports : (setKind d slot st k).ports = d.ports := rfl
@[simp] theorem setKind_links : (setKind d slot st k).links = d.links := rfl
@[simp] theorem setKind_hedge : (setKind d slot st k).hedge = d.hedge := rfl
@[simp] theorem setKind_chain : (setKind d slot st k).chain = d.chain := rfl
@[simp] theorem setKind_movers : (setKind d slot st k).movers = d.movers := rfl
@[simp] theorem setKind_facts : (setKind d slot st k).facts = d.facts := rfl
@[simp] theorem setKind_hostGaps : (setKind d slot st k).hostGaps = d.hostGaps := rfl
@[simp] theorem setKind_feeds : (setKind d slot st k).feeds = d.feeds := rfl
@[simp] theorem setKind_nextFeed : (setKind d slot st k).nextFeed = d.nextFeed := rfl
@[simp] theorem setKind_ckpts : (setKind d slot st k).ckpts = d.ckpts := rfl
@[simp] theorem setKind_commits : (setKind d slot st k).commits = d.commits := rfl
@[simp] theorem setKind_stables : (setKind d slot st k).stables = d.stables := rfl

end

section
variable (d : Dev) (f : FaultInfo)

@[simp] theorem latchFault_time : (latchFault d f).time = d.time := rfl
@[simp] theorem latchFault_free : (latchFault d f).free = d.free := rfl
@[simp] theorem latchFault_posted : (latchFault d f).posted = d.posted := rfl
@[simp] theorem latchFault_sent : (latchFault d f).sent = d.sent := rfl
@[simp] theorem latchFault_root : (latchFault d f).root = d.root := rfl
@[simp] theorem latchFault_power : (latchFault d f).power = d.power := rfl
@[simp] theorem latchFault_ports : (latchFault d f).ports = d.ports := rfl
@[simp] theorem latchFault_links : (latchFault d f).links = d.links := rfl
@[simp] theorem latchFault_hedge : (latchFault d f).hedge = d.hedge := rfl
@[simp] theorem latchFault_chain : (latchFault d f).chain = d.chain := rfl
@[simp] theorem latchFault_movers : (latchFault d f).movers = d.movers := rfl
@[simp] theorem latchFault_facts : (latchFault d f).facts = d.facts := rfl
@[simp] theorem latchFault_hostGaps : (latchFault d f).hostGaps = d.hostGaps := rfl
@[simp] theorem latchFault_jobs : (latchFault d f).jobs = d.jobs := rfl
@[simp] theorem latchFault_feeds : (latchFault d f).feeds = d.feeds := rfl
@[simp] theorem latchFault_nextFeed : (latchFault d f).nextFeed = d.nextFeed := rfl
@[simp] theorem latchFault_ckpts : (latchFault d f).ckpts = d.ckpts := rfl
@[simp] theorem latchFault_commits : (latchFault d f).commits = d.commits := rfl
@[simp] theorem latchFault_stables : (latchFault d f).stables = d.stables := rfl

end

section
variable (d : Dev)

@[simp] theorem dropEvent_time : (dropEvent d).time = d.time := rfl
@[simp] theorem dropEvent_free : (dropEvent d).free = d.free := rfl
@[simp] theorem dropEvent_posted : (dropEvent d).posted = d.posted := rfl
@[simp] theorem dropEvent_sent : (dropEvent d).sent = d.sent := rfl
@[simp] theorem dropEvent_root : (dropEvent d).root = d.root := rfl
@[simp] theorem dropEvent_power : (dropEvent d).power = d.power := rfl
@[simp] theorem dropEvent_ports : (dropEvent d).ports = d.ports := rfl
@[simp] theorem dropEvent_links : (dropEvent d).links = d.links := rfl
@[simp] theorem dropEvent_hedge : (dropEvent d).hedge = d.hedge := rfl
@[simp] theorem dropEvent_chain : (dropEvent d).chain = d.chain := rfl
@[simp] theorem dropEvent_movers : (dropEvent d).movers = d.movers := rfl
@[simp] theorem dropEvent_facts : (dropEvent d).facts = d.facts := rfl
@[simp] theorem dropEvent_hostGaps : (dropEvent d).hostGaps = d.hostGaps := rfl
@[simp] theorem dropEvent_jobs : (dropEvent d).jobs = d.jobs := rfl
@[simp] theorem dropEvent_feeds : (dropEvent d).feeds = d.feeds := rfl
@[simp] theorem dropEvent_nextFeed : (dropEvent d).nextFeed = d.nextFeed := rfl
@[simp] theorem dropEvent_ckpts : (dropEvent d).ckpts = d.ckpts := rfl
@[simp] theorem dropEvent_commits : (dropEvent d).commits = d.commits := rfl
@[simp] theorem dropEvent_stables : (dropEvent d).stables = d.stables := rfl

end

section
variable (d : Dev) (c : Cmd)

@[simp] theorem dropCmd_time : (dropCmd d c).time = d.time := rfl
@[simp] theorem dropCmd_free : (dropCmd d c).free = d.free := rfl
@[simp] theorem dropCmd_posted : (dropCmd d c).posted = d.posted := rfl
@[simp] theorem dropCmd_sent : (dropCmd d c).sent = d.sent := rfl
@[simp] theorem dropCmd_root : (dropCmd d c).root = d.root := rfl
@[simp] theorem dropCmd_power : (dropCmd d c).power = d.power := rfl
@[simp] theorem dropCmd_ports : (dropCmd d c).ports = d.ports := rfl
@[simp] theorem dropCmd_links : (dropCmd d c).links = d.links := rfl
@[simp] theorem dropCmd_hedge : (dropCmd d c).hedge = d.hedge := rfl
@[simp] theorem dropCmd_chain : (dropCmd d c).chain = d.chain := rfl
@[simp] theorem dropCmd_movers : (dropCmd d c).movers = d.movers := rfl
@[simp] theorem dropCmd_facts : (dropCmd d c).facts = d.facts := rfl
@[simp] theorem dropCmd_hostGaps : (dropCmd d c).hostGaps = d.hostGaps := rfl
@[simp] theorem dropCmd_jobs : (dropCmd d c).jobs = d.jobs := rfl
@[simp] theorem dropCmd_feeds : (dropCmd d c).feeds = d.feeds := rfl
@[simp] theorem dropCmd_nextFeed : (dropCmd d c).nextFeed = d.nextFeed := rfl
@[simp] theorem dropCmd_ckpts : (dropCmd d c).ckpts = d.ckpts := rfl
@[simp] theorem dropCmd_commits : (dropCmd d c).commits = d.commits := rfl
@[simp] theorem dropCmd_stables : (dropCmd d c).stables = d.stables := rfl

end

section
variable (d : Dev) (c : Cmd)

@[simp] theorem acceptCmd_time : (acceptCmd d c).time = d.time := rfl
@[simp] theorem acceptCmd_free : (acceptCmd d c).free = d.free := rfl
@[simp] theorem acceptCmd_posted : (acceptCmd d c).posted = d.posted := rfl
@[simp] theorem acceptCmd_sent : (acceptCmd d c).sent = d.sent := rfl
@[simp] theorem acceptCmd_root : (acceptCmd d c).root = d.root := rfl
@[simp] theorem acceptCmd_power : (acceptCmd d c).power = d.power := rfl
@[simp] theorem acceptCmd_ports : (acceptCmd d c).ports = d.ports := rfl
@[simp] theorem acceptCmd_links : (acceptCmd d c).links = d.links := rfl
@[simp] theorem acceptCmd_hedge : (acceptCmd d c).hedge = d.hedge := rfl
@[simp] theorem acceptCmd_chain : (acceptCmd d c).chain = d.chain := rfl
@[simp] theorem acceptCmd_movers : (acceptCmd d c).movers = d.movers := rfl
@[simp] theorem acceptCmd_facts : (acceptCmd d c).facts = d.facts := rfl
@[simp] theorem acceptCmd_hostGaps : (acceptCmd d c).hostGaps = d.hostGaps := rfl
@[simp] theorem acceptCmd_jobs : (acceptCmd d c).jobs = d.jobs := rfl
@[simp] theorem acceptCmd_feeds : (acceptCmd d c).feeds = d.feeds := rfl
@[simp] theorem acceptCmd_nextFeed : (acceptCmd d c).nextFeed = d.nextFeed := rfl
@[simp] theorem acceptCmd_ckpts : (acceptCmd d c).ckpts = d.ckpts := rfl
@[simp] theorem acceptCmd_commits : (acceptCmd d c).commits = d.commits := rfl
@[simp] theorem acceptCmd_stables : (acceptCmd d c).stables = d.stables := rfl

end

/-- What a device with one more free value counted reads: every field but the count. -/
theorem getJob_free (d : Dev) (n slot : Nat) : getJob { d with free := n } slot = getJob d slot := rfl

end Sys2Proof.Machine
end

