-- ==== Sys2Proof/Laws/Lists.lean ====
section
/-!
SUPPORT. Reading after a change of one element: lists, keyed lists, jobs, links, queues, stations, engines and channels.
-/

namespace Sys2Proof.Machine

open Sys2Proof

/-- A change of one element leaves the length. -/
@[simp] theorem modifyAt_length {α : Type} (xs : List α) (i : Nat) (f : α → α) : (modifyAt xs i f).length = xs.length := by
  unfold modifyAt
  split <;> simp

/-- An element after the change of one: the changed one is `f` of the old, the others are as they were. -/
theorem modifyAt_getD {α : Type} (xs : List α) (i j : Nat) (f : α → α) (a : α) :
    (modifyAt xs i f).getD j a = if i = j ∧ i < xs.length then f (xs.getD j a) else xs.getD j a := by
  unfold modifyAt
  by_cases hi : i < xs.length
  · rw [List.getElem?_eq_getElem hi]
    by_cases hj : i = j
    · subst hj
      simp [hi, List.getD_eq_getElem?_getD]
    · simp [hj, List.getD_eq_getElem?_getD]
  · rw [List.getElem?_eq_none (by omega)]
    simp [hi]

/-- A change at another index does not show. -/
theorem modifyAt_getD_ne {α : Type} (xs : List α) {i j : Nat} (h : i ≠ j) (f : α → α) (a : α) : (modifyAt xs i f).getD j a = xs.getD j a := by
  rw [modifyAt_getD, if_neg (fun e => h e.1)]

/-- The value of a key in pairs of which those with key `k` were replaced. -/
theorem assocGet_map {κ α : Type} [BEq κ] [LawfulBEq κ] (xs : List (κ × α)) (k x : κ) (a : α) :
    assocGet (xs.map (fun p => if p.1 == k then (k, a) else p)) x =
      if x == k then (if xs.any (fun p => p.1 == k) then some a else none) else assocGet xs x := by
  induction xs with
  | nil => cases hx : x == k <;> simp [assocGet]
  | cons p ps ih =>
    have hc (q : κ × α) (qs : List (κ × α)) : assocGet (q :: qs) x = if q.1 == x then some q.2 else assocGet qs x := by
      unfold assocGet
      cases h : q.1 == x <;> simp [h]
    rw [List.map_cons, hc, hc, ih, List.any_cons]
    cases hp : p.1 == k <;> cases hx : x == k
    · simp
    · have e : p.1 == x ↔ False := by
        rw [LawfulBEq.eq_of_beq hx, hp]; simp
      simp only [e, if_false, Bool.false_or, Bool.false_eq_true, if_true]
    · have h1 : (k == x) = false := by
        cases h : k == x
        · rfl
        · rw [LawfulBEq.eq_of_beq h] at hx; simp at hx
      have h2 : (p.1 == x) = false := by rw [LawfulBEq.eq_of_beq hp, h1]
      simp [h1, h2]
    · have h1 : (k == x) = true := by rw [LawfulBEq.eq_of_beq hx]; simp
      simp [h1]

/-- The value of a key after a key's value is set. -/
theorem assocGet_set {κ α : Type} [BEq κ] [LawfulBEq κ] (xs : List (κ × α)) (k x : κ) (a : α) :
    assocGet (assocSet xs k a) x = if x == k then some a else assocGet xs x := by
  unfold assocSet
  cases h : xs.any (fun p => p.1 == k)
  · rw [if_neg (by simp)]
    have hn : ∀ p ∈ xs, (p.1 == k) = false := by simpa using h
    cases hx : x == k
    · have h1 : (k == x) = false := by
        cases h : k == x
        · rfl
        · rw [LawfulBEq.eq_of_beq h] at hx; simp at hx
      simp [assocGet, List.find?_append, h1]
    · have e := LawfulBEq.eq_of_beq hx
      subst e
      have hf : xs.find? (fun p => p.1 == x) = none := List.find?_eq_none.mpr (fun p hp => by simp [hn p hp])
      simp [assocGet, List.find?_append, hf]
  · rw [if_pos rfl, assocGet_map, h]
    simp

/-- A job after a change of one slot. -/
theorem getJob_modJob (d : Dev) (slot k : Nat) (f : Job → Job) :
    getJob (modJob d slot f) k = if slot = k ∧ slot < d.jobs.length then f (getJob d k) else getJob d k := modifyAt_getD ..

/-- The jobs of the other slots are untouched by a change of one slot. -/
theorem getJob_modJob_ne (d : Dev) {slot k : Nat} (h : slot ≠ k) (f : Job → Job) : getJob (modJob d slot f) k = getJob d k := modifyAt_getD_ne _ h _ _

/-- A slot whose job is not as at reset exists. -/
theorem slot_exists {d : Dev} {slot : Nat} (h : getJob d slot ≠ {}) : slot < d.jobs.length := by
  refine Decidable.by_contra (fun hn => h ?_)
  unfold getJob
  rw [List.getD_eq_getElem?_getD, List.getElem?_eq_none (by omega)]
  rfl

/-- A port after a change of one. -/
theorem port_modPort (d : Dev) (p k : Nat) (f : Link → Link) :
    (modPort d p f).ports.getD k {} = if p = k ∧ p < d.ports.length then f (d.ports.getD k {}) else d.ports.getD k {} := modifyAt_getD ..

/-- A hedge link after a change of one. -/
theorem link_modLink (d : Dev) (l k : Nat) (f : Link → Link) :
    (modLink d l f).links.getD k {} = if l = k ∧ l < d.links.length then f (d.links.getD k {}) else d.links.getD k {} := modifyAt_getD ..

/-- An engine after one is written. -/
theorem getEngine_setEngine (d : Dev) (e k : Nat) (x : Engine) : getEngine (setEngine d e x) k = if k == e then x else getEngine d k := by
  unfold getEngine setEngine
  simp only [assocGet_set]
  split <;> rfl

/-- A channel after one is written. -/
theorem getChan_setChan (d : Dev) (e c k n : Nat) (x : Chan) : getChan (setChan d e c x) k n = if (k, n) == (e, c) then x else getChan d k n := by
  unfold getChan setChan
  simp only [assocGet_set]
  split <;> rfl

/-- A queue after a change of one queue of its job. -/
theorem getQ_modQ (d : Dev) (slot n k : Nat) (f : QRun → QRun) (h : slot < d.jobs.length) :
    getQ (modQ d slot n f) slot k = if n = k ∧ n < (getJob d slot).rt.queues.length then f (getQ d slot k) else getQ d slot k := by
  unfold getQ modQ
  rw [getJob_modJob]
  simp only [h, and_self, if_true]
  exact modifyAt_getD ..

/-- A station after a change of one station of its job. -/
theorem getSt_modSt (d : Dev) (slot n k : Nat) (f : StRun → StRun) (h : slot < d.jobs.length) :
    getSt (modSt d slot n f) slot k = if n = k ∧ n < (getJob d slot).rt.stations.length then f (getSt d slot k) else getSt d slot k := by
  unfold getSt modSt
  rw [getJob_modJob]
  simp only [h, and_self, if_true]
  exact modifyAt_getD ..

end Sys2Proof.Machine
end

