-- ==== Sys2Proof/Laws/Memory.lean ====
section
/-!
SUPPORT. The canonical form of memory and the operations that keep it (log entry 1).
-/

namespace Sys2Proof.Machine

open Sys2Proof

/-- The canonical form from `lo` upward says: every listed address is at least `lo`, no listed byte is 0, the addresses rise strictly. -/
theorem memWfFrom_iff (m : Memory) : ∀ lo, memWfFrom lo m = true ↔
    (∀ c ∈ m, lo ≤ c.1 ∧ c.2 ≠ 0) ∧ m.Pairwise (fun a b => a.1 < b.1) := by
  induction m with
  | nil => intro lo; simp [memWfFrom]
  | cons c cs ih =>
    intro lo
    simp only [memWfFrom, Bool.and_eq_true, decide_eq_true_eq, bne_iff_ne, ne_eq, ih, List.mem_cons, forall_eq_or_imp, List.pairwise_cons]
    constructor
    · rintro ⟨⟨h1, h2⟩, h3, h4⟩
      exact ⟨⟨⟨h1, h2⟩, fun a ha => ⟨by have := (h3 a ha).1; omega, (h3 a ha).2⟩⟩, fun a ha => by have := (h3 a ha).1; omega, h4⟩
    · rintro ⟨⟨⟨h1, h2⟩, h3⟩, h4, h5⟩
      exact ⟨⟨h1, h2⟩, fun a ha => ⟨by have := h4 a ha; omega, (h3 a ha).2⟩, h5⟩

/-- The canonical form without its lower bound. -/
theorem Memory.wf_iff (m : Memory) : Memory.wf m = true ↔ (∀ c ∈ m, c.2 ≠ 0) ∧ m.Pairwise (fun a b => a.1 < b.1) := by
  simp [Memory.wf, memWfFrom_iff]

/-- Memory with nothing listed is in canonical form. -/
@[simp] theorem Memory.wf_nil : Memory.wf [] = true := rfl

/-- The cells of bytes lie in their run, hold no 0 and rise. -/
theorem memCells_props (bs : Bytes) : ∀ a,
    (∀ c ∈ memCells a bs, a ≤ c.1 ∧ c.1 < a + bs.length ∧ c.2 ≠ 0) ∧ (memCells a bs).Pairwise (fun x y => x.1 < y.1) := by
  induction bs with
  | nil => intro a; simp [memCells]
  | cons b bs ih =>
    intro a
    obtain ⟨h1, h2⟩ := ih (a + 1)
    have h1' : ∀ c ∈ memCells (a + 1) bs, a < c.1 ∧ c.1 < a + (bs.length + 1) ∧ c.2 ≠ 0 := by
      intro c hc
      obtain ⟨x, y, z⟩ := h1 c hc
      exact ⟨by omega, by omega, z⟩
    by_cases hb : b = 0
    · simp only [memCells, hb, if_true, List.length_cons]
      exact ⟨fun c hc => ⟨by have := (h1' c hc).1; omega, (h1' c hc).2⟩, h2⟩
    · simp only [memCells, hb, if_false, List.length_cons, List.mem_cons, forall_eq_or_imp, List.pairwise_cons]
      exact ⟨⟨⟨Nat.le_refl _, by omega, hb⟩, fun c hc => ⟨by have := (h1' c hc).1; omega, (h1' c hc).2⟩⟩, fun c hc => (h1' c hc).1, h2⟩

/-- A write keeps the canonical form. -/
theorem memWrite_wf {m : Memory} (h : Memory.wf m = true) (a : Nat) (bs : Bytes) : Memory.wf (memWrite m a bs) = true := by
  rw [Memory.wf_iff] at h ⊢
  obtain ⟨hz, hp⟩ := h
  obtain ⟨c1, c2⟩ := memCells_props bs a
  constructor
  · intro c hc
    simp only [memWrite, List.mem_append, List.mem_filter] at hc
    rcases hc with (⟨h, _⟩ | h) | ⟨h, _⟩
    · exact hz c h
    · exact (c1 c h).2.2
    · exact hz c h
  · simp only [memWrite, List.pairwise_append, List.mem_append, List.mem_filter, decide_eq_true_eq]
    refine ⟨⟨hp.filter _, c2, ?_⟩, hp.filter _, ?_⟩
    · rintro x ⟨_, hx⟩ y hy
      have := (c1 y hy).1
      omega
    · rintro x (⟨_, hx⟩ | hx) y ⟨_, hy⟩
      · omega
      · have := (c1 x hx).2.1
        omega

/-- Losing a range keeps the canonical form. -/
theorem memLose_wf {m : Memory} (h : Memory.wf m = true) (lo hi : Nat) : Memory.wf (memLose m lo hi) = true := by
  rw [Memory.wf_iff] at h ⊢
  exact ⟨fun c hc => h.1 c (List.mem_filter.mp hc).1, h.2.filter _⟩

/-- One posted write keeps the canonical form. -/
theorem applyPost_wf {m : Memory} (h : Memory.wf m = true) (p : Post) : Memory.wf (applyPost m p) = true := by
  cases p with
  | write a bs => exact memWrite_wf h a bs
  | lose lo hi => exact memLose_wf h lo hi

/-- Posted writes keep the canonical form: every memory operation of a command is one of them. -/
theorem applyPosts_wf (ps : List Post) : ∀ {m : Memory}, Memory.wf m = true → Memory.wf (applyPosts m ps) = true := by
  induction ps with
  | nil => intro m h; exact h
  | cons p ps ih => intro m h; exact ih (applyPost_wf h p)

/-- No posted write leaves memory as it is. -/
@[simp] theorem applyPosts_nil (m : Memory) : applyPosts m [] = m := rfl

/-- Posted writes are applied one after the other. -/
theorem applyPosts_append (m : Memory) (p q : List Post) : applyPosts m (p ++ q) = applyPosts (applyPosts m p) q := by
  simp [applyPosts]

/-- The memory after reset is in canonical form. -/
theorem reset_mem_wf : Memory.wf State.reset.mem = true := rfl

end Sys2Proof.Machine
end

