-- ==== Sys2Proof/Laws/Ops.lean ====
section
/-!
SUPPORT. What each shared operation can do, said once: the end of a command, the guards of row commands, ring commands, writes to host memory, events, faults
and completions.
-/

namespace Sys2Proof.Machine

open Sys2Proof

/-- A command that answers a device ends with it. -/
theorem settle_next (s : State) (d : Dev) : settle s (.next d) = .next (ended s d) := rfl

/-- An event that does not take place ends with the device as the command found it (log entry 99). -/
theorem settle_nothing (s : State) : settle s .nothing = .next (ended s (start s)) := rfl

/-- A command answers a next state only from a device, and then the one in which that device ends: the one it gives, or the one it found. -/
theorem settle_eq_next {s t : State} {r : DevOut} : settle s r = .next t ↔ ∃ d, (r = .next d ∨ r = .nothing ∧ d = start s) ∧ t = ended s d := by
  cases r with
  | next d => simp [settle_next, eq_comm]
  | nothing => simp [settle_nothing, eq_comm]
  | fault f => simp [settle]

/-- A meaning answers a next state only from a device that it gives, or as it found the device. -/
theorem runDev_eq_next {s t : State} {f : Memory → Dev → DevOut} :
    runDev s f = .next t ↔ ∃ d, (f s.mem (start s) = .next d ∨ f s.mem (start s) = .nothing ∧ d = start s) ∧ t = ended s d := settle_eq_next

/-- A meaning that gives a device ends with it. -/
theorem runDev_next {s : State} {f : Memory → Dev → DevOut} {d : Dev} (h : f s.mem (start s) = .next d) : runDev s f = .next (ended s d) := by
  unfold runDev
  rw [h]
  rfl

/-- The end of a command keeps the queue. -/
@[simp] theorem ended_pending (s : State) (d : Dev) : (ended s d).pending = s.pending := rfl
/-- The end of a command leaves no write posted. -/
@[simp] theorem ended_posted (s : State) (d : Dev) : (ended s d).dev.posted = [] := rfl
/-- The end of a command applies the posted writes in order. -/
@[simp] theorem ended_mem (s : State) (d : Dev) : (ended s d).mem = applyPosts s.mem d.posted := rfl

/-- The end of a command keeps the invariant. -/
theorem ended_inv {s : State} (h : Inv s) (d : Dev) : Inv (ended s d) := ⟨applyPosts_wf _ h.1, rfl⟩

/-- An event takes place only where it can. -/
theorem onlyIf_eq_next {c : Bool} {d e : Dev} : onlyIf c d = .next e ↔ c = true ∧ e = d := by
  cases c <;> simp [onlyIf, noEvent, eq_comm]

/-- An event that can take place does. -/
@[simp] theorem onlyIf_true (d : Dev) : onlyIf true d = .next d := rfl

/-- A row command that finds its station runs on it with one more free value counted. -/
theorem onStation_at {s : State} {slot st : Nat} {ok : SType → Bool} (h : AtStation s slot st ok) (f : Memory → Dev → DevOut) :
    onStation slot st ok s f = settle s (f s.mem (rowStart s)) := by
  obtain ⟨h1, h2, h3, h4⟩ := h
  have e1 : getJob (fresh s.dev) slot = getJob s.dev slot := rfl
  have e2 : descSt (fresh s.dev) slot st = descSt s.dev slot st := rfl
  unfold onStation runDev
  simp only [e1, e2, h2, h4, Nat.not_le.mpr h1, Nat.not_le.mpr h3, if_false, ne_eq, not_true_eq_false, Bool.not_true, Bool.false_eq_true]
  rfl

/-- A row command of a slot whose job does not run changes nothing. -/
theorem onStation_idle {s : State} {slot st : Nat} {ok : SType → Bool} (h1 : slot < 64) (h2 : (getJob s.dev slot).state ≠ .running)
    (f : Memory → Dev → DevOut) : onStation slot st ok s f = .next (ended s (start s)) := by
  have e1 : getJob (fresh s.dev) slot = getJob s.dev slot := rfl
  unfold onStation runDev
  simp only [e1, h2, Nat.not_le.mpr h1, if_false, ne_eq, not_false_eq_true, if_true]
  rfl

/-- A row command that finds its queue runs on it. -/
theorem onQueue_at {s : State} {slot q : Nat} (h : AtQueue s slot q) (f : Dev → DevOut) : onQueue slot q s f = settle s (f (start s)) := by
  obtain ⟨h1, h2, h3⟩ := h
  have e1 : getJob (fresh s.dev) slot = getJob s.dev slot := rfl
  unfold onQueue runDev
  simp only [e1, h2, Nat.not_le.mpr h1, Nat.not_le.mpr h3, if_false, ne_eq, not_true_eq_false]

/-- A command about a slot below 64 runs on it. -/
theorem onSlot_at {s : State} {slot : Nat} (h : slot < 64) (f : Memory → Dev → DevOut) : onSlot slot s f = settle s (f s.mem (start s)) := by
  unfold onSlot runDev
  simp only [Nat.not_le.mpr h, if_false]

/-- A command about a channel that exists runs on it. -/
theorem onChan_at {s : State} {e c : Nat} (he : e < 96) (hc : c < 64) (f : Memory → Dev → Chan → DevOut) :
    onChan e c s f = settle s (f s.mem (start s) (getChan s.dev e c)) := by
  unfold onChan runDev
  have h : ¬(96 ≤ e ∨ 64 ≤ c) := by omega
  simp only [h, if_false]
  rfl

/-- A command about a channel's instruction, the channel in execution on a running engine, runs on that instruction with one more free value counted. -/
theorem onInstr_at {s : State} {e c : Nat} {i : MInstr} (he : e < 96) (hc : c < 64) (hx : (getChan s.dev e c).state = 1 ∨ (getChan s.dev e c).state = 2)
    (hg : (getEngine s.dev e).stopped = false) (hi : (getChan s.dev e c).arm.prog[(getChan s.dev e c).pc]? = some i)
    (f : Memory → Dev → Chan → MInstr → DevOut) : onInstr e c s f = settle s (f s.mem (rowStart s) (getChan s.dev e c) i) := by
  unfold onInstr
  rw [onChan_at he hc]
  have e1 : getEngine (start s) e = getEngine s.dev e := rfl
  simp only [hx, e1, hg, hi, Bool.not_false, and_self, if_true]
  rfl

/-- A ring command that is due is carried out. -/
theorem serve_due {s : State} {sv : Service} {idx : Nat} {c : Cmd} (h : Due s sv idx c) :
    runDev s (serve sv idx) = .next (ended s (sv.run s.mem (start s) c)) := by
  obtain ⟨h1, h2, h3, h4, _⟩ := h
  apply runDev_next
  have e1 : findCmd (start s) idx = findCmd s.dev idx := rfl
  have e2 : served (start s) = served s.dev := rfl
  have e3 : mustWait (start s) c = mustWait s.dev c := rfl
  unfold serve
  simp [e1, h1, e2, h3, e3, h4, h2]

/-- A service that answers a command in progress as it ends: its response, its completion, what follows. -/
theorem Service.run_ok {sv : Service} {m : Memory} {d e : Dev} {c : Cmd} {resp : Bytes} (h : sv.refuses m d c = none)
    (ha : sv.act m (wakeD0 d sv.opcode) c = (e, some resp)) : sv.run m d c = sv.after (complete e c 0 0 resp (sv.slotOf c resp)) c := by
  unfold Service.run
  rw [h]
  simp only [ha]

/-- A service that turns a command away completes it with the status and does nothing else. -/
theorem Service.run_refused {sv : Service} {m : Memory} {d : Dev} {c : Cmd} {st dt : Nat} (h : sv.refuses m d c = some (st, dt)) :
    sv.run m d c = complete d c st dt [] c.slot := by
  unfold Service.run
  rw [h]

/-- Counting the flits of a write changes ports, nothing else. -/
theorem hostSlots_frame (d : Dev) (n : Nat) : ∃ ps, hostSlots d n = { d with ports := ps } := by
  unfold hostSlots
  split
  · exact ⟨_, rfl⟩
  · exact ⟨d.ports, rfl⟩

/-- A write to host memory posts it and counts flits on a port, nothing else. -/
theorem hostWrite_frame (d : Dev) (a : Nat) (bs : Bytes) : ∃ ps, hostWrite d a bs = { d with ports := ps, posted := d.posted ++ [.write (hostBase + a) bs] } := by
  obtain ⟨ps, h⟩ := hostSlots_frame d bs.length
  exact ⟨ps, by unfold hostWrite; rw [h]; rfl⟩

/-- An event entry is written, held or counted as lost: it changes the window, posts a write and counts flits, nothing else. -/
theorem writeEvent_frame (d : Dev) (e : Bytes) : ∃ w ps po, writeEvent d e = { d with win := w, ports := ps, posted := po } := by
  unfold writeEvent
  dsimp only
  split
  · exact ⟨_, d.ports, d.posted, rfl⟩
  · split
    · split
      · exact ⟨_, d.ports, d.posted, rfl⟩
      · exact ⟨_, d.ports, d.posted, rfl⟩
    · split
      · exact ⟨_, d.ports, d.posted, rfl⟩
      · obtain ⟨ps, h⟩ := hostWrite_frame d (d.win.evt.base + 64 * d.win.evt.tail) (e.set 3 (byteOf (b2n d.win.evt.phase + 2 * b2n d.win.lostFlag)))
        simp only [h]
        exact ⟨_, _, _, rfl⟩

/-- An event changes the window, posts a write and counts flits, nothing else. -/
theorem event_frame (d : Dev) (ty slot : Nat) (data : Bytes) : ∃ w ps po, event d ty slot data = { d with win := w, ports := ps, posted := po } :=
  writeEvent_frame ..

/-- A fault report changes the window, the last fault of its job, posts a write and counts flits, nothing else. -/
theorem reportFault_frame (d : Dev) (f : FaultInfo) : ∃ w ps po js, reportFault d f = { d with win := w, ports := ps, posted := po, jobs := js } := by
  unfold reportFault
  by_cases h : f.slot < 64
  · simp only [h, if_true]
    obtain ⟨w, ps, po, e⟩ := writeEvent_frame (modJob (latchFault d f) f.slot (fun j => { j with lastFault := f.code, lastFaultEvent := faultEntry d f })) (faultEntry d f)
    exact ⟨w, ps, po, _, by rw [e]; rfl⟩
  · simp only [h, if_false]
    obtain ⟨w, ps, po, e⟩ := writeEvent_frame (latchFault d f) (faultEntry d f)
    exact ⟨w, ps, po, d.jobs, by rw [e]; rfl⟩

/-- A fault report leaves every job as it is but for its last fault. -/
theorem reportFault_jobs (d : Dev) (f : FaultInfo) : (reportFault d f).jobs =
    (if f.slot < 64 then modifyAt d.jobs f.slot (fun j => { j with lastFault := f.code, lastFaultEvent := faultEntry d f }) else d.jobs) := by
  unfold reportFault
  obtain ⟨w, ps, po, e⟩ := writeEvent_frame (if f.slot < 64 then
    modJob (latchFault d f) f.slot (fun j => { j with lastFault := f.code, lastFaultEvent := faultEntry d f }) else latchFault d f) (faultEntry d f)
  simp only [e]
  split <;> rfl

/-- A device fault changes the window, posts a write and counts flits, nothing else. -/
theorem deviceFault_frame (d : Dev) (code a b die : Nat) : ∃ w ps po, deviceFault d code a b die = { d with win := w, ports := ps, posted := po } := by
  obtain ⟨w, ps, po, e⟩ := writeEvent_frame (latchFault d { code := code, die := die, detail := a, detail2 := b })
    (faultEntry d { code := code, die := die, detail := a, detail2 := b })
  exact ⟨w, ps, po, by unfold deviceFault reportFault; simp only [show ¬((0xFF : Nat) < 64) by decide, if_false]; rw [e]; rfl⟩

/-- A boot fault changes the latch and the list of boot faults, nothing else. -/
theorem bootFault_frame (d : Dev) (code a b die : Nat) : ∃ w fs, bootFault d code a b die = { d with win := w, root := { d.root with bootFaults := fs } } := ⟨_, _, rfl⟩

/-- A response is written or held: it changes the window, posts a write and counts flits, nothing else. -/
theorem writeResp_frame (d : Dev) (a : Nat) (resp : Bytes) : ∃ w ps po, writeResp d a resp = { d with win := w, ports := ps, posted := po } := by
  unfold writeResp
  split
  · exact ⟨d.win, d.ports, d.posted, rfl⟩
  · split
    · exact ⟨_, d.ports, d.posted, rfl⟩
    · obtain ⟨ps, h⟩ := hostSlots_frame d resp.length
      exact ⟨d.win, ps, _, by rw [h]; rfl⟩

/-- A completion entry is written or held: it changes the window, posts a write and counts flits, nothing else. -/
theorem writeCpl_frame (d : Dev) (e : Bytes) : ∃ w ps po, writeCpl d e = { d with win := w, ports := ps, posted := po } := by
  unfold writeCpl
  dsimp only
  split
  · exact ⟨_, d.ports, d.posted, rfl⟩
  · obtain ⟨ps, h⟩ := hostWrite_frame d (d.win.cpl.base + 32 * d.win.cpl.tail) (e.set 0x17 (byteOf (b2n d.win.cpl.phase)))
    exact ⟨_, ps, _, by rw [h]; rfl⟩

/-- A completion changes the window, the chain's store, posts writes and counts flits, nothing else. -/
theorem complete_frame (d : Dev) (c : Cmd) (st dt : Nat) (resp : Bytes) (slot : Nat) :
    ∃ w ps po ch, complete d c st dt resp slot = { d with win := w, ports := ps, posted := po, chain := ch } := by
  unfold complete
  dsimp only
  split
  · exact ⟨_, d.ports, d.posted, _, rfl⟩
  · obtain ⟨w, ps, po, h⟩ := writeResp_frame (dropCmd d c) c.respAddr resp
    obtain ⟨w', ps', po', h'⟩ := writeCpl_frame { dropCmd d c with win := w, ports := ps, posted := po } (cplEntry c st dt resp.length slot (dropCmd d c).time)
    exact ⟨w', ps', po', d.chain, by rw [h, h']; rfl⟩

/-- The completion of a command by its ring index changes the window, the chain's store, posts writes and counts flits, nothing else. -/
theorem completeIdx_frame (d : Dev) (idx st dt : Nat) (resp : Bytes) :
    ∃ w ps po ch, completeIdx d idx st dt resp = { d with win := w, ports := ps, posted := po, chain := ch } := by
  unfold completeIdx
  split
  · exact complete_frame ..
  · exact ⟨d.win, d.ports, d.posted, d.chain, rfl⟩

/-- A packet sent counts on its link and is sent, nothing else. -/
theorem sendOn_frame (d : Dev) (l : Nat) (p : Packet) : ∃ ls, sendOn d l p = { d with links := ls, sent := d.sent ++ [.packet l p] } := ⟨_, rfl⟩

/-- A coordination message changes links and what is sent, nothing else. -/
theorem sendCoord_frame (d : Dev) (slot code dest : Nat) (payload : Bytes) : ∃ ls os, sendCoord d slot code dest payload = { d with links := ls, sent := os } := by
  unfold sendCoord
  split
  · exact ⟨_, _, rfl⟩
  · exact ⟨d.links, d.sent, rfl⟩

/-- A coordination message to every participant changes links and what is sent, nothing else. -/
theorem sendAll_frame (d : Dev) (slot code : Nat) (payload : Bytes) : ∃ ls os, sendAll d slot code payload = { d with links := ls, sent := os } := by
  unfold sendAll
  have key : ∀ (ps : List (Nat × Nat)) (e : Dev), ∃ ls os,
      ps.foldl (fun d p => sendCoord d slot code p.1 payload) e = { e with links := ls, sent := os } := by
    intro ps
    induction ps with
    | nil => intro e; exact ⟨e.links, e.sent, rfl⟩
    | cons p ps ih =>
      intro e
      obtain ⟨ls, os, h⟩ := sendCoord_frame e slot code p.1 payload
      obtain ⟨ls', os', h'⟩ := ih { e with links := ls, sent := os }
      exact ⟨ls', os', by rw [List.foldl_cons, h, h']⟩
  exact key _ d

/-- A job state's change keeps every other slot's job and every field but the window, ports, posted writes and jobs. -/
theorem setJState_frame (d : Dev) (slot : Nat) (st : JState) (reason : Nat) :
    ∃ w ps po, setJState d slot st reason =
      { d with win := w, ports := ps, posted := po, jobs := (if (getJob d slot).state = st then d.jobs else modifyAt d.jobs slot (fun j => j.enter st)) } := by
  unfold setJState
  dsimp only
  by_cases h : (getJob d slot).state = st
  · simp only [h, if_true]
    exact ⟨d.win, d.ports, d.posted, rfl⟩
  · simp only [h, if_false, stateEvent]
    obtain ⟨w, ps, po, e⟩ := event_frame (modJob d slot (fun j => j.enter st)) 1 slot
      (le 1 (getJob d slot).state.code ++ le 1 st.code ++ le 2 reason ++ le 4 (getJob d slot).openEpoch)
    exact ⟨w, ps, po, by rw [e]; rfl⟩

end Sys2Proof.Machine
end

