-- ==== Sys2Proof/Tests/Slice0.lean ====
section
/-!
SUPPORT. Tests: ill-formed commands are refused, values of the manual's own worked examples, and for every statement a state and operands that meet its
hypotheses, clause by clause.
-/

namespace Sys2Proof.Tests

open Sys2Proof Sys2Proof.Machine

set_option Elab.async false

/-! ### Well-formed commands -/

/-- A packet with every field in range. -/
def pkt : PktArg :=
  { pflags := 0, dest := 1, src := 2, hops := 0, engine := 0, jobTag := 7, tag := 0, addr := 0, aux := 0, data := [] }

theorem test_wf_slot : wfInstr (.resume 63) = true ∧ wfInstr (.resume 64) = false := by decide
theorem test_wf_ring_index : wfInstr (.identify 65535) = true ∧ wfInstr (.identify 65536) = false := by decide
theorem test_wf_station : wfInstr (.emitTile 0 65535) = true ∧ wfInstr (.emitTile 0 65536) = false := by decide
theorem test_wf_port : wfInstr (.tileConsume 0 0 255) = true ∧ wfInstr (.tileConsume 0 0 256) = false := by decide
theorem test_wf_engine : wfInstr (.moverClear 95) = true ∧ wfInstr (.moverClear 96) = false := by decide
theorem test_wf_channel : wfInstr (.move 0 63) = true ∧ wfInstr (.move 0 64) = false := by decide
theorem test_wf_link : wfInstr (.wake ⟨true, 47⟩) = true ∧ wfInstr (.wake ⟨true, 48⟩) = false ∧ wfInstr (.wake ⟨false, 2⟩) = false := by decide
theorem test_wf_die : wfInstr (.thermalTrip 99) = true ∧ wfInstr (.thermalTrip 100) = false := by decide
theorem test_wf_emtor_port : wfInstr (.memReadTimeout 1 0) = true ∧ wfInstr (.memReadTimeout 2 0) = false := by decide
theorem test_wf_register : wfInstr (.regWrite 0x10 8 0) = true ∧ wfInstr (.regWrite 0x10 3 0) = false ∧ wfInstr (.regWrite 0x10 4 (2 ^ 64)) = false := by decide
theorem test_wf_offset : wfInstr (.regReadLowWord 0xFF8 8) = true ∧ wfInstr (.regReadLowWord 0x1000 4) = false ∧ wfInstr (.regReadLowWord 0 16) = false := by decide
theorem test_wf_notify_ring : wfInstr (.notify 1) = true ∧ wfInstr (.notify 2) = false := by decide
theorem test_wf_kernel_word :
    wfInstr (.kAdd ⟨0, 0⟩ { ty := 8, d := 1, a := 2, b := 3, c := 0, imm := 65535 }) = true ∧
    wfInstr (.kAdd ⟨0, 0⟩ { ty := 8, d := 256, a := 2, b := 3, c := 0, imm := 0 }) = false ∧
    wfInstr (.kAdd ⟨0, 0⟩ { ty := 8, d := 1, a := 2, b := 3, c := 0, imm := 65536 }) = false ∧
    wfInstr (.kAdd ⟨64, 0⟩ { ty := 8, d := 1, a := 2, b := 3, c := 0, imm := 0 }) = false := by decide
theorem test_wf_packet : wfInstr (.writeAck 0 pkt) = true ∧ wfInstr (.writeAck 48 pkt) = false ∧ wfInstr (.writeAck 0 { pkt with dest := 0x4000 }) = false ∧
    wfInstr (.flush 0 { pkt with jobTag := 2 ^ 32 }) = false := by decide
theorem test_wf_packet_type : wfInstr (.packetForward 0 255 pkt) = true ∧ wfInstr (.packetForward 0 256 pkt) = false := by decide
theorem test_wf_path : wfInstr (.readBackReturn 0 0 (.hbm 23) true) = true ∧ wfInstr (.readBackReturn 0 0 (.hbm 24) true) = false ∧
    wfInstr (.readBackReturn 0 0 (.ring 3) true) = false ∧ wfInstr (.readBackReturn 0 0 (.emtor 2) true) = false := by decide
theorem test_wf_bus_error : wfInstr (.moverBusError 0 5 0) = true ∧ wfInstr (.moverBusError 0 6 0) = false ∧ wfInstr (.moverBusError 0 0 0) = false := by decide
theorem test_wf_link_reason : wfInstr (.hedgeLinkDown 0 5) = true ∧ wfInstr (.hedgeLinkDown 0 6) = false := by decide
theorem test_wf_cause : wfInstr (.prepare 0 0 0 2) = true ∧ wfInstr (.prepare 0 0 0 3) = false ∧ wfInstr (.prepare 0 0 (2 ^ 32) 0) = false := by decide
theorem test_wf_cells : wfInstr (.matchSearch 0 0 [{ ord := 0, unit := 0, part := 0, flip := 1 }] []) = true ∧ wfInstr (.matchSearch 0 0 [{ ord := 0, unit := 0, part := 5, flip := 1 }] []) = false := by decide
theorem test_wf_frame : wfInstr (.trainingFrame ⟨false, 0⟩ (List.replicate 32 0)) = true ∧ wfInstr (.trainingFrame ⟨false, 0⟩ []) = false := by decide
theorem test_wf_flit : wfInstr (.flitReceive ⟨false, 0⟩ [[[1023]]]) = true ∧ wfInstr (.flitReceive ⟨false, 0⟩ [[[1024]]]) = false := by decide
theorem test_wf_control : wfInstr (.controlFlit ⟨false, 0⟩ (List.replicate 31 (1, 0, 1))) = false := by decide
theorem test_wf_desc : wfInstr (.arm 0 0 (List.replicate 64 0) [] none) = true ∧ wfInstr (.arm 0 0 [] [] none) = false := by decide
theorem test_wf_address : wfInstr (.heartbeat 0x3FFF) = true ∧ wfInstr (.heartbeat 0x4000) = false ∧ wfInstr (.stop 0 0x4000 0) = false := by decide
theorem test_wf_code : wfInstr (.stop 0 0 65536) = false ∧ wfInstr (.patrol (2 ^ 64) 255 false false) = false ∧ wfInstr (.powerOn (2 ^ 32) 0) = false := by decide
theorem test_wf_record : wfInstr (.linkState 0 { digest := [], addr := some 0x4000 }) = false ∧
    wfInstr (.discovery 0 1 [{ digest := [], links := [{ link := 48, peer := [], verified := true, admitted := true }] }]) = false := by decide

/-! ### The step, the queue, memory -/

/-- StepRunsFront, StepIdles: a queue with a command in front, and an empty one. -/
theorem test_step_front : step { State.reset with pending := [.timeSyncTick] } = .next { State.reset with pending := [], dev := fresh State.reset.dev } := rfl
theorem test_step_idle : State.reset.pending = [] ∧ step State.reset = .next { State.reset with dev := { State.reset.dev with time := 1000 } } := ⟨rfl, rfl⟩

/-- StepKeepsInvariant, ExecKeepsQueue: the reset state meets the invariant and its steps answer next states. -/
theorem test_inv_step : (Memory.wf State.reset.mem = true ∧ State.reset.dev.posted = []) ∧ (∃ t, step State.reset = .next t) ∧
    ∃ t, exec (.powerOn 0 0) { State.reset with dev := { State.reset.dev with root := { State.reset.dev.root with strapsLatched := false } } } = .next t :=
  ⟨⟨rfl, rfl⟩, ⟨_, rfl⟩, ⟨_, rfl⟩⟩

/-- MemoryReadAfterWrite: a memory in canonical form, and what a write of a zero and of a byte leaves of it. -/
theorem test_memory : Memory.wf [(4, 1), (9, 2)] = true ∧ memWrite [(4, 1), (9, 2)] 3 [7, 0, 5] = [(3, 7), (5, 5), (9, 2)] ∧
    memRead [(3, 7), (5, 5), (9, 2)] 3 3 = [7, 0, 5] ∧ memLose [(3, 7), (5, 5), (9, 2)] 5 9 = [(3, 7), (9, 2)] := by decide

/-! ### The register window and the rings -/

/-- A ring that is enabled, with 16 entries. -/
def ringOn : Ring := { base := 0x10000, size := 4, enabled := true }

/-- A window with its rings enabled. -/
def winOn : Window := { cmd := ringOn, cpl := ringOn, evt := { ringOn with size := 6 } }

/-- A device in D0 with port 0 up and its rings enabled. -/
def devOn : Dev :=
  { win := winOn, power := { state := .d0 }, ports := [{ up := true, step := 0 }, {}], root := { bootStep := 0 }, jobs := [{}, {}] }

/-- The same as a state. -/
def on : State := { dev := devOn }

/-- The same with another window. -/
def onWin (w : Window) : State := { dev := { devOn with win := w } }

/-- WideRegisters: the window reached, the three BASE registers, the bounds of the unlisted offsets, enabled and disabled rings. -/
theorem test_wide : windowUp on.dev = true ∧ windowUp (onWin {}).dev = true ∧
    (∀ x ∈ [(0, 0x010), (1, 0x028), (2, 0x040)], x ∈ [(0, 0x010), (1, 0x028), (2, 0x040)]) ∧ (0x078 % 4 = 0 ∧ 0x078 < 0x1000) ∧ (0xFFC % 4 = 0 ∧ 0xFFC < 0x1000) := by decide

/-- A ring is valid at the bounds of size and base, and not beyond them. -/
def validRing (n : Nat) (lohi : Nat × Nat) (r : Ring) : Bool :=
  decide (r.base ≠ 0 ∧ r.base + (if n = 0 then 256 else if n = 1 then 32 else 64) * 2 ^ r.size ≤ 2 ^ 57 ∧ lohi.1 ≤ r.size ∧ r.size ≤ lohi.2)

/-- RingEnable: rings disabled and valid at both bounds, disabled and invalid just beyond them, enabled; nothing held. -/
theorem test_ring_enable : windowUp (onWin {}).dev = true ∧
    validRing 0 (4, 12) { base := 2 ^ 57 - 256 * 2 ^ 12, size := 12 } = true ∧ validRing 1 (4, 14) { base := 4096, size := 4 } = true ∧
    validRing 2 (6, 16) { base := 4096, size := 16 } = true ∧ validRing 0 (4, 12) { base := 4096, size := 13 } = false ∧
    validRing 1 (4, 14) { base := 4096, size := 3 } = false ∧ validRing 2 (6, 16) { base := 2 ^ 57 - 64 * 2 ^ 6 + 1, size := 6 } = false ∧
    validRing 0 (4, 12) { base := 0, size := 4 } = false ∧ (winOn.ring 2).enabled = true ∧ winOn.held = [] ∧ on.dev.root.bootFaults = [] := by decide

/-- DoorbellsAndDisable: the highest index inside a ring and the first outside it; rings with and without a write not yet read back. -/
theorem test_doorbells : windowUp on.dev = true ∧ on.dev.win.cmd.enabled = true ∧ on.dev.win.cpl.enabled = true ∧ on.dev.win.evt.enabled = true ∧
    (15 % 65536 < 2 ^ ringOn.size ∧ ¬ 16 % 65536 < 2 ^ ringOn.size) ∧ (∀ n < 3, (on.dev.win.ring n).enabled = true) ∧
    ({ ringOn with unread := true } : Ring).unread = true ∧ ringOn.unread = false := by decide

/-- FullResetWrite: the key, the key without the bit, another key. -/
theorem test_full_reset_write : windowUp on.dev = true ∧ ((0xA5C30001 / 65536) % 65536 = 0xA5C3 ∧ (0xA5C30001 : Nat).testBit 0 = true) ∧
    (0xA5C30000 : Nat).testBit 0 = false ∧ (0xA5C40001 / 65536) % 65536 ≠ 0xA5C3 := by decide

/-- FaultLatch: clear, valid, valid with LATER saturated; and the window reached. -/
theorem test_fault_latch : ({} : Window).latchValid = false ∧ ({ latchValid := true, latchLater := 65535 } : Window).latchValid = true ∧ windowUp on.dev = true := by decide

/-- EventRingFull: an event ring with room and a full one. -/
theorem test_event_ring : on.dev.win.evt.live = true ∧ (hostPort on.dev).isSome = true ∧ on.dev.win.evt.full = false ∧
    ({ ringOn with size := 6, tail := 63 } : Ring).full = true ∧ ({ ringOn with size := 6, tail := 63 } : Ring).live = true := by decide

/-- A window with a slot waiting. -/
def winSlot : Window := { winOn with cmd := { ringOn with tail := 1 } }

/-- CommandFetch: one slot waits and host memory answers, or fails; 32 are in progress; the completion ring has no room. -/
theorem test_fetch : served (onWin winSlot).dev = true ∧ (hostPort (onWin winSlot).dev).isSome = true ∧ winSlot.cmd.live = true ∧ winSlot.cpl.live = true ∧
    winSlot.cmd.head ≠ winSlot.cmd.tail ∧ (ringCmds winSlot).length < 32 ∧ (ringCmds winSlot).length < winSlot.cpl.room ∧
    hostOk (onWin winSlot).dev 0x10000 256 = true ∧ hostOk { (onWin winSlot).dev with hostGaps := [(0x100FF, 0x10100)] } 0x10000 256 = false ∧
    32 ≤ (ringCmds { winSlot with inProg := List.replicate 32 {} }).length ∧
    ({ winSlot with cpl := { ringOn with tail := 15 } } : Window).cpl.room ≤ (ringCmds winSlot).length := by decide

/-- NotifyRate: entries to announce 2,000 ns and 1,999 ns after the last notify, and none to announce. -/
theorem test_notify : hostPort on.dev = some 0 ∧ ({ ringOn with announce := true, notified := some 500 } : Ring).announce = true ∧ 500 + 2000 ≤ 2500 ∧ 2499 < 500 + 2000 ∧
    (winOn.ring 1).announce = false := by decide

/-- The device timestamp is no register of the window, and what is not listed reads zero; RESET_STATUS of a device never reset. -/
theorem test_reset_regs : readReg32 State.reset.dev 0x000 = 0x59440201 ∧ readReg32 State.reset.dev 0x004 = 2 ∧ readReg32 State.reset.dev 0x058 = 0 := by decide

/-! ### Mailbox commands -/

/-- A state in which a command is in progress on a device in D0 with a job in slot 0. -/
def mb (j : Job) (c : Cmd) : State := { dev := { devOn with jobs := [j, {}], win := { winOn with inProg := [c] } } }

/-- A device command. -/
def dc (op resp : Nat) (body : Bytes) : Cmd := { opcode := op, respBytes := resp, body := body }

/-- A command of slot 0. -/
def jc (op resp : Nat) (body : Bytes) : Cmd := { opcode := op, slot := 0, respBytes := resp, body := body }

/-- A job of one participant in a state. -/
def jobIn (st : JState) : Job := { state := st, participants := [0], anchor := 0 }

/-- A service is due in a state, decided. -/
def dueB (s : State) (sv : Service) (c : Cmd) : Bool :=
  (findCmd s.dev c.index == some c) && (c.opcode == sv.opcode) && served s.dev && !mustWait s.dev c && (sv.refuses s.mem (fresh s.dev) c).isNone

/-- What was decided holds. -/
theorem due_of (s : State) (sv : Service) (c : Cmd) (h : dueB s sv c = true) : Due s sv c.index c := by
  simp only [dueB, Bool.and_eq_true, beq_iff_eq, Bool.not_eq_true', Option.isNone_iff_eq_none] at h
  exact ⟨h.1.1.1.1, h.1.1.1.2, h.1.1.2, h.1.2, h.2⟩

/-- MailboxRows: IDENTIFY, ATTEST, POWER_QUERY, CLOCK_SET, POWER_CAP, MONITOR_READ, MONITOR_ALARM_SET, HEDGE_ADDRESS, HEDGE_ROUTE_SET, HEDGE_STATUS, DIAG_RUN and
RESET_DEVICE are due on a device with no job. -/
theorem test_due_device : dueB (mb {} (dc 1 256 [])) identify (dc 1 256 []) = true ∧ dueB (mb {} (dc 2 8192 [])) attest (dc 2 8192 []) = true ∧
    dueB (mb {} (dc 0x40 0 [3])) powerSet (dc 0x40 0 [3]) = true ∧ dueB (mb {} (dc 0x41 64 [])) powerQuery (dc 0x41 64 []) = true ∧
    dueB (mb {} (dc 0x42 0 [2])) clockSet (dc 0x42 0 [2]) = true ∧ dueB (mb {} (dc 0x43 0 [0x58, 2])) powerCap (dc 0x43 0 [0x58, 2]) = true ∧
    dueB (mb {} (dc 0x50 16 [0, 0, 1])) monitorRead (dc 0x50 16 [0, 0, 1]) = true ∧ dueB (mb {} (dc 0x51 0 [])) alarmSet (dc 0x51 0 []) = true ∧
    dueB (mb {} (dc 0x61 0 [0xFF, 0x3F])) hedgeAddress (dc 0x61 0 [0xFF, 0x3F]) = true ∧ dueB (mb {} (dc 0x62 0 [0, 0, 1, 0, 47])) routeSet (dc 0x62 0 [0, 0, 1, 0, 47]) = true ∧
    dueB (mb {} (dc 0x63 2304 [])) hedgeStatus (dc 0x63 2304 []) = true ∧ dueB (mb {} (dc 0x90 16 [])) diagRun (dc 0x90 16 []) = true ∧
    dueB (mb {} (dc 0xF0 0 [0xC3, 0xA5])) resetDevice (dc 0xF0 0 [0xC3, 0xA5]) = true := by decide +kernel

/-- MailboxRows: HEDGE_DISCOVER on the root, PEER_APPROVE of the digest presented. -/
theorem test_due_hedge :
    dueB { mb {} (dc 0x60 8 []) with dev := { (mb {} (dc 0x60 8 [])).dev with root := { straps := 0x10, bootStep := 0 } } } hedgeDiscover (dc 0x60 8 []) = true ∧
    dueB { mb {} (dc 0x64 0 []) with dev := { (mb {} (dc 0x64 0 [])).dev with links := [{ up := true, peer := { verified := true, digest := zeros 32 } }] } } peerApprove (dc 0x64 0 []) = true := by
  decide +kernel

/-- MailboxRows: the commands of a job that need no station. -/
theorem test_due_job : dueB (mb (jobIn .loaded) (jc 0x11 8 [])) jobStart (jc 0x11 8 []) = true ∧ dueB (mb (jobIn .running) (jc 0x13 0 [])) jobAbort (jc 0x13 0 []) = true ∧
    dueB (mb (jobIn .held) (jc 0x14 128 [])) jobQuery (jc 0x14 128 []) = true ∧ dueB (mb (jobIn .running) (jc 0x16 8 [1])) epochRollback (jc 0x16 8 [1]) = true ∧
    dueB (mb (jobIn .finished) (jc 0x18 0 [1])) jobUnload (jc 0x18 0 [1]) = true ∧ dueB (mb (jobIn .stopped) (jc 0x19 16 [1])) placementQuery (jc 0x19 16 [1]) = true ∧
    dueB (mb (jobIn .running) (jc 0x15 16 [])) epochCommit (jc 0x15 16 []) = true ∧ ((getJob (mb (jobIn .running) {}).dev 0).commit.map (fun x => x.step)) ≠ some 6 := by
  decide +kernel

/-- An image with an intake station that feeds port 0 of an align station, a match station of table 0, one region. -/
def imgFeed : Image :=
  { intakeLogBytes := 0x100000, regions := [{ id := 0, kind := 1, access := 3 }],
    stations := [{ index := 0, typeCode := 1, outPorts := 1, paramBytes := 16 }, { index := 1, typeCode := 4, inPorts := 2, outPorts := 1, paramOffset := 16, paramBytes := 32 },
      { index := 2, typeCode := 5, inPorts := 1, outPorts := 1, paramOffset := 48, paramBytes := 32 }],
    params := [2, 2, 0, 0, 0, 0, 0, 0, 1, 0, 0, 0, 0, 0, 0, 0] ++ zeros 32 ++ [1] ++ zeros 31 }

/-- A job with that image, its region bound, and a feed open. -/
def jobFeed (st : JState) : Job :=
  { jobIn st with
    image := imgFeed, regions := [{ id := 0, whereCode := 1, addr := 0, bytes := 4096, extents := [(0, 4096)] }],
    rt := { stations := [{ ins := [], kind := .intake {} }, { ins := [{}, {}] }, { ins := [{}] }] } }

/-- The feed. -/
def feed1 : Feed := { id := 1, slot := 0, station := 0, align := 1, port := 0, number := 0, mode := 0 }

/-- MailboxRows: feeds, regions, match tables, pins and rebinding. -/
theorem test_due_objects : dueB (mb (jobFeed .loaded) (jc 0x20 8 [1, 0, 0, 0, 0])) feedOpen (jc 0x20 8 [1, 0, 0, 0, 0]) = true ∧
    dueB { mb (jobFeed .running) (jc 0x21 0 [1]) with dev := { (mb (jobFeed .running) (jc 0x21 0 [1])).dev with feeds := [feed1] } } feedClose (jc 0x21 0 [1]) = true ∧
    dueB { mb (jobFeed .running) (jc 0x22 0 [1]) with dev := { (mb (jobFeed .running) (jc 0x22 0 [1])).dev with feeds := [feed1] } } feedWatermark (jc 0x22 0 [1]) = true ∧
    dueB (mb { jobFeed .loaded with regions := [] } (jc 0x30 8 (zeros 16 ++ [64]))) regionMap (jc 0x30 8 (zeros 16 ++ [64])) = true ∧
    dueB (mb (jobFeed .loaded) (jc 0x31 0 [])) regionUnmap (jc 0x31 0 []) = true ∧ dueB (mb (jobFeed .stopped) (jc 0x80 0 [])) matchTableLoad (jc 0x80 0 []) = true ∧
    dueB (mb (jobFeed .loaded) (jc 0x81 0 [])) matchTableUpdate (jc 0x81 0 []) = true ∧ dueB (mb (jobFeed .loaded) (jc 0x1A 0 [2])) stationPin (jc 0x1A 0 [2]) = true ∧
    dueB (mb (jobIn .running) { jc 0x17 32 [0, 7, 0, 0, 1] with slot := 0xFF }) (jobRebind 0 0 0 0) { jc 0x17 32 [0, 7, 0, 0, 1] with slot := 0xFF } = true ∧
    committing (mb (jobIn .running) {}).dev 0xFF = false ∧ committing (mb (jobIn .running) {}).dev 0 = false ∧
    rebindReady (fresh (mb (jobIn .running) {}).dev) { jc 0x17 32 [0, 7, 0, 0, 1] with slot := 0xFF } = true := by decide +kernel

/-- MailboxRows: STATION_PIN on a RUNNING job whose station is settled at a tile boundary. -/
theorem test_due_pin : dueB (mb { jobFeed .running with placed := [{ station := 2, inst := 0, res := ⟨2, 76, 0⟩, reason := 0, counter := 0xFFFF, time := 0, index := 0 }] } (jc 0x1A 0 [2]))
      stationPin (jc 0x1A 0 [2]) = true ∧ stationSettled (mb (jobFeed .running) {}).dev 0 2 = true := by decide +kernel

/-- A job image of an intake station, an emit station and the queue between them, without its check. -/
def imgBare : Bytes :=
  le 4 0x494A5948 ++ le 2 2 ++ le 2 0 ++ le 4 480 ++ le 4 7 ++ zeros 40 ++ le 2 2 ++ le 2 0 ++ le 4 1 ++ le 4 2 ++ le 4 0 ++ le 4 256 ++ le 4 320 ++ le 4 384 ++ zeros 16 ++
  le 4 448 ++ le 4 32 ++ zeros 140 ++ zeros 8 ++
  (le 2 0 ++ [1, 0] ++ zeros 6 ++ [0, 1] ++ le 4 0 ++ le 4 16 ++ zeros 12) ++ (le 2 1 ++ [14, 0] ++ zeros 6 ++ [1, 0] ++ le 4 16 ++ le 4 16 ++ zeros 12) ++
  (le 4 0 ++ le 2 0 ++ [0, 1] ++ le 2 1 ++ zeros 14 ++ le 2 2 ++ [1, 0] ++ zeros 20) ++ zeros 16 ++
  (le 2 0 ++ [1, 1] ++ zeros 28) ++ (le 2 1 ++ [2, 3] ++ zeros 28) ++ ([1, 0, 0, 0, 0, 0, 0xFF, 0xFF] ++ zeros 8) ++ ([1, 0, 1, 0] ++ zeros 12)

/-- The image with its check. -/
def imgFull : Bytes := imgBare.take 0xF8 ++ le 8 (crc64 imgBare) ++ imgBare.drop 0x100

/-- JOB_LOAD of that image. -/
def loadCmd : Cmd := { opcode := 0x10, dataAddr := 0x40000, dataBytes := 480, respBytes := 16, body := le 2 0xFFFF ++ le 2 1 }

/-- MailboxRows: FW_ACTIVATE of a staged image that meets R434's checks (the signature check is the outside world's), and FW_STAGE where its checks pass. -/
theorem test_due_activate (i : FwImage) (h : i.failing 0 = none) (d : Dev)
    (e : d = { (mb {} (dc 0x71 0 [])).dev with root := { bootStep := 0, cache := [{ staged := some i }, {}, {}] } }) : Due { dev := d } fwActivate 0 (dc 0x71 0 []) := by
  subst e
  refine ⟨rfl, rfl, rfl, rfl, ?_⟩
  have hc : cmdKind 0x71 = some { inD2 := true, body := [(0, 1)] } := rfl
  unfold Service.refuses
  simp only [fwActivate, hc]
  have h1 : cmdCheck (start { dev := { (mb {} (dc 0x71 0 [])).dev with root := { bootStep := 0, cache := [{ staged := some i }, {}, {}] } } }) (dc 0x71 0 [])
    { inD2 := true, body := [(0, 1)] } = none := rfl
  rw [h1]
  have h2 : liveJob (start { dev := { (mb {} (dc 0x71 0 [])).dev with root := { bootStep := 0, cache := [{ staged := some i }, {}, {}] } } }) = none := rfl
  have h3 : (bootBanks (start { dev := { (mb {} (dc 0x71 0 [])).dev with root := { bootStep := 0, cache := [{ staged := some i }, {}, {}] } } }).root 0).staged = some i := by
    unfold bootBanks
    exact congrArg Banks.staged (if_neg (show ¬ usesFlash { bootStep := 0 } = true by decide))
  have h4 : u8at (dc 0x71 0 []).body 0 = 0 := rfl
  have h5 : (start { dev := { (mb {} (dc 0x71 0 [])).dev with root := { bootStep := 0, cache := [{ staged := some i }, {}, {}] } } }).root.minSvn.getD 0 0 = 0 := rfl
  simp only [fwActivateCheck, h2, h3, h4, h5, h]
  rfl

/-- FW_STAGE where its checks pass. -/
theorem test_due_stage (m : Memory) (c : Cmd) (hc : c = { dc 0x70 0 [] with dataAddr := 0x40000, dataBytes := 5376 }) (h : fwStageCheck m (fresh (mb {} c).dev) c = none) :
    Due { mb {} c with mem := m } fwStageCmd 0 c := by
  subst hc
  refine ⟨rfl, rfl, rfl, rfl, h⟩

/-- ReservedCode: a reserved code in progress. -/
theorem test_reserved : findCmd (mb {} (dc 0x12 0 [])).dev 0 = some (dc 0x12 0 []) ∧ cmdKind 0x12 = none ∧ served (mb {} (dc 0x12 0 [])).dev = true ∧
    (hostPort (mb {} (dc 0x12 0 [])).dev).isSome = true := by decide

/-- RefusedCommand: CLOCK_SET to a reserved step; a command behind an earlier one of its slot; JOB_QUERY. -/
theorem test_refused : clockSet.refuses [] (fresh (mb {} (dc 0x42 0 [3])).dev) (dc 0x42 0 [3]) = some (2, 2 ^ 59) ∧ mustWait (mb {} (dc 0x42 0 [3])).dev (dc 0x42 0 [3]) = false ∧
    (findCmd { devOn with win := { winOn with inProg := [jc 0x13 0 [], { jc 0x18 0 [] with index := 1 }] } } 1 = some { jc 0x18 0 [] with index := 1 } ∧
     earlierOnSlot { winOn with inProg := [jc 0x13 0 [], { jc 0x18 0 [] with index := 1 }] } { jc 0x18 0 [] with index := 1 } = true) := by decide +kernel

/-- CompletionEntry: a ring command on a completion ring with room. -/
theorem test_completion : (dc 1 256 []).chain = false ∧ (hostPort devOn).isSome = true ∧ devOn.win.cpl.live = true ∧ devOn.win.cpl.full = false ∧ (dc 1 256 []).cmdId < 2 ^ 32 ∧
    (complete devOn (dc 1 256 []) 0 0 [] 0xFF).win.cpl.tail = 1 := by decide +kernel

/-- ResetAndApproveRules: a verified link whose digest is another; RESET_DEVICE with another key. -/
theorem test_wrong_digest : (({ up := true, peer := { verified := true, digest := [1] } } : Link).isVerified = true) ∧ ([1] : Bytes) ≠ slice (zeros 40) 8 32 ∧
    u32at [0xC4, 0xA5] 0 ≠ 0x0000A5C3 := by decide

/-- PowerAndJobCommands: a live job in slot 1 and POWER_SET to D2. -/
theorem test_power_set_live : 2 ≤ u8at [2] 0 ∧ (getJob { devOn with jobs := [{}, jobIn .suspended] } 1).state.live = true := by decide

set_option maxRecDepth 100000 in
/-- MailboxRows: JOB_LOAD of a valid image from host memory is due. -/
theorem test_due_load : dueB { mb {} loadCmd with mem := memWrite [] (hostBase + 0x40000) imgFull } jobLoad loadCmd = true := by decide +kernel

/-! ### Tiles and queues -/

/-- A station descriptor. -/
def stD (code i ins outs po pl : Nat) : StationD := { index := i, typeCode := code, inPorts := ins, outPorts := outs, paramOffset := po, paramBytes := pl }

/-- A running job with an image and a runtime. -/
def runJob (im : Image) (rt : Runtime) : Job := { jobIn .running with image := im, rt := rt }

/-- A state with a job in slot 0. -/
def rs (j : Job) : State := { dev := { devOn with jobs := [j, {}] } }

/-- Two stations, a queue from the first to the second and one beside it. -/
def img2 (a b : Nat) : Image :=
  { jobTag := 7, spillBudget := 0x100000, stations := [stD a 0 0 2 0 16, stD b 1 1 1 16 32], params := zeros 48,
    queues := [{ number := 0, producer := 0, consumer := [(1, 0, 0)], depth := 2, format := 1 }, { number := 1, producer := 0, producerPort := 1, consumer := [(1, 1, 0)], format := 1 }] }

/-- A tile of BYTES of that job with a sequence number. -/
def tileAt (n : Nat) : Tile := ({ format := 1, jobTag := 7, jobSlot := 0, seq := n, payloadBytes := 4096, payload := zeros 4096 } : Tile).sealed

/-- A sealed tile carries its seal. -/
theorem seal_ok (t : Tile) : ¬ t.sealed.computeSeal ≠ t.sealed.crc := fun h => h rfl

/-- The runtime of that job with tiles in the first queue. -/
def rt2 (k : KindSt) (q : QRun) : Runtime := { queues := [q, {}], stations := [{}, { ins := [{}], outs := [{}], kind := k }] }

/-- QueueRows: an emit station that can take a tile that passes every check. -/
theorem test_consume : AtStation (rs (runJob (img2 1 14) (rt2 (.emit {}) { tiles := [tileAt 0], taken := [0], rows := [0] }))) 0 1 (fun _ => true) ∧
    inQueueNo (img2 1 14 |> fun im => runJob im (rt2 (.emit {}) { tiles := [tileAt 0], taken := [0], rows := [0] })) 1 0 = some (0, 0) ∧
    ([tileAt 0].find? (fun x => x.seq == 0)) = some (tileAt 0) ∧
    takesTile (rs (runJob (img2 1 14) (rt2 (.emit {}) { tiles := [tileAt 0], taken := [0], rows := [0] }))).dev 0 1 0 = true ∧
    checkTile { jobTag := 7, jobSlot := 0, queue := 0, seq := 0, firstRow := 0, format := 1, columns := 0, types := [] } (tileAt 0) = none ∧
    expectOf (runJob (img2 1 14) (rt2 (.emit {}) { tiles := [tileAt 0], taken := [0], rows := [0] })) 0 0 0 { tiles := [tileAt 0], taken := [0], rows := [0] } =
      { jobTag := 7, jobSlot := 0, queue := 0, seq := 0, firstRow := 0, format := 1, columns := 0, types := [] } := by
  refine ⟨⟨by decide, rfl, by decide, rfl⟩, rfl, rfl, rfl, ?_, rfl⟩
  unfold checkTile tileAt
  rw [if_neg (seal_ok _)]
  decide +kernel

/-- The first queue of that job with a tile in it. -/
def oneTile : QRun := { tiles := [tileAt 0], taken := [0], rows := [0] }

/-- A select station and a kernel that can take a tile. -/
def sSelect : State := rs (runJob (img2 1 8) (rt2 (.select {}) oneTile))
def sKernelPort : State := rs (runJob { img2 1 7 with params := zeros 16 ++ [0, 0, 0, 0, 1, 0, 0, 0, 1] ++ zeros 39 } (rt2 (.kernel {}) oneTile))

/-- QueueRows: a select station whose own check of the column types passes, and a kernel whose driving port takes the tile. -/
theorem test_consume_select_kernel :
    ((descSt sSelect.dev 0 1).stype = .select ∧ takesTile sSelect.dev 0 1 0 = true ∧ selTypes (selP (paramSt sSelect.dev 0 1)) [] (tileAt 0) = none) ∧
    (descSt sKernelPort.dev 0 1).stype = .kernel ∧ takesTile sKernelPort.dev 0 1 0 = true ∧
    ∃ y, kernelPortCheck (paramSt sKernelPort.dev 0 1) 0 {} (getIn (tileTaken (rowStart sKernelPort) 0 1 0 0 0 (tileAt 0)) 0 1 0) (tileAt 0) = .ok y := by
  refine ⟨⟨rfl, by decide +kernel, by decide +kernel⟩, rfl, by decide +kernel, ?_⟩
  exact ⟨_, rfl⟩

/-- TileChecked: the same tile where SEQ 1 is expected fails the check of SEQ. -/
theorem test_check_seq : checkTile { jobTag := 7, jobSlot := 0, queue := 0, seq := 1, firstRow := 0, format := 1, columns := 0, types := [] } (tileAt 0) = some 0x0106 := by
  unfold checkTile tileAt
  rw [if_neg (seal_ok _)]
  decide +kernel

/-- QueueRows: a finished tile whose credit returns; the queue's valve closed. -/
theorem test_credit :
    let s := rs (runJob (img2 1 14) { queues := [{ taken := [1], rows := [0], returned := [0] }, {}], stations := [{}, { ins := [{ finished := 1 }] }] })
    AtStation s 0 1 (fun _ => true) ∧ inQueueNo (getJob s.dev 0) 1 0 = some (0, 0) ∧ 0 < (getIn s.dev 0 1 0).finished ∧ (getQ s.dev 0 0).valve = false :=
  ⟨⟨by decide, rfl, by decide, rfl⟩, rfl, by decide, rfl⟩

/-- QueueRows: a consumer that holds no slot of its queue. -/
theorem test_no_credit :
    let s := rs (runJob (img2 1 14) { queues := [{ taken := [1], rows := [0], returned := [1] }, {}], stations := [{}, { ins := [{}] }] })
    AtStation s 0 1 (fun _ => true) ∧ inQueueNo (getJob s.dev 0) 1 0 = some (0, 0) ∧ (getIn s.dev 0 1 0).finished = 0 ∧
    (getQ s.dev 0 0).taken.getD 0 0 ≤ (getQ s.dev 0 0).returned.getD 0 0 :=
  ⟨⟨by decide, rfl, by decide, rfl⟩, rfl, rfl, by decide⟩

/-- QueueRows: a spilled tile and a free slot. -/
theorem test_refill :
    let s := rs (runJob (img2 1 14) (rt2 .plain { spilled := [tileAt 0], valve := true }))
    AtQueue s 0 0 ∧ (getQ s.dev 0 0).spilled = tileAt 0 :: [] ∧ queueFull (getJob s.dev 0) 0 (getQ s.dev 0 0) = false ∧ (tileAt 0).computeSeal = (tileAt 0).crc :=
  ⟨⟨by decide, rfl, by decide⟩, rfl, rfl, by unfold tileAt; exact Decidable.not_not.mp (seal_ok _)⟩

/-- A job whose first queue is in a wait cycle that ten samples saw without progress. -/
def stuckJob : Job :=
  { runJob (img2 1 14) (rt2 .plain { tiles := [tileAt 0, tileAt 1], held := [tileAt 2], stuck := 10 }) with
    participants := [0, 1], farEdges := [(1, [(0, 0, true), (1, 1, false)])] }

/-- QueueRows: the lowest queue of a cycle, ten samples without progress; wait edges reported to the anchor by another participant. -/
theorem test_valve : AtQueue (rs stuckJob) 0 0 ∧ (getQ (rs stuckJob).dev 0 0).valve = false ∧
    waitEdges (rs stuckJob).dev 0 = [(0, 0, true), (1, 1, false)] ∧ ((cycleEdges stuckJob [(0, 0, true), (1, 1, false)] 0).filter (fun e => e.2.2)).map (·.2.1) = [0] ∧
    10 ≤ (getQ (rs stuckJob).dev 0 0).stuck ∧ (ownEdges (rs stuckJob).dev 0).any (fun e => e.2.1 == 0 && e.2.2) = true ∧
    isAnchor { devOn with hedge := { addr := some 0 }, jobs := [stuckJob] } stuckJob = true ∧ 1 < stuckJob.participants.length ∧ 1 ≠ stuckJob.partIndex := by
  refine ⟨⟨by decide, rfl, by decide⟩, rfl, ?_⟩
  and_intros <;> decide +kernel

/-- QueueRows: WATCHDOG_SAMPLE on a served device; SATURATION_REPLACEMENT of a kernel's instance and of a match table below its banks. -/
theorem test_saturation :
    let s := rs { runJob (img2 7 5) { stations := [{}, { ins := [{}] }] } with placed := [{ station := 0, inst := 0, res := ⟨1, 0, 0⟩, reason := 0, counter := 0xFFFF, time := 0, index := 0 }] }
    served s.dev = true ∧ AtStation s 0 0 (fun _ => true) ∧ AtStation s 0 1 (fun _ => true) ∧ (getJob s.dev 0).pins.any (fun p => p.1 == 0) = false ∧ stationSettled s.dev 0 0 = true ∧
    stationSettled s.dev 0 1 = true ∧ (descSt s.dev 0 0).stype = .kernel ∧ (descSt s.dev 0 1).stype = .matchSt ∧ (placedInsts (getJob s.dev 0)).contains (0, 0) = true ∧
    (unitNear (rowStart s) 0 0 0x35D).isSome = true ∧ (unitNear (cacheTable 0 0 0x35F (rowStart s)) 0 0 0x35F).isSome = true ∧
    (bankPlaces (getJob (rowStart s) 0) 1).length < tableBanks (paramSt (rowStart s) 0 1) ∧
    pickBanks (tableBanks (paramSt (rowStart s) 0 1)) (bankPlaces (getJob (rowStart s) 0) 1) (bankPool (rowStart s) 0) ≠ [] := by
  refine ⟨by decide, ⟨by decide, rfl, by decide, rfl⟩, ⟨by decide, rfl, by decide, rfl⟩, ?_⟩
  and_intros <;> decide +kernel

/-- TileSealedInOrder: a queue with a free slot, a full one with its valve closed and open, a spill budget that holds no tile. -/
theorem test_seal_order :
    let d (q : QRun) (b : Nat) : Dev := (rs (runJob { img2 1 14 with spillBudget := b } (rt2 .plain q))).dev
    (∀ q : QRun, ∀ b, outQueueNo (getJob (d q b) 0) 0 0 < (getJob (d q b) 0).rt.queues.length ∧ (getJob (d q b) 0).state = .running) ∧
    queueFull (getJob (d {} 0) 0) 0 {} = false ∧ queueFull (getJob (d {} 0) 0) 0 { tiles := [tileAt 0, tileAt 1] } = true ∧
    4160 * (spillTiles (getJob (d {} 0x100000) 0) + 1) ≤ 0x100000 ∧ 0 < 4160 * (spillTiles (getJob (d {} 0) 0) + 1) := by
  refine ⟨fun _ _ => ⟨by show (0 : Nat) < 2; decide, rfl⟩, rfl, rfl, ?_, ?_⟩
  · show 4160 * (0 + 1) ≤ 0x100000; decide
  · show 0 < 4160 * (0 + 1); decide

/-- TileBytesRoundTrip: the bounds of the fields that are met by the tile above. -/
theorem test_tile_bounds : (tileAt 0).version < 2 ^ 8 ∧ (tileAt 0).format < 2 ^ 8 ∧ (tileAt 0).seq < 2 ^ 64 ∧ (tileAt 0).payload.length = 4096 :=
  ⟨by show (2 : Nat) < 2 ^ 8; decide, by show (1 : Nat) < 2 ^ 8; decide, by show (0 : Nat) < 2 ^ 64; decide, List.length_replicate⟩

/-- The check value of CRC-64/NVME that the manual's R31 names by its polynomial: the ASCII digits 1 to 9. -/
theorem test_crc64 : crc64 [0x31, 0x32, 0x33, 0x34, 0x35, 0x36, 0x37, 0x38, 0x39] = 0xAE8B14860A799888 := by decide +kernel
theorem test_crc32c : crc32c [0x31, 0x32, 0x33, 0x34, 0x35, 0x36, 0x37, 0x38, 0x39] = 0xE3069283 := by decide +kernel

/-- RecordsRoundTrip: a record of 4,094 bytes fills the payload; two records, one of them empty. -/
theorem test_records : 2 * 1 + 4094 ≤ 4096 ∧ encodeRecords [[1, 2], []] = [2, 0, 2, 0, 1, 2] ∧ decodeRecords 2 [2, 0, 2, 0, 1, 2] = some [[1, 2], []] := by decide +kernel

/-- SealFindsOneByte: two tiles that differ in one payload byte. -/
theorem test_one_byte : (1 : Byte) ≠ 2 ∧ (56 : Nat) < 4152 := by decide

/-! ### Intake, decoding, align, emit -/

/-- A job of one station whose input and output hang on queues 0 and 1. -/
def one (code ins outs : Nat) (p : Bytes) (x : StRun) : Job :=
  runJob { jobTag := 7, intakeLogBytes := 0x100000, stations := [stD code 0 ins outs 0 p.length], params := p, regions := [{ id := 0, kind := 1, access := 3 }, { id := 1, kind := 2, access := 3 }],
           queues := [{ number := 0, producer := 0, depth := 2, format := 1 }, { number := 1, producer := 9, consumer := [(0, 0, 0)], format := 1 }] }
    { queues := [{}, {}], stations := [x] }

/-- The same with regions 0 and 1 bound in HBM. -/
def bound (j : Job) : Job :=
  { j with regions := [{ id := 0, whereCode := 1, addr := 0x1000, bytes := 16, extents := [(0x1000, 16)] }, { id := 1, whereCode := 1, addr := 0x2000, bytes := 8192, extents := [(0x2000, 8192)] }] }

/-- An intake station of one object without a manifest, in a form. -/
def intakeP (form : Byte) : Bytes := [1, form, 0, 0, 0, 0, 0xFF, 0xFF] ++ zeros 8

/-- IntakeRows: the one object of a region, past it, in FORM 0 and FORM 2. -/
theorem test_intake :
    let s (f : Byte) (k : Nat) := rs (bound (one 1 0 1 (intakeP f) { ins := [{}], outs := [{}], kind := .intake { obj := k } }))
    AtStation (s 0 0) 0 0 (· = .intake) ∧ (getSt (s 0 0).dev 0 0).ended = false ∧ outBlocked (s 0 0).dev 0 0 = false ∧ u8at (paramSt (s 0 0).dev 0 0) 0 ≠ 2 ∧
    readManifest [] (rowStart (s 0 0)) 0 0 = .ok (rowStart (s 0 0)) ∧
    objectRef (rowStart (s 0 1)) 0 0 1 = .none ∧ objectRef (rowStart (s 0 0)) 0 0 0 = .at 0 16 ∧
    (∃ d, readInput [] (rowStart (s 0 0)) 0 0 0 0 16 = .ok (zeros 16, d) ∧ stopped d 0 = false) ∧ u8at (paramSt (s 2 0).dev 0 0) 1 = 2 ∧
    (splitRecords 17 (zeros 16) 0).2 = none := by
  refine ⟨⟨by decide, rfl, by decide, rfl⟩, rfl, by decide, by decide, rfl, rfl, rfl, ⟨_, rfl, rfl⟩, by decide, by decide⟩

/-- IntakeRows: a manifest in region 1 that was read, whose entry lies past the region of 16 bytes; FORM 1 of a region of one tile. -/
theorem test_intake_manifest :
    let s (f m : Byte) (r n : Nat) := rs (bound (one 1 0 1 ([1, f, 0, 0] ++ le 2 r ++ [m, m] ++ zeros 8) { ins := [{}], outs := [{}], kind := .intake { man := some (le 8 1 ++ zeros 8 ++ le 8 n ++ le 8 8) } }))
    (intakeSt (s 0 1 0 9).dev 0 0).man.isSome = true ∧ readManifest [] (rowStart (s 0 1 0 9)) 0 0 = .ok (rowStart (s 0 1 0 9)) ∧
    objectRef (rowStart (s 0 1 0 9)) 0 0 0 = .bad 0 ∧ objectRef (rowStart (s 0 1 0 8)) 0 0 0 = .at 8 8 ∧ objectRef (rowStart (s 1 0xFF 1 0)) 0 0 0 = .at 0 4160 := by
  decide +kernel

/-- IntakeRows: an item of a replayed log. -/
theorem test_intake_log :
    let s := rs (bound (one 1 0 1 [2, 2] { kind := .intake { todo := [.record 0 [5]] } }))
    AtStation s 0 0 (· = .intake) ∧ (getSt s.dev 0 0).ended = false ∧ outBlocked s.dev 0 0 = false ∧ u8at (paramSt s.dev 0 0) 0 = 2 ∧
    (intakeSt s.dev 0 0).todo = .record 0 [5] :: [] := ⟨⟨by decide, rfl, by decide, rfl⟩, rfl, by decide, by decide, rfl⟩

/-- IntakeRows: a feed's message of two records, the first seen before, and watermarks at and below the feed's. -/
theorem test_feed :
    let d (b : Bytes) (k m : Nat) := { (rs (jobFeed .running)).dev with feeds := [{ feed1 with partBuf := b, nextSeq := k, mark := m }] }
    let rec2 := [1, 0, 2, 0, 10, 0, 0, 0] ++ le 8 4 ++ [1, 0, 0, 0, 8, 1, 0, 0, 0, 9]
    feed1.waits.head?.any (fun w => w.1 == 0) = false ∧ feedMsg rec2 = (.recs 4 [[8], [9]], 26) ∧ (4 : Nat) ≤ 5 ∧ (getFeed (d rec2 5 0) 1).isSome = true ∧
    feedTakes (d rec2 5 0) { feed1 with partBuf := rec2, nextSeq := 5 } [.record 0 [9]] = true ∧
    feedMsg ([2, 0, 0, 0, 0, 0, 0, 0] ++ le 8 100) = (.mark 100, 16) ∧
    feedTakes (d ([2, 0, 0, 0, 0, 0, 0, 0] ++ le 8 100) 0 100) { feed1 with mark := 100, mode := 1 } [.mark 0 100] = true ∧ ¬ (100 : Nat) < 100 ∧ (100 : Nat) < 101 := by decide +kernel

/-- A stored DEFLATE block of the bytes 1, 2, 3. -/
def stored : Bytes := [1, 3, 0, 0xFC, 0xFF, 1, 2, 3]

/-- DecodeRows: an object of raw DEFLATE that gives its bytes with no error. -/
theorem test_unpack :
    let s := rs (one 2 1 1 [1, 0, 0xFF, 0xFF, 0, 0, 0, 0] { ins := [{ objs := [stored] }], outs := [{}] })
    AtStation s 0 0 (· = .unpack) ∧ (getSt s.dev 0 0).ended = false ∧ outBlocked s.dev 0 0 = false ∧ (getIn s.dev 0 0 0).objs = stored :: [] ∧
    u16at (paramSt s.dev 0 0) 2 = 0xFFFF ∧ (unpackBytes 1 (fun _ => none) stored).err = none ∧ (unpackBytes 1 (fun _ => none) stored).out = [1, 2, 3] :=
  ⟨⟨by decide, rfl, by decide, rfl⟩, rfl, by decide, rfl, by decide, by decide +kernel, by decide +kernel⟩

/-- A row source with nothing in it, and a unit of one such row. -/
def src0 : RowSrc := .srcs []
def unit0 : RowUnit := { rows := [src0] }

/-- DecodeRows: a parse station with one record in progress; one with a unit away. -/
theorem test_parse :
    let x : ParseSt := { todo := [unit0, { unit0 with lane := true }] }
    let s := rs (one 3 1 1 (zeros 32) { ins := [{}], outs := [{}], kind := .parse x })
    AtStation s 0 0 (· = .parse) ∧ (getSt s.dev 0 0).ended = false ∧ outBlocked s.dev 0 0 = false ∧ parseSt s.dev 0 0 = x ∧ windowRows x.window < 65536 ∧
    x.todo = unit0 :: [{ unit0 with lane := true }] ∧ unit0.lane = false ∧ unit0.rows = src0 :: [] ∧ unit0.begun = false ∧ brambleAway s.dev < 4096 ∧
    (([{ away := true, rows := [(src0, 0)] }] : List (Waiting (RowSrc × Nat))).zipIdx.filter (fun e => e.1.away))[0]? = some ({ away := true, rows := [(src0, 0)] }, 0) :=
  ⟨⟨by decide, rfl, by decide, rfl⟩, rfl, by decide, rfl, by decide, rfl, rfl, rfl, rfl, by decide, rfl⟩

/-- A tile of one row with a TIME column. -/
def colTile (rows : List Row) : Tile :=
  { format := 0x10, jobTag := 7, rowCount := rows.length, columns := 1, payloadBytes := (encodeCols (rowsToCols rows)).length, payload := encodeCols (rowsToCols rows) }

/-- A row with a time in column 0. -/
def timeRow (t : Nat) : Row := [{ col := 0, ty := .time, val := some (.bits t) }]

/-- DecodeRows: a row on port 0 of an align station, and port 1 at its end. -/
theorem test_align :
    let x : StRun := { ins := [{ inbox := [colTile [timeRow 5]] }, { eos := true }], outs := [{}], kind := .align { w := [0, 0], feedNo := [0, 1], classified := [0, 0] } }
    let s := rs (one 4 2 1 (zeros 4 ++ le 4 16 ++ zeros 24) x)
    AtStation s 0 0 (· = .align) ∧ 0 < (descSt s.dev 0 0).inPorts ∧ 1 < (descSt s.dev 0 0).inPorts ∧ outBlocked s.dev 0 0 = false ∧
    (getIn s.dev 0 0 0).row? = some (timeRow 5, 0) ∧ tilesOf ((alignSt s.dev 0 0).hold.map (·.2)) [] < u32at (paramSt s.dev 0 0) 4 ∧
    (getIn s.dev 0 0 1).row? = none ∧ (getIn s.dev 0 0 1).done = true ∧ (alignSt s.dev 0 0).w.getD 1 0 ≠ 2 ^ 64 - 1 :=
  ⟨⟨by decide, rfl, by decide, rfl⟩, by decide, by decide, by decide, by decide +kernel, by decide +kernel, by decide +kernel, by decide, by decide⟩

/-- AlignReleases: a station that holds rows below and above its frontier; a queue in key order. -/
theorem test_align_release :
    let x : StRun := { ins := [{}, {}], outs := [{}], kind := .align { w := [10, 20], feedNo := [0, 1], hold := [((5, 0, 0), timeRow 5), ((15, 0, 1), timeRow 15)] } }
    let d := (rs (one 4 2 1 (zeros 4 ++ le 4 16 ++ zeros 24) x)).dev
    frontierOf 0 [10, 20] = 10 ∧ (alignSt (alignRelease d 0 0) 0 0).hold = [((15, 0, 1), timeRow 15)] ∧
    ([((5, 0, 0), timeRow 5), ((15, 0, 1), timeRow 15)] : List (AlignKey × Row)).Pairwise (fun a b => keyLt b.1 a.1 = false) := by decide +kernel

/-- PrefixedRecords: two records and three bytes cut off; four bytes that name more than remains. -/
theorem test_prefixed : splitRecords 13 [1, 0, 0, 0, 7, 0, 0, 0, 0, 9, 9, 9] 0 = ([[7], [], [9, 9, 9]], some 9) ∧ (∀ r ∈ ([[7], []] : List Bytes), r.length < 2 ^ 32) ∧
    ([9, 9, 9] : Bytes) ≠ [] ∧ ([9, 9, 9] : Bytes).length < 4 ∧ ([4, 0, 0, 0] : Bytes).length < 4 + u32at [4, 0, 0, 0] 0 := by decide

/-- EmitRows: MODE 1 with a tile in hand. -/
theorem test_emit :
    let s (w : Byte) := rs (bound (one 0xE 1 0 ([1, w, 1, 0] ++ zeros 12) { ins := [{ inbox := [tileAt 0] }], kind := .emit {} }))
    AtStation (s 0) 0 0 (· = .emit) ∧ u8at (paramSt (s 0).dev 0 0) 0 = 1 ∧ (getSt (s 0).dev 0 0).ended = false ∧ (getIn (s 1).dev 0 0 0).inbox = tileAt 0 :: [] ∧
    (tileAt 0).eos = false ∧ (∃ d, regWrite (rowStart (s 1)) (bindingOr (getJob (s 1).dev 0) 1) (stationEngine (getJob (s 1).dev 0) 0) 7 0 [1, 2] = .ok d) :=
  ⟨⟨by decide, rfl, by decide, rfl⟩, by decide, rfl, rfl, rfl, ⟨_, rfl⟩⟩

/-- A job whose emit station writes channel 5 with one slot and has a batch ready. -/
def chanJob (written consumed : Nat) : Job :=
  let j := bound (one 0xE 1 0 ([2] ++ zeros 15) { ins := [{}], kind := .emit { ready := some 0, written := written, consumed := consumed } })
  { j with image := { j.image with channels := [{ channel := 5, emitStation := 0, outputRegion := 0, descRegion := 1 }] }, writtenHigh := [(5, 3)] }

/-- EmitRows: what the station wrote before is not read back while its channel still executes. -/
theorem test_not_back : writesBack (rowStart { rs (chanJob 1 1) with dev := { (rs (chanJob 1 1)).dev with movers := { chans := [((0, 0), { state := 1 })] } } }) 0 0 = false := by decide +kernel

/-- EmitRows: a batch without a credit and with one; CONSUMED at its last value, one above, and below it. -/
theorem test_batch_emit : AtStation (rs (chanJob 2 1)) 0 0 (· = .emit) ∧ u8at (paramSt (rs (chanJob 2 1)).dev 0 0) 0 = 2 ∧
    (emitSt (rs (chanJob 2 1)).dev 0 0).ready = some 0 ∧ writesBack (rowStart (rs (chanJob 1 1))) 0 0 = true ∧ 64 ≤ (tileAt 0).payloadBytes ∧ (emitCtx (chanJob 2 1).image 0).slots = 1 ∧ 1 + 1 ≤ (2 : Nat) ∧ ¬ 2 + 1 ≤ (2 : Nat) ∧
    (emitCtx (chanJob 2 1).image 0).ch.channel ≠ 0 ∧
    (∃ bs, regRead [(0x2018, 1)] (hostStores (rowStart (rs (chanJob 2 1))) []) (bindingOr (chanJob 2 1) 1) 0x18 8 = .ok bs ∧ u64at bs 0 = 1) ∧
    (∃ bs, regRead [] (hostStores (rowStart (rs (chanJob 2 1))) []) (bindingOr (chanJob 2 1) 1) 0x18 8 = .ok bs ∧ u64at bs 0 < 1) ∧
    (1 : Nat) ≤ (assocGet (chanJob 2 1).writtenHigh 5).getD 0 ∧ (assocGet (chanJob 2 1).consumedLast 5).getD 0 ≤ 1 := by
  refine ⟨⟨by decide, rfl, by decide, rfl⟩, ?_⟩
  and_intros <;> first | rfl | decide +kernel | exact ⟨_, rfl, by decide +kernel⟩

/-! ### Shale -/

/-- A shale parameter block: level 1, two slots, a pool of 2,240 bytes. -/
def shaleParam : Bytes := [0, 1] ++ zeros 6 ++ le 4 2 ++ zeros 4 ++ le 8 2240 ++ zeros 8

/-- A state with a shale station. -/
def shaleS (x : ShaleSt) (inp : InPort) (e : Bool) : State := rs (one 0xD 1 1 shaleParam { ins := [inp], outs := [{}], kind := .shale x, ended := e })

/-- ShaleRows: a block ready, a tile to take, both stops ready to resume, a block to decode, a full buffer whose queue has room. -/
theorem test_shale :
    let b : ShaleBlock := { index := 0 }
    let ready : ShaleSt := { bytes := zeros 4160, received := 4160 }
    let s1 (k : Nat) : ShaleSt := { stop := 1, block := 2, blocks := [{ index := k }] }
    let s2 : ShaleSt := { stop := 2, half := some { index := 1, charged := 3 }, blocks := [{ index := 0, headAt := 3, charged := 2 }] }
    AtStation (shaleS ready {} false) 0 0 (· = .shale) ∧ ready.stop = 0 ∧ (getSt (shaleS ready {} false).dev 0 0).ended = false ∧ blockReady ready = true ∧
    blockReady {} = false ∧ (getIn (shaleS {} { inbox := [tileAt 0] } false).dev 0 0 0).inbox = tileAt 0 :: [] ∧
    (∀ y ∈ (s1 1).blocks, y.index + (shaleP shaleParam).slots ≠ 2) ∧ extentFree s2 (shaleP shaleParam).granules { index := 1, charged := 3 } = true ∧
    s2.half = some { index := 1, charged := 3 } ∧ b.index = ({ blocks := [b] } : ShaleSt).dblock ∧
    ([] : Bytes).length < 4160 * freeSlots (shaleS { full := true, blocks := [b] } {} false).dev 0 (outQueueNo (getJob (shaleS { full := true, blocks := [b] } {} false).dev 0) 0 0) :=
  ⟨⟨by decide, rfl, by decide, rfl⟩, rfl, rfl, by decide +kernel, by decide +kernel, rfl, by decide +kernel, by decide +kernel, rfl, rfl, by decide +kernel⟩

/-- The slot of a block still held: 0 and 2 share slot 0 of two. -/
theorem test_slot_held : (0 : Nat) + (shaleP shaleParam).slots = 2 ∧ (shaleP shaleParam).granules = 35 := by decide +kernel

/-- ShaleBlockRoundTrip: a block of one byte at level 9, and one whose code words R173 gives: a literal run of four, a match of length 8 at distance 4. -/
theorem test_block : (1 : Nat) ≤ 9 ∧ (9 : Nat) ≤ 9 ∧ 4096 * 0 + 1 ≤ #[(7 : Byte)].size ∧ (codeBlock #[7] 0 0 9 0 0 1) = ([0, 7], 1) ∧
    codeBlock #[1, 2, 3, 4, 1, 2, 3, 4, 1, 2, 3, 4] 0 0 1 0 0 12 = ([3, 1, 2, 3, 4, 0x84, 3, 0], 12) := by decide +kernel

/-! ### Match, join, select, image -/

/-- A match parameter block: filter on a hit, one unit, key column 0, results of 8 bytes, region 1, four entries. -/
def matchParam : Bytes := [3, 1, 0, 0, 0, 0xFF, 0xFF, 0xFF, 0, 0] ++ le 2 8 ++ le 2 1 ++ [0xFF, 0] ++ le 4 4 ++ le 2 0xFFFF ++ zeros 10

/-- A state with a match station. -/
def matchS (x : MatchSt) (inp : InPort) : State :=
  rs (bound (one 5 1 1 matchParam { ins := [inp], outs := [{}], kind := .matchSt x }))

/-- A row with a u32 in column 0, and one with a null there. -/
def row32 (n : Nat) : Row := [{ col := 0, ty := .u32, val := some (.bits n) }]
def rowNull : Row := [{ col := 0, ty := .u32, val := none }]

/-- A port with a tile of rows in hand. -/
def inRows (rows : List Row) : InPort := { inbox := [colTile rows] }

/-- MatchRows: a key and a null key, a repeat, a held pair. -/
theorem test_match :
    AtStation (matchS {} (inRows [row32 5])) 0 0 (· = .matchSt) ∧ (getSt (matchS {} (inRows [row32 5])).dev 0 0).ended = false ∧
    outBlocked (matchS {} (inRows [row32 5])).dev 0 0 = false ∧ (getIn (matchS {} (inRows [row32 5])).dev 0 0 0).inbox = colTile [row32 5] :: [] ∧
    (getIn (matchS {} (inRows [row32 5])).dev 0 0 0).row? = some (row32 5, 0) ∧ pairsThrough (matchS {} (inRows [row32 5])).dev 0 0 0 (matchP matchParam) = true ∧
    rowKey rowNull (matchP matchParam).keys = none ∧ rowKey (row32 5) (matchP matchParam).keys = some [5, 0, 0, 0] ∧
    (matchSt (matchS { redo := some [1] } (inRows [row32 5])).dev 0 0).redo = some [1] :=
  ⟨⟨by decide, rfl, by decide, rfl⟩, rfl, by decide, rfl, by decide +kernel, by decide +kernel, by decide +kernel, by decide +kernel, rfl⟩

/-- A job whose match station has searched its first tile. -/
def pairJob (x : MatchSt) : Job :=
  let j := bound (one 5 1 1 matchParam { ins := [{}], outs := [{}], kind := .matchSt x })
  { j with rt := { j.rt with queues := [{}, { taken := [1] }] } }

/-- MatchRows: a pair whose tile is searched and finished; an entry to scrub with a single-bit shadow error. -/
theorem test_pair (p : MPair) :
    let x : MatchSt := { held := [(0, p)] }
    AtStation (rs (pairJob x)) 0 0 (· = .matchSt) ∧ (matchSt (rs (pairJob x)).dev 0 0).held = (0, p) :: [] ∧ inQueueNo (getJob (rs (pairJob x)).dev 0) 0 0 = some (1, 0) ∧
    0 < (getQ (rs (pairJob x)).dev 0 1).taken.getD 0 0 ∧ (∀ t ∈ (getIn (rs (pairJob x)).dev 0 0 0).inbox, 0 < t.seq) ∧
    writerDone (rs (pairJob x)).dev 0 0 0 (matchP matchParam) = true :=
  ⟨⟨by show (0 : Nat) < 64; decide, rfl, by show (0 : Nat) < 1; decide, rfl⟩, rfl, rfl, by show (0 : Nat) < 1; decide, fun t h => (List.not_mem_nil h).elim, rfl⟩

/-- The bytes of a table region: the header and one record of zeros. -/
def tableMem : Memory := [(0x2000, 0x48), (0x2001, 0x59), (0x2002, 0x4D), (0x2003, 0x54), (0x2004, 1), (0x2006, 8), (0x2008, 1)]

/-- MatchRows: an entry with a single-bit shadow error to scrub, a table region to build from, a table that is built. -/
theorem test_table :
    let x : MatchSt := { built := true, copies := [[{ die := 0, banks := [2] }]] }
    let s := { matchS {} {} with mem := tableMem }
    x.built = true ∧ 3 < (matchP matchParam).capacity ∧ (∃ c ∈ x.copies, x.place (matchP matchParam) c 3 ≠ none) ∧ (x.upset [] [{ ord := 3, word := 0, double := false }]).shadowBad 3 = false ∧
    ({} : MatchSt).built = false ∧ 64 ≤ (bindingOr (getJob s.dev 0) 1).bytes ∧ (matchP matchParam).region = 1 ∧
    (∃ h b, regRead s.mem (rowStart s) (bindingOr (getJob s.dev 0) 1) 0 64 = .ok h ∧ (matchP matchParam).headerOk h = true ∧ u32at h 8 = 1 ∧
      64 + u32at h 8 * (matchP matchParam).recBytes ≤ (bindingOr (getJob s.dev 0) 1).bytes ∧
      regRead s.mem (rowStart s) (bindingOr (getJob s.dev 0) 1) 64 (u32at h 8 * (matchP matchParam).recBytes) = .ok b ∧
      (∀ i < u32at h 8, (matchP matchParam).maskOk (((matchP matchParam).record b i).mask.getD 0 0) = true)) := by
  and_intros
  on_goal 3 => exact ⟨_, List.mem_singleton_self _, by decide +kernel⟩
  on_goal 7 => exact ⟨_, _, rfl, by decide +kernel, by decide +kernel, by decide +kernel, rfl, by decide +kernel⟩
  all_goals first | rfl | decide +kernel

/-- SearchFindsLowest: entries 0 and 2 match key 5, entry 0's mask leaves bit 1 out; a flipped key bit of entry 2 makes its lines disagree; a valid bit that flips adds or hides an entry. -/
theorem test_search :
    let e (o k m : Nat) (v : Bool) : MEntry := { ord := o, valid := v, key := [k], mask := [m] }
    let x : MatchSt := { entries := [e 0 7 0xFD true, e 1 5 0xFF false, e 2 5 0xFF true], copies := [[{ die := 0, banks := [2] }]] }
    let q := matchP matchParam
    x.cells = [] ∧ [5].length = q.w ∧ q.select = 0 ∧ x.entries.Pairwise (fun a b => a.ord < b.ord) ∧ (x.search q [5]).hits = [0, 2] ∧ (x.search q [5]).clean = true ∧
    (let y : MatchSt := { x with cells := [{ ord := 2, unit := 0, part := 0, flip := 1 }] }
     y.cells.map (·.copy) = [y.copyNo] ∧ (y.place q y.sets 2).isSome = true ∧
     (y.lines y.copyNo (y.entry q.w 2) [5] 0).1 ≠ (y.lines y.copyNo (y.entry q.w 2) [5] 0).2 ∧ (y.search q [5]).clean = false) ∧
    (let z (o : Nat) : MatchSt := { x with cells := [{ ord := o, unit := 0, part := 4, flip := 1 }] }
     ((z 1).search q [5]).hits = [0, 1, 2] ∧ ((z 0).search q [5]).hits = [2]) := by decide +kernel

/-- A hashjoin parameter block: KIND 1, DUP 2, no appended columns. -/
def joinParam (dup : Byte) : Bytes := [1, dup] ++ zeros 14

/-- A state with a hashjoin station of one partition. -/
def joinS (dup : Byte) (a b : InPort) : State :=
  let j := one 6 2 1 (joinParam dup) { ins := [a, b], outs := [{}], kind := .join {} }
  rs { j with image := { j.image with stations := [{ stD 6 0 2 1 0 16 with typeCode := 6, partitions := 1 }] } }

/-- JoinSelectRows: a build row with a new key, and a probe row. -/
theorem test_join :
    AtStation (joinS 2 (inRows [row32 5]) {}) 0 0 (· = .hashjoin) ∧ (getIn (joinS 2 (inRows [row32 5]) {}).dev 0 0 0).row? = some (row32 5, 0) ∧
    (∀ b ∈ ([] : List BuildRow), b.key ≠ some [5]) ∧ (growJoin (rowStart (joinS 2 (inRows [row32 5]) {})) 0 0 (joinBytes [{ part := 0, key := some [5], row := row32 5 }])).isSome = true ∧
    joinBytes [] ≤ ((((getJob (joinS 2 {} {}).dev 0).joinAreas.find? (fun a => a.1 == 0)).elim [] (·.2)).foldl (fun a e => a + joinRoom e) 0) ∧
    AtStation (joinS 0 {} (inRows [row32 5])) 0 0 (· = .hashjoin) ∧ (getSt (joinS 0 {} (inRows [row32 5])).dev 0 0).ended = false ∧
    outBlocked (joinS 0 {} (inRows [row32 5])).dev 0 0 = false ∧ (getIn (joinS 0 {} (inRows [row32 5])).dev 0 0 1).row? = some (row32 5, 0) ∧
    ([] : List Row).length ≤ 65535 :=
  ⟨⟨by decide, rfl, by decide, rfl⟩, by decide +kernel, by decide, by decide +kernel, by decide, ⟨by decide, rfl, by decide, rfl⟩, rfl, by decide, by decide +kernel, by decide⟩

/-- A select parameter block: K 2 of the u32 column 0, one group, ties by index. -/
def selParam : Bytes := [2, 0, 0x06, 0xFF, 0xFF, 0, 0] ++ zeros 9

/-- A state with a select station. -/
def selS (a : InPort) : State := rs (one 8 1 1 selParam { ins := [a], outs := [{}], kind := .select {} })

/-- JoinSelectRows: a tile of the right type and an ended input; each KIND. -/
theorem test_select :
    AtStation (selS (inRows [row32 5])) 0 0 (· = .select) ∧ outBlocked (selS (inRows [row32 5])).dev 0 0 = false ∧
    (getIn (selS (inRows [row32 5])).dev 0 0 0).inbox = colTile [row32 5] :: [] ∧ selTypes (selP selParam) [] (colTile [row32 5]) = none ∧
    AtStation (selS { eos := true }) 0 0 (· = .select) ∧ (getSt (selS { eos := true }).dev 0 0).ended = false ∧ (getIn (selS { eos := true }).dev 0 0 0).inbox = [] ∧
    inputsDone (selS { eos := true }).dev 0 0 = true ∧ u8at [0] 0 = 0 ∧ u8at [3] 0 = 3 ∧ (selP selParam).ty = .u32 :=
  ⟨⟨by decide, rfl, by decide, rfl⟩, by decide, rfl, by decide +kernel, ⟨by decide, rfl, by decide, rfl⟩, rfl, rfl, by decide, rfl, rfl, by decide⟩

/-- KeysInValueOrder: the widest and narrowest types; the least and largest i8; a NaN of FP16 and the value below it. -/
theorem test_keys : Ty.fp32.isF = true ∧ Ty.i8.isSigned = true ∧ (127 : Nat) < 2 ^ Ty.i8.width ∧ topkKey .i8 128 false = 0 ∧ topkKey .i8 127 false = 255 ∧
    topkKey .fp16 0x7C01 false = 0 ∧ topkKey .fp16 0x7C01 true = 0xFFFF ∧ topkKey .fp16 0x7C00 false = 0xFC00 ∧ (selP selParam).ties = 0 := by decide +kernel

/-- An image parameter block without records. -/
def imgParam (input : Byte) : Bytes := [input, 0, 0, 0, 0, 0, 0, 0, 2, 0, 0xFF, 0xFF] ++ zeros 68

/-- A state with an image station. -/
def imgS (input : Byte) (a : InPort) (x : ImageSt) : State := rs (one 9 1 1 (imgParam input) { ins := [a], outs := [{}], kind := .image x })

/-- A tile of PIXELS: one row of pixels of an image two rows high, or a hole. -/
def pxTile (hole : Bool) (first : Nat) : Tile :=
  let h := pixelHeader 9 2 4 first 1 2 (if hole then 3 else 0) 0 0 0
  let b := if hole then h else h ++ [5, 6]
  { format := 0x12, rowCount := if hole then 0 else 2, payloadBytes := b.length, payload := b }

/-- ImageRows: JPEG input, diverted and not. -/
theorem test_jpeg :
    let b : Bytes := [1, 2, 3]
    let s := imgS 0 { objs := [b] } {}
    AtStation s 0 0 (· = .image) ∧ (getSt s.dev 0 0).ended = false ∧ (imgP (imgParam 0)).input = 0 ∧ (getIn s.dev 0 0 0).objs = b :: [] ∧ stagedCount {} < 2 ∧
    (imgP (imgParam 0)).base + 0 < 2 ^ 48 ∧ (∃ r, readRecord s.mem (rowStart s) 0 0 (imgP (imgParam 0)) 0 = .ok r) ∧ brambleAway s.dev < 4096 :=
  ⟨⟨by decide, rfl, by decide, rfl⟩, rfl, by decide, rfl, by decide, by decide, ⟨_, rfl⟩, by decide⟩

/-- ImageRows: no JPEG at all stays with the engine; a progressive frame goes to the lane. -/
theorem test_jpeg_lane :
    jpegDiverts [1, 2, 3] = false ∧ jpegDiverts [0xFF, 0xD8, 0xFF, 0xC2, 0, 0x0B, 8, 0, 1, 0, 1, 1, 1, 0x11, 0] = true := by decide +kernel

/-- A first tile of two rows that is the whole of its image. -/
def pxWhole : Tile := { pxTile false 0 with rowCount := 4, payload := pixelHeader 9 2 2 0 1 2 1 0 0 0 ++ [5, 6, 7, 8], payloadBytes := (pixelHeader 9 2 2 0 1 2 1 0 0 0).length + 4 }

/-- ImageRows: an image of one tile. -/
theorem test_whole_image :
    let s := imgS 1 { inbox := [pxWhole] } {}
    (∃ r, readRecord s.mem (rowStart s) 0 0 (imgP (imgParam 1)) (u64at pxWhole.used 0) = .ok r) ∧ pixelFails {} pxWhole = none ∧ bit (u8at pxWhole.used 0x12) 1 = false ∧
    bit (u8at pxWhole.used 0x12) 0 = true ∧ u16at pxWhole.used 8 = 2 ∧ u16at pxWhole.used 0x0A = 2 ∧ u8at pxWhole.used 0x10 = 1 ∧ Ty.ofCode (u8at pxWhole.used 0x11) = some .u8 := by
  refine ⟨⟨_, rfl⟩, ?_⟩
  decide +kernel

/-- ImageRows: PIXELS input, a hole and the second row of an image. -/
theorem test_pixels :
    let p : SrcImage := { sample := 9, w := 2, h := 4, channels := 1, data := [1, 2] }
    let x : ImageSt := { part := some p, got := 2 }
    let s := imgS 1 { inbox := [pxTile true 0] } {}
    AtStation s 0 0 (· = .image) ∧ (imgP (imgParam 1)).input ≠ 0 ∧ (getIn s.dev 0 0 0).inbox = pxTile true 0 :: [] ∧ (pxTile true 0).payloadBytes ≠ 0 ∧
    pixelFails {} (pxTile true 0) = none ∧ u64at (pxTile true 0).used 0 < 2 ^ 48 ∧ bit (u8at (pxTile true 0).used 0x12) 1 = true ∧
    pixelFails x (pxTile false 2) = none ∧ bit (u8at (pxTile false 2).used 0x12) 1 = false ∧ bit (u8at (pxTile false 2).used 0x12) 0 = false ∧
    u64at (pxTile false 2).used 0 < 2 ^ 48 :=
  by and_intros <;> first | rfl | decide

/-- ImageRows: a staged image, and one that is away. -/
theorem test_warp :
    let w : List ImgEntry := [{ away := true, src := { sample := 1 } }, { away := false, src := { sample := 2 } }]
    let s := imgS 0 {} { window := w }
    AtStation s 0 0 (· = .image) ∧ (getSt s.dev 0 0).ended = false ∧ outBlocked s.dev 0 0 = false ∧ (imageSt s.dev 0 0).window.findIdx? (fun e => !e.away && e.tiles.isNone) = some 1 ∧
    ((imageSt s.dev 0 0).window.zipIdx.filter (fun e => e.1.away))[0]? = some ({ away := true, src := { sample := 1 } }, 0) :=
  ⟨⟨by decide, rfl, by decide, rfl⟩, rfl, by decide, rfl, rfl⟩

/-! ### Kernels -/

/-- A kernel's parameters: slot types u32, u32, bool; constants 0 and EMBAG's (region 1, FP32, rows of 64 bytes); a SUM array of FP32 with four cells, a COUNT
array of 4,096 cells; a heap of 256 bytes; an end program or none; the match parameters behind. -/
def kerParams (endAt : Nat) : Bytes :=
  [3, 0, 2, 2] ++ le 2 4 ++ zeros 18 ++ le 4 64 ++ le 4 72 ++ le 4 88 ++ zeros 8 ++ le 4 256 ++ le 4 endAt ++ zeros 12 ++
  [6, 6, 1] ++ zeros 5 ++ le 8 0 ++ le 8 (1 + 0x10000 * 0x0C + pow2 32 * 64) ++
  [0, 0, 0, 0x0C] ++ le 4 4 ++ zeros 8 ++ [1, 0, 0, 0] ++ le 4 4096 ++ zeros 8 ++ matchParam

/-- The word of the tests: u32, d slot 0, a slot 0, b slot 1, c the constant 0 or another operand. -/
def kw (c imm : Nat) : KWord := { ty := 6, d := 0, a := 0, b := 1, c := c, imm := imm }

/-- A job of a kernel station with a match station behind it, and a program of one word. -/
def kerJob (ins op c imm endAt : Nat) (k : KernelSt) : Job :=
  let j := bound (one 7 ins 1 (kerParams endAt) { ins := [{}], outs := [{}], kind := .kernel k })
  { j with image := { j.image with
      stations := [{ stD 7 0 ins 1 0 64 with programWords := 1 }, stD 5 1 1 1 120 32],
      program := le 2 imm ++ [byteOf c, 1, 0, 0, 6, byteOf op] } }

/-- A row group of one row: slot 0 holds 3, slot 1 holds 1. -/
def kc (pc : Nat) : Ctx :=
  { rows := [{ ord := 5, seq := 0 }], pc := pc, slots := [(0, [some (.bits 3)]), (1, [some (.bits 1)]), (2, [some (.bits 1)])] }

/-- A state with that group open. -/
def kerS (op c imm : Nat) : State := rs (kerJob 0 op c imm noOffset { ctx := some (kc 0), arrays := [[], []] })

/-- Every word of the op table can be due. -/
theorem test_word_due (op c imm : Nat) (h : progWord (getJob (kerS op c imm).dev 0).image (descSt (kerS op c imm).dev 0 0) 0 = (kw c imm).prog op) :
    WordDue (kerS op c imm) ⟨0, 0⟩ op (kw c imm) (kc 0) :=
  ⟨⟨by show (0 : Nat) < 64; decide, rfl, by show (0 : Nat) < 2; decide, rfl⟩, rfl, by show (0 : Nat) < 1; decide, by show (0 : Nat) < 1048576; decide, h⟩
theorem test_words : ∀ r ∈ elementRows ++ otherWordRows, progWord (getJob (kerS r.1 0x80 1).dev 0).image (descSt (kerS r.1 0x80 1).dev 0 0) 0 = (kw 0x80 1).prog r.1 := by decide +kernel

/-- ElementWords: every elementwise word has its op, and its results fit the heap. -/
theorem test_element : ∀ r ∈ elementRows, (match elementOp r.1 with
    | some f =>
      let e := kenv [] (rowStart (kerS r.1 0x80 1)) 0 0
      decide (heapAfter r.1 (kc 1) (elementOut f e ((kw 0x80 1).prog r.1) (kc 1) []) ≤ e.p.heap)
    | none => false) = true := by decide +kernel
theorem test_dict : ∃ b, regRead [] (rowStart (kerS 0x83 0x80 1)) (bindingOr (getJob (kerS 0x83 0x80 1).dev 0) 1) 0 8192 = .ok b := ⟨_, rfl⟩

/-- Add of 3 and 1; the payload ops read the payload at an offset in a slot; the table op at the indices of slot 0 in region 1. -/
theorem test_plain :
    let e := kenv [] (rowStart (kerS 0x0C 0x80 1)) 0 0
    elementOut elAdd e ((kw 0x80 1).prog 0x20) (kc 1) [] = [some (.bits 4)] ∧
    (∀ o ∈ readOp e.p (kc 1) 1 0 .u32, ∀ v, o = some v → v.n + 4 ≤ 4096) ∧ (∀ o ∈ readOp e.p (kc 1) 1 1 .u32, ∀ v, o = some v → v.n + 4 ≤ 4096) ∧
    (∀ r ∈ portRows (wordStart (kerS 1 0x80 1) ⟨0, 0⟩ (kc 0)) 0, ∀ row, r = some row → Row.ty row 1 = none) := by
  refine ⟨by decide +kernel, ?_, ?_, ?_⟩
  · intro o h v hv
    have h : o ∈ [some (Val.bits 3)] := h
    simp only [List.mem_singleton] at h; subst h; cases hv; decide
  · intro o h v hv
    have h : o ∈ [some (Val.bits 1)] := h
    simp only [List.mem_singleton] at h; subst h; cases hv; decide
  · intro r h row hr
    have h : r ∈ [some ([] : Row)] := h
    simp only [List.mem_singleton] at h; subst h; cases hr; rfl
theorem test_table_word :
    let s := kerS 0x0C 0x80 1
    operandTy (kenv [] (rowStart s) 0 0).p .u32 .index 0 = .u32 ∧ (Ty.u32.toInt 3).toNat = 3 ∧ (3 + 1) * 4 ≤ (bindingOr (getJob s.dev 0) 1).bytes ∧
    ∃ b, regRead [] (rowStart s) (bindingOr (getJob s.dev 0) 1) 12 4 = .ok b := ⟨by decide +kernel, by decide, by decide, ⟨_, rfl⟩⟩

/-- ArrayWords: array 0 and array 1, cell 1 of each and the last cell of a sketch, counts far below their end. -/
theorem test_array (i : Nat) (kind cell : Nat) : (getCell (wordStart (kerS 0x88 0x80 i) ⟨0, 0⟩ (kc 0)).k 0 kind cell).terms ≤ 0 ∧
    (getCell (wordStart (kerS 0x88 0x80 i) ⟨0, 0⟩ (kc 0)).k 1 kind cell).terms ≤ 0 := by
  constructor <;> (show (emptyCell kind).terms ≤ 0; unfold emptyCell; split <;> exact Nat.le_refl 0)
theorem test_cells :
    let e := kenv [] (rowStart (kerS 0x88 0x80 0)) 0 0
    let w (i : Nat) : PWord := (kw 0x80 i).prog 0x88
    let x := wordStart (kerS 0x88 0x80 0) ⟨0, 0⟩ (kc 0)
    e.p.arr (w 0) = some { kind := 0, scope := 0, place := 0, ty := .fp32, cells := 4 } ∧ e.p.arr (w 1) = some { kind := 1, scope := 0, place := 0, ty := .bool, cells := 4096 } ∧
    sumCells e (w 0) x = [some 1] ∧ ((readOp e.p x.c 1 0x80 .u32).map (fun v => v.map Val.n)) = [some 0] ∧
    (cellOp e.p x.c 1 0x80).map (fun o => o.map (fun k => 4096 * k + 4095)) = [some 4095] ∧ (cellOp e.p x.c 1 1).map (fun o => o.map (fun n => n + 1)) = [some 2] ∧
    (x.c.rows.map (fun r => (Acc.decode r.acc).count)).sum = 0 ∧ (4095 : Nat) < 4096 ∧ (2 : Nat) < 4 := by decide +kernel
theorem test_accemit :
    let x := wordStart (kerS 0x90 0x80 0) ⟨0, 0⟩ (kc 0)
    stopped ((List.range 4).foldl (fun d n => addResult d 0 0 0 (getCell x.k 0 0 n).acc.encode) (flushPend x.d 0 0 0)) 0 = false := by decide +kernel

/-- ArrayWords: EMIT of the one row of an empty staging, of an empty payload; MWRITE of a pair; EMBAG of row 3 of region 1. -/
theorem test_emit_word :
    let x := wordStart (kerS 0x10 0x80 0x100) ⟨0, 0⟩ (kc 0)
    let e := kenv [] (rowStart (kerS 0x10 0x80 0x100)) 0 0
    bit 0x100 10 = false ∧ bit 0x400 10 = true ∧ (∃ d, emitRows e 0 x [0] (flushPend x.d 0 0 0) = .ok d) ∧ rawOp e.p x.c 0x80 ≤ 4096 ∧
    stopped (addTile x.d 0 0 0 (rawOp e.p x.c 0x80) 0 (padTo (rawOp e.p x.c 0x80) [])) 0 = false := by
  refine ⟨by decide, by decide, ⟨_, rfl⟩, by decide +kernel, by decide +kernel⟩
theorem test_mwrite :
    let s := kerS 0x16 2 2
    let x := wordStart s ⟨0, 0⟩ (kc 0)
    let e := kenv [] (rowStart s) 0 0
    ∃ t q d, writtenTable e.im e.p = some (t, q) ∧ (readOp e.p x.c x.c.n 2 .bool) = [some (.bits 1)] ∧
      issuePairs e ((kw 2 2).prog 0x16) q t.index 0 x (readOp e.p x.c x.c.n 0 .u32) [0] x.d = .ok d := ⟨_, _, _, rfl, rfl, rfl⟩
theorem test_embag :
    let s := kerS 0x98 0x81 0
    let e := kenv [] (rowStart s) 0 0
    e.p.const 0x81 = 0x40000C0001 ∧ embagK ((kw 0x81 0).prog 0x98) = 1 ∧ embagRow 0x40000C0001 = 64 ∧ embagRegion 0x40000C0001 = 1 ∧ 3 < (bindingOr (getJob s.dev 0) 1).bytes / 64 ∧
    ∃ b, regRead [] (rowStart s) (bindingOr (getJob s.dev 0) 1) (3 * 64) (embagD ((kw 0x81 0).prog 0x98) * 4) = .ok b :=
  ⟨by decide +kernel, by decide, by decide, by decide, by decide, ⟨_, rfl⟩⟩

/-- KernelGroups: an open group, one to open, a group that has used its words. -/
theorem test_groups :
    let s := rs (kerJob 0 0 0x80 0 noOffset { arrays := [[], []] })
    AtStation s 0 0 (· = .kernel) ∧ (kernelSt s.dev 0 0).ctx = none ∧ outBlocked s.dev 0 0 = false ∧ (∃ d c, openGroup 0 0 (rowStart s) = .ready d ∧ (kernelSt d 0 0).ctx = some c ∧
      c.pc < (descSt d 0 0).programWords ∧ progWord (getJob d 0).image (descSt d 0 0) c.pc = (kw 0x80 0).prog 0) ∧
    (let s := rs (kerJob 0 0 0x80 0 noOffset { ctx := some { kc 0 with steps := 1048576 } })
     ∃ c, (kernelSt s.dev 0 0).ctx = some c ∧ 1048576 ≤ c.steps) :=
  ⟨⟨by decide, rfl, by decide, rfl⟩, rfl, by decide, ⟨_, _, rfl, rfl, by decide, by decide +kernel⟩, ⟨_, rfl, by decide⟩⟩

/-- KernelGroups: a kernel whose input ended, without an end program and with one, on the anchor and beside it; partials of no cell and of one. -/
theorem test_end_program :
    let j (endAt : Nat) (k : KernelSt) : Job := { kerJob 0 0 0x80 0 endAt k with participants := [0, 1], anchor := 0 }
    let s (endAt : Nat) := rs (j endAt { stop := true, partials := [(1, [])] })
    let at0 (j : Job) : State := { dev := { devOn with hedge := { addr := some 0 }, jobs := [j, {}] } }
    kernelDone (s noOffset).dev 0 0 = true ∧ outBlocked (s noOffset).dev 0 0 = false ∧ sidesEnded (rowStart (s noOffset)) 0 0 = .ok () ∧
    (kparam (j noOffset {}).image (descSt (s noOffset).dev 0 0)).endEntry = noOffset ∧ (kparam (j 0 {}).image (descSt (s 0).dev 0 0)).endEntry ≠ noOffset ∧
    isAnchor (s 0).dev (j 0 {}) = false ∧ isAnchor (at0 (j 0 {})).dev (j 0 {}) = true ∧ 1 < (j 0 {}).participants.length ∧ 1 ≠ (j 0 {}).partIndex ∧
    (j 0 {}).participants.length ≤ ([(1, [])] : List (Nat × Bytes)).length + 1 ∧
    (∃ y, ([(1, [])] : List (Nat × Bytes)).foldl (combinePart (kparam (j 0 {}).image (descSt (s 0).dev 0 0))) (.ok { stop := true, partials := [(1, [])] }) = .ok y) ∧
    AtStation (at0 (j 0 {})) 0 0 (· = .kernel) ∧ readPartials (kparam (j 0 {}).image (descSt (s 0).dev 0 0)) 0 [] = [] ∧
    readPartials (kparam (j 0 {}).image (descSt (s 0).dev 0 0)) 13 ([1] ++ le 4 4095 ++ le 8 7) = [(1, 4095, .count 7)] ∧
    (∃ k, foldCell { kind := 1, scope := 0, place := 0, ty := .bool, cells := 4096 } 1 4095 (.count 7) { arrays := [[], []] } = .ok k) := by
  and_intros <;> first | rfl | decide | decide +kernel | exact ⟨_, rfl⟩

/-- IntegerOps: I8, whose least value divided by minus one is itself; the ops of R227 at its ends. -/
theorem test_integer :
    let x : EArg := { ty := .i8, td := .i8, ta := .i8, tb := .i8, tc := .i8, imm := 0, k0 := 0, bounds := [], dict := [] }
    let p (a b : Nat) : Srcs := { a := some (.bits a), b := some (.bits b), c := some (.bits 0) }
    x.ty.isInt = true ∧ (255 : Nat) < 2 ^ x.ty.width ∧ elDiv x (p 0x80 0xFF) = some (.bits 0x80) ∧ elAdd x (p 0x7F 1) = some (.bits 0x80) ∧ elAdds x (p 0x7F 1) = some (.bits 0x7F) ∧
    elMod x (p 0xF9 3) = some (.bits 0xFF) ∧ elDiv x (p 1 0) = none ∧ elShl x (p 1 8) = some (.bits 0) ∧ elSar x (p 0x80 9) = some (.bits 0xFF) ∧ elRotl x (p 0x81 9) = some (.bits 3) ∧
    elementOp 0x20 = some elAdd := by
  and_intros
  all_goals first | rfl | decide +kernel

/-- SumsWithoutOrder: two orders of the same elements; cells of each kind; the ends of VALUE and COUNT. -/
theorem test_sums : [1, 2].Perm [2, 1] ∧ (-2 ^ 415 : Int) ≤ -2 ^ 415 ∧ (-2 ^ 415 : Int) < 2 ^ 415 ∧ (2 ^ 64 - 1 : Nat) < 2 ^ 64 ∧
    Acc.decode ({ value := -2 ^ 415, count := 2 ^ 64 - 1 } : Acc).encode = { value := -2 ^ 415, count := 2 ^ 64 - 1 } := by decide +kernel

/-! ### Shuffle, batch, layout -/

/-- A job of one station with channel 3: two samples, strict, one sample a batch. -/
def chJob (code outs : Nat) (p : Bytes) (x : StRun) : Job :=
  let j := bound (one code 1 outs p x)
  { j with image := { j.image with channels := [{ channel := 3, kind := 1, samples := 2 }] } }

/-- A shuffle parameter block: sample column 0, every row for channel 3, one pass. -/
def shufParam : Bytes := [0, 0xFF] ++ zeros 14 ++ [3, 0, 0, 0] ++ le 4 1 ++ le 4 1 ++ zeros 4

/-- A state with a shuffle station. -/
def shufS (x : ShuffleSt) (i : InPort) : State := rs (chJob 0xA 1 shufParam { ins := [i], outs := [{}], kind := .shuffle x })

/-- ShuffleRows: a row of the last sample, the end of the input, the holdings of another participant. -/
theorem test_shuffle :
    let s := shufS {} (inRows [row32 1])
    let t := shufS {} { eos := true }
    AtStation s 0 0 (· = .shuffle) ∧ (shuffleSt s.dev 0 0).full = false ∧ (getIn s.dev 0 0 0).row? = some (row32 1, 0) ∧ sampleIndex (row32 1) 0 = some 1 ∧
    (∀ c ∈ rowChannels (getJob s.dev 0).image (descSt s.dev 0 0) (row32 1), 1 < (channelD (getJob s.dev 0).image c).samples) ∧
    (getSt t.dev 0 0).kind = .shuffle (shuffleSt t.dev 0 0) ∧ (getIn t.dev 0 0 0).row? = none ∧ inputsDone t.dev 0 0 = true ∧ 1 < [0, 1].length ∧ 1 ≠ (getJob s.dev 0).partIndex :=
  ⟨⟨by decide, rfl, by decide, rfl⟩, rfl, by decide +kernel, by decide, by decide +kernel, rfl, rfl, by decide, by decide, by decide⟩

/-- ShuffleRows: a complete store, its next position and the end behind the last. -/
theorem test_shuffle_emit :
    let x : ShuffleSt := { store := [(3, 0, row32 0), (3, 1, row32 1)], full := true }
    let s (e : Bool) (p : Nat) := shufS { x with emitting := e, pos := [p] } {}
    (s false 0).dev.jobs.length = 2 ∧ (getJob (s false 0).dev 0).participants.length ≤ x.holds.length + 1 ∧
    (∀ c ∈ (shufEntries (getJob (s false 0).dev 0).image (descSt (s false 0).dev 0 0)).map (·.channel), heldSamples x c = List.range (channelD (getJob (s false 0).dev 0).image c).samples) ∧
    0 < (descSt (s true 1).dev 0 0).outPorts ∧ (getOut (s true 1).dev 0 0 0).eos = false ∧ (getQ (s true 1).dev 0 (outQueueNo (getJob (s true 1).dev 0) 0 0)).held = [] ∧
    nextPos (getJob (s true 1).dev 0).image (channelD (getJob (s true 1).dev 0).image 3) 1 [0, 1] 1 = some (1, 1) ∧
    nextPos (getJob (s true 1).dev 0).image (channelD (getJob (s true 1).dev 0).image 3) 1 [0, 1] 2 = none ∧ shufEntry shufParam 0 = ⟨3, 1, 1⟩ := by decide +kernel

/-- PermuterBijective: one sample and the largest N. -/
theorem test_permuter : (1 : Nat) ≤ 2 ^ 48 ∧ (0 : Nat) < 1 ∧ halfBits (2 ^ 48) = 24 := by decide +kernel

/-- A state with a batch station; participant 1's stream in hand. -/
def batchS (x : BatchSt) (i : InPort) : State :=
  rs { chJob 0xB 1 ([3, 0, 0xFF, 0xFF] ++ zeros 4) { ins := [i], outs := [{}], kind := .batch x } with participants := [0, 1] }

/-- BatchRows: a row of this participant's stream and of another's, the end of the own stream, a count. -/
theorem test_batch :
    let s := batchS {} (inRows [row32 0])
    let t := batchS { holders := [(1, { tiles := [colTile [row32 0]] })] } {}
    let u := batchS {} { eos := true }
    AtStation s 0 0 (· = .batch) ∧ (getSt s.dev 0 0).ended = false ∧ (batchCtx (rowStart s) 0 0).parts = 2 ∧ (batchCtx (rowStart s) 0 0).own = 0 ∧ ((batchSt s.dev 0 0).holder 0).ended = false ∧
    outBlocked s.dev 0 0 = false ∧ (batchSt s.dev 0 0).waiting.length < 65536 ∧ headTile (rowStart s) (batchCtx (rowStart s) 0 0) 0 = some (colTile [row32 0], 0) ∧
    0 < (colTile [row32 0]).rowCount ∧ batchPixels (batchCtx (rowStart s) 0 0).im 0 = false ∧
    stopped (takeRows (batchCtx (rowStart s) 0 0) 0 2 true (rowStart s)) 0 = false ∧ (colTile [row32 0]).eos = false ∧
    headTile (rowStart t) (batchCtx (rowStart t) 0 0) 1 = some (colTile [row32 0], 0) ∧ stopped (takeRows (batchCtx (rowStart t) 0 0) 1 2 true (rowStart t)) 0 = false ∧
    headTile (rowStart u) (batchCtx (rowStart u) 0 0) 0 = none ∧ inputsDone u.dev 0 0 = true :=
  ⟨⟨by decide, rfl, by decide, rfl⟩, rfl, rfl, rfl, rfl, by decide, by decide, rfl, by decide, by decide, by decide +kernel, rfl, rfl, by decide +kernel, rfl, by decide⟩

/-- A batch station straight behind a shuffle that has emitted both positions of its one pass, of which it holds no sample. -/
def goS : State :=
  let j := chJob 0xB 1 ([3, 0, 0xFF, 0xFF] ++ zeros 4) {}
  rs { j with
    image := { j.image with
      stations := [stD 0xB 0 1 1 0 8, stD 0xA 1 0 1 8 32], params := [3, 0, 0xFF, 0xFF] ++ zeros 4 ++ shufParam,
      queues := [{ number := 0, producer := 0, depth := 2, format := 1 }, { number := 1, producer := 1, consumer := [(0, 0, 0)], depth := 2, format := 1 }] }
    rt := { queues := [{}, {}], stations := [{ ins := [{}], outs := [{}], kind := .batch {} },
            { outs := [{}], kind := .shuffle { full := true, emitting := true, pos := [2] } }] } }

/-- BatchRows: the own stream goes by what a filter dropped; another's stream ends with an empty tile; another's count. -/
theorem test_batch_gone :
    let u := batchS { holders := [(1, { tiles := [{ flags := 1 }] })] } {}
    AtStation goS 0 0 (· = .batch) ∧ (batchCtx (rowStart goS) 0 0).own < (batchCtx (rowStart goS) 0 0).parts ∧ headTile (rowStart goS) (batchCtx (rowStart goS) 0 0) 0 = none ∧
    inputsDone goS.dev 0 0 = false ∧ (goBy (batchCtx (rowStart goS) 0 0) (rowStart goS)).isSome = true ∧ outBlocked goS.dev 0 0 = false ∧
    headTile (rowStart u) (batchCtx (rowStart u) 0 0) 1 = some ({ flags := 1 }, 0) ∧ (getSt u.dev 0 0).ended = false ∧ 1 ≠ (batchCtx (rowStart u) 0 0).own :=
  ⟨⟨by decide, rfl, by decide, rfl⟩, by decide, rfl, by decide, by decide +kernel, by decide, rfl, rfl, by decide⟩

/-- A slice of batch 0, slot 0: a hole, the last of its batch or not. -/
def sliceTile (flags : Nat) : Tile := { format := 0x14, payloadBytes := 64, payload := sliceHeader 0 0 0 flags 0 0 1 }

/-- BatchRows: a slice, and the last slice of a batch. -/
theorem test_layout :
    let s (flags : Nat) := rs (chJob 0xC 1 (zeros 64) { ins := [{ inbox := [sliceTile flags] }], outs := [{}], kind := .layout {} })
    AtStation (s 4) 0 0 (· = .layout) ∧ (getSt (s 4).dev 0 0).ended = false ∧ outBlocked (s 4).dev 0 0 = false ∧ (getIn (s 4).dev 0 0 0).inbox = sliceTile 4 :: [] ∧
    64 ≤ (sliceTile 4).used.length ∧ bit (u8at (sliceTile 4).used 0x0D) 1 = false ∧ bit (u8at (sliceTile 6).used 0x0D) 1 = true ∧
    (∃ img, slotImage [] (modLayout (modIn (rowStart (s 6)) 0 0 0 InPort.drop) 0 0 (fun x => { x with slots := takeSlice (sliceTile 6).used x.slots })) 0 0 0 = .ok img) :=
  ⟨⟨by decide, rfl, by decide, rfl⟩, rfl, by decide, rfl, by decide +kernel, by decide +kernel, by decide +kernel, ⟨_, rfl⟩⟩

/-- BatchesFill: a batch of one with no finished batch waiting, a bulk and a strict channel, a corrupt sample and a valid one. -/
theorem test_batches_fill :
    let s := batchS {} {}
    (getSt s.dev 0 0).kind = .batch {} ∧ ({} : BatchSt).ready = [] ∧ stopped s.dev 0 = false ∧ 1 ≤ (batchCtx s.dev 0 0).ch.batchSamples ∧
    ({} : BatchSt).slots.length < (batchCtx s.dev 0 0).ch.batchSamples ∧ (batchCtx s.dev 0 0).ch.kind = 1 ∧ ({ kind := 0 } : ChannelD).kind ≠ 1 :=
  by and_intros <;> first | rfl | decide

/-! ### Commits, stops, restarts -/

/-- A job of two participants, anchored at hedge address 0. -/
def twoJob (st : JState) (part : Nat) (c : Option Commit) (g r : Option Gather) : Job :=
  { jobIn st with participants := [0, 1], partIndex := part, commit := c, start := g, restart := r, image := { jobTag := 7 } }

/-- This device is the participant `part` of it. -/
def twoS (st : JState) (part : Nat) (c : Option Commit) (g r : Option Gather) : State :=
  { dev := { devOn with hedge := { addr := some part, reach := [0, 1] }, jobs := [twoJob st part c g r, {}] } }

/-- CommitRows: the anchor's own PREPARE, another participant's notice, the anchor's word, the checkpoint of a drained job. -/
theorem test_prepare :
    let a := twoS .running 0 (some { epoch := 0 }) none none
    let b := twoS .running 0 none none none
    let c := twoS .running 1 none none none
    let e := twoS .running 0 (some { epoch := 0, step := 2 }) none none
    (getJob a.dev 0).state = .running ∧ isAnchor a.dev (getJob a.dev 0) = true ∧ 0 ∈ allParts (getJob a.dev 0) ∧ 0 = (getJob a.dev 0).partIndex ∧
    1 ∈ allParts (getJob b.dev 0) ∧ (getJob b.dev 0).commit = none ∧ 0 = (getJob b.dev 0).openEpoch ∧ isAnchor c.dev (getJob c.dev 0) = false ∧
    partAddr c.dev (getJob c.dev 0) 0 = (getJob c.dev 0).anchor ∧ drained e.dev 0 { epoch := 0, step := 2 } = true ∧
    (stateRegions e.mem (rowStart e) (getJob e.dev 0)).isOk = true ∧ (ckptRoom (e.dev.ckpts.length + 1) (rowStart e) 0x100000).isSome = true := by decide +kernel

/-- CommitRows: a participant that is prepared, the commit at the anchor and elsewhere, one that is late, progress. -/
theorem test_prepared :
    let a (k : Nat) := twoS .running 0 (some { epoch := 0, step := k }) none none
    let b (k : Nat) := twoS .running 1 (some { epoch := 0, step := k }) none none
    1 ∈ allParts (getJob (a 4).dev 0) ∧ 1 ≠ (getJob (a 4).dev 0).partIndex ∧ (0 : Nat) ≠ 0xFFFFFFFF ∧ isAnchor (a 4).dev (getJob (a 4).dev 0) = true ∧
    (getJob (a 6).dev 0).commit = some { epoch := 0, step := 6 } ∧ isAnchor (b 4).dev (getJob (b 4).dev 0) = false ∧ (getJob (b 4).dev 0).commit = some { epoch := 0, step := 4 } ∧
    1 ∉ ({ epoch := 0, step := 4 } : Commit).prepared ∧ 1 = (getJob (b 2).dev 0).partIndex ∧ fromOther (getJob (a 2).dev 0) 1 = true ∧
    partAddr (a 2).dev (getJob (a 2).dev 0) 1 ∈ (a 2).dev.hedge.reach ∧
    atWork (a 6).dev (getJob (a 6).dev 0) 1 = false ∧ atWork (a 4).dev (getJob (a 4).dev 0) 1 = true := by decide +kernel

/-- CommitFacts: every participant prepared at step 4, and not all; a fault at step 4 and step 6 of a running job. -/
theorem test_commit_facts :
    let s (ps : List Nat) (k : Nat) := twoS .running 0 (some { epoch := 0, step := k, cause := 1, prepared := ps }) none none
    (getJob (s [0, 1] 4).dev 0).state ≠ .free ∧ (∀ p ∈ allParts (getJob (s [0, 1] 4).dev 0), p ∈ [0, 1]) ∧ 1 ∈ allParts (getJob (s [0] 4).dev 0) ∧ 1 ∉ [0] ∧
    (0 : Nat) < 64 ∧ (getJob (s [0, 1] 6).dev 0).commit = some { epoch := 0, step := 6, cause := 1, prepared := [0, 1] } := by decide +kernel

/-- RestartRows: STOP of another participant, a unit late, a full reset due, ABORT and ROLLBACK of a job of two. -/
theorem test_stop :
    let s := twoS .running 0 none none none
    (getJob s.dev 0).state.live = true ∧ 1 ∈ (getJob s.dev 0).participants ∧ s.dev.hedge.addr ≠ some 1 ∧ (99 : Nat) < 100 ∧
    (getJob (twoS .held 0 none none none).dev 0).state = .held ∧ (getJob (twoS .restarting 0 none none none).dev 0).state = .restarting ∧
    ({ resetCause := some 1 } : Root).resetCause ≠ none ∧ 1 < (getJob s.dev 0).participants.length ∧ (getJob (twoS .loaded 0 none (some {}) none).dev 0).start.isSome = true ∧
    rebinding s.dev 0 = false ∧ rebinding { s.dev with win := { s.dev.win with inProg := [{ slot := 0, begun := true }] } } 0 = true := by decide

/-- RestartRows: arrivals at the barrier, the anchor's word, a participant missing, restores, RESUME. -/
theorem test_barrier :
    let g : Gather := { arrived := [0] }
    let a := twoS .loaded 0 none (some g) none
    let b := twoS .loaded 1 none (some g) none
    let r := twoS .restarting 0 none none (some { restored := [0, 1] })
    let q := twoS .restarting 1 none none (some {})
    let t := twoS .restarting 1 none none (some { restored := [1] })
    fromOther (getJob a.dev 0) 1 = true ∧ isAnchor a.dev (getJob a.dev 0) = true ∧ (getJob a.dev 0).state.startable = true ∧ 0 = (getJob a.dev 0).image.check ∧
    fromOther (getJob b.dev 0) 0 = true ∧ isAnchor b.dev (getJob b.dev 0) = false ∧ g.passed = false ∧ partAddr b.dev (getJob b.dev 0) 0 = (getJob b.dev 0).anchor ∧
    (getJob a.dev 0).participants.findIdx? (· == 1) = some 1 ∧ 1 ∉ g.arrived ∧ restoring (getJob q.dev 0) = some {} ∧ 1 = (getJob q.dev 0).partIndex ∧
    (getJob r.dev 0).restart = some { restored := [0, 1] } ∧ restoring (getJob r.dev 0) = some { restored := [0, 1] } ∧
    (∀ p ∈ allParts (getJob r.dev 0), p ∈ [0, 1]) ∧ restoring (getJob t.dev 0) = some { restored := [1] } ∧ (getJob t.dev 0).partIndex ∈ [1] ∧ shaleCode 0x0241 = true := by decide +kernel

/-! ### Movers -/

/-- A state whose engine 0 has a channel 63 of Oluat in some state. -/
def chanS (x : Chan) : State := { dev := { devOn with movers := { chans := [((0, 63), x)] } } }

/-- A channel in execution at the one instruction of its program. -/
def running (i : MInstr) : Chan := { state := 1, arm := { owner := 0xFE, prog := [i] }, regs := [0x1000, 0x2000] }

/-- A descriptor of Oluat of one instruction, at address 0. -/
def armDesc : Bytes := zeros 8 ++ [1, 0, 0xFE] ++ zeros 53

/-- The END instruction (R307). -/
def endWord : Bytes := 5 :: zeros 15

/-- MoverRows: a descriptor of one END on an idle channel and on one that runs. -/
theorem test_arm :
    let d := devWrite (start (chanS {})) 0 endWord
    let a := readArm armDesc endWord none
    oluatHolds (chanS {}).dev 0 endWord.length = true ∧ u64at armDesc 0 = 0 ∧ localRead [] d 0 (16 * u16at armDesc 8) = .ok endWord ∧ oluatModes a = true ∧ (0 : Nat) < 96 ∧ (63 : Nat) < 64 ∧ (getEngine d 0).stopped = false ∧ armDesc.length = 64 ∧ allZero armDesc 0x0B 5 = true ∧ endWord.length = 16 * u16at armDesc 8 ∧
    ownsChan d (u8at armDesc 0x0A) 0 63 = true ∧ ({} : Chan).state ≠ 3 ∧ programFault d 0 (u16at armDesc 8) endWord a = none ∧ extentFault d a = none ∧
    programFault (devWrite (start (chanS (running .done))) 0 endWord) 0 1 endWord a = none ∧ extentFault (devWrite (start (chanS (running .done))) 0 endWord) a = none ∧ (running .done).state ≠ 0 ∧ (running .done).pending = none := by decide +kernel

/-- MoverRows: WAIT at its threshold, below it, and past its limit; SIGNAL and END with nothing outstanding and with a write not answered; sums at the counter's end. -/
theorem test_instr :
    let w : Await := { path := .tier, barrier := false, last := 0 }
    (running (.wait 3)).arm.prog[(running (.wait 3)).pc]? = some (.wait 3) ∧ 3 ≤ ({ running (.wait 3) with sync := 3 } : Chan).sync ∧
    (running (.wait 3)).sync < 3 ∧ allComplete (chanS {}).dev 0 63 (running .done) = true ∧ allComplete (chanS {}).dev 0 63 { running .done with since := [w] } = false ∧
    (getChan (chanS { sync := 0xFFFFFFFE }).dev 0 63).sync + 1 ≤ 0xFFFFFFFF ∧ 0xFFFFFFFF < (getChan (chanS { sync := 0xFFFFFFFE }).dev 0 63).sync + 2 ∧
    (∀ p ∈ (running .done).allPaths, p.answered = true) ∧ ({ running .done with state := 2, pending := some {} } : Chan).since = [] := by decide +kernel

/-- A tile without payload, which its seal covers. -/
def bareTile : Tile := ({ format := 1, jobTag := 7, jobSlot := 0, seq := 0 } : Tile).sealed

/-- A state with a job whose first queue, the physical queue 5, holds that tile, and a channel whose MOVE names it. -/
def streamS (f : Nat) (h : Tile) : State :=
  let j := runJob (img2 1 14) (rt2 (.emit {}) { tiles := [h], taken := [0], rows := [0], returned := [0] })
  { dev := { devOn with jobs := [{ j with phys := [5, 6] }, {}], movers := { chans := [((0, 63), { running (.move f 0 1 4160 5) with
      arm := { owner := 0xFE, prog := [.move f 0 1 4160 5], srcQueue := some (0, 1) }, held := some h })] } } }

/-- MoverRows: a MOVE between memories, the three stream forms, a held burst that its consumer takes or has taken. -/
theorem test_move :
    let s := streamS 8 bareTile
    mfStreamSrc 0 = false ∧ mfStreamDst 0 = false ∧ mfStreamSrc 8 = true ∧ mfStreamDst 8 = false ∧ mfStreamSrc 4 = false ∧ mfStreamDst 4 = true ∧ mfStreamSrc 12 = true ∧
    mfStreamDst 12 = true ∧ physQueue s.dev 5 = some (0, 0) ∧ instrQueue s.dev (.move 8 0 1 4160 5) = some (0, 0) ∧ (getChan s.dev 0 63).moveDone 4160 = false ∧
    (getChan s.dev 0 63).arm.srcQueue = some (0, 1) ∧ (getJob s.dev 0).state = .running ∧ remoteBusy s.dev 0 63 = false ∧ demands s.dev 0 0 = some (1, 0) ∧
    (getQ s.dev 0 0).taken.getD 0 0 = 0 ∧
    (getQ s.dev 0 0).taken.getD 0 0 ≠ 1 := by decide +kernel

/-- MoverRows: the held tile passes its consumer's checks. -/
theorem test_burst : checkTile { jobTag := 7, jobSlot := 0, queue := 0, seq := 0, firstRow := 0, format := 1, columns := 0, types := [] } bareTile = none := by
  unfold checkTile bareTile
  rw [if_neg (seal_ok _)]
  decide +kernel
theorem test_burst_taken (t : Tile)
    (h : checkTile { jobTag := 7, jobSlot := 0, queue := 0, seq := 0, firstRow := 0, format := 1, columns := 0, types := [] } { t with seq := 0 } = none) :
    ∃ u, tileConsume 0 1 0 (rowStart (streamS 8 { t with seq := 0 })) = .next u ∧ stopped u 0 = false := by
  have e : tileConsume 0 1 0 (rowStart (streamS 8 { t with seq := 0 })) =
      (match checkTile { jobTag := 7, jobSlot := 0, queue := 0, seq := 0, firstRow := 0, format := 1, columns := 0, types := [] } { t with seq := 0 } with
       | some code => _
       | none => _) := rfl
  rw [e, h]
  exact ⟨_, rfl, rfl⟩

/-- MoverRows: a read-back due, a ring's, a barrier that is acknowledged. -/
theorem test_read_back :
    let w (b : Bool) : Await := { path := .tier, barrier := b, last := 0 }
    let x : Chan := { running .done with state := 2, since := [w false] }
    let h : Await := { path := .emtor 0, barrier := false, last := hostBase + 63 }
    backOut (chanS x).dev 0 63 .tier = true ∧ backOut (chanS { x with since := [h] }).dev 0 63 (.emtor 0) = false ∧
    backOut (readBackReq 0 63 (start (chanS { x with since := [h] })) h) 0 63 (.emtor 0) = true ∧ pathRef (.emtor 0) = some (.emtor 0) ∧
    readBackOpen (chanS { x with since := [h] }).dev { x with since := [h] } (.emtor 0) = some h ∧ pathRef .tier = some .tier ∧ readBackOpen (chanS x).dev x .tier = some (w false) ∧ (0 : Nat) < 3 ∧ ({ unread := true } : Ring).unread = true ∧
    ({ winOn with cmd := { unread := true } } : Window).ring 0 = { unread := true } ∧
    w true ∈ ({ x with since := [w true] } : Chan).since ∧ (w true).path = .tier ∧ (w true).barrier = true ∧ (w true).answered = false := by decide +kernel

/-- MoverStops: a running engine, one that drains, memory and a hole. -/
theorem test_mover_stops :
    let s : State := { dev := { devOn with movers := { engines := [(0, { stopped := true, draining := true })] } } }
    (1 : Nat) ≤ 5 ∧ (5 : Nat) ≤ 5 ∧ (getEngine devOn 0).stopped = false ∧ (getEngine s.dev 0).draining = true ∧ (∀ c < 64, chanReads s.dev 0 c = []) ∧
    (getEngine { s.dev with movers := { engines := [(0, { stopped := true })] } } 0).draining = false ∧ inLocal s.dev 0 = true ∧ inLocal s.dev (hbmEnd - 1) = true ∧
    inLocal s.dev hbmEnd = false := by decide +kernel

/-- BusErrorStopsEngine: a job of two channels, one of the engine and one of another. -/
theorem test_bus_error :
    let j : Job := { jobIn .running with units := [chanRes 0 5] }
    let s : State := { dev := { devOn with jobs := [j, { jobIn .running with units := [chanRes 1 5] }], movers := { chans := [((0, 5), running .done)] } } }
    (getJob s.dev 0).state = .running ∧ (getJob s.dev 0).commit = none ∧ (∃ c < 63, (getJob s.dev 0).units.contains (chanRes 0 c) = true) ∧
    (∀ c < 63, (getJob s.dev 1).units.contains (chanRes 0 c) = false) ∧ 1 ∉ oluatSlots s.dev (getChan s.dev 0 63) ∧
    (∃ x ∈ s.dev.movers.chans, x.1.1 = 0) := ⟨rfl, rfl, ⟨5, by decide, by decide +kernel⟩, by decide +kernel, by decide +kernel, ⟨_, List.mem_singleton.mpr rfl, rfl⟩⟩

/-! ### Links, hedge, chain, board -/

/-- A state with hedge link 3 and port 0 as given. -/
def linkS (l : Link) : State := { dev := { devOn with ports := [l, {}], links := List.replicate 3 {} ++ [l] ++ List.replicate 44 {} } }

/-- LinkRows: the ends of the link numbers; a link in training, one that failed, one that is up in D2, in low power; a port with a read outstanding. -/
theorem test_links :
    linkRefOk ⟨true, 47⟩ = true ∧ linkRefOk ⟨false, 1⟩ = true ∧ 1 ≤ (getLink (linkS { step := 1 }).dev ⟨true, 3⟩).step ∧
    (let l := getLink (linkS { failures := 2 }).dev ⟨true, 3⟩
     1 ≤ l.failures ∧ l.failures < 3 ∧ l.step = 0 ∧ l.up = false ∧ linkEnabled (linkS {}).dev ⟨true, 3⟩ = true) ∧
    (getLink (linkS { up := true }).dev ⟨false, 0⟩).up = true ∧ ({ state := .d2 } : Power).state = .d2 ∧ (getLink (linkS { up := true }).dev ⟨true, 3⟩).lowPower = false ∧
    (getLink (linkS { up := true, lowPower := true }).dev ⟨true, 3⟩).lowPower = true ∧ (zeros 256).length = 256 ∧
    (∃ q, findRead (linkS { up := true, reads := [{ tag := 5, addr := 0, len := 64, reader := .mover 0 0 }] }).dev 0 5 = some q) ∧ 1 ≤ [(7 : Byte)].length :=
  ⟨by decide, by decide, by decide, by decide +kernel, by decide, by decide, by decide, by decide, by decide +kernel, ⟨_, rfl⟩, by decide⟩

/-- LinkRows: a codeword time on 16 lanes. FEC: the generator ends as IEEE 802.3 lists it (log entry 120), and the parity of a data symbol 1 sent last is that
generator's lower part. -/
theorem test_codeword :
    [toLanes 16 (List.replicate 544 0)].all (lanesOk 16) = true ∧ rsGenerator.take 4 = [523, 834, 128, 158] ∧ rsGenerator.drop 28 = [552, 575, 1] ∧
    rsParity [0, 0, 1] = (rsGenerator.take 30).reverse := by decide +kernel

/-- A flit with its CHECK. -/
def flit (kind flags seq ack cred : Nat) (body : Bytes) : Bytes :=
  let h := [byteOf kind, byteOf flags] ++ le 2 seq ++ le 2 ack ++ le 2 cred ++ padTo 240 body
  h ++ le 8 (crc64 h)

/-- FlitsInOrder: the last SEQ of the count, a gap, the expected flit again with REPLAY while discarding, an idle flit with an ACK; a flit whose CHECK fails. -/
theorem test_flits :
    let b (flags seq : Nat) := flit 2 flags seq 0 1 []
    let d (l : Link) : Dev := (linkS { l with up := true }).dev
    (∀ flags ∈ [0, 4], crc64 (slice (b flags 4095) 0 248) = u64at (b flags 4095) 248 ∧ u8at (b flags 4095) 1 < 8 ∧ u16at (b flags 4095) 2 < 4096 ∧ u16at (b flags 4095) 4 < 4096 ∧
      bit (u8at (b flags 4095) 1) 0 = false ∧ bit (u8at (b flags 4095) 1) 1 = false ∧ u8at (b flags 4095) 0 = 2) ∧
    u16at (b 0 4095) 2 = (getLink (d { rxSeq := 4095 }) ⟨true, 3⟩).rxSeq ∧ u16at (b 0 4095) 2 ≠ (getLink (d { rxSeq := 4094 }) ⟨true, 3⟩).rxSeq ∧
    bit (u8at (b 4 4095) 1) 2 = true ∧ bit (u8at (b 0 4095) 1) 2 = false ∧ crc64 (slice ((b 0 4095).set 20 1) 0 248) ≠ u64at ((b 0 4095).set 20 1) 248 ∧
    (let a := flit 0 1 0 4095 0 []
     u8at a 0 = 0 ∧ u16at a 6 = 0 ∧ allZero a 8 240 = true ∧ bit (u8at a 1) 0 = true ∧ bit (u8at a 1) 1 = false ∧
     ackCovers { txSent := 4097, txAcked := 4095 } (u16at a 4) = some 1 ∧ (4095 : Nat) ≤ 4097) ∧
    walkSlots true 15 {} (zeros 240) = .inr {} ∧ slice (flit 1 0 4095 0 0 []) 8 240 = zeros 240 ∧
    walkSlots true 15 {} (slice (flit 1 0 4095 0 0 [0xFF]) 8 240) = .inl 1 := by
  and_intros <;> decide +kernel

/-- A device at hedge address 2 with an admitted hedge link 3, and a running job whose first queue waits for a FLUSH_ACK of participant 1 at address 9. -/
def hedgeS : State :=
  let j := { runJob (img2 1 14) (rt2 .plain { flushing := 1 }) with participants := [2, 9] }
  { dev := { (linkS { up := true, peer := { verified := true, approved := true, peerApproves := true } }).dev with jobs := [j, {}], hedge := { addr := some 2 } } }

/-- A packet for a device. -/
def pk (dest job aux : Nat) (data : Bytes) : PktArg := { pflags := 0, dest := dest, src := 9, hops := 0, engine := 0xFF, jobTag := job, tag := 0, addr := 0, aux := aux, data := data }

/-- HedgeRows: memory packets of 1 and 4,096 bytes, tiles of a job that is not here, an awaited FLUSH_ACK, a packet for another. -/
theorem test_hedge :
    let l := hedgeS.dev.links.getD 3 {}
    (3 : Nat) < 48 ∧ forThis hedgeS.dev 3 (pk 2 0 0 [1]) = true ∧ 1 ≤ (pk 2 0 0 [1]).data.length ∧ 1 ≤ (pk 2 0 (2 ^ 44) []).aux >>> 32 ∧ (pk 2 0 (2 ^ 44) []).aux >>> 32 ≤ 4096 ∧
    l.isAdmitted = true ∧ l.isVerified = true ∧ slotOfTag hedgeS.dev 8 = none ∧ slotOfTag hedgeS.dev 7 = some 0 ∧ (getJob hedgeS.dev 0).state = .running ∧
    0 < (getQ hedgeS.dev 0 ((pk 2 7 0 []).aux / pow2 48)).flushing ∧ (senderPart (getJob hedgeS.dev 0) 9).isSome = true ∧ (zeros 4160).length = 4160 ∧
    (∃ t, hedgeTile 3 (pktOf 0x10 (pk 2 8 0 (zeros 4160))) hedgeS.dev = .next t) ∧ forwardable hedgeS.dev 1 (pk 5 0 0 [1]) = true ∧ bit (pk 5 0 0 [1]).pflags 1 = false := by
  and_intros
  on_goal 14 => exact ⟨hedgeS.dev, rfl⟩
  on_goal 13 => exact List.length_replicate
  all_goals first | rfl | decide

/-- HedgeRows: a sealed tile of the running job from its other participant; a queue that feeds a batch station, and one that does not. -/
theorem test_hedge_job :
    let p := pk 2 7 0 bareTile.bytes
    let j : Job := { getJob (batchS {} {}).dev 0 with participants := [2, 9] }
    (Tile.ofBytes p.data).computeSeal = (Tile.ofBytes p.data).crc ∧ p.data.length = 4160 ∧ (Tile.ofBytes p.data).queue < (getJob hedgeS.dev 0).image.queues.length ∧
    senderPart (getJob hedgeS.dev 0) p.src = some 1 ∧ slotOfTag hedgeS.dev p.jobTag = some 0 ∧ (hedgeS.dev.links.getD 3 {}).isAdmitted = true ∧
    batchesOf j 1 = [0] ∧ farQueues j = [1] ∧ batchesOf (getJob hedgeS.dev 0) (p.aux / pow2 48) = [] ∧ p.aux / pow2 48 < (getJob hedgeS.dev 0).image.queues.length := by
  refine ⟨Tile.ofBytes_sealed _ rfl, ?_, ?_⟩
  · show (bareTile.head ++ le 8 bareTile.crc ++ padTo 4096 bareTile.payload).length = 4160
    rw [List.length_append, List.length_append, Tile.head_length, le_length, padTo_length]
  · and_intros <;> first | rfl | decide +kernel

/-- HedgeRows: writes not acknowledged, a pending time exchange, a link that is up and not verified, the lengths of the identity messages. -/
theorem test_hedge_link :
    0 < (getRx { hedgeS.dev with hedge := { rx := [{ engine := 1, src := 9, unacked := 2 }] } } 1 9).unacked ∧ ({ t1 := some 5 } : Hedge).t1 = some 5 ∧
    (let l := (linkS { up := true, peer := { key := [1] } }).dev.links.getD 3 {}
     l.up = true ∧ l.peer.verified = false ∧ l.peer.key ≠ []) ∧ (zeros 1984).length = 1984 ∧ (zeros 3309).length = 3309 :=
  ⟨by decide, rfl, by decide, List.length_replicate, List.length_replicate⟩

/-- A chain COMMAND frame in one piece. -/
def cmdFrame (dest cid : Nat) : Frame := { dest := dest, src := 0, kind := 4, last := true, cid := cid, offset := 0, data := [1, 2] }

/-- ChainRows: the last address and one beyond, an enumeration without an answer, a frame that fails its CRC, commands new, in progress, answered, refused. -/
theorem test_chain :
    let c : Chain := { addr := 3, enumNext := some 4, cid := some 1, buf := [1], answers := [(5, [0])], watch := [(4, 3, false)], turnDown := true }
    let s : State := { dev := { devOn with chain := c } }
    chainOn s.dev = true ∧ (1 : Nat) ≤ 64 ∧ (65 : Nat) < 256 ∧ ¬ (65 : Nat) ≤ 64 ∧ s.dev.chain.enumNext = some 4 ∧ readFrame [1, 2] = none ∧
    readFrame (cmdFrame 3 5).bytes = some (cmdFrame 3 5) ∧ (cmdFrame 3 5).kind = 4 ∧ (cmdFrame 3 5).dest = s.dev.chain.addr ∧ s.dev.chain.addr ≠ 0 ∧
    assocGet s.dev.chain.answers (cmdFrame 3 5).cid = some [0] ∧ assocGet s.dev.chain.answers 1 = none ∧ ({} : Chain).cid = none ∧ s.dev.chain.cid = some 1 ∧ (1 : Nat) ≠ 2 ∧
    readFrame (cmdFrame 9 5).bytes = some (cmdFrame 9 5) ∧ (cmdFrame 9 5).dest ≠ s.dev.chain.addr ∧ s.dev.chain.turnDown = true ∧ ({ turnDown := false } : Chain).turnDown = false ∧
    s.dev.chain.watch.find? (fun w => w.1 == s.dev.chain.addr + 1) = some (s.dev.chain.addr + 1, 3, false) ∧ s.dev.chain.addr < 64 := by decide +kernel

/-- BoardRows: straps not latched, a reset asserted and released, the reference, the trip, rails in D3, a boot that can end with and without a pending image, a
die that wakes, the hub, rails on. -/
theorem test_board :
    let r := devOn.root
    ({ r with strapsLatched := false } : Root).strapsLatched = false ∧ r.strapsLatched = true ∧ r.resetNLow = false ∧ r.tripped = false ∧ r.refOk = true ∧ r.railsOn = true ∧
    ({ r with resetNLow := true } : Root).resetNLow = true ∧ ({ r with refOk := false } : Root).refOk = false ∧ ({ state := .d3 } : Power).state = .d3 ∧
    bootReady {} = true ∧ pendingTarget {} = none ∧ pendingTarget { cache := [{}, { pending := true }, {}], flash := [{}, { pending := true }, {}] } = some 1 ∧
    ({ waking := [99] } : Power).waking.contains 99 = true ∧ hubOn devOn = true ∧ ({ state := .recovery } : Power).state = .recovery := by decide +kernel

/-! ### Worked examples of the manual -/

/-- 04, the example of R109: the four FP32 terms 2^24, 1, -2^24, 1 in two orders give VALUE 2^150, COUNT 4, and read out as 2.0. -/
theorem test_example_sum :
    let sum (xs : List Nat) : Acc := xs.foldl (fun a b => a.addElem .fp32 b) {}
    sum [0x4B800000, 0x3F800000, 0xCB800000, 0x3F800000] = { value := 2 ^ 150, count := 4 } ∧
    sum [0x3F800000, 0x3F800000, 0x4B800000, 0xCB800000] = { value := 2 ^ 150, count := 4 } ∧
    (sum [0x4B800000, 0x3F800000, 0xCB800000, 0x3F800000]).readSum .fp32 = 0x40000000 := by decide +kernel

/-- 06, the example of R171: 8 granules at head 31 of 36 start at 0 and are charged 13; block 1's 12 follow block 0. -/
theorem test_example_extent : placeExtent 31 8 36 = (0, 13, 8) ∧ placeExtent 0 12 36 = (0, 12, 12) ∧ placeExtent 12 19 36 = (12, 19, 31) := by decide

/-- 08, the example of the bucket search: the list 0.0, 10.0, 100.0. -/
theorem test_example_bucket :
    let x : EArg := { ty := .fp32, td := .u32, ta := .fp32, tb := .fp32, tc := .fp32, imm := 0, k0 := 0, bounds := [0, 0x41200000, 0x42C80000], dict := [] }
    let at' (n : Nat) : Option Val := elBucket x { a := some (.bits n), b := none, c := none }
    at' 0xC0A00000 = some (.bits 0) ∧ at' 0x80000000 = some (.bits 1) ∧ at' 0x41200000 = some (.bits 2) ∧ at' 0x49742400 = some (.bits 3) ∧ at' 0x7F800000 = some (.bits 3) ∧
    at' 0x7FC00000 = some (.bits 4) := by decide +kernel

/-- 09, the example of R249: keys and buckets of FP32. -/
theorem test_example_key : topkKey .fp32 0x3F800000 false = 0xBF800000 ∧ topkBucket 0xBF800000 32 = 0xBF8 ∧ topkKey .fp32 0xBF800000 false = 0x407FFFFF ∧
    topkKey .fp32 0 false = 0x80000000 ∧ topkKey .fp32 0x80000000 false = 0x80000000 ∧ topkKey .fp32 0xFF800000 false = 0x007FFFFF := by decide +kernel

/-- 11, the example of R282: the first sample of the pass over ten, and where it stands. -/
theorem test_example_permuter : sampleAt [3, 5, 6, 12] 10 0 = 8 ∧ positionOf [3, 5, 6, 12] 10 8 = 0 := by decide +kernel

/-- 05, the example of R162: thresholds 8.0, 9.0 and 10.0 s; the rows below the frontier leave in the order of time and feed. -/
theorem test_example_align :
    let s (n : Nat) : Nat := 100000 * n
    let x : StRun := { ins := [{}, {}, {}], outs := [{}, {}],
                       kind := .align { w := [s 100, s 110, s 120], feedNo := [0, 1, 2],
                                        hold := [((s 79, 0, 99), timeRow (s 79)), ((s 79, 1, 39), timeRow (s 79)), ((s 81, 0, 100), timeRow (s 81))] } }
    let j := one 4 3 2 (zeros 4 ++ le 4 16 ++ zeros 24) x
    let d := (rs { j with image := { j.image with latenessUs := 2000000 } }).dev
    frontierOf 2000000 [s 100, s 110, s 120] = s 80 ∧ (alignSt (alignRelease d 0 0) 0 0).hold = [((s 81, 0, 100), timeRow (s 81))] := by decide +kernel

end Sys2Proof.Tests
end

section
/-!
PROOFS. Reserved command codes (00 R10): which codes the catalogue assigns, what a completion leaves in progress, and the settled statement.
-/

namespace Sys2Proof.Machine

open Sys2Proof

/-- The codes that the catalogue of commands assigns (00, the table of R10). -/
def assignedCodes : List Nat :=
  [0x0001, 0x0002, 0x0010, 0x0011, 0x0013, 0x0014, 0x0015, 0x0016, 0x0017, 0x0018, 0x0019, 0x001A, 0x0020, 0x0021, 0x0022,
   0x0030, 0x0031, 0x0040, 0x0041, 0x0042, 0x0043, 0x0050, 0x0051, 0x0060, 0x0061, 0x0062, 0x0063, 0x0064, 0x0070, 0x0071, 0x0080, 0x0081, 0x0090, 0x00F0]

theorem cmdKind_isSome_of_mem : ∀ op ∈ assignedCodes, (cmdKind op).isSome = true := by decide

theorem cmdKind_eq_none_of_not_mem {op : Nat} (h : op ∉ assignedCodes) : cmdKind op = none := by
  unfold cmdKind
  split
  case h_35 => rfl
  all_goals exact absurd (by decide) h

/-- A code is reserved exactly if the catalogue does not assign it. -/
theorem cmdKind_eq_none_iff (op : Nat) : cmdKind op = none ↔ op ∉ assignedCodes := by
  constructor
  · intro hnone hmem
    have hsome := cmdKind_isSome_of_mem op hmem
    simp [hnone] at hsome
  · exact cmdKind_eq_none_of_not_mem

@[simp] theorem hostSlots_win (d : Dev) (n : Nat) : (hostSlots d n).win = d.win := by
  obtain ⟨ps, h⟩ := hostSlots_frame d n
  rw [h]

@[simp] theorem hostWrite_win (d : Dev) (a : Nat) (bs : Bytes) : (hostWrite d a bs).win = d.win := by
  obtain ⟨ps, h⟩ := hostWrite_frame d a bs
  rw [h]

@[simp] theorem writeResp_inProg (d : Dev) (a : Nat) (resp : Bytes) : (writeResp d a resp).win.inProg = d.win.inProg := by
  unfold writeResp
  split
  · rfl
  · split
    · rfl
    · simp [postFirst]

@[simp] theorem writeCpl_inProg (d : Dev) (e : Bytes) : (writeCpl d e).win.inProg = d.win.inProg := by
  unfold writeCpl
  dsimp only
  split
  · rfl
  · simp

/-- A completion takes its command out of those in progress, and no other (R72). -/
theorem complete_inProg (d : Dev) (c : Cmd) (st dt : Nat) (resp : Bytes) (slot : Nat) :
    (complete d c st dt resp slot).win.inProg = d.win.inProg.filter (fun x => !(x.index == c.index && x.chain == c.chain)) := by
  unfold complete
  dsimp only
  split
  · rfl
  · rw [writeCpl_inProg, writeResp_inProg]
    rfl

theorem mem_inProg_of_findCmd {d : Dev} {idx : Nat} {c : Cmd} (h : findCmd d idx = some c) : c ∈ d.win.inProg :=
  List.mem_of_find?_eq_some h

/-- No ring index finds a completed command. -/
theorem findCmd_complete_ne (d : Dev) (c : Cmd) (st dt : Nat) (resp : Bytes) (slot idx : Nat) :
    findCmd (complete d c st dt resp slot) idx ≠ some c := by
  intro h
  have hmem := mem_inProg_of_findCmd h
  rw [complete_inProg, List.mem_filter] at hmem
  simp at hmem

/-- UNKNOWN_COMMAND rejects a reserved code that is in progress, once the rings are served and a port is up to answer through (00 R10). -/
theorem unknownCommand_reserved {d : Dev} {idx : Nat} {c : Cmd} (hfind : findCmd d idx = some c) (hkind : cmdKind c.opcode = none)
    (hserved : served d = true) (hport : (hostPort d).isSome = true) :
    unknownCommand idx d = .next (complete d c 0x0001 0 [] c.slot) := by
  have hup : (hostPort d).isNone = false := by simpa using hport
  simp [unknownCommand, hfind, hkind, hserved, hup]

theorem exec_unknownCommand (idx : Nat) (s : State) : exec (.unknownCommand idx) s = runDev s (fun _ d => unknownCommand idx d) := rfl

theorem takes_unknownCommand {s : State} {idx : Nat} {c : Cmd} (hfind : findCmd s.dev idx = some c) (hkind : cmdKind c.opcode = none)
    (hserved : served s.dev = true) (hport : (hostPort s.dev).isSome = true) :
    Takes (.unknownCommand idx) s (complete (start s) c 0x0001 0 [] c.slot) := by
  have hstart : unknownCommand idx (start s) = .next (complete (start s) c 0x0001 0 [] c.slot) :=
    unknownCommand_reserved hfind hkind hserved hport
  exact (exec_unknownCommand idx s).trans (runDev_next hstart)

end Sys2Proof.Machine

namespace Sys2Proof

open Sys2Proof.Machine

/-- Settles O17, by the frame of a completion: a reserved code leads to its completion alone, which drops the command. -/
theorem reservedCode : Obligations.ReservedCode := by
  refine ⟨cmdKind_eq_none_iff, fun s idx c hfind hkind hserved hport => ⟨takes_unknownCommand hfind hkind hserved hport, ?_⟩⟩
  refine ⟨findCmd_complete_ne (start s) c 0x0001 0 [] c.slot idx, ?_⟩
  obtain ⟨w, ps, po, ch, hframe⟩ := complete_frame (start s) c 0x0001 0 [] c.slot
  simp [hframe]

end Sys2Proof
end

section
/-!
PROOFS. The seal (02 R31, R34): CRC-64 tells apart two byte lists that differ in one byte, because each step of the check loses nothing of the register.
-/

namespace Sys2Proof.Machine

open Sys2Proof

/-- The polynomial's top bit is set, so bit 63 of the register after one bit of CRC-64 is the bit that was shifted out. -/
theorem crcBit64_testBit_top {c : Nat} (hc : c < 2 ^ 64) : (crcBit 0x9A6C9329AC4BC9B5 c).testBit 63 = decide (c % 2 = 1) := by
  have htop : (c / 2).testBit 63 = false := Nat.testBit_lt_two_pow (by omega)
  have hpoly : (0x9A6C9329AC4BC9B5 : Nat).testBit 63 = true := by decide
  unfold crcBit
  split
  case isTrue hodd => rw [Nat.testBit_xor, htop, hpoly, hodd]; rfl
  case isFalse heven => rw [htop]; simp [heven]

/-- One bit of CRC-64 keeps different registers different: the bit shifted out and the rest can both be read from the result. -/
theorem crcBit64_inj {a b : Nat} (ha : a < 2 ^ 64) (hb : b < 2 ^ 64) (h : crcBit 0x9A6C9329AC4BC9B5 a = crcBit 0x9A6C9329AC4BC9B5 b) : a = b := by
  have hparity : decide (a % 2 = 1) = decide (b % 2 = 1) := by rw [← crcBit64_testBit_top ha, ← crcBit64_testBit_top hb, h]
  have hrest : a / 2 = b / 2 := by
    unfold crcBit at h
    by_cases hodd : a % 2 = 1
    · have hodd' : b % 2 = 1 := by simpa [hodd] using hparity
      rw [if_pos hodd, if_pos hodd'] at h
      exact Nat.xor_left_inj.mp h
    · have hodd' : ¬ b % 2 = 1 := by simpa [hodd] using hparity
      rwa [if_neg hodd, if_neg hodd'] at h
  have hlast : a % 2 = b % 2 := by
    have hiff := decide_eq_decide.mp hparity
    omega
  omega

/-- So do several bits. -/
theorem crcBits64_inj : ∀ {n a b : Nat}, a < 2 ^ 64 → b < 2 ^ 64 → crcBits 0x9A6C9329AC4BC9B5 n a = crcBits 0x9A6C9329AC4BC9B5 n b → a = b
  | 0, _, _, _, _, h => h
  | n + 1, _, _, ha, hb, h => crcBit64_inj ha hb (crcBits64_inj (n := n) (crcBit_lt (by decide) ha) (crcBit_lt (by decide) hb) h)

/-- A byte XORed into a register of 64 bits leaves 64 bits. -/
theorem xor_byte_lt {c : Nat} (hc : c < 2 ^ 64) (b : Byte) : c ^^^ b.toNat < 2 ^ 64 :=
  Nat.xor_lt_two_pow hc (Nat.lt_of_lt_of_le b.isLt (by decide))

/-- A run of CRC-64 over the same bytes keeps different registers different. -/
theorem crcRun64_inj : ∀ {bs : Bytes} {a b : Nat}, a < 2 ^ 64 → b < 2 ^ 64 → crcRun 0x9A6C9329AC4BC9B5 bs a = crcRun 0x9A6C9329AC4BC9B5 bs b → a = b
  | [], _, _, _, _, h => h
  | x :: xs, a, b, ha, hb, h => by
    have hbits := crcRun64_inj (bs := xs) (crcBits_lt (by decide) (xor_byte_lt ha x)) (crcBits_lt (by decide) (xor_byte_lt hb x)) h
    exact Nat.xor_left_inj.mp (crcBits64_inj (xor_byte_lt ha x) (xor_byte_lt hb x) hbits)

/-- Runs that begin at one register over bytes that differ in the first byte only end at different registers. -/
theorem crcRun64_head_ne {c : Nat} (hc : c < 2 ^ 64) {u v : Byte} (huv : u ≠ v) (bs : Bytes) :
    crcRun 0x9A6C9329AC4BC9B5 (u :: bs) c ≠ crcRun 0x9A6C9329AC4BC9B5 (v :: bs) c := by
  intro h
  have hbits := crcRun64_inj (crcBits_lt (n := 8) (by decide) (xor_byte_lt hc u)) (crcBits_lt (n := 8) (by decide) (xor_byte_lt hc v)) h
  have hbytes := Nat.xor_right_inj.mp (crcBits64_inj (xor_byte_lt hc u) (xor_byte_lt hc v) hbits)
  exact huv (BitVec.eq_of_toNat_eq hbytes)

/-- A run over bytes is the run over the first part, then over the rest. -/
theorem crcRun_append (poly : Nat) : ∀ (xs ys : Bytes) (c : Nat), crcRun poly (xs ++ ys) c = crcRun poly ys (crcRun poly xs c)
  | [], _, _ => rfl
  | x :: xs, ys, c => crcRun_append poly xs ys (crcBits poly 8 (c ^^^ x.toNat))

/-- Lists of bytes that differ in one byte have different CRC-64s. -/
theorem crc64_ne_of_one_byte (pre post : Bytes) {u v : Byte} (huv : u ≠ v) : crc64 (pre ++ u :: post) ≠ crc64 (pre ++ v :: post) := by
  intro h
  unfold crc64 at h
  rw [crcRun_append, crcRun_append] at h
  exact crcRun64_head_ne (crcRun_lt (by decide) (by decide) (by decide)) huv post (Nat.xor_left_inj.mp h)

/-- Two lists of bytes of one length that differ at one index and nowhere else share what stands before and behind it. -/
theorem split_at_difference {x y : Bytes} {i : Nat} (hlen : x.length = y.length) (hi : i < x.length) (hne : x[i]? ≠ y[i]?) (heq : ∀ j, j ≠ i → x[j]? = y[j]?) :
    ∃ pre post u v, u ≠ v ∧ x = pre ++ u :: post ∧ y = pre ++ v :: post := by
  have hi' : i < y.length := hlen ▸ hi
  refine ⟨x.take i, x.drop (i + 1), x[i], y[i], fun h => hne (by simp [hi, hi', h]), by simp, ?_⟩
  have htake : x.take i = y.take i := List.ext_getElem? fun j => by
    rw [List.getElem?_take, List.getElem?_take]
    split
    · exact heq j (by omega)
    · rfl
  have hdrop : x.drop (i + 1) = y.drop (i + 1) := List.ext_getElem? fun j => by
    rw [List.getElem?_drop, List.getElem?_drop]
    exact heq _ (by omega)
  rw [htake, hdrop]
  simp

/-- The 4,152 bytes that a tile's seal covers (R31). -/
def Tile.covered (t : Tile) : Bytes := t.head ++ padTo 4096 t.payload

theorem Tile.computeSeal_eq (t : Tile) : t.computeSeal = crc64 t.covered := rfl

theorem Tile.covered_length (t : Tile) : t.covered.length = 4152 := by
  rw [Tile.covered, List.length_append, t.head_length, padTo_length]

/-- Tiles whose covered bytes differ in one byte have different seals. -/
theorem Tile.computeSeal_ne {a b : Tile} {i : Nat} (hi : i < 4152) (hne : a.covered[i]? ≠ b.covered[i]?) (heq : ∀ j, j ≠ i → a.covered[j]? = b.covered[j]?) :
    a.computeSeal ≠ b.computeSeal := by
  obtain ⟨pre, post, u, v, huv, ha, hb⟩ :=
    split_at_difference (a.covered_length.trans b.covered_length.symm) (a.covered_length.symm ▸ hi) hne heq
  rw [a.computeSeal_eq, b.computeSeal_eq, ha, hb]
  exact crc64_ne_of_one_byte pre post huv

/-- A tile whose seal is wrong fails its first check (R35, R37). -/
theorem checkTile_bad_seal (x : Expect) {t : Tile} (h : t.computeSeal ≠ t.crc) : checkTile x t = some 0x0101 := by
  unfold checkTile
  rw [if_pos h]

theorem Tile.bytes_length (t : Tile) : t.bytes.length = 4160 := by
  rw [Tile.bytes, List.length_append, List.length_append, t.head_length, le_length, padTo_length]

/-- The seal of a tile in memory stands at 0x38 (R27). -/
theorem Tile.u64at_bytes_seal (t : Tile) (h : t.crc < 2 ^ 64) : u64at t.bytes 0x38 = t.crc := by
  have hread (bs : Bytes) : u64at bs 0x38 = (Tile.ofBytes bs).crc := rfl
  rw [hread, t.ofBytes_crc h]

/-- The bytes of a tile around its seal are those that the seal covers. -/
theorem Tile.bytes_around_seal (t : Tile) : t.bytes.take 56 ++ t.bytes.drop 64 = t.covered := by
  have htake : t.bytes.take 56 = t.head := by rw [Tile.bytes, List.append_assoc, List.take_left' t.head_length]
  have hdrop : t.bytes.drop 64 = padTo 4096 t.payload :=
    List.drop_left' (by rw [List.length_append, t.head_length, le_length])
  rw [htake, hdrop, Tile.covered]

/-- The check value of CRC-64/NVME. -/
theorem crc64_check_value : crc64 [0x31, 0x32, 0x33, 0x34, 0x35, 0x36, 0x37, 0x38, 0x39] = 0xAE8B14860A799888 := by decide +kernel

end Sys2Proof.Machine

namespace Sys2Proof

open Sys2Proof.Machine

/-- Settles O24: no step of CRC-64 loses anything of its register, so a difference in one byte lasts to the seal. -/
theorem sealFindsOneByte : Obligations.SealFindsOneByte := by
  refine ⟨crc64_check_value, fun t => ⟨t.bytes_length, t.u64at_bytes_seal, ?_⟩, fun a b i hi => ?_⟩
  · rw [t.bytes_around_seal]
    rfl
  · intro x y hne heq
    have hseal := Tile.computeSeal_ne (a := a) (b := b) hi hne heq
    refine ⟨hseal, fun e hcrc => checkTile_bad_seal e ?_⟩
    rw [hcrc]
    exact hseal.symm

end Sys2Proof
end

section
/-!
PROOFS. A tile written to memory and read back (02 R26, R27): each field of the header stands behind those before it.
-/

namespace Sys2Proof.Machine

open Sys2Proof

/-- Bytes behind a first part are read from where that part ends. -/
theorem slice_append_right {a : Bytes} (b : Bytes) {off : Nat} (len : Nat) (h : a.length ≤ off) : slice (a ++ b) off len = slice b (off - a.length) len := by
  simp only [slice, List.drop_append, List.drop_eq_nil_of_le h, List.nil_append]

theorem u8at_append_right {a : Bytes} (b : Bytes) {off : Nat} (h : a.length ≤ off) : u8at (a ++ b) off = u8at b (off - a.length) := by
  simp only [u8at, List.getD_eq_getElem?_getD, List.getElem?_append_right h]

/-- A number of `n` bytes at the front is read back. -/
theorem uat_le_append (n v : Nat) (rest : Bytes) (h : v < 2 ^ (8 * n)) : uat (le n v ++ rest) 0 n = v := by
  rw [uat, show slice (le n v ++ rest) 0 n = le n v from slice_mid (a := []) rfl (le_length n v), leNat_le, Nat.mod_eq_of_lt h]

theorem u8at_le_append (v : Nat) (rest : Bytes) (h : v < 2 ^ 8) : u8at (le 1 v ++ rest) 0 = v := Nat.mod_eq_of_lt h

/-- What stands behind a number of `n` bytes is read from where that number ends. -/
theorem uat_skip_le (n v : Nat) (rest : Bytes) {off : Nat} (len : Nat) (h : n ≤ off) : uat (le n v ++ rest) off len = uat rest (off - n) len := by
  rw [uat, slice_append_right rest len (by rwa [le_length]), le_length]
  rfl

theorem u8at_skip_le (n v : Nat) (rest : Bytes) {off : Nat} (h : n ≤ off) : u8at (le n v ++ rest) off = u8at rest (off - n) := by
  rw [u8at_append_right rest (by rwa [le_length]), le_length]

/-- The fields of a tile in memory, one behind the other (R27). -/
theorem Tile.bytes_eq (t : Tile) : t.bytes =
    le 1 t.version ++ (le 1 t.format ++ (le 1 t.jobSlot ++ (le 1 t.flags ++ (le 4 t.jobTag ++ (le 2 t.producer ++ (le 2 t.rowCount ++ (le 4 t.queue ++
    (le 8 t.seq ++ (le 4 t.epoch ++ (le 2 t.payloadBytes ++ (le 2 t.rsv1 ++ (le 8 t.columns ++ (le 8 t.firstRow ++ (le 8 t.rsv2 ++
    (le 8 t.crc ++ padTo 4096 t.payload))))))))))))))) := by
  simp only [Tile.bytes, Tile.head, List.append_assoc]

end Sys2Proof.Machine

namespace Sys2Proof

open Sys2Proof.Machine

/-- Settles O25, by reading each field past those that stand before it. -/
theorem tileBytesRoundTrip : Obligations.TileBytesRoundTrip := by
  intro t hversion hformat hjobSlot hflags hjobTag hproducer hrowCount hqueue hseq hepoch hpayloadBytes hrsv1 hcolumns hfirstRow hrsv2 hcrc hpayload
  have hpay : slice t.bytes 64 4096 = t.payload := t.ofBytes_payload.trans (padTo_self hpayload)
  have hseal : u64at t.bytes 0x38 = t.crc := t.u64at_bytes_seal hcrc
  suffices h : Tile.ofBytes t.bytes = ⟨t.version, t.format, t.jobSlot, t.flags, t.jobTag, t.producer, t.rowCount, t.queue, t.seq, t.epoch, t.payloadBytes,
    t.rsv1, t.columns, t.firstRow, t.rsv2, t.payload, t.crc⟩ from h
  rw [Tile.ofBytes, hpay, hseal, t.bytes_eq]
  simp (disch := omega) only [u16at, u32at, u64at, uat_skip_le, u8at_skip_le, uat_le_append, u8at_le_append, Nat.reduceSub]

end Sys2Proof
end

section
/-!
PROOFS. The records of a RECORDS payload (02 R39): end offsets read back, and the area split at them.
-/

namespace Sys2Proof.Machine

open Sys2Proof

/-- The end offsets of records as numbers, from a start offset. -/
def endsFrom : List Bytes → Nat → List Nat
  | [], _ => []
  | r :: rs, e => (e + r.length) :: endsFrom rs (e + r.length)

theorem endsFrom_length : ∀ (rs : List Bytes) (e : Nat), (endsFrom rs e).length = rs.length
  | [], _ => rfl
  | r :: rs, e => congrArg (· + 1) (endsFrom_length rs (e + r.length))

/-- The last end offset is where the records end. -/
theorem endsFrom_getLastD : ∀ (rs : List Bytes) (e : Nat), (endsFrom rs e).getLastD e = e + rs.flatten.length
  | [], _ => rfl
  | r :: rs, e => by
    rw [endsFrom, List.getLastD_cons, endsFrom_getLastD rs (e + r.length), List.flatten_cons, List.length_append, Nat.add_assoc]

/-- Each end offset takes two bytes. -/
theorem endOffsets_length : ∀ (rs : List Bytes) (e : Nat), (endOffsets rs e).length = 2 * rs.length
  | [], _ => rfl
  | r :: rs, e => by
    rw [endOffsets, List.length_append, le_length, endOffsets_length rs (e + r.length), List.length_cons]
    omega

/-- The first of `n + 1` numbers of a byte run, and the others. -/
theorem u16s_le_append (n v : Nat) (rest : Bytes) (h : v < 2 ^ 16) : u16s (le 2 v ++ rest) (n + 1) = v :: u16s rest n := by
  have hfirst : u16at (le 2 v ++ rest) (2 * 0) = v := uat_le_append 2 v rest h
  have hothers (i : Nat) : u16at (le 2 v ++ rest) (2 * (i + 1)) = u16at rest (2 * i) := uat_skip_le 2 v rest 2 (by omega)
  unfold u16s
  rw [List.range_succ_eq_map, List.map_cons, List.map_map, hfirst]
  exact congrArg (v :: ·) (List.map_congr_left fun i _ => hothers i)

/-- The end offsets of records that fit a payload are read back. -/
theorem u16s_endOffsets (area : Bytes) : ∀ (rs : List Bytes) (e : Nat), e + rs.flatten.length < 2 ^ 16 →
    u16s (endOffsets rs e ++ area) rs.length = endsFrom rs e
  | [], _, _ => rfl
  | r :: rs, e, h => by
    rw [List.flatten_cons, List.length_append] at h
    rw [endOffsets, List.append_assoc, List.length_cons, u16s_le_append _ _ _ (by omega), u16s_endOffsets area rs (e + r.length) (by omega), endsFrom]

/-- An area of records, whatever stands before them, splits at their end offsets into the records. -/
theorem splitEnds_endsFrom : ∀ (rs : List Bytes) (pre : Bytes), splitEnds (pre ++ rs.flatten) (endsFrom rs pre.length) pre.length = some rs
  | [], _ => rfl
  | r :: rs, pre => by
    have hrest : splitEnds (pre ++ (r :: rs).flatten) (endsFrom rs (pre.length + r.length)) (pre.length + r.length) = some rs := by
      have ih := splitEnds_endsFrom rs (pre ++ r)
      rwa [List.length_append, List.append_assoc] at ih
    have hfit : ¬(pre.length + r.length < pre.length ∨ (pre ++ (r :: rs).flatten).length < pre.length + r.length) := by
      rw [List.flatten_cons, List.length_append, List.length_append]
      omega
    rw [endsFrom, splitEnds, if_neg hfit, hrest]
    simp

theorem encodeRecords_length (rs : List Bytes) : (encodeRecords rs).length = 2 * rs.length + rs.flatten.length := by
  rw [encodeRecords, List.length_append, endOffsets_length]

/-- The records put into a payload are read back from it (R39). -/
theorem decodeRecords_encodeRecords {rs : List Bytes} (h : 2 * rs.length + rs.flatten.length ≤ 4096) : decodeRecords rs.length (encodeRecords rs) = some rs := by
  have hlong : ¬ (encodeRecords rs).length < 2 * rs.length := by rw [encodeRecords_length]; omega
  have harea : (encodeRecords rs).drop (2 * rs.length) = rs.flatten := List.drop_left' (endOffsets_length rs 0)
  have hends : u16s (encodeRecords rs) rs.length = endsFrom rs 0 := u16s_endOffsets _ rs 0 (by omega)
  have hsplit : splitEnds rs.flatten (endsFrom rs 0) 0 = some rs := splitEnds_endsFrom rs []
  have hlast : rs.flatten.length = (endsFrom rs 0).getLastD 0 := by rw [endsFrom_getLastD, Nat.zero_add]
  simp only [decodeRecords, hlong, harea, hends, hsplit, if_false, ← hlast, if_true]

end Sys2Proof.Machine

namespace Sys2Proof

open Sys2Proof.Machine

/-- Settles O26, by induction on the records: their end offsets are read back, and the area splits at them. -/
theorem recordsRoundTrip : Obligations.RecordsRoundTrip :=
  fun rs _ hfit => ⟨encodeRecords_length rs, decodeRecords_encodeRecords hfit⟩

end Sys2Proof
end

section
/-!
PROOFS. What a job fault leaves of its job (03 R88, 04 R127, R129): the last fault, the state, the runtime.
-/

namespace Sys2Proof.Machine

open Sys2Proof

/-- A device with the same jobs has the same job in a slot. -/
theorem getJob_congr {d e : Dev} (h : d.jobs = e.jobs) (slot : Nat) : getJob d slot = getJob e slot := congrArg (·.getD slot {}) h

/-- A job after its own change. -/
theorem getJob_modJob_self {d : Dev} {slot : Nat} (h : slot < d.jobs.length) (f : Job → Job) : getJob (modJob d slot f) slot = f (getJob d slot) := by
  rw [getJob_modJob, if_pos ⟨rfl, h⟩]

/-- What a change of a job keeps reads as before, whether the slot exists or not. -/
theorem getJob_modJob_keeps {α : Type} (g : Job → α) {f : Job → Job} (hf : ∀ j, g (f j) = g j) (d : Dev) (slot k : Nat) :
    g (getJob (modJob d slot f) k) = g (getJob d k) := by
  rw [getJob_modJob]
  split
  · exact hf _
  · rfl

/-- A job that is not FREE stands in a slot that exists. -/
theorem slot_exists_of_state {d : Dev} {slot : Nat} (h : (getJob d slot).state ≠ .free) : slot < d.jobs.length :=
  slot_exists (fun he => h (by rw [he]))

theorem ne_free_of_live {st : JState} (h : st.live = true) : st ≠ .free := by
  rintro rfl
  exact absurd h (by decide)

/-! ### Operations that leave the jobs alone -/

@[simp] theorem writeEvent_jobs (d : Dev) (e : Bytes) : (writeEvent d e).jobs = d.jobs := by
  obtain ⟨w, ps, po, h⟩ := writeEvent_frame d e
  rw [h]

@[simp] theorem event_jobs (d : Dev) (ty slot : Nat) (data : Bytes) : (event d ty slot data).jobs = d.jobs := writeEvent_jobs ..

@[simp] theorem complete_jobs (d : Dev) (c : Cmd) (st dt : Nat) (resp : Bytes) (slot : Nat) : (complete d c st dt resp slot).jobs = d.jobs := by
  obtain ⟨w, ps, po, ch, h⟩ := complete_frame d c st dt resp slot
  rw [h]

@[simp] theorem completeIdx_jobs (d : Dev) (idx st dt : Nat) (resp : Bytes) : (completeIdx d idx st dt resp).jobs = d.jobs := by
  obtain ⟨w, ps, po, ch, h⟩ := completeIdx_frame d idx st dt resp
  rw [h]

@[simp] theorem sendCoord_jobs (d : Dev) (slot code dest : Nat) (payload : Bytes) : (sendCoord d slot code dest payload).jobs = d.jobs := by
  obtain ⟨ls, os, h⟩ := sendCoord_frame d slot code dest payload
  rw [h]

@[simp] theorem sendAll_jobs (d : Dev) (slot code : Nat) (payload : Bytes) : (sendAll d slot code payload).jobs = d.jobs := by
  obtain ⟨ls, os, h⟩ := sendAll_frame d slot code payload
  rw [h]

@[simp] theorem dropBursts_jobs (d : Dev) (slot : Nat) : (dropBursts d slot).jobs = d.jobs := rfl

/-- A fold of an operation that leaves the jobs alone leaves them alone. -/
theorem foldl_jobs {α : Type} {f : Dev → α → Dev} (hf : ∀ d a, (f d a).jobs = d.jobs) : ∀ (xs : List α) (d : Dev), (xs.foldl f d).jobs = d.jobs
  | [], _ => rfl
  | a :: xs, d => (foldl_jobs hf xs (f d a)).trans (hf d a)

@[simp] theorem endRebinds_jobs (d : Dev) (slot code : Nat) : (endRebinds d slot code).jobs = d.jobs :=
  foldl_jobs (fun d c => complete_jobs d c 0x000C code [] c.slot) _ d

/-! ### The parts of a stop -/

/-- A fault report keeps all of a job but its last fault. -/
theorem reportFault_keeps {α : Type} (g : Job → α) (hg : ∀ j c e, g { j with lastFault := c, lastFaultEvent := e } = g j) (d : Dev) (f : FaultInfo) (k : Nat) :
    g (getJob (reportFault d f) k) = g (getJob d k) := by
  have hjobs := reportFault_jobs d f
  split at hjobs
  · rw [getJob_congr (e := modJob d f.slot _) hjobs]
    exact getJob_modJob_keeps g (fun j => hg j _ _) d f.slot k
  · rw [getJob_congr hjobs]

/-- A fault report of a job is its last fault. -/
theorem reportFault_lastFault {d : Dev} {f : FaultInfo} (hslot : f.slot < 64) (hlen : f.slot < d.jobs.length) :
    (getJob (reportFault d f) f.slot).lastFault = f.code := by
  have hjobs := reportFault_jobs d f
  rw [if_pos hslot] at hjobs
  rw [getJob_congr (e := modJob d f.slot _) hjobs, getJob_modJob_self hlen]

/-- A change of state is a change of one job, or of none. -/
theorem setJState_jobs (d : Dev) (slot : Nat) (st : JState) (reason : Nat) :
    (setJState d slot st reason).jobs = if (getJob d slot).state = st then d.jobs else (modJob d slot (fun j => j.enter st)).jobs := by
  obtain ⟨w, ps, po, h⟩ := setJState_frame d slot st reason
  rw [h]
  rfl

/-- A job after a change of state is in that state. -/
theorem setJState_state {d : Dev} {slot : Nat} (hlen : slot < d.jobs.length) (st : JState) (reason : Nat) :
    (getJob (setJState d slot st reason) slot).state = st := by
  have hjobs := setJState_jobs d slot st reason
  split at hjobs
  next hst => rwa [getJob_congr hjobs]
  · rw [getJob_congr hjobs, getJob_modJob_self hlen]
    rfl

/-- A change of state keeps all of a job but its state and its pins. -/
theorem setJState_keeps {α : Type} (g : Job → α) (hg : ∀ j st, g (Job.enter j st) = g j) (d : Dev) (slot : Nat) (st : JState) (reason k : Nat) :
    g (getJob (setJState d slot st reason) k) = g (getJob d k) := by
  have hjobs := setJState_jobs d slot st reason
  split at hjobs
  · rw [getJob_congr hjobs]
  · rw [getJob_congr hjobs]
    exact getJob_modJob_keeps g (fun j => hg j st) d slot k

@[simp] theorem setJState_jobs_length (d : Dev) (slot : Nat) (st : JState) (reason : Nat) : (setJState d slot st reason).jobs.length = d.jobs.length := by
  rw [setJState_jobs]
  split
  · rfl
  · exact modifyAt_length ..

/-- The end of a waiting JOB_START keeps a job but for its `start`. -/
theorem endStart_keeps {α : Type} (g : Job → α) (hg : ∀ j : Job, g { j with start := none } = g j) (d : Dev) (slot code k : Nat) :
    g (getJob (endStart d slot code) k) = g (getJob d k) := by
  unfold endStart
  split
  · rfl
  · rw [getJob_congr (foldl_jobs (fun d i => completeIdx_jobs d i 0x000C code []) _ _)]
    exact getJob_modJob_keeps g hg d slot k

theorem dropCommit_state (j : Job) : j.dropCommit.state = j.state := by
  unfold Job.dropCommit
  split <;> rfl

/-- An abandoned commit leaves the states of the jobs. -/
theorem dropPrepared_state (d : Dev) (slot k : Nat) : (getJob (dropPrepared d slot) k).state = (getJob d k).state := by
  unfold dropPrepared
  dsimp only
  split
  · rfl
  · rw [getJob_modJob_keeps Job.state dropCommit_state]
    split <;> rfl

/-- A finished commit leaves the state of its job, or leaves it FINISHED (R118). -/
theorem finishCommit_state {d : Dev} {slot : Nat} (hlen : slot < d.jobs.length) (c : Commit) :
    (getJob (finishCommit d slot c) slot).state = (getJob d slot).state ∨ (getJob (finishCommit d slot c) slot).state = .finished := by
  unfold finishCommit
  dsimp only
  rw [getJob_congr (foldl_jobs (fun d i => completeIdx_jobs d i 0 0 _) _ _)]
  split
  · right
    rw [getJob_congr (dropBursts_jobs _ _)]
    exact setJState_state (by simpa using hlen) .finished 0
  · left
    rw [getJob_congr (event_jobs _ _ _ _)]
    exact getJob_modJob_keeps Job.state (by intro j; rfl) _ slot slot

/-- The end of the commit in progress leaves the state of its job, or the job FINISHED where the record was written (R119). -/
theorem endCommit_state {d : Dev} {slot : Nat} (hlen : slot < d.jobs.length) (code : Nat) :
    (getJob (endCommit d slot code) slot).state = (getJob d slot).state ∨
    ((getJob d slot).commit.map (·.step) = some 6 ∧ (getJob (endCommit d slot code) slot).state = .finished) := by
  unfold endCommit
  split
  · exact .inl rfl
  next c hc =>
    rw [hc]
    split
    next hstep =>
      rcases finishCommit_state hlen c with h | h
      · exact .inl h
      · exact .inr ⟨congrArg some hstep, h⟩
    · left
      rw [getJob_congr (foldl_jobs (fun d i => completeIdx_jobs d i 0x000C code []) _ _)]
      exact dropPrepared_state d slot slot

theorem endCommit_state_ne_free {d : Dev} {slot : Nat} (h : (getJob d slot).state ≠ .free) (code : Nat) : (getJob (endCommit d slot code) slot).state ≠ .free := by
  rcases endCommit_state (slot_exists_of_state h) code with hs | ⟨_, hs⟩
  · rwa [hs]
  · simp [hs]

/-- A halted job has no runtime, and a slot that exists. -/
theorem haltJob_rt {d : Dev} {slot : Nat} (h : (getJob d slot).state ≠ .free) (code : Nat) :
    slot < (haltJob d slot code).jobs.length ∧ (getJob (haltJob d slot code) slot).rt = {} := by
  have hlen : slot < (endCommit d slot code).jobs.length := slot_exists_of_state (endCommit_state_ne_free h code)
  constructor
  · simpa [haltJob] using hlen
  · unfold haltJob
    dsimp only
    rw [getJob_modJob_self (by exact hlen)]

/-- A fault of a job whose stations do not run is its last fault. -/
theorem stopIdle_lastFault {d : Dev} {f : FaultInfo} (hslot : f.slot < 64) (hlen : f.slot < d.jobs.length) (lost : Bool) :
    (getJob (stopIdle d f lost) f.slot).lastFault = f.code := by
  unfold stopIdle
  split
  · dsimp only
    rw [endStart_keeps Job.lastFault (by intro j; rfl)]
    refine reportFault_lastFault (f := { f with fflags := _ }) hslot ?_
    split
    · simpa using hlen
    · exact hlen
  · exact reportFault_lastFault hslot hlen

/-- A fault of a FINISHED job leaves it FINISHED. -/
theorem stopIdle_finished {d : Dev} {f : FaultInfo} (h : (getJob d f.slot).state = .finished) (lost : Bool) :
    (getJob (stopIdle d f lost) f.slot).state = .finished := by
  have hidle : stopIdle d f lost = reportFault d f := if_neg (by simp [h])
  rw [hidle, reportFault_keeps Job.state (by intros; rfl), h]

/-! ### A stop as a whole -/

/-- The first part of the stop of a live job `e`, once the commit in progress has ended: halted, and in the state of R88. -/
def haltedIn (e : Dev) (f : FaultInfo) (why : Nat) : Dev :=
  let st := faultState (getJob e f.slot) why
  setJState (modJob (haltJob e f.slot f.code) f.slot (fun j => { j with
    unrecov := j.unrecov || equivalenceLost (getJob e f.slot) why, partitioned := j.partitioned || why == 0x0C26,
    restarts := if st = .restarting then min 0xFFFF (j.restarts + 1) else j.restarts })) f.slot st f.code

/-- The whole of it: a restart begins where the state asks for one, and the fault is reported (R127 steps 1 and 2). -/
def stopFrom (e : Dev) (f : FaultInfo) (why : Nat) : Dev :=
  let st := faultState (getJob e f.slot) why
  let d := haltedIn e f why
  let d := if st = .restarting then modJob d f.slot (fun j => { j with restart := some { mode := 1, since := d.time, passed := true } }) else d
  endRebinds (reportFault d { f with fflags := f.fflags ||| (if st = .held then 4 else 0) ||| b2n (equivalenceLost (getJob e f.slot) why) }) f.slot f.code

/-- A stop ends the commit in progress of a job whose stations run, then stops the job if it is still live. -/
theorem stopJob_eq (d : Dev) (f : FaultInfo) (why : Nat) :
    stopJob d f why =
      let e := if (getJob d f.slot).state.live then endCommit d f.slot f.code else d
      if (getJob e f.slot).state.live then stopFrom e f why else stopIdle e f (equivalenceLost (getJob e f.slot) why) := by
  unfold stopJob
  dsimp only
  generalize (if (getJob d f.slot).state.live = true then endCommit d f.slot f.code else d) = e
  cases (getJob e f.slot).state.live <;> rfl

/-- A halted job has no runtime, and the state of R88. -/
theorem haltedIn_job {e : Dev} {f : FaultInfo} (hfree : (getJob e f.slot).state ≠ .free) (why : Nat) :
    f.slot < (haltedIn e f why).jobs.length ∧ (getJob (haltedIn e f why) f.slot).rt = {} ∧
    (getJob (haltedIn e f why) f.slot).state = faultState (getJob e f.slot) why := by
  obtain ⟨hlen, hrt⟩ := haltJob_rt hfree f.code
  unfold haltedIn
  dsimp only
  refine ⟨by simpa using hlen, ?_, setJState_state (by simpa using hlen) _ _⟩
  rw [setJState_keeps Job.rt (by intros; rfl), getJob_modJob_keeps Job.rt (by intro j; rfl), hrt]

/-- The stop of a live job: the fault is its last one, its runtime is gone, its state is the one of R88. -/
theorem stopFrom_job {e : Dev} {f : FaultInfo} (hslot : f.slot < 64) (hfree : (getJob e f.slot).state ≠ .free) (why : Nat) :
    (getJob (stopFrom e f why) f.slot).lastFault = f.code ∧ (getJob (stopFrom e f why) f.slot).rt = {} ∧
    (getJob (stopFrom e f why) f.slot).state = faultState (getJob e f.slot) why := by
  obtain ⟨hlen, hrt, hst⟩ := haltedIn_job hfree why
  unfold stopFrom
  dsimp only
  rw [getJob_congr (endRebinds_jobs _ _ _)]
  refine ⟨reportFault_lastFault (f := { f with fflags := _ }) hslot ?_, ?_, ?_⟩
  · show f.slot < (ite _ _ _ : Dev).jobs.length
    split
    · simpa using hlen
    · exact hlen
  · rw [reportFault_keeps Job.rt (by intros; rfl)]
    split
    · rwa [getJob_modJob_keeps Job.rt (by intro j; rfl)]
    · exact hrt
  · rw [reportFault_keeps Job.state (by intros; rfl)]
    split
    · rwa [getJob_modJob_keeps Job.state (by intro j; rfl)]
    · exact hst

/-- A fault is the last fault of its job, whatever the job's state. -/
theorem stopJob_lastFault {d : Dev} {f : FaultInfo} (hslot : f.slot < 64) (hlen : f.slot < d.jobs.length) (why : Nat) :
    (getJob (stopJob d f why) f.slot).lastFault = f.code := by
  rw [stopJob_eq]
  dsimp only
  have hlen' : f.slot < (if (getJob d f.slot).state.live then endCommit d f.slot f.code else d).jobs.length := by
    split
    next hd => exact slot_exists_of_state (endCommit_state_ne_free (ne_free_of_live hd) _)
    · exact hlen
  generalize (if (getJob d f.slot).state.live then endCommit d f.slot f.code else d) = e at hlen' ⊢
  split
  next hlive => exact (stopFrom_job hslot (ne_free_of_live hlive) why).1
  · exact stopIdle_lastFault hslot hlen' _

/-- What a fault leaves of a running job: RESTARTING or HELD without a runtime, or FINISHED where a final commit's record was written (R119, R129). -/
def StoppedFrom (j j' : Job) : Prop :=
  ((j'.state = .restarting ∨ j'.state = .held) ∧ j'.rt = {}) ∨ (j.commit.map (·.step) = some 6 ∧ j'.state = .finished)

theorem StoppedFrom.not_running {j j' : Job} (h : StoppedFrom j j') : j'.state ≠ .running := by
  rcases h with ⟨h | h, _⟩ | ⟨_, h⟩ <;> simp [h]

theorem faultState_running {j : Job} (h : j.state = .running) (code : Nat) : faultState j code = .restarting ∨ faultState j code = .held := by
  unfold faultState
  rw [h]
  dsimp only
  split
  · exact .inr rfl
  · exact .inl rfl

theorem stopJob_running {d : Dev} {f : FaultInfo} (hslot : f.slot < 64) (hrun : (getJob d f.slot).state = .running) (why : Nat) :
    StoppedFrom (getJob d f.slot) (getJob (stopJob d f why) f.slot) := by
  have hlive : (getJob d f.slot).state.live = true := by rw [hrun]; rfl
  rw [stopJob_eq, if_pos hlive]
  dsimp only
  rcases endCommit_state (slot_exists_of_state (ne_free_of_live hlive)) f.code with hs | ⟨hstep, hs⟩
  · rw [hrun] at hs
    obtain ⟨_, hrt, hst⟩ := stopFrom_job hslot (e := endCommit d f.slot f.code) (by simp [hs]) why
    rw [if_pos (by rw [hs]; rfl)]
    exact .inl ⟨hst ▸ faultState_running hs why, hrt⟩
  · rw [if_neg (by rw [hs]; decide)]
    exact .inr ⟨hstep, stopIdle_finished hs _⟩

theorem jobFault_job (d : Dev) (f : FaultInfo) : getJob (jobFault d f) f.slot = getJob (stopJob d f f.code) f.slot := by
  unfold jobFault
  dsimp only
  split
  · exact getJob_congr (sendAll_jobs ..) _
  · rfl

/-- A job fault is the last fault of its job. -/
theorem jobFault_lastFault {d : Dev} {f : FaultInfo} (hslot : f.slot < 64) (hlen : f.slot < d.jobs.length) :
    (getJob (jobFault d f) f.slot).lastFault = f.code := by
  rw [jobFault_job, stopJob_lastFault hslot hlen]

/-- A fault of a running job: its last fault, and the job stopped. -/
theorem jobFault_running {d : Dev} {f : FaultInfo} (hslot : f.slot < 64) (hrun : (getJob d f.slot).state = .running) :
    (getJob (jobFault d f) f.slot).lastFault = f.code ∧ StoppedFrom (getJob d f.slot) (getJob (jobFault d f) f.slot) := by
  refine ⟨jobFault_lastFault hslot (slot_exists_of_state (by simp [hrun])), ?_⟩
  rw [jobFault_job]
  exact stopJob_running hslot hrun f.code

end Sys2Proof.Machine
end

section
/-!
PROOFS. Queues and stations after the changes of a row command (02 R27 to R54): what each change keeps, where a sealed tile goes.
-/

namespace Sys2Proof.Machine

open Sys2Proof

/-- What the change of one element keeps reads as before in the whole list. -/
theorem map_modifyAt_keeps {α β : Type} (g : α → β) {f : α → α} (hf : ∀ a, g (f a) = g a) (xs : List α) (i : Nat) : (modifyAt xs i f).map g = xs.map g := by
  unfold modifyAt
  split
  next a ha =>
    have hi := (List.getElem?_eq_some_iff.mp ha).1
    have hget : xs[i] = a := (List.getElem?_eq_some_iff.mp ha).2
    apply List.ext_getElem?
    intro j
    by_cases hj : i = j
    · subst hj
      simp [hi, hget, hf]
    · simp [hj]
  · rfl

section
variable {d : Dev} {slot n : Nat}

/-- A queue that is not as at the start of a job exists. -/
theorem queue_exists (h : getQ d slot n ≠ {}) : slot < d.jobs.length ∧ n < (getJob d slot).rt.queues.length := by
  have hn : n < (getJob d slot).rt.queues.length := by
    refine Decidable.by_contra (fun hn => h ?_)
    rw [getQ, List.getD_eq_default _ _ (by omega)]
  refine ⟨slot_exists (fun he => ?_), hn⟩
  rw [he] at hn
  exact absurd hn (by simp)

/-- A station that is not as at the start of a job exists. -/
theorem station_exists (h : getSt d slot n ≠ {}) : slot < d.jobs.length ∧ n < (getJob d slot).rt.stations.length := by
  have hn : n < (getJob d slot).rt.stations.length := by
    refine Decidable.by_contra (fun hn => h ?_)
    rw [getSt, List.getD_eq_default _ _ (by omega)]
  refine ⟨slot_exists (fun he => ?_), hn⟩
  rw [he] at hn
  exact absurd hn (by simp)

/-- A queue after its own change. -/
theorem getQ_modQ_self (hs : slot < d.jobs.length) (hn : n < (getJob d slot).rt.queues.length) (f : QRun → QRun) :
    getQ (modQ d slot n f) slot n = f (getQ d slot n) := by
  rw [getQ_modQ d slot n n f hs, if_pos ⟨rfl, hn⟩]

end

/-- A queue's change keeps the runtime's shape and the rest of the job. -/
theorem modQ_keeps {α : Type} (g : Job → α) (hg : ∀ (j : Job) qs, g { j with rt := { j.rt with queues := qs } } = g j) (d : Dev) (slot n : Nat) (f : QRun → QRun) (k : Nat) :
    g (getJob (modQ d slot n f) k) = g (getJob d k) := getJob_modJob_keeps g (fun j => hg j _) d slot k

/-- What a queue's change keeps of the queue reads as before. -/
theorem getQ_modQ_keeps {α : Type} (g : QRun → α) {f : QRun → QRun} (hg : ∀ q, g (f q) = g q) (d : Dev) (slot n k : Nat) :
    g (getQ (modQ d slot n f) slot k) = g (getQ d slot k) := by
  by_cases hs : slot < d.jobs.length
  · rw [getQ_modQ d slot n k f hs]
    split
    · exact hg _
    · rfl
  · have hsame : getJob (modQ d slot n f) slot = getJob d slot := by
      rw [modQ, getJob_modJob, if_neg (fun h => hs h.2)]
    rw [getQ, hsame, getQ]

/-- A change of a job that keeps its runtime keeps its queues. -/
theorem getQ_modJob_keeps {f : Job → Job} (hf : ∀ j, (f j).rt = j.rt) (d : Dev) (slot n : Nat) : getQ (modJob d slot f) slot n = getQ d slot n :=
  getJob_modJob_keeps (fun j => j.rt.queues.getD n {}) (fun j => by rw [hf]) d slot slot

theorem modQ_jobs_length (d : Dev) (slot n : Nat) (f : QRun → QRun) : (modQ d slot n f).jobs.length = d.jobs.length := modifyAt_length ..

theorem modQ_queues_length (d : Dev) (slot n k : Nat) (f : QRun → QRun) :
    (getJob (modQ d slot n f) k).rt.queues.length = (getJob d k).rt.queues.length :=
  getJob_modJob_keeps (fun j => j.rt.queues.length) (fun _ => modifyAt_length ..) d slot k

/-- Whether a queue is full is a matter of its depth and the tiles in its slots. -/
theorem queueFull_congr {j j' : Job} {q q' : QRun} (n : Nat) (hj : j'.image = j.image) (hq : q'.tiles = q.tiles) : queueFull j' n q' = queueFull j n q := by
  rw [queueFull, queueFull, hj, hq]

/-- A change of a queue that spills nothing leaves the number of spilled tiles. -/
theorem spillTiles_modQ {f : QRun → QRun} (hf : ∀ q, (f q).spilled = q.spilled) (d : Dev) (slot n k : Nat) :
    spillTiles (getJob (modQ d slot n f) k) = spillTiles (getJob d k) := by
  have hsum (j : Job) : spillTiles j = (j.rt.queues.map (fun q => q.spilled)).foldl (fun a x => a + x.length) 0 := by
    rw [spillTiles, List.foldl_map]
  refine getJob_modJob_keeps spillTiles (fun j => ?_) d slot k
  rw [hsum, hsum]
  dsimp only
  rw [map_modifyAt_keeps QRun.spilled hf]

/-! ### Where a sealed tile goes -/

/-- The fault of a spill area that has no room for one more tile (R37, R54). -/
def spillFault (j : Job) (slot n : Nat) (t : Tile) : FaultInfo :=
  { code := 0x0112, slot := slot, queue := n, producer := (j.image.queues.getD n {}).producer, seqNo := t.seq }

section
variable {d : Dev} {slot n : Nat} (t : Tile)

/-- A free slot, nothing waiting and the valve closed: the tile goes into the slot (R45). -/
theorem placeTile_slot (hfull : queueFull (getJob d slot) n (getQ d slot n) = false) (hheld : (getQ d slot n).held = []) (hvalve : (getQ d slot n).valve = false) :
    placeTile d slot n t = modQ d slot n (fun q => { q with tiles := q.tiles ++ [t], moved := true }) := by
  simp [placeTile, hfull, hheld, hvalve]

/-- The queue full and the valve closed: the producer waits with the tile (R45). -/
theorem placeTile_wait (hfull : queueFull (getJob d slot) n (getQ d slot n) = true) (hvalve : (getQ d slot n).valve = false) :
    placeTile d slot n t = modQ d slot n (fun q => { q with held := q.held ++ [t], moved := q.moved || q.held.isEmpty }) := by
  simp [placeTile, hfull, hvalve]

/-- The queue full, the valve open and room in the spill area: the tile is spilled (R53). -/
theorem placeTile_spill (hfull : queueFull (getJob d slot) n (getQ d slot n) = true) (hvalve : (getQ d slot n).valve = true)
    (hroom : 4160 * (spillTiles (getJob d slot) + 1) ≤ (getJob d slot).image.spillBudget) :
    placeTile d slot n t = modQ d slot n (fun q => { q with spilled := q.spilled ++ [t], moved := true }) := by
  simp [placeTile, hfull, hvalve, Nat.not_lt.mpr hroom]

/-- The queue full, the valve open and no room in the spill area: the job faults (R54). -/
theorem placeTile_fault (hfull : queueFull (getJob d slot) n (getQ d slot n) = true) (hvalve : (getQ d slot n).valve = true)
    (hroom : (getJob d slot).image.spillBudget < 4160 * (spillTiles (getJob d slot) + 1)) :
    placeTile d slot n t = jobFault d (spillFault (getJob d slot) slot n t) := by
  simp [placeTile, hfull, hvalve, hroom, spillFault]

end

/-! ### Sealing -/

/-- The tile that a port seals next, without its seal: the header of R27 with the queue's SEQ and FIRST_ROW (R29). -/
def tileToSeal (j : Job) (q : QRun) (slot st n rows columns : Nat) (payload : Bytes) : Tile :=
  { format := (j.image.queues.getD n {}).format, jobSlot := slot, flags := b2n false + 2 + 4 * b2n j.replaying, jobTag := j.image.jobTag,
    producer := st, rowCount := rows, queue := n, seq := q.nextSeq, epoch := j.openEpoch, payloadBytes := payload.length,
    columns := columns, firstRow := q.nextRow, payload := padTo 4096 payload }

/-- A queue whose SEQ and FIRST_ROW have moved past a tile of some rows (R29). -/
def QRun.pastTile (rows : Nat) (q : QRun) : QRun := { q with nextSeq := q.nextSeq + 1, nextRow := q.nextRow + rows }

/-- The device once a queue has moved past the tile about to be placed: the job is provisional from here on. -/
def pastTile (d : Dev) (slot n rows : Nat) : Dev := modJob (modQ d slot n (QRun.pastTile rows)) slot (fun j => { j with provisional := true })

/-- While SEQ and FIRST_ROW are below 2^48, sealing a tile that does not end the stream places it with its seal (R29, R32). -/
theorem sealTile_eq {d : Dev} {slot st port n : Nat} (rows columns : Nat) (payload : Bytes) (hn : outQueueNo (getJob d slot) st port = n)
    (hseq : (getQ d slot n).nextSeq < 2 ^ 48) (hrow : (getQ d slot n).nextRow < 2 ^ 48) :
    sealTile d slot st port rows columns payload false =
      placeTile (pastTile d slot n rows) slot n (tileToSeal (getJob d slot) (getQ d slot n) slot st n rows columns payload).sealed := by
  have hbound : ¬(pow2 48 ≤ (getQ d slot n).nextSeq ∨ pow2 48 ≤ (getQ d slot n).nextRow) := by
    have hpow : pow2 48 = 2 ^ 48 := by decide
    omega
  have hpast : (fun q : QRun => { q with nextSeq := q.nextSeq + 1, nextRow := q.nextRow + rows, eos := q.eos || false }) = QRun.pastTile rows := by
    funext q
    simp [QRun.pastTile]
  subst hn
  unfold sealTile
  dsimp only
  rw [if_neg hbound, hpast]
  rfl

section
variable {d : Dev} {slot n : Nat} (rows : Nat)

theorem getQ_pastTile (hs : slot < d.jobs.length) (hn : n < (getJob d slot).rt.queues.length) :
    getQ (pastTile d slot n rows) slot n = (getQ d slot n).pastTile rows := by
  rw [pastTile, getQ_modJob_keeps (by intro j; rfl), getQ_modQ_self hs hn]

/-- Moving past a tile keeps all of the job but its queue and the mark of R121. -/
theorem pastTile_keeps {α : Type} (g : Job → α) (hq : ∀ (j : Job) qs, g { j with rt := { j.rt with queues := qs } } = g j)
    (hp : ∀ j : Job, g { j with provisional := true } = g j) : g (getJob (pastTile d slot n rows) slot) = g (getJob d slot) := by
  rw [pastTile, getJob_modJob_keeps g hp, modQ_keeps g hq]

theorem spillTiles_pastTile : spillTiles (getJob (pastTile d slot n rows) slot) = spillTiles (getJob d slot) := by
  rw [pastTile, getJob_modJob_keeps spillTiles (by intro j; rfl), spillTiles_modQ (by intro q; rfl)]

/-- A change of the queue that follows, on a device that has moved past a tile. -/
theorem getQ_modQ_pastTile (hs : slot < d.jobs.length) (hn : n < (getJob d slot).rt.queues.length) (f : QRun → QRun) :
    getQ (modQ (pastTile d slot n rows) slot n f) slot n = f ((getQ d slot n).pastTile rows) := by
  rw [getQ_modQ_self, getQ_pastTile rows hs hn]
  · simpa [pastTile, modQ_jobs_length] using hs
  · rw [pastTile, getJob_modJob_keeps (fun j => j.rt.queues.length) (by intro j; rfl), modQ_queues_length]
    exact hn

end

end Sys2Proof.Machine

namespace Sys2Proof

open Sys2Proof.Machine

/-- Settles O27: the queue moves past the tile, and the tile goes where the slots, the valve and the spill area let it. -/
theorem tileSealedInOrder : Obligations.TileSealedInOrder := by
  intro d slot st port rows cols pl
  dsimp only
  generalize hno : outQueueNo (getJob d slot) st port = n
  intro hslot hn hrun hseq hrow
  have hs : slot < d.jobs.length := slot_exists_of_state (by simp [hrun])
  have himage : (getJob (pastTile d slot n rows) slot).image = (getJob d slot).image := pastTile_keeps rows Job.image (by intros; rfl) (by intro j; rfl)
  have hq := getQ_pastTile rows hs hn
  have hfull : queueFull (getJob (pastTile d slot n rows) slot) n (getQ (pastTile d slot n rows) slot n) = queueFull (getJob d slot) n (getQ d slot n) :=
    queueFull_congr n himage (by rw [hq]; rfl)
  have hvalve : (getQ (pastTile d slot n rows) slot n).valve = (getQ d slot n).valve := by rw [hq]; rfl
  have hheld : (getQ (pastTile d slot n rows) slot n).held = (getQ d slot n).held := by rw [hq]; rfl
  have hspill := spillTiles_pastTile (d := d) (slot := slot) (n := n) rows
  rw [sealTile_eq rows cols pl hno hseq hrow]
  refine ⟨(tileToSeal (getJob d slot) (getQ d slot n) slot st n rows cols pl).sealed, rfl, rfl, rfl, rfl, rfl, rfl, rfl, ?_, ?_, ?_, ?_⟩
  · intro hroom hnone hclosed
    rw [placeTile_slot _ (hfull.trans hroom) (hheld.trans hnone) (hvalve.trans hclosed), getQ_modQ_pastTile rows hs hn]
    rfl
  · intro hnoroom hclosed
    rw [placeTile_wait _ (hfull.trans hnoroom) (hvalve.trans hclosed), getQ_modQ_pastTile rows hs hn]
    rfl
  · intro hnoroom hopen hbudget
    rw [placeTile_spill _ (hfull.trans hnoroom) (hvalve.trans hopen) (by rwa [hspill, himage]), getQ_modQ_pastTile rows hs hn]
    rfl
  · intro hnoroom hopen hbudget
    rw [placeTile_fault _ (hfull.trans hnoroom) (hvalve.trans hopen) (by rwa [hspill, himage])]
    have hrun' : (getJob (pastTile d slot n rows) slot).state = .running := (pastTile_keeps rows Job.state (by intros; rfl) (by intro j; rfl)).trans hrun
    obtain ⟨hfault, hstop⟩ := jobFault_running (d := pastTile d slot n rows) (f := spillFault _ slot n _) hslot hrun'
    exact ⟨hfault, hstop.not_running⟩

end Sys2Proof
end

section
/-!
PROOFS. The checks of a tile in their order (02 R35, R37), and TILE_CONSUME of a tile that fails one.
-/

namespace Sys2Proof.Machine

open Sys2Proof

/-- The code of the first failing check of a list, one check at a time. -/
theorem firstCode_cons (b : Bool) (c : Nat) (l : List (Bool × Nat)) :
    (((b, c) :: l).find? (fun p => p.1)).map (fun p => p.2) = if b then some c else (l.find? (fun p => p.1)).map (fun p => p.2) := by
  cases b <;> rfl

/-- Shape and column types are one check: both have the code 0x0108. -/
theorem ite_or_same {p q : Prop} [Decidable p] [Decidable q] (c : Option Nat) : (if p then c else if q then c else none) = if p ∨ q then c else none := by
  by_cases hp : p <;> simp [hp]

/-- TILE_CONSUME at a running job's station is its meaning with one more free value counted. -/
theorem exec_tileConsume {s : State} {slot st : Nat} (h : AtStation s slot st (fun _ => true)) (port : Nat) :
    exec (.tileConsume slot st port) s = settle s (tileConsume slot st port (rowStart s)) :=
  onStation_at h (fun _ d => tileConsume slot st port d)

/-- The fault of a tile that fails a check (R35). -/
def checkFault (j : Job) (slot st n code : Nat) (t : Tile) : FaultInfo :=
  { code := code, slot := slot, die := stationDie j st, queue := n, producer := t.producer, consumer := st, seqNo := t.seq }

/-- What follows the taking of a tile: a kernel's port makes its own check, any other station hands the tile on (08 R216, 11 R287). -/
def afterTaken (e : Dev) (slot st port n : Nat) (t : Tile) : DevOut :=
  match (getSt e slot st).kind with
  | .kernel x =>
    (match kernelPortCheck (paramSt e slot st) port x (getIn e slot st port) t with
     | .ok y => .next (setKind e slot st (.kernel y))
     | .error f => .next (stationFault e slot st f.1 port f.2))
  | _ => .next (forwardTile e slot n t)

theorem afterTaken_other {e : Dev} {slot st : Nat} (h : ∀ x, (getSt e slot st).kind ≠ .kernel x) (port n : Nat) (t : Tile) :
    afterTaken e slot st port n t = .next (forwardTile e slot n t) := by
  unfold afterTaken
  split
  next x hx => exact absurd hx (h x)
  · rfl

theorem afterTaken_kernel {e : Dev} {slot st port : Nat} {t : Tile} {x y : KernelSt} (h : (getSt e slot st).kind = .kernel x)
    (hport : kernelPortCheck (paramSt e slot st) port x (getIn e slot st port) t = .ok y) (n : Nat) :
    afterTaken e slot st port n t = .next (setKind e slot st (.kernel y)) := by
  unfold afterTaken
  rw [h]
  dsimp only
  rw [hport]

section
variable {d : Dev} {slot st port n k : Nat} {t : Tile}

/-- A tile that fails a check is the fault of that check, and nothing of it is used. -/
theorem tileConsume_fault {code : Nat} (hq : inQueueNo (getJob d slot) st port = some (n, k))
    (ht : (getQ d slot n).tiles.find? (fun x => x.seq == (getQ d slot n).taken.getD k 0) = some t) (htake : takesTile d slot st port = true)
    (hcheck : checkTile (expectOf (getJob d slot) slot n k (getQ d slot n)) t = some code) :
    tileConsume slot st port d = .next (jobFault d (checkFault (getJob d slot) slot st n code t)) := by
  unfold tileConsume
  simp only [hq, ht, htake, hcheck, Bool.not_true, Bool.false_eq_true, if_false]
  rfl

/-- A tile that passes the checks is taken, and what the station then does with it follows (R35). -/
theorem tileConsume_taken (hq : inQueueNo (getJob d slot) st port = some (n, k))
    (ht : (getQ d slot n).tiles.find? (fun x => x.seq == (getQ d slot n).taken.getD k 0) = some t) (htake : takesTile d slot st port = true)
    (hcheck : checkTile (expectOf (getJob d slot) slot n k (getQ d slot n)) t = none)
    (hsel : (descSt d slot st).stype = .select → selTypes (selP (paramSt d slot st)) (getQ d slot n).types t = none) :
    tileConsume slot st port d = afterTaken (tileTaken d slot st port n k t) slot st port n t := by
  have hsel' : (if (descSt d slot st).stype = .select then selTypes (selP (paramSt d slot st)) (getQ d slot n).types t else none) = none := by
    split
    next h => exact hsel h
    · rfl
  unfold tileConsume
  simp only [hq, ht, htake, hcheck, hsel', Bool.not_true, Bool.false_eq_true, if_false]
  rfl

end

end Sys2Proof.Machine

namespace Sys2Proof

open Sys2Proof.Machine

/-- Settles O23: the checks stand in the order of R35, and a job fault leaves its code and a job that no longer runs. -/
theorem tileChecked : Obligations.TileChecked := by
  refine ⟨fun x t => ?_, fun s slot st port n k code t hat hq ht htake hcheck => ?_⟩
  · have hpow : pow2 48 = 2 ^ 48 := by decide
    simp only [checkTile, firstCode_cons, List.find?_nil, Option.map_none, ite_or_same, hpow, bne_iff_ne, decide_eq_true_eq, Bool.or_eq_true, beq_iff_eq,
      Option.isNone_iff_eq_none]
  · have ⟨hslot, hrun, _⟩ := hat
    obtain ⟨hfault, hstop⟩ := jobFault_running (d := rowStart s) (f := checkFault (getJob s.dev slot) slot st n code t) hslot hrun
    refine ⟨ended s (jobFault (rowStart s) (checkFault (getJob s.dev slot) slot st n code t)), ?_, hfault, hstop⟩
    rw [exec_tileConsume hat, tileConsume_fault (d := rowStart s) hq ht htake hcheck]
    exact settle_next s _

end Sys2Proof
end

section
/-!
PROOFS. Credits, the spill valve, wait edges and saturation (02 R45, R52 to R54; 01 R21 to R23).
-/

namespace Sys2Proof.Machine

open Sys2Proof

/-! ### Queues and stations beside each other -/

/-- A queue's change keeps the stations. -/
@[simp] theorem getSt_modQ (d : Dev) (slot n st : Nat) (f : QRun → QRun) : getSt (modQ d slot n f) slot st = getSt d slot st :=
  modQ_keeps (fun j => j.rt.stations.getD st {}) (by intros; rfl) d slot n f slot

/-- A port's change keeps the queues. -/
@[simp] theorem getQ_modIn (d : Dev) (slot st port n : Nat) (f : InPort → InPort) : getQ (modIn d slot st port f) slot n = getQ d slot n :=
  getJob_modJob_keeps (fun j => j.rt.queues.getD n {}) (by intro j; rfl) d slot slot

/-- A port with a tile finished exists, and so do its station and slot. -/
theorem port_exists {d : Dev} {slot st port : Nat} (h : 0 < (getIn d slot st port).finished) :
    slot < d.jobs.length ∧ st < (getJob d slot).rt.stations.length ∧ port < (getSt d slot st).ins.length := by
  have hport : port < (getSt d slot st).ins.length := by
    refine Decidable.by_contra (fun hn => ?_)
    rw [getIn, List.getD_eq_default _ _ (by omega)] at h
    exact absurd h (by decide)
  obtain ⟨hs, hst⟩ := station_exists (d := d) (slot := slot) (n := st) (fun he => by simp [he] at hport)
  exact ⟨hs, hst, hport⟩

/-- A port after its own change. -/
theorem getIn_modIn_self {d : Dev} {slot st port : Nat} (hs : slot < d.jobs.length) (hst : st < (getJob d slot).rt.stations.length)
    (hport : port < (getSt d slot st).ins.length) (f : InPort → InPort) : getIn (modIn d slot st port f) slot st port = f (getIn d slot st port) := by
  rw [getIn, modIn, getSt_modSt d slot st st _ hs, if_pos ⟨rfl, hst⟩]
  dsimp only
  rw [modifyAt_getD, if_pos ⟨rfl, hport⟩, getIn]

/-- A queue after its own change, where the slot or the queue may be missing. -/
theorem getQ_modQ_cases (d : Dev) (slot n : Nat) (f : QRun → QRun) :
    getQ (modQ d slot n f) slot n = f (getQ d slot n) ∨ (getQ (modQ d slot n f) slot n = {} ∧ getQ d slot n = {}) := by
  by_cases h : getQ d slot n = {}
  · by_cases hs : slot < d.jobs.length
    · rw [getQ_modQ d slot n n f hs]
      split
      · exact .inl rfl
      · exact .inr ⟨h, h⟩
    · have hsame : getQ (modQ d slot n f) slot n = getQ d slot n := by
        rw [getQ, modQ, getJob_modJob, if_neg (fun hc => hs hc.2), getQ]
      exact .inr ⟨hsame.trans h, h⟩
  · obtain ⟨hs, hn⟩ := queue_exists h
    exact .inl (getQ_modQ_self hs hn f)

/-! ### What a change of a queue's tiles leaves -/

/-- What moving tiles into a queue's slots leaves as it was: the posted writes, the stations, the credits returned and the spilled tiles. -/
structure SameBeside (slot n : Nat) (d e : Dev) : Prop where
  posted : e.posted = d.posted
  station : ∀ st, getSt e slot st = getSt d slot st
  returned : (getQ e slot n).returned = (getQ d slot n).returned

theorem SameBeside.refl (slot n : Nat) (d : Dev) : SameBeside slot n d d := ⟨rfl, fun _ => rfl, rfl⟩

theorem SameBeside.trans {slot n : Nat} {d e u : Dev} (h : SameBeside slot n d e) (h' : SameBeside slot n e u) : SameBeside slot n d u :=
  ⟨h'.posted.trans h.posted, fun st => (h'.station st).trans (h.station st), h'.returned.trans h.returned⟩

theorem sameBeside_modQ {f : QRun → QRun} (hf : ∀ q, (f q).returned = q.returned) (slot n : Nat) (d : Dev) : SameBeside slot n d (modQ d slot n f) :=
  ⟨rfl, fun st => getSt_modQ d slot n st f, getQ_modQ_keeps QRun.returned hf d slot n n⟩

/-- With the valve closed, waiting tiles move into slots and nothing else changes. -/
theorem pump_sameBeside (slot n : Nat) : ∀ (k : Nat) (d : Dev), ((getQ d slot n).valve = true → (getQ d slot n).held = []) → SameBeside slot n d (pump k d slot n)
  | 0, d, _ => .refl slot n d
  | k + 1, d, h => by
    unfold pump
    dsimp only
    split
    · exact .refl slot n d
    next t r hheld =>
      have hclosed : (getQ d slot n).valve = false := by
        cases hvalve : (getQ d slot n).valve
        · rfl
        · simp [h hvalve] at hheld
      rw [if_neg (by simp [hclosed])]
      split
      · exact .refl slot n d
      · refine (sameBeside_modQ (by intro q; rfl) slot n d).trans (pump_sameBeside slot n k _ (fun hvalve => ?_))
        rw [getQ_modQ_keeps QRun.valve (by intro q; rfl), hclosed] at hvalve
        exact absurd hvalve (by decide)

/-- The valve's closing changes the valve of its queue, or nothing. -/
theorem closeValve_eq (d : Dev) (slot n : Nat) : closeValve d slot n = modQ d slot n (fun q => { q with valve := false }) ∨ closeValve d slot n = d := by
  unfold closeValve
  dsimp only
  split
  · exact .inl rfl
  · exact .inr rfl

theorem closeValve_sameBeside (slot n : Nat) (d : Dev) : SameBeside slot n d (closeValve d slot n) := by
  rcases closeValve_eq d slot n with h | h
  · rw [h]
    exact sameBeside_modQ (by intro q; rfl) slot n d
  · rw [h]
    exact .refl slot n d

/-- What the valve's closing keeps of its queue. -/
theorem closeValve_keeps {α : Type} (g : QRun → α) (hg : ∀ q : QRun, g { q with valve := false } = g q) (d : Dev) (slot n : Nat) :
    g (getQ (closeValve d slot n) slot n) = g (getQ d slot n) := by
  rcases closeValve_eq d slot n with h | h
  · rw [h]
    exact getQ_modQ_keeps g hg d slot n n
  · rw [h]

/-- A command that posts no write leaves memory. -/
theorem ended_mem_of_posted {s : State} {d : Dev} (h : d.posted = []) : (ended s d).mem = s.mem := by
  rw [ended_mem, h]
  rfl

/-! ### CREDIT_RETURN -/

theorem exec_creditReturn {s : State} {slot st : Nat} (h : AtStation s slot st (fun _ => true)) (port : Nat) :
    exec (.creditReturn slot st port) s = settle s (creditReturn slot st port (rowStart s)) :=
  onStation_at h (fun _ d => creditReturn slot st port d)

/-- One credit of a queue's consumer `k` is returned: a slot that every consumer has returned is free (R45). -/
def QRun.creditBack (k : Nat) (q : QRun) : QRun :=
  let q := { q with returned := setAt q.returned k (q.returned.getD k 0 + 1) }
  { q with tiles := q.tiles.filter (fun t => decide (heldFrom q ≤ t.seq)) }

/-- The device with one finished tile's credit returned, before waiting tiles move into the free slots. -/
def creditBack (d : Dev) (slot st port n k : Nat) : Dev :=
  modQ (modIn d slot st port (fun p => { p with finished := p.finished - 1 })) slot n (QRun.creditBack k)

section
variable {d : Dev} {slot st port n k : Nat}

theorem creditReturn_finished (hq : inQueueNo (getJob d slot) st port = some (n, k)) (hfin : 0 < (getIn d slot st port).finished) :
    creditReturn slot st port d =
      let e := creditBack d slot st port n k
      .next (closeValve (pump ((getQ e slot n).held.length + 1) e slot n) slot n) := by
  unfold creditReturn
  simp only [hq, if_neg (show ¬(getIn d slot st port).finished = 0 by omega)]
  rfl

theorem creditReturn_none_held (hq : inQueueNo (getJob d slot) st port = some (n, k)) (hfin : (getIn d slot st port).finished = 0)
    (hheld : (getQ d slot n).taken.getD k 0 ≤ (getQ d slot n).returned.getD k 0) : creditReturn slot st port d = .next (creditError d slot st n k) := by
  unfold creditReturn
  simp only [hq, hfin, hheld, if_true]

/-- The report of a credit returned for a slot that was not held (R37). -/
def creditFault (d : Dev) (slot st n k : Nat) : FaultInfo :=
  { code := 0x0111, slot := slot, die := stationDie (getJob d slot) st, queue := n, producer := ((getJob d slot).image.queues.getD n {}).producer,
    consumer := st, seqNo := (getQ d slot n).returned.getD k 0 }

theorem creditError_eq (d : Dev) (slot st n k : Nat) : creditError d slot st n k = jobFault d (creditFault d slot st n k) := rfl

/-- The credit of the consumer counts one more. -/
theorem creditBack_returned (d : Dev) (slot st port n k : Nat) : (getQ (creditBack d slot st port n k) slot n).returned =
    setAt (getQ d slot n).returned k ((getQ d slot n).returned.getD k 0 + 1) := by
  unfold creditBack
  rcases getQ_modQ_cases (modIn d slot st port (fun p => { p with finished := p.finished - 1 })) slot n (QRun.creditBack k) with h | ⟨h, h'⟩
  · rw [h, getQ_modIn]
    rfl
  · rw [getQ_modIn] at h'
    rw [h, h']
    rfl

theorem creditBack_finished (hfin : 0 < (getIn d slot st port).finished) :
    (getIn (creditBack d slot st port n k) slot st port).finished = (getIn d slot st port).finished - 1 := by
  obtain ⟨hs, hst, hport⟩ := port_exists hfin
  unfold creditBack
  rw [getIn, getSt_modQ]
  exact congrArg InPort.finished (getIn_modIn_self hs hst hport _)

/-- A returned credit keeps the valve and the waiting tiles. -/
theorem creditBack_keeps {α : Type} (g : QRun → α) (hg : ∀ (q : QRun) rs ts, g { q with returned := rs, tiles := ts } = g q) :
    g (getQ (creditBack d slot st port n k) slot n) = g (getQ d slot n) := by
  have hcredit (q : QRun) : g (q.creditBack k) = g q := hg q _ _
  rw [creditBack, getQ_modQ_keeps g hcredit, getQ_modIn]

end

/-- A credit of a finished tile, and with the valve closed the waiting tiles that move in, leave all else as it was. -/
theorem creditReturn_sameBeside {d : Dev} {slot st port n k : Nat} (hq : inQueueNo (getJob d slot) st port = some (n, k)) (hfin : 0 < (getIn d slot st port).finished)
    (hvalve : (getQ d slot n).valve = true → (getQ d slot n).held = []) :
    ∃ u, creditReturn slot st port d = .next u ∧ SameBeside slot n (creditBack d slot st port n k) u := by
  have hvalve' : (getQ (creditBack d slot st port n k) slot n).valve = true → (getQ (creditBack d slot st port n k) slot n).held = [] := by
    rwa [creditBack_keeps QRun.valve (by intros; rfl), creditBack_keeps QRun.held (by intros; rfl)]
  exact ⟨_, creditReturn_finished hq hfin, (pump_sameBeside slot n _ _ hvalve').trans (closeValve_sameBeside slot n _)⟩

/-! ### The spill valve -/

/-- A queue's valve is open, or the job has faulted for want of room in its spill area. -/
def Opened (d : Dev) (slot n : Nat) : Prop := (getQ d slot n).valve = true ∨ (getJob d slot).lastFault = 0x0112

/-- A change of a queue that keeps its valve keeps it open. -/
theorem Opened.modQ {d : Dev} {slot n : Nat} (h : Opened d slot n) {f : QRun → QRun} (hf : ∀ q, (f q).valve = q.valve) : Opened (modQ d slot n f) slot n := by
  unfold Opened
  rwa [getQ_modQ_keeps QRun.valve hf, modQ_keeps Job.lastFault (by intros; rfl)]

/-- A tile placed on a queue whose valve is open leaves it open, or faults. -/
theorem placeTile_opened {d : Dev} {slot n : Nat} (hslot : slot < 64) (h : (getQ d slot n).valve = true) (t : Tile) : Opened (placeTile d slot n t) slot n := by
  have hs : slot < d.jobs.length := (queue_exists (n := n) (fun he => by simp [he] at h)).1
  have hopen : Opened d slot n := .inl h
  unfold placeTile
  dsimp only
  split
  · split
    · exact .inr (jobFault_lastFault (f := spillFault (getJob d slot) slot n t) hslot hs)
    · exact hopen.modQ (by intro q; rfl)
  · split
    · exact hopen.modQ (by intro q; rfl)
    · exact hopen.modQ (by intro q; rfl)

theorem pump_opened {slot n : Nat} (hslot : slot < 64) : ∀ (k : Nat) {d : Dev}, Opened d slot n → Opened (pump k d slot n) slot n
  | 0, _, h => h
  | k + 1, d, h => by
    unfold pump
    dsimp only
    split
    · exact h
    next t r _ =>
      split
      next hvalve =>
        refine pump_opened hslot k (placeTile_opened hslot ?_ t)
        rw [getQ_modQ_keeps QRun.valve (by intro q; rfl), hvalve]
      · split
        · exact h
        · exact pump_opened hslot k (h.modQ (by intro q; rfl))

/-- An opened valve is open once the waiting tiles have gone to the spill area, or they had no room there (R53, R54). -/
theorem openValve_opened {d : Dev} {slot n : Nat} (hslot : slot < 64) (hs : slot < d.jobs.length) (hn : n < (getJob d slot).rt.queues.length) :
    Opened (openValve d slot n) slot n := by
  unfold openValve
  refine pump_opened hslot _ (.inl ?_)
  rw [getQ_modJob_keeps (by intro j; rfl), getQ_modQ_self hs hn]

/-- The valve of the lowest-numbered blocked queue of a cycle opens after ten samples without progress: here, where this device's producer waits, or at
the participants that reported it (R52). -/
theorem spillValveOpen_due {d : Dev} {slot n : Nat} (hvalve : (getQ d slot n).valve = false)
    (hmem : n ∈ ((cycleEdges (getJob d slot) (waitEdges d slot) n).filter (fun e => e.2.2)).map (·.2.1)) (hstuck : 10 ≤ (getQ d slot n).stuck)
    (hlow : ∀ k ∈ ((cycleEdges (getJob d slot) (waitEdges d slot) n).filter (fun e => e.2.2)).map (·.2.1), n ≤ k) :
    ∃ u, spillValveOpen slot n d = .next u ∧
      u.jobs = (if (ownEdges d slot).any (fun e => e.2.1 == n && e.2.2) then openValve d slot n else modQ d slot n (fun q => { q with stuck := 0 })).jobs := by
  have hcond : ((getQ d slot n).valve || !(((cycleEdges (getJob d slot) (waitEdges d slot) n).filter (fun e => e.2.2)).map (·.2.1)).contains n ||
      decide ((getQ d slot n).stuck < 10) ||
      (((cycleEdges (getJob d slot) (waitEdges d slot) n).filter (fun e => e.2.2)).map (·.2.1)).any (fun k => decide (k < n))) = false := by
    have hany : (((cycleEdges (getJob d slot) (waitEdges d slot) n).filter (fun e => e.2.2)).map (·.2.1)).any (fun k => decide (k < n)) = false :=
      List.any_eq_false.mpr (fun k hk => by simpa using hlow k hk)
    rw [hvalve, hany, List.contains_iff_mem.mpr hmem, decide_eq_false (Nat.not_lt.mpr hstuck)]
    rfl
  unfold spillValveOpen
  dsimp only
  rw [hcond, if_neg Bool.false_ne_true]
  refine ⟨_, rfl, foldl_jobs (fun e p => ?_) _ _⟩
  split
  · exact sendCoord_jobs ..
  · rfl

theorem exec_spillValveOpen {s : State} {slot n : Nat} (h : AtQueue s slot n) : exec (.spillValveOpen slot n) s = settle s (spillValveOpen slot n (start s)) :=
  onQueue_at h (spillValveOpen slot n)

theorem exec_spillRefill {s : State} {slot n : Nat} (h : AtQueue s slot n) : exec (.spillRefill slot n) s = settle s (spillRefill slot n (start s)) :=
  onQueue_at h (spillRefill slot n)

/-- A spilled tile is back in a slot, the rest stays spilled. -/
def QRun.refill (t : Tile) (r : List Tile) (q : QRun) : QRun := { q with tiles := q.tiles ++ [t], spilled := r, moved := true }

/-- The oldest spilled tile, its seal intact, goes into a free slot (R53). -/
theorem spillRefill_oldest {d : Dev} {slot n : Nat} {t : Tile} {r : List Tile} (hspilled : (getQ d slot n).spilled = t :: r)
    (hfull : queueFull (getJob d slot) n (getQ d slot n) = false) (hseal : t.computeSeal = t.crc) :
    spillRefill slot n d = .next (closeValve (modQ d slot n (QRun.refill t r)) slot n) := by
  simp only [spillRefill, hspilled, hfull, hseal, Bool.false_eq_true, if_false, ne_eq, not_true_eq_false]
  rfl

/-! ### Saturation -/

theorem exec_saturationReplacement {s : State} {slot st : Nat} (h : AtStation s slot st (fun _ => true)) (inst counter : Nat) :
    exec (.saturationReplacement slot st inst counter) s = settle s (saturationReplacement slot st inst counter (rowStart s)) :=
  onStation_at h (fun _ d => saturationReplacement slot st inst counter d)

/-- The device in which a unit is given in response to a counter: for SAT_HBM_RANDOM the cache has been enabled (01 R21). -/
def cachedFor (d : Dev) (slot st counter : Nat) : Dev := if counter = 0x35F then cacheTable slot st counter d else d

/-- The cache's record in the history keeps a job's image. -/
theorem placeRec_image (d : Dev) (slot st inst : Nat) (r : Res) (reason counter k : Nat) :
    (getJob (placeRec d slot st inst r reason counter) k).image = (getJob d k).image := by
  unfold placeRec
  dsimp only
  split
  · rw [getJob_congr (event_jobs _ _ _ _), getJob_modJob_keeps Job.image (by intro j; rfl)]
  · rw [getJob_modJob_keeps Job.image (by intro j; rfl)]

theorem cachedFor_image (d : Dev) (slot st counter k : Nat) : (getJob (cachedFor d slot st counter) k).image = (getJob d k).image := by
  unfold cachedFor
  split
  · unfold cacheTable
    split
    · dsimp only
      split
      · rw [placeRec_image]
        rfl
      · rfl
    · rfl
  · rfl

theorem descSt_cachedFor (d : Dev) (slot st counter : Nat) : descSt (cachedFor d slot st counter) slot st = descSt d slot st := by
  rw [descSt, cachedFor_image, descSt]

/-- At a tile boundary, in response to a saturation counter, an unpinned station's placement changes (01 R21 to R23). -/
theorem saturationReplacement_settled {d e : Dev} {slot st counter : Nat} (inst : Nat) (hlow : 0x35D ≤ counter) (hhigh : counter ≤ 0x361)
    (hpin : (getJob d slot).pins.any (fun p => p.1 == st) = false) (hsettled : stationSettled d slot st = true)
    (hplace : (if (descSt d slot st).stype = .matchSt then replaceTable slot st inst counter (cachedFor d slot st counter)
      else replaceInst slot st inst counter (cachedFor d slot st counter)) = .next e) :
    saturationReplacement slot st inst counter d = .next e := by
  have hcond : ¬(counter < 0x35D ∨ 0x361 < counter ∨ (getJob d slot).pins.any (fun p => p.1 == st) = true) := by
    rw [hpin]
    simp only [Bool.false_eq_true, or_false]
    omega
  rw [← descSt_cachedFor d slot st counter] at hplace
  unfold saturationReplacement
  dsimp only
  rw [if_neg hcond, if_neg (by simp [hsettled])]
  unfold cachedFor at hplace
  rw [hplace]

/-- What is placed on a unit moves to the one that R21 gives. -/
theorem replaceInst_placed {d : Dev} {slot st inst counter : Nat} {r : Res} (hunit : unitNear d slot st counter = some r)
    (hplaced : (placedInsts (getJob d slot)).contains (st, inst) = true) : replaceInst slot st inst counter d = .next (moveInst d slot st inst r 1 counter) := by
  unfold replaceInst
  simp only [hunit, hplaced, if_true]

/-- A match table below its number of banks grows into the free banks (07 R205). -/
theorem replaceTable_grows {d : Dev} {slot st : Nat} (inst counter : Nat) (hfew : (bankPlaces (getJob d slot) st).length < tableBanks (paramSt d slot st))
    (hbanks : pickBanks (tableBanks (paramSt d slot st)) (bankPlaces (getJob d slot) st) (bankPool d slot) ≠ []) :
    replaceTable slot st inst counter d =
      .next (stepTables ((pickBanks (tableBanks (paramSt d slot st)) (bankPlaces (getJob d slot) st) (bankPool d slot)).foldl
        (fun d r => placeOn d slot st inst r 1 counter) d) slot 1 counter) := by
  unfold replaceTable
  simp only [hfew, if_true, List.isEmpty_eq_false_iff.mpr hbanks, Bool.false_eq_true, if_false]

end Sys2Proof.Machine
end

section
/-!
PROOFS. The settled statement on the rows of queues, a theorem for each of its clauses (02 R33, R45, R52 to R54; 01 R21 to R23).
-/

namespace Sys2Proof

open Sys2Proof.Machine

section
variable {s : State} {slot st port n k : Nat}

/-- A command that answers a device takes it. -/
theorem takes_of_settle {c : Instr} {r : DevOut} {d : Dev} (hexec : exec c s = settle s r) (h : r = .next d) : Takes c s d := by
  rw [Takes, hexec, h, settle_next]

/-- What a station takes of a tile keeps its parameters. -/
theorem paramSt_tileTaken (d : Dev) (slot st port n k : Nat) (t : Tile) : paramSt (tileTaken d slot st port n k t) slot st = paramSt d slot st := by
  have himage : (getJob (tileTaken d slot st port n k t) slot).image = (getJob d slot).image := by
    rw [tileTaken, modIn, modSt, getJob_modJob_keeps Job.image (by intro j; rfl), modQ_keeps Job.image (by intros; rfl)]
  rw [paramSt, himage, paramSt]

/-- TILE_CONSUME of a tile that passes every check (R33, R35). -/
theorem tileConsume_takes {t : Tile} (hat : AtStation s slot st (fun _ => true)) (hq : inQueueNo (getJob s.dev slot) st port = some (n, k))
    (ht : (getQ s.dev slot n).tiles.find? (fun x => x.seq == (getQ s.dev slot n).taken.getD k 0) = some t) (htake : takesTile s.dev slot st port = true)
    (hcheck : checkTile (expectOf (getJob s.dev slot) slot n k (getQ s.dev slot n)) t = none)
    (hsel : (descSt s.dev slot st).stype = .select → selTypes (selP (paramSt s.dev slot st)) (getQ s.dev slot n).types t = none) :
    let d := tileTaken (rowStart s) slot st port n k t
    ((∀ x, (getSt d slot st).kind ≠ .kernel x) → Takes (.tileConsume slot st port) s (forwardTile d slot n t)) ∧
    (∀ x y, (getSt d slot st).kind = .kernel x → kernelPortCheck (paramSt s.dev slot st) port x (getIn d slot st port) t = .ok y →
      Takes (.tileConsume slot st port) s (setKind d slot st (.kernel y))) := by
  dsimp only
  have htaken := tileConsume_taken (d := rowStart s) hq ht htake hcheck hsel
  refine ⟨fun hkind => takes_of_settle (exec_tileConsume hat port) (htaken.trans (afterTaken_other hkind port n t)),
    fun x y hkind hport => takes_of_settle (exec_tileConsume hat port) (htaken.trans (afterTaken_kernel hkind ?_ n))⟩
  rw [paramSt_tileTaken]
  exact hport

/-- CREDIT_RETURN of a finished tile (R45). -/
theorem creditReturn_returns (hat : AtStation s slot st (fun _ => true)) (hq : inQueueNo (getJob s.dev slot) st port = some (n, k))
    (hfin : 0 < (getIn s.dev slot st port).finished) (hvalve : (getQ s.dev slot n).valve = true → (getQ s.dev slot n).held = []) :
    ∃ u, exec (.creditReturn slot st port) s = .next u ∧ u.mem = s.mem ∧ (getIn u.dev slot st port).finished = (getIn s.dev slot st port).finished - 1 ∧
      (getQ u.dev slot n).returned = setAt (getQ s.dev slot n).returned k ((getQ s.dev slot n).returned.getD k 0 + 1) := by
  obtain ⟨u, hu, hsame⟩ := creditReturn_sameBeside (d := rowStart s) hq hfin hvalve
  refine ⟨ended s u, by rw [exec_creditReturn hat, hu, settle_next], ended_mem_of_posted hsame.posted, ?_, ?_⟩
  · show (getIn u slot st port).finished = _
    rw [getIn, hsame.station]
    exact creditBack_finished (d := rowStart s) hfin
  · show (getQ u slot n).returned = _
    rw [hsame.returned]
    exact creditBack_returned (rowStart s) slot st port n k

/-- CREDIT_RETURN by a consumer that holds no slot (R37). -/
theorem creditReturn_faults (hat : AtStation s slot st (fun _ => true)) (hq : inQueueNo (getJob s.dev slot) st port = some (n, k))
    (hfin : (getIn s.dev slot st port).finished = 0) (hheld : (getQ s.dev slot n).taken.getD k 0 ≤ (getQ s.dev slot n).returned.getD k 0) :
    ∃ u, exec (.creditReturn slot st port) s = .next u ∧ (getJob u.dev slot).lastFault = 0x0111 ∧ (getJob u.dev slot).state ≠ .running := by
  have ⟨hslot, hrun, _⟩ := hat
  refine ⟨ended s (jobFault (rowStart s) (creditFault (rowStart s) slot st n k)), ?_, ?_⟩
  · rw [exec_creditReturn hat, creditReturn_none_held (d := rowStart s) hq hfin hheld, settle_next, creditError_eq]
  · obtain ⟨hfault, hstop⟩ := jobFault_running (d := rowStart s) (f := creditFault (rowStart s) slot st n k) hslot hrun
    exact ⟨hfault, hstop.not_running⟩

/-- SPILL_REFILL (R53). -/
theorem spillRefill_refills {t : Tile} {r : List Tile} (hat : AtQueue s slot n) (hspilled : (getQ s.dev slot n).spilled = t :: r)
    (hfull : queueFull (getJob s.dev slot) n (getQ s.dev slot n) = false) (hseal : t.computeSeal = t.crc) :
    ∃ u, exec (.spillRefill slot n) s = .next u ∧ u.mem = s.mem ∧ (getQ u.dev slot n).spilled = r ∧ (getQ u.dev slot n).tiles = (getQ s.dev slot n).tiles ++ [t] := by
  obtain ⟨hs, hn⟩ := queue_exists (d := start s) (slot := slot) (n := n) (fun he => by
    have hnone : (getQ s.dev slot n).spilled = [] := congrArg QRun.spilled he
    simp [hnone] at hspilled)
  have hrefilled := getQ_modQ_self hs hn (QRun.refill t r)
  refine ⟨ended s (closeValve (modQ (start s) slot n (QRun.refill t r)) slot n), ?_, ended_mem_of_posted (closeValve_sameBeside slot n _).posted, ?_, ?_⟩
  · rw [exec_spillRefill hat, spillRefill_oldest (d := start s) hspilled hfull hseal, settle_next]
  · exact (closeValve_keeps QRun.spilled (by intro q; rfl) _ slot n).trans (congrArg QRun.spilled hrefilled)
  · exact (closeValve_keeps QRun.tiles (by intro q; rfl) _ slot n).trans (congrArg QRun.tiles hrefilled)

/-- SPILL_VALVE_OPEN on the lowest-numbered blocked queue of a cycle (R52, R53). -/
theorem spillValveOpen_opens (hat : AtQueue s slot n) (hvalve : (getQ s.dev slot n).valve = false)
    (hmem : n ∈ ((cycleEdges (getJob s.dev slot) (waitEdges s.dev slot) n).filter (fun e => e.2.2)).map (·.2.1)) (hstuck : 10 ≤ (getQ s.dev slot n).stuck)
    (hlow : ∀ k ∈ ((cycleEdges (getJob s.dev slot) (waitEdges s.dev slot) n).filter (fun e => e.2.2)).map (·.2.1), n ≤ k) :
    ∃ u, exec (.spillValveOpen slot n) s = .next u ∧
      (if (ownEdges s.dev slot).any (fun e => e.2.1 == n && e.2.2) then (getQ u.dev slot n).valve = true ∨ (getJob u.dev slot).lastFault = 0x0112
       else (getQ u.dev slot n).stuck = 0 ∧ (getQ u.dev slot n).valve = false) := by
  obtain ⟨hs, hn⟩ := queue_exists (d := start s) (slot := slot) (n := n) (fun he => by
    have hnone : (getQ s.dev slot n).stuck = 0 := congrArg QRun.stuck he
    omega)
  obtain ⟨u, hu, hjobs⟩ := spillValveOpen_due (d := start s) hvalve hmem hstuck hlow
  have hjob : getJob (ended s u).dev slot = getJob (if (ownEdges s.dev slot).any (fun e => e.2.1 == n && e.2.2) then openValve (start s) slot n
      else modQ (start s) slot n (fun q => { q with stuck := 0 })) slot := getJob_congr hjobs slot
  refine ⟨ended s u, by rw [exec_spillValveOpen hat, hu, settle_next], ?_⟩
  unfold getQ
  rw [hjob]
  split
  · exact openValve_opened hat.1 hs hn
  · have hq := getQ_modQ_self hs hn (fun q => { q with stuck := 0 })
    exact ⟨congrArg QRun.stuck hq, (congrArg QRun.valve hq).trans hvalve⟩

/-- WATCHDOG_SAMPLE (R52). -/
theorem watchdogSample_takes (hserved : served s.dev = true) : Takes .watchdogSample s ((List.range 64).foldl watchJob (start s)) := by
  refine takes_of_settle (r := onlyIf (served (start s)) ((List.range 64).foldl watchJob (start s))) rfl ?_
  rw [show served (start s) = true from hserved, onlyIf_true]

/-- WAIT_EDGES at a participant of a running job, from another participant: what the device is first, and what the anchor and the others then do (R52). -/
theorem exec_waitEdges {part : Nat} (edges : List (Nat × Nat × Bool)) (hslot : slot < 64) (hrun : (getJob s.dev slot).state = .running)
    (hpart : part < (getJob s.dev slot).participants.length) (hother : part ≠ (getJob s.dev slot).partIndex) :
    let j := getJob s.dev slot
    let d := modJob (start s) slot (fun j => { j with heard := assocSet j.heard part s.dev.time })
    exec (.waitEdges slot part edges) s = settle s (
      if isAnchor s.dev j then .next (modJob d slot (fun j => { j with farEdges := assocSet j.farEdges part edges }))
      else if partAddr s.dev j part ≠ j.anchor then .next d
      else .next ((edges.filter (fun e => e.2.2 && queueBlocked j e.2.1 (getQ d slot e.2.1) && !(getQ d slot e.2.1).valve)).foldl (fun d e => openValve d slot e.2.1) d)) := by
  have hcond : ¬((getJob (start s) slot).state ≠ .running ∨ (getJob (start s) slot).participants.length ≤ part ∨ part = (getJob (start s) slot).partIndex) := by
    rintro (h | h | h)
    · exact h hrun
    · exact absurd hpart (Nat.not_lt.mpr h)
    · exact hother h
  have hexec : exec (.waitEdges slot part edges) s = execWaitEdges slot part edges s := rfl
  rw [hexec]
  unfold execWaitEdges runDev
  dsimp only
  rw [if_neg (Nat.not_le.mpr hslot), if_neg hcond]
  rfl

/-- WAIT_EDGES keeps the queues as it notes whom it heard. -/
theorem getQ_heard (s : State) (slot part n : Nat) :
    getQ (modJob (start s) slot (fun j => { j with heard := assocSet j.heard part s.dev.time })) slot n = getQ s.dev slot n :=
  getQ_modJob_keeps (by intro j; rfl) (start s) slot n

/-- WAIT_EDGES (R52; log entry 104): the anchor keeps the edges, another participant opens the valves that the anchor names. -/
theorem waitEdges_takes {part : Nat} (edges : List (Nat × Nat × Bool)) (hslot : slot < 64) (hrun : (getJob s.dev slot).state = .running)
    (hpart : part < (getJob s.dev slot).participants.length) (hother : part ≠ (getJob s.dev slot).partIndex) :
    (isAnchor s.dev (getJob s.dev slot) = true → ∃ u, exec (.waitEdges slot part edges) s = .next u ∧ assocGet (getJob u.dev slot).farEdges part = some edges) ∧
    (isAnchor s.dev (getJob s.dev slot) = false → partAddr s.dev (getJob s.dev slot) part = (getJob s.dev slot).anchor →
      Takes (.waitEdges slot part edges) s
        ((edges.filter (fun e => e.2.2 && queueBlocked (getJob s.dev slot) e.2.1 (getQ s.dev slot e.2.1) && !(getQ s.dev slot e.2.1).valve)).foldl (fun d e => openValve d slot e.2.1)
          (modJob (start s) slot (fun j => { j with heard := assocSet j.heard part s.dev.time })))) := by
  have hexec := exec_waitEdges edges hslot hrun hpart hother
  dsimp only at hexec
  constructor
  · intro hanchor
    rw [if_pos hanchor, settle_next] at hexec
    refine ⟨_, hexec, ?_⟩
    have hs : slot < (start s).jobs.length := slot_exists_of_state (d := start s) (slot := slot) (fun h => by
      have hfree : (getJob s.dev slot).state = .free := h
      simp [hrun] at hfree)
    have hjob := getJob_modJob_self (d := modJob (start s) slot (fun j => { j with heard := assocSet j.heard part s.dev.time })) (slot := slot)
      (by simpa using hs) (fun j => { j with farEdges := assocSet j.farEdges part edges })
    refine (congrArg (fun j : Job => assocGet j.farEdges part) hjob).trans ?_
    rw [assocGet_set]
    simp
  · intro hanchor haddr
    simp only [hanchor, haddr, getQ_heard, ne_eq, not_true_eq_false, Bool.false_eq_true, if_false] at hexec
    exact takes_of_settle hexec rfl

/-- SATURATION_REPLACEMENT at a tile boundary (01 R21 to R23; 07 R205). -/
theorem saturationReplacement_takes {counter : Nat} (inst : Nat) (hat : AtStation s slot st (fun _ => true)) (hlow : 0x35D ≤ counter) (hhigh : counter ≤ 0x361)
    (hpin : (getJob s.dev slot).pins.any (fun p => p.1 == st) = false) (hsettled : stationSettled s.dev slot st = true) :
    let d := cachedFor (rowStart s) slot st counter
    ((descSt s.dev slot st).stype ≠ .matchSt → (∀ r, unitNear d slot st counter = some r → (placedInsts (getJob d slot)).contains (st, inst) = true →
      Takes (.saturationReplacement slot st inst counter) s (moveInst d slot st inst r 1 counter))) ∧
    ((descSt s.dev slot st).stype = .matchSt → (bankPlaces (getJob d slot) st).length < tableBanks (paramSt d slot st) →
      let g := pickBanks (tableBanks (paramSt d slot st)) (bankPlaces (getJob d slot) st) (bankPool d slot)
      g ≠ [] → Takes (.saturationReplacement slot st inst counter) s (stepTables (g.foldl (fun d r => placeOn d slot st inst r 1 counter) d) slot 1 counter)) := by
  have hexec := exec_saturationReplacement hat inst counter
  constructor
  · intro hkind r hunit hplaced
    refine takes_of_settle hexec (saturationReplacement_settled (d := rowStart s) inst hlow hhigh hpin hsettled ?_)
    rw [if_neg (show (descSt (rowStart s) slot st).stype ≠ .matchSt from hkind)]
    exact replaceInst_placed hunit hplaced
  · intro hkind hfew g hbanks
    refine takes_of_settle hexec (saturationReplacement_settled (d := rowStart s) inst hlow hhigh hpin hsettled ?_)
    rw [if_pos (show (descSt (rowStart s) slot st).stype = .matchSt from hkind)]
    exact replaceTable_grows inst counter hfew hbanks

end

/-- Settles O22, one clause a row. -/
theorem queueRows : Obligations.QueueRows := by
  intro s slot st port n k
  refine ⟨fun t hat hq ht htake hcheck hsel => tileConsume_takes hat hq ht htake hcheck hsel, creditReturn_returns, creditReturn_faults,
    fun t r => spillRefill_refills, spillValveOpen_opens, watchdogSample_takes, fun part edges => waitEdges_takes edges,
    fun inst counter hat hlow hhigh hpin hsettled => saturationReplacement_takes inst hat hlow hhigh hpin hsettled⟩

end Sys2Proof
end

section
/-!
PROOFS. What entries written to the rings leave of the register window (03 R67, R68, R72, R73; 14 R376): every register but the tail, PHASE and counts.
-/

namespace Sys2Proof.Machine

open Sys2Proof

theorem pow2_eq (n : Nat) : pow2 n = 2 ^ n := Nat.one_shiftLeft n

/-- Bits below the width of a wrapped number are those of the number. -/
theorem bit_wrap {w i : Nat} (h : i < w) (v : Nat) : bit (wrap w v) i = v.testBit i := by
  rw [bit, wrap, pow2_eq, Nat.testBit_mod_two_pow]
  simp [h]

/-- The part of a ring that writing an entry leaves (R67). -/
structure RingControl where
  enabled : Bool
  disabling : Bool
  head : Nat
  base : Nat
  size : Nat

/-- The part of a ring that writing an entry leaves. -/
def Ring.control (r : Ring) : RingControl := ⟨r.enabled, r.disabling, r.head, r.base, r.size⟩

@[simp] theorem Ring.push_control (r : Ring) : r.push.control = r.control := rfl

theorem Ring.enabled_of_control {r q : Ring} (h : r.control = q.control) : r.enabled = q.enabled := congrArg RingControl.enabled h

theorem Ring.head_of_control {r q : Ring} (h : r.control = q.control) : r.head = q.head := congrArg RingControl.head h

/-! ### One entry -/

/-- A port stays up when a port counts the flits that it sends. -/
@[simp] theorem hostPort_modPort_sendSlots (d : Dev) (p n : Nat) : hostPort (modPort d p (fun l => l.sendSlots n)) = hostPort d := by
  unfold hostPort
  congr 1
  funext k
  rw [port_modPort]
  split <;> rfl

@[simp] theorem hostPort_hostSlots (d : Dev) (n : Nat) : hostPort (hostSlots d n) = hostPort d := by
  unfold hostSlots
  split
  · exact hostPort_modPort_sendSlots ..
  · rfl

@[simp] theorem hostSlots_posted (d : Dev) (n : Nat) : (hostSlots d n).posted = d.posted := by
  obtain ⟨ps, h⟩ := hostSlots_frame d n
  rw [h]

@[simp] theorem hostWrite_posted (d : Dev) (a : Nat) (bs : Bytes) : (hostWrite d a bs).posted = d.posted ++ [.write (hostBase + a) bs] := by
  obtain ⟨ps, h⟩ := hostWrite_frame d a bs
  rw [h]

/-- EFLAGS of an event entry: PHASE, and LOST where an event was dropped before (R67, R73). -/
def eventFlags (w : Window) : Byte := byteOf (b2n w.evt.phase + 2 * b2n w.lostFlag)

/-- An event on a full ring is dropped (R73). -/
theorem writeEvent_full {d : Dev} (hlive : d.win.evt.live = true) (hport : (hostPort d).isSome = true) (hfull : d.win.evt.full = true) (e : Bytes) :
    writeEvent d e = dropEvent d := by
  have hup : (hostPort d).isNone = false := by simpa using hport
  simp [writeEvent, hlive, hup, hfull]

/-- An event on a ring with room is written at its tail. -/
theorem writeEvent_room {d : Dev} (hlive : d.win.evt.live = true) (hport : (hostPort d).isSome = true) (hroom : d.win.evt.full = false) (e : Bytes) :
    writeEvent d e = modWin (hostWrite d (d.win.evt.base + 64 * d.win.evt.tail) (e.set 3 (eventFlags d.win))) (fun w => { w with evt := w.evt.push, lostFlag := false }) := by
  have hup : (hostPort d).isNone = false := by simpa using hport
  simp [writeEvent, hlive, hup, hroom, eventFlags]

/-- An event changes the event ring past its tail, what is held and what was lost of the window, nothing else of it. -/
theorem writeEvent_win (d : Dev) (e : Bytes) : ∃ evt lost flag held,
    (writeEvent d e).win = { d.win with evt := evt, evtLost := lost, lostFlag := flag, held := held } ∧ evt.control = d.win.evt.control := by
  unfold writeEvent
  dsimp only
  split
  · exact ⟨d.win.evt, _, _, d.win.held, rfl, rfl⟩
  · split
    · split
      · exact ⟨d.win.evt, d.win.evtLost, d.win.lostFlag, _, rfl, rfl⟩
      · exact ⟨d.win.evt, _, _, d.win.held, rfl, rfl⟩
    · split
      · exact ⟨d.win.evt, _, _, d.win.held, rfl, rfl⟩
      · exact ⟨_, d.win.evtLost, false, d.win.held, by simp, d.win.evt.push_control⟩

/-- A completion entry changes the completion ring past its tail and what is held of the window, nothing else of it. -/
theorem writeCpl_win (d : Dev) (e : Bytes) : ∃ cpl held,
    (writeCpl d e).win = { d.win with cpl := cpl, held := held } ∧ cpl.control = d.win.cpl.control := by
  unfold writeCpl
  dsimp only
  split
  · exact ⟨d.win.cpl, _, rfl, rfl⟩
  · exact ⟨_, d.win.held, by simp, d.win.cpl.push_control⟩

/-! ### The rings after entries -/

/-- The part of ring `n` that entries leave. -/
def Window.control (w : Window) (n : Nat) : RingControl := (w.ring n).control

/-- Rings of which the completion and the event ring were written to are in control what they were. -/
theorem Window.control_congr {w w' : Window} (hcmd : w'.cmd = w.cmd) (hcpl : w'.cpl.control = w.cpl.control) (hevt : w'.evt.control = w.evt.control) (n : Nat) :
    w'.control n = w.control n :=
  match n with
  | 0 => congrArg Ring.control hcmd
  | 1 => hcpl
  | _ + 2 => hevt

theorem writeEvent_control (d : Dev) (e : Bytes) (n : Nat) : (writeEvent d e).win.control n = d.win.control n := by
  obtain ⟨evt, lost, flag, held, hwin, hevt⟩ := writeEvent_win d e
  rw [hwin]
  exact Window.control_congr (by rfl) (by rfl) hevt n

theorem writeCpl_control (d : Dev) (e : Bytes) (n : Nat) : (writeCpl d e).win.control n = d.win.control n := by
  obtain ⟨cpl, held, hwin, hcpl⟩ := writeCpl_win d e
  rw [hwin]
  exact Window.control_congr (by rfl) hcpl (by rfl) n

theorem writeHeld_control (d : Dev) (x : Held) (n : Nat) : (writeHeld d x).win.control n = d.win.control n := by
  cases x with
  | resp a bs => exact congrArg (Window.control · n) (hostWrite_win d a bs)
  | event e => exact writeEvent_control d e n
  | entry e => exact writeCpl_control d e n

/-- What every step of a fold leaves, the fold leaves. -/
theorem foldl_keeps {α β : Type} (g : Dev → β) {f : Dev → α → Dev} (hf : ∀ d a, g (f d a) = g d) : ∀ (xs : List α) (d : Dev), g (xs.foldl f d) = g d
  | [], _ => rfl
  | a :: xs, d => (foldl_keeps g hf xs (f d a)).trans (hf d a)

/-- Writing what was held leaves the rings' control. -/
theorem flushHeld_control (d : Dev) (n : Nat) : (flushHeld d).win.control n = d.win.control n := by
  unfold flushHeld
  split
  · rfl
  · rw [foldl_keeps (·.win.control n) (fun d x => writeHeld_control d x n)]
    exact Window.control_congr rfl rfl rfl n

/-- Where nothing was held, the rings stay as they are. -/
theorem flushHeld_ring {d : Dev} (h : d.win.held = []) (n : Nat) : (flushHeld d).win.ring n = d.win.ring n := by
  unfold flushHeld
  rw [h]
  split
  · rfl
  · rfl

/-- The reports of the boot faults leave the rings' control. -/
theorem reportBootFaults_control (d : Dev) (n : Nat) : (reportBootFaults d).win.control n = d.win.control n := by
  unfold reportBootFaults
  exact foldl_keeps (·.win.control n) (fun d f => writeEvent_control d _ n) d.root.bootFaults _

theorem reportBootFaults_nothing {d : Dev} (h : d.root.bootFaults = []) : (reportBootFaults d).win = d.win := by
  unfold reportBootFaults
  rw [h]
  rfl

end Sys2Proof.Machine
end

section
/-!
PROOFS. The register window (03 R64 to R66): how a well-placed access reaches its register, the rows that are such accesses, the registers at reset.
-/

namespace Sys2Proof.Machine

open Sys2Proof

/-! ### A host write reaches its register -/

/-- A 32-bit write in the window is one of the low 32 bits of its value. -/
theorem writeReg_word {d : Dev} (hup : windowUp d = true) {off : Nat} (halign : regAligned off 4 = true) (v : Nat) : writeReg d off 4 v = writeReg32 d off (wrap 32 v) := by
  simp [writeReg, hup, halign]

/-- A 64-bit write of a 64-bit register takes effect at once. -/
theorem writeReg_wide {d : Dev} (hup : windowUp d = true) {off : Nat} (halign : regAligned off 8 = true) (hwide : wideRegs.contains off = true) (v : Nat) :
    writeReg d off 8 v = writeWide d off (wrap 64 v) := by
  unfold writeReg
  rw [hup, halign, hwide]
  rfl

theorem writeReg_cmdDoorbell {d : Dev} (hup : windowUp d = true) (v : Nat) : writeReg d 0x020 4 v = doorbell d 0 (wrap 32 v) := writeReg_word hup rfl v

theorem writeReg_cplDoorbell {d : Dev} (hup : windowUp d = true) (v : Nat) : writeReg d 0x038 4 v = doorbell d 1 (wrap 32 v) := writeReg_word hup rfl v

theorem writeReg_evtDoorbell {d : Dev} (hup : windowUp d = true) (v : Nat) : writeReg d 0x050 4 v = doorbell d 2 (wrap 32 v) := writeReg_word hup rfl v

theorem writeReg_ringEnable {d : Dev} (hup : windowUp d = true) (v : Nat) : writeReg d 0x058 4 v = writeRingEnable d (wrap 32 v) := writeReg_word hup rfl v

theorem writeReg_resetCtl {d : Dev} (hup : windowUp d = true) (v : Nat) : writeReg d 0x070 4 v = writeResetCtl d (wrap 32 v) := writeReg_word hup rfl v

/-- Writing VALID of FAULT_LATCH clears the register. -/
theorem writeReg_latchValid {d : Dev} (hup : windowUp d = true) : writeReg d 0x060 8 (2 ^ 63) = clearLatch d := by
  have hvalid : bit (wrap 64 (2 ^ 63)) 63 = true := (bit_wrap (by decide) _).trans Nat.testBit_two_pow_self
  rw [writeReg_wide hup rfl rfl]
  exact if_pos (e := d) hvalid

/-! ### The registers at reset -/

theorem statusReg_reset : statusReg State.reset.dev = 0 := by decide +kernel

/-- The 64-bit registers read zero at reset. -/
theorem readWide_reset (off : Nat) : readWide State.reset.dev off = 0 := by
  unfold readWide
  repeat' split
  all_goals rfl

/-- The registers at reset (R64): the two constants, all else zero. -/
theorem readReg32_reset (off : Nat) : readReg32 State.reset.dev off = if off = 0x000 then 0x59440201 else if off = 0x004 then 2 else 0 := by
  unfold readReg32
  dsimp only
  split
  case h_3 => exact statusReg_reset
  case h_13 off h0 h4 _ _ _ _ _ _ _ _ _ _ =>
    rw [if_neg h0, if_neg h4, readWide_reset, readWide_reset]
    split
    · rfl
    · split <;> rfl
  all_goals rfl

/-- A job slot at reset is FREE, the slots past the last too. -/
theorem getD_replicate_default (n slot : Nat) : (List.replicate n ({} : Job)).getD slot {} = {} := by
  rw [List.getD_eq_getElem?_getD, List.getElem?_replicate]
  split <;> rfl

/-- A ring of a register window that was not written is disabled. -/
theorem ring_default_enabled (n : Nat) : (({} : Window).ring n).enabled = false :=
  match n with
  | 0 => rfl
  | 1 => rfl
  | _ + 2 => rfl

end Sys2Proof.Machine

namespace Sys2Proof

open Sys2Proof.Machine

/-! ### The rows of the window -/

section
variable (s : State) (value : Nat)

theorem takes_regWrite (off len : Nat) : Takes (.regWrite off len value) s (writeReg (start s) off len value) := rfl

theorem takes_cmdDoorbell (stores : List (Nat × Bytes)) : Takes (.cmdDoorbell stores value) s (writeReg (hostStores (start s) stores) 0x020 4 value) := rfl

theorem takes_cplDoorbell : Takes (.cplDoorbell value) s (writeReg (start s) 0x038 4 value) := rfl

theorem takes_evtDoorbell : Takes (.evtDoorbell value) s (writeReg (start s) 0x050 4 value) := rfl

theorem takes_ringEnableSet : Takes (.ringEnableSet value) s (writeReg (start s) 0x058 4 (ringEnables s.dev.win ||| value % 8)) := rfl

theorem takes_ringDisable : Takes (.ringDisable value) s (writeReg (start s) 0x058 4 (ringEnables s.dev.win &&& (7 - value % 8))) := rfl

theorem takes_faultLatchClear : Takes .faultLatchClear s (writeReg (start s) 0x060 8 (2 ^ 63)) := rfl

theorem takes_fullReset : Takes (.fullReset value) s (writeReg (start s) 0x070 4 value) := rfl

theorem takes_regReadLowWord (off len : Nat) : Takes (.regReadLowWord off len) s (regReadLow off len (start s)) := rfl

/-- EVT_LOST_READ answers the count and clears it, or all ones where the window is not reached (R64, R73). -/
theorem takes_evtLostRead : Takes .evtLostRead s
    (if windowUp s.dev then { start s with sent := [.regData s.dev.win.evtLost false], win := { s.dev.win with lastRead := s.dev.win.evtLost, evtLost := 0 } }
     else { start s with sent := [.regData 0xFFFFFFFF false], win := { s.dev.win with lastRead := 0xFFFFFFFF } }) := rfl

end

/-- Settles O7: each row is the access of its register. -/
theorem windowRows : Obligations.WindowRows := fun s off len value stores =>
  ⟨takes_regWrite s value off len, takes_cmdDoorbell s value stores, takes_cplDoorbell s value, takes_evtDoorbell s value, takes_ringEnableSet s value,
   takes_ringDisable s value, takes_faultLatchClear s, takes_fullReset s value, takes_regReadLowWord s off len, takes_evtLostRead s⟩

/-- Settles O6, register by register. -/
theorem resetRegisters : Obligations.ResetRegisters :=
  ⟨readReg32_reset, ring_default_enabled, fun slot => congrArg Job.state (getD_replicate_default 64 slot), rfl, rfl, rfl⟩

end Sys2Proof
end

section
/-!
PROOFS. Ring enables and doorbells (03 R64, R67 to R70): which bit a write of RING_ENABLE changes, a ring that is enabled or disabled, its head and tail.
-/

namespace Sys2Proof.Machine

open Sys2Proof

/-! ### One ring -/

theorem modRing_ring_self (d : Dev) (n : Nat) (f : Ring → Ring) : (modRing d n f).win.ring n = f (d.win.ring n) :=
  match n with
  | 0 => rfl
  | 1 => rfl
  | _ + 2 => rfl

/-- A change of one ring is none of another. -/
theorem modRing_ring_ne {k n : Nat} (hk : k < 3) (hn : n < 3) (h : k ≠ n) (d : Dev) (f : Ring → Ring) : (modRing d n f).win.ring k = d.win.ring k := by
  interval_cases k <;> interval_cases n
  any_goals rfl
  all_goals exact absurd rfl h

/-- The base and the size of a ring are valid within their ends (R64, R67). -/
theorem ringValid_iff (n : Nat) (r : Ring) : ringValid n r = true ↔
    r.base ≠ 0 ∧ r.base + ringEntryBytes n * 2 ^ r.size ≤ 2 ^ 57 ∧ (ringSizes n).1 ≤ r.size ∧ r.size ≤ (ringSizes n).2 := by
  simp only [ringValid, outside, Ring.entries, pow2_eq, Bool.and_eq_true, decide_eq_true_eq, Bool.not_eq_true', Bool.or_eq_false_iff, decide_eq_false_iff_not,
    Nat.not_lt, and_assoc]

/-- A ring as enabling leaves it (R67). -/
def Ring.restart (r : Ring) : Ring := { r with head := 0, tail := 0, enabled := true, disabling := false, phase := true, unread := false, announce := false }

theorem enableRing_invalid {d : Dev} {n : Nat} (h : ringValid n (d.win.ring n) = false) : enableRing d n = modWin d (fun w => { w with ringConfigError := true }) := by
  unfold enableRing
  rw [h]
  rfl

/-- A valid ring is enabled anew, then what was held is written. -/
theorem enableRing_valid {d : Dev} {n : Nat} (h : ringValid n (d.win.ring n) = true) :
    enableRing d n =
      let e := modWin (modRing d n Ring.restart) (fun w => { w with doorbellError := false })
      flushHeld (if n = 2 then reportBootFaults e else e) := if_pos h

/-- What was held leaves the control of a ring that was enabled anew, and of the others. -/
theorem enableRing_control {d : Dev} {n : Nat} (h : ringValid n (d.win.ring n) = true) (k : Nat) :
    (enableRing d n).win.control k = (modRing d n Ring.restart).win.control k := by
  rw [enableRing_valid h]
  dsimp only
  rw [flushHeld_control]
  split
  · rw [reportBootFaults_control]
    exact Window.control_congr rfl rfl rfl k
  · exact Window.control_congr rfl rfl rfl k

/-- Where nothing waited for the ring, it is left as enabled anew. -/
theorem enableRing_ring {d : Dev} {n : Nat} (h : ringValid n (d.win.ring n) = true) (hheld : d.win.held = []) (hfaults : d.root.bootFaults = []) :
    (enableRing d n).win.ring n = (d.win.ring n).restart := by
  rw [enableRing_valid h]
  dsimp only
  generalize he : modWin (modRing d n Ring.restart) (fun w => { w with doorbellError := false }) = e
  have hring : e.win.ring n = (d.win.ring n).restart := by
    rw [← modRing_ring_self d n Ring.restart, ← he]
    match n with
    | 0 => rfl
    | 1 => rfl
    | _ + 2 => rfl
  have hwin : (if n = 2 then reportBootFaults e else e).win = e.win := by
    split
    · exact reportBootFaults_nothing (by rw [← he]; exact hfaults)
    · rfl
  have hnone : e.win.held = [] := by
    rw [← he]
    unfold modRing
    split <;> exact hheld
  rw [flushHeld_ring (by rw [hwin, hnone]), hwin, hring]

/-- A ring as disabling leaves it (R68). -/
def Ring.disable (r : Ring) : Ring := if r.unread then { r with disabling := true } else { r with enabled := false, disabling := false }

theorem disableRing_ring (d : Dev) (n : Nat) : (disableRing d n).win.ring n = (d.win.ring n).disable := modRing_ring_self d n Ring.disable

/-- Enabling one ring leaves the enable bits of the others. -/
theorem enableRing_enabled_ne {k n : Nat} (hk : k < 3) (hn : n < 3) (h : k ≠ n) (d : Dev) : ((enableRing d n).win.ring k).enabled = (d.win.ring k).enabled := by
  cases hvalid : ringValid n (d.win.ring n)
  · rw [enableRing_invalid hvalid]
    interval_cases k <;> rfl
  · rw [Ring.enabled_of_control (enableRing_control hvalid k), modRing_ring_ne hk hn h]

/-! ### A write of RING_ENABLE -/

/-- What a write of RING_ENABLE does to ring `n` (R67, R68). -/
def writeEnableBit (v : Nat) (d : Dev) (n : Nat) : Dev :=
  if bit v n && !(d.win.ring n).enabled then enableRing d n else if !bit v n && (d.win.ring n).enabled then disableRing d n else d

theorem writeRingEnable_eq (d : Dev) (v : Nat) :
    writeRingEnable d v = writeEnableBit v (writeEnableBit v (writeEnableBit v (modWin d (fun w => { w with ringConfigError := false })) 0) 1) 2 := rfl

/-- A bit written as it reads changes nothing. -/
theorem writeEnableBit_same {v n : Nat} {d : Dev} (h : bit v n = (d.win.ring n).enabled) : writeEnableBit v d n = d := by
  unfold writeEnableBit
  rw [h]
  cases (d.win.ring n).enabled <;> rfl

theorem writeEnableBit_on {v n : Nat} {d : Dev} (hbit : bit v n = true) (hoff : (d.win.ring n).enabled = false) : writeEnableBit v d n = enableRing d n := by
  simp [writeEnableBit, hbit, hoff]

theorem writeEnableBit_off {v n : Nat} {d : Dev} (hbit : bit v n = false) (hon : (d.win.ring n).enabled = true) : writeEnableBit v d n = disableRing d n := by
  simp [writeEnableBit, hbit, hon]

theorem writeEnableBit_enabled_ne {v k n : Nat} (hk : k < 3) (hn : n < 3) (h : k ≠ n) (d : Dev) : ((writeEnableBit v d n).win.ring k).enabled = (d.win.ring k).enabled := by
  unfold writeEnableBit
  split
  · exact enableRing_enabled_ne hk hn h d
  · split
    · exact congrArg Ring.enabled (modRing_ring_ne hk hn h d _)
    · rfl

/-- A write that leaves the bits of the other rings as they read acts on one ring. -/
theorem writeRingEnable_one {d : Dev} {v n : Nat} (hn : n < 3) (h : ∀ k, k < 3 → k ≠ n → bit v k = (d.win.ring k).enabled) :
    writeRingEnable d v = writeEnableBit v (modWin d (fun w => { w with ringConfigError := false })) n := by
  have hclear (k : Nat) (hk : k < 3) (hne : k ≠ n) : bit v k = ((modWin d (fun w => { w with ringConfigError := false })).win.ring k).enabled := by
    rw [h k hk hne]
    interval_cases k <;> rfl
  rw [writeRingEnable_eq]
  generalize modWin d (fun w => { w with ringConfigError := false }) = e at hclear ⊢
  have hafter (k : Nat) (hk : k < 3) (hne : k ≠ n) : writeEnableBit v (writeEnableBit v e n) k = writeEnableBit v e n :=
    writeEnableBit_same (by rw [writeEnableBit_enabled_ne hk hn hne, hclear k hk hne])
  have hbefore (k : Nat) (hk : k < 3) (hne : k ≠ n) : writeEnableBit v e k = e := writeEnableBit_same (hclear k hk hne)
  interval_cases n
  · rw [hafter 1 (by decide) (by decide), hafter 2 (by decide) (by decide)]
  · rw [hbefore 0 (by decide) (by decide), hafter 2 (by decide) (by decide)]
  · rw [hbefore 0 (by decide) (by decide), hbefore 1 (by decide) (by decide)]

/-- RING_ENABLE reads the enable bits of the rings. -/
theorem ringEnables_testBit (w : Window) {k : Nat} (hk : k < 3) : (ringEnables w).testBit k = (w.ring k).enabled := by
  have hbits : ∀ a b c : Bool, (b2n a + 2 * b2n b + 4 * b2n c).testBit 0 = a ∧ (b2n a + 2 * b2n b + 4 * b2n c).testBit 1 = b ∧
      (b2n a + 2 * b2n b + 4 * b2n c).testBit 2 = c := by decide
  obtain ⟨h0, h1, h2⟩ := hbits w.cmd.enabled w.cpl.enabled w.evt.enabled
  interval_cases k
  · exact h0
  · exact h1
  · exact h2

/-- The bits that RING_ENABLE_SET of one ring writes. -/
theorem bit_enableSet (w : Window) {n k : Nat} (hn : n < 3) (hk : k < 3) : bit (wrap 32 (ringEnables w ||| 2 ^ n % 8)) k = ((w.ring k).enabled || decide (k = n)) := by
  have hone : (2 ^ n % 8).testBit k = decide (k = n) := by interval_cases n <;> interval_cases k <;> rfl
  rw [bit_wrap (by omega), Nat.testBit_or, ringEnables_testBit w hk, hone]

/-- The bits that RING_DISABLE of one ring writes. -/
theorem bit_disable (w : Window) {n k : Nat} (hn : n < 3) (hk : k < 3) : bit (wrap 32 (ringEnables w &&& (7 - 2 ^ n % 8))) k = ((w.ring k).enabled && decide (k ≠ n)) := by
  have hone : (7 - 2 ^ n % 8).testBit k = decide (k ≠ n) := by interval_cases n <;> interval_cases k <;> rfl
  rw [bit_wrap (by omega), Nat.testBit_and, ringEnables_testBit w hk, hone]

/-- The device in which RING_ENABLE was written and RING_CONFIG_ERROR is clear. -/
def noConfigError (d : Dev) : Dev := modWin d (fun w => { w with ringConfigError := false })

theorem noConfigError_ring (d : Dev) (n : Nat) : (noConfigError d).win.ring n = d.win.ring n :=
  match n with
  | 0 => rfl
  | 1 => rfl
  | _ + 2 => rfl

/-- RING_ENABLE_SET of a disabled ring enables it, and acts on no other. -/
theorem writeRingEnable_set {d : Dev} {n : Nat} (hn : n < 3) (hoff : (d.win.ring n).enabled = false) :
    writeRingEnable d (wrap 32 (ringEnables d.win ||| 2 ^ n % 8)) = enableRing (noConfigError d) n := by
  rw [writeRingEnable_one hn (fun k hk hne => by rw [bit_enableSet _ hn hk]; simp [hne])]
  exact writeEnableBit_on (by rw [bit_enableSet _ hn hn]; simp) ((congrArg Ring.enabled (noConfigError_ring d n)).trans hoff)

/-- RING_DISABLE of an enabled ring disables it, and acts on no other. -/
theorem writeRingEnable_clear {d : Dev} {n : Nat} (hn : n < 3) (hon : (d.win.ring n).enabled = true) :
    writeRingEnable d (wrap 32 (ringEnables d.win &&& (7 - 2 ^ n % 8))) = disableRing (noConfigError d) n := by
  rw [writeRingEnable_one hn (fun k hk hne => by rw [bit_disable _ hn hk]; simp [hne])]
  exact writeEnableBit_off (by rw [bit_disable _ hn hn]; simp) ((congrArg Ring.enabled (noConfigError_ring d n)).trans hon)

/-! ### BASE and SIZE -/

/-- The offset of a ring's BASE (R64). -/
def baseOff (n : Nat) : Nat :=
  match n with
  | 0 => 0x010 | 1 => 0x028 | _ => 0x040

/-- A write of the BASE of an enabled ring is discarded. -/
theorem writeReg_base_enabled {d : Dev} {n : Nat} (hup : windowUp d = true) (hn : n < 3) (hon : (d.win.ring n).enabled = true) (v : Nat) :
    writeReg d (baseOff n) 8 v = d := by
  have hbase : writeBase d n (wrap 64 v) = d := if_pos hon
  interval_cases n <;> exact (writeReg_wide hup rfl rfl v).trans hbase

/-- So is one of its SIZE. -/
theorem writeReg_size_enabled {d : Dev} {n : Nat} (hup : windowUp d = true) (hn : n < 3) (hon : (d.win.ring n).enabled = true) (v : Nat) :
    writeReg d (baseOff n + 8) 4 v = d := by
  have hsize : writeSize d n (wrap 32 v) = d := if_pos hon
  interval_cases n <;> exact (writeReg_word hup rfl v).trans hsize

/-! ### Doorbells -/

/-- The index a doorbell of 32 bits carries. -/
theorem wrap32_index (v : Nat) : wrap 32 v % 0x10000 = v % 65536 := by
  rw [wrap, pow2_eq]
  omega

theorem doorbell_outside {d : Dev} {n v : Nat} (hon : (d.win.ring n).enabled = true) (hout : 2 ^ (d.win.ring n).size ≤ v % 65536) :
    doorbell d n (wrap 32 v) = modWin d (fun w => { w with doorbellError := true }) := by
  have hentries : (d.win.ring n).entries ≤ v % 65536 := by rwa [Ring.entries, pow2_eq]
  simp [doorbell, wrap32_index, hon, hentries]

theorem doorbell_tail {d : Dev} {v : Nat} (hon : (d.win.ring 0).enabled = true) (hin : v % 65536 < 2 ^ (d.win.ring 0).size) :
    doorbell d 0 (wrap 32 v) = modRing d 0 (fun r => { r with tail := v % 65536 }) := by
  have hentries : ¬ (d.win.ring 0).entries ≤ v % 65536 := by rw [Ring.entries, pow2_eq]; omega
  simp [doorbell, wrap32_index, hon, hentries]

theorem doorbell_head {d : Dev} {n v : Nat} (hne : n ≠ 0) (hon : (d.win.ring n).enabled = true) (hin : v % 65536 < 2 ^ (d.win.ring n).size) :
    ((doorbell d n (wrap 32 v)).win.ring n).head = v % 65536 := by
  have hentries : ¬ (d.win.ring n).entries ≤ v % 65536 := by rw [Ring.entries, pow2_eq]; omega
  have hhead : doorbell d n (wrap 32 v) = flushHeld (modRing d n (fun r => { r with head := v % 65536 })) := by
    simp [doorbell, wrap32_index, hon, hentries, hne]
  rw [hhead, Ring.head_of_control (flushHeld_control _ n), modRing_ring_self]

end Sys2Proof.Machine

namespace Sys2Proof

open Sys2Proof.Machine

/-- The device that a command gives, by an equation. -/
theorem Takes.of_eq {i : Instr} {s : State} {d e : Dev} (h : Takes i s d) (heq : d = e) : Takes i s e := heq ▸ h

theorem ringEnableSet_sets {s : State} {n : Nat} (hup : windowUp s.dev = true) (hn : n < 3) (hoff : (s.dev.win.ring n).enabled = false) :
    Takes (.ringEnableSet (2 ^ n)) s (enableRing (noConfigError (start s)) n) :=
  (takes_ringEnableSet s (2 ^ n)).of_eq (by rw [writeReg_ringEnable (d := start s) hup, ← writeRingEnable_set (d := start s) hn hoff]; rfl)

theorem ringDisable_clears {s : State} {n : Nat} (hup : windowUp s.dev = true) (hn : n < 3) (hon : (s.dev.win.ring n).enabled = true) :
    Takes (.ringDisable (2 ^ n)) s (disableRing (noConfigError (start s)) n) :=
  (takes_ringDisable s (2 ^ n)).of_eq (by rw [writeReg_ringEnable (d := start s) hup, ← writeRingEnable_clear (d := start s) hn hon]; rfl)

/-- The rings that O9 lists, by number. -/
theorem ring_listed {n off : Nat} {lohi : Nat × Nat} (h : (n, off, lohi) ∈ [(0, 0x010, (4, 12)), (1, 0x028, (4, 14)), (2, 0x040, (6, 16))]) :
    n < 3 ∧ off = baseOff n ∧ lohi = ringSizes n ∧ (if n = 0 then 256 else if n = 1 then 32 else 64) = ringEntryBytes n := by
  simp only [List.mem_cons, Prod.mk.injEq, List.not_mem_nil, or_false] at h
  rcases h with ⟨rfl, rfl, rfl⟩ | ⟨rfl, rfl, rfl⟩ | ⟨rfl, rfl, rfl⟩
  all_goals exact ⟨by decide, rfl, rfl, rfl⟩

/-- Settles O9, ring by ring: RING_ENABLE_SET acts on its own ring, and what was held leaves the ring's control. -/
theorem ringEnable : Obligations.RingEnable := by
  intro s n off v lohi hup hlisted
  obtain ⟨hn, rfl, rfl, hbytes⟩ := ring_listed hlisted
  dsimp only
  rw [hbytes, ← ringValid_iff]
  have hring : (noConfigError (start s)).win.ring n = s.dev.win.ring n := noConfigError_ring (start s) n
  refine ⟨fun hoff hbad => ?_, fun hoff hvalid => ?_, fun q => ⟨?_, ?_⟩, fun hon => ?_⟩
  · refine ⟨_, ringEnableSet_sets hup hn hoff, ?_⟩
    show ((enableRing _ n).win.ring n).enabled = false ∧ (enableRing _ n).win.ringConfigError = true
    rw [enableRing_invalid (by rw [hring]; simpa using hbad)]
    refine ⟨?_, rfl⟩
    interval_cases n <;> exact hoff
  · refine ⟨_, ringEnableSet_sets hup hn hoff, ?_, fun hheld hfaults => ?_⟩
    · refine (Ring.enabled_of_control (enableRing_control (by rwa [hring]) n)).trans ?_
      rw [modRing_ring_self]
      rfl
    · have hleft : (ended s (enableRing (noConfigError (start s)) n)).dev.win.ring n = ((noConfigError (start s)).win.ring n).restart :=
        enableRing_ring (by rwa [hring]) hheld hfaults
      rw [hleft]
      exact ⟨rfl, rfl, rfl⟩
  · rw [← pow2_eq]
    rfl
  · rw [← pow2_eq]
    rfl
  · exact ⟨_, _, (takes_regWrite s v (baseOff n) 8).of_eq (writeReg_base_enabled (d := start s) hup hn hon v), rfl,
      (takes_regWrite s v (baseOff n + 8) 4).of_eq (writeReg_size_enabled (d := start s) hup hn hon v), rfl⟩

/-- Settles O10, doorbell by doorbell. -/
theorem doorbellsAndDisable : Obligations.DoorbellsAndDisable := by
  intro s v n hup
  refine ⟨fun hon => ⟨_, takes_cmdDoorbell s v [], ?_⟩, fun hon => ⟨_, takes_cplDoorbell s v, ?_⟩, fun hon => ⟨_, takes_evtDoorbell s v, ?_⟩,
    fun hn hon => ⟨_, ringDisable_clears hup hn hon, ?_⟩⟩
  · rw [writeReg_cmdDoorbell (by exact hup)]
    split
    next hin => rw [doorbell_tail (by exact hon) (by exact hin)]; rfl
    next hout => rw [doorbell_outside (by exact hon) (by exact Nat.not_lt.mp hout)]; exact ⟨rfl, rfl⟩
  · rw [writeReg_cplDoorbell (by exact hup)]
    split
    next hin => exact ⟨doorbell_head (d := start s) (n := 1) (by decide) hon hin, fun hout => absurd hin (Nat.not_lt.mpr hout)⟩
    next hout => rw [doorbell_outside (by exact hon) (by exact Nat.not_lt.mp hout)]; exact ⟨rfl, fun _ => rfl⟩
  · rw [writeReg_evtDoorbell (by exact hup)]
    split
    next hin => exact ⟨doorbell_head (d := start s) (n := 2) (by decide) hon hin, fun hout => absurd hin (Nat.not_lt.mpr hout)⟩
    next hout => rw [doorbell_outside (by exact hon) (by exact Nat.not_lt.mp hout)]; exact ⟨rfl, fun _ => rfl⟩
  · have hleft : (ended s (disableRing (noConfigError (start s)) n)).dev.win.ring n = (s.dev.win.ring n).disable :=
      (disableRing_ring _ n).trans (congrArg Ring.disable (noConfigError_ring (start s) n))
    rw [hleft]
    unfold Ring.disable
    split
    · exact ⟨⟨hon, by simp [Ring.live]⟩, rfl⟩
    · exact ⟨rfl, rfl⟩

end Sys2Proof
end

section
/-!
PROOFS. Faults and events (03 R66, R73): the fault latch, the event ring with room and without.
-/

namespace Sys2Proof.Machine

open Sys2Proof

/-- A fault is latched where none is (R66). -/
theorem latchFault_first {d : Dev} (h : d.win.latchValid = false) (f : FaultInfo) :
    (latchFault d f).win = { d.win with latchValid := true, latchSlot := f.slot, latchDie := f.die, latchLater := 0, latchCode := f.code, faultTime := d.time } := by
  simp [latchFault, h]

/-- A further fault is counted in LATER. -/
theorem latchFault_later {d : Dev} (h : d.win.latchValid = true) (f : FaultInfo) :
    (latchFault d f).win = { d.win with latchLater := if d.win.latchLater < 0xFFFF then d.win.latchLater + 1 else d.win.latchLater } := by
  simp [latchFault, h]

theorem latchFault_evt (d : Dev) (f : FaultInfo) : (latchFault d f).win.evt = d.win.evt := by
  cases h : d.win.latchValid
  · rw [latchFault_first h]
  · rw [latchFault_later h]

/-- A fault report latches, then writes the FAULT entry. -/
theorem reportFault_writes (d : Dev) (f : FaultInfo) :
    ∃ c, reportFault d f = writeEvent c (faultEntry d f) ∧ c.win = (latchFault d f).win ∧ c.posted = d.posted := by
  unfold reportFault
  dsimp only
  split
  · exact ⟨_, rfl, rfl, rfl⟩
  · exact ⟨_, rfl, rfl, rfl⟩

/-- Of the window a fault report changes the latch, the event ring, what is held and what was lost, nothing else. -/
theorem reportFault_win (d : Dev) (f : FaultInfo) : ∃ evt lost flag held,
    (reportFault d f).win = { (latchFault d f).win with evt := evt, evtLost := lost, lostFlag := flag, held := held } := by
  obtain ⟨c, hc, hwin, _⟩ := reportFault_writes d f
  obtain ⟨evt, lost, flag, held, hevent, _⟩ := writeEvent_win c (faultEntry d f)
  exact ⟨evt, lost, flag, held, by rw [hc, hevent, hwin]⟩

theorem latchReg_clearLatch (d : Dev) : latchReg (clearLatch d).win = 0 := rfl

end Sys2Proof.Machine

namespace Sys2Proof

open Sys2Proof.Machine

/-- Settles O12: the FAULT entry leaves the latch. -/
theorem faultLatch : Obligations.FaultLatch := by
  refine ⟨fun d f => ?_, fun s hup => ⟨_, (takes_faultLatchClear s).of_eq (writeReg_latchValid (d := start s) hup), latchReg_clearLatch (start s)⟩⟩
  obtain ⟨evt, lost, flag, held, hwin⟩ := reportFault_win d f
  dsimp only
  refine ⟨fun hclear => ?_, fun hvalid => ?_, ?_⟩
  · rw [hwin, latchFault_first hclear]
    exact ⟨rfl, rfl, rfl, rfl, rfl, rfl⟩
  · rw [hwin, latchFault_later hvalid]
    exact ⟨hvalid, rfl, rfl, rfl, rfl, rfl⟩
  · obtain ⟨c, hc, hlatched, hposted⟩ := reportFault_writes d f
    exact ⟨c, hc, by rw [hlatched, latchFault_evt], hposted⟩

/-- Settles O13: a full ring drops the event, one with room takes it at its tail. -/
theorem eventRingFull : Obligations.EventRingFull := by
  intro d e hlive hport
  refine ⟨fun hfull => ?_, fun hroom => ?_⟩
  · rw [writeEvent_full hlive hport hfull]
    exact ⟨rfl, rfl, rfl, rfl⟩
  · rw [writeEvent_room hlive hport hroom]
    exact ⟨rfl, by simp, by simp, hostWrite_posted ..⟩

end Sys2Proof
end

section
/-!
PROOFS. Command fetch and notifies (03 R70, R74).
-/

namespace Sys2Proof.Machine

open Sys2Proof

/-- A fetch takes place where R68, R70 and 14 R376 allow one. -/
theorem canFetch_iff (d : Dev) : canFetch d = true ↔ served d = true ∧ (hostPort d).isSome = true ∧ d.win.cmd.live = true ∧ d.win.cpl.live = true ∧
    d.win.cmd.head ≠ d.win.cmd.tail ∧ (ringCmds d.win).length < 32 ∧ (ringCmds d.win).length < d.win.cpl.room := by
  simp only [canFetch, Bool.and_eq_true, decide_eq_true_eq, and_assoc]

/-- The device whose CMD_HEAD has moved past the slot it fetches, while the host memory system fails some ranges. -/
def fetching (d : Dev) (gaps : List (Nat × Nat)) : Dev :=
  { d with hostGaps := gaps, win := { d.win with cmd := { d.win.cmd with head := (d.win.cmd.head + 1) % 2 ^ d.win.cmd.size } } }

/-- A fetch reads the slot at CMD_HEAD whole, or completes it with HOST_ACCESS_ERROR. -/
theorem commandFetch_eq (gaps : List (Nat × Nat)) (m : Memory) (d : Dev) :
    commandFetch gaps m d =
      let a := d.win.cmd.base + 256 * d.win.cmd.head
      let e := fetching d gaps
      if hostOk e a 256 then { e with win := { e.win with inProg := d.win.inProg ++ [readSlot (hostRead m a 256) d.win.cmd.head] } }
      else complete e { index := d.win.cmd.head } 0x0007 a [] 0xFF := by
  unfold fetching
  rw [← pow2_eq]
  rfl

theorem exec_commandFetch (gaps : List (Nat × Nat)) (s : State) :
    exec (.commandFetch gaps) s = settle s (onlyIf (canFetch (start s)) (commandFetch gaps s.mem (start s))) := rfl

/-- A notify of a ring may be sent where entries wait, a port is up and 2 µs have gone by. -/
theorem canNotify_iff (d : Dev) (ring : Nat) : canNotify d ring = true ↔ (d.win.ring (ring + 1)).announce = true ∧ (hostPort d).isSome = true ∧
    ∀ t, (d.win.ring (ring + 1)).notified = some t → t + 2000 ≤ d.time := by
  simp only [canNotify, Bool.and_eq_true, decide_eq_true_eq, and_assoc]
  cases (d.win.ring (ring + 1)).notified <;> simp

/-- A notify is sent on the port that carries Oluat's traffic with the ring's tail, of which nothing is left to announce. -/
theorem notify_sends {d : Dev} {p : Nat} (hport : hostPort d = some p) (ring : Nat) :
    (notify ring d).sent = d.sent ++ [.notify p ring (d.win.ring (ring + 1)).tail] ∧ (notify ring d).posted = d.posted ∧
    (notify ring d).win.ring (ring + 1) = { d.win.ring (ring + 1) with announce := false, notified := some d.time } := by
  unfold notify
  rw [hport]
  exact ⟨rfl, rfl, modRing_ring_self ..⟩

theorem exec_notify {ring : Nat} (h : ring < 2) (s : State) : exec (.notify ring) s = settle s (onlyIf (canNotify (start s) ring) (notify ring (start s))) := by
  have hring : ¬ 2 ≤ ring := Nat.not_le.mpr h
  show runDev s (fun _ d => if 2 ≤ ring then .fault .noSuchUnit else onlyIf (canNotify d ring) (notify ring d)) = _
  simp only [if_neg hring]
  rfl

end Sys2Proof.Machine

namespace Sys2Proof

open Sys2Proof.Machine

/-- An event that can take place answers its device. -/
theorem takes_of_onlyIf {i : Instr} {s : State} {c : Bool} {d : Dev} (hexec : exec i s = settle s (onlyIf c d)) (hc : c = true) : Takes i s d := by
  rw [hc] at hexec
  exact hexec

/-- One that cannot leaves the device as the command found it (log entry 99). -/
theorem takes_start_of_onlyIf {i : Instr} {s : State} {c : Bool} {d : Dev} (hexec : exec i s = settle s (onlyIf c d)) (hc : ¬ c = true) : Takes i s (start s) := by
  rw [Bool.not_eq_true] at hc
  rw [hc] at hexec
  exact hexec

/-- Settles O14: a fetch takes place exactly where R70 allows one, and reads the slot at CMD_HEAD. -/
theorem commandFetch : Obligations.CommandFetch := by
  intro s gaps
  dsimp only
  refine ⟨fun hserved hport hcmd hcpl hwaiting hprog hroom => ?_, fun hfew => ?_⟩
  · have hcan : canFetch (start s) = true := (canFetch_iff (start s)).mpr ⟨hserved, hport, hcmd, hcpl, hwaiting, hprog, hroom⟩
    have htakes := takes_of_onlyIf (exec_commandFetch gaps s) hcan
    rw [commandFetch_eq] at htakes
    exact ⟨fun hok => htakes.of_eq (if_pos hok), fun hbad => htakes.of_eq (if_neg (by rw [Bool.not_eq_true]; exact hbad))⟩
  · refine takes_start_of_onlyIf (exec_commandFetch gaps s) (fun hcan => ?_)
    obtain ⟨_, _, _, _, _, hprog, hroom⟩ := (canFetch_iff (start s)).mp hcan
    simp only [fresh_win] at hprog hroom
    omega

/-- Settles O15: a notify is sent exactly where R74 admits one. -/
theorem notifyRate : Obligations.NotifyRate := by
  intro s ring hring
  dsimp only
  refine ⟨fun p hport hwaiting hlast => ?_, fun t0 hlast hsoon => ?_, fun hnone => ?_⟩
  · have hcan : canNotify (start s) ring = true := (canNotify_iff (start s) ring).mpr ⟨hwaiting, Option.isSome_of_eq_some hport, hlast⟩
    obtain ⟨hsent, hposted, hleft⟩ := notify_sends (d := start s) hport ring
    exact ⟨_, takes_of_onlyIf (exec_notify hring s) hcan, hsent, hleft, ended_mem_of_posted hposted⟩
  · refine takes_start_of_onlyIf (exec_notify hring s) (fun hcan => ?_)
    have hdone := ((canNotify_iff (start s) ring).mp hcan).2.2 t0 hlast
    simp only [fresh_time] at hdone
    omega
  · refine takes_start_of_onlyIf (exec_notify hring s) (fun hcan => ?_)
    have hwaiting := ((canNotify_iff (start s) ring).mp hcan).1
    simp only [fresh_win, hnone, Bool.false_eq_true] at hwaiting

end Sys2Proof
end

section
/-!
PROOFS. Completions (03 R72, R78): the response in front of the events, the entry at the ring's tail, its fields read back.
-/

namespace Sys2Proof.Machine

open Sys2Proof

/-- A completion entry as it lies in memory: its fields in order, PHASE in CPFLAGS (R78). -/
def cplBytes (c : Cmd) (st dt written slot time : Nat) (phase : Bool) : Bytes :=
  le 4 c.cmdId ++ (le 2 c.opcode ++ (le 2 st ++ (le 8 dt ++ (le 4 written ++ (le 2 c.index ++ (le 1 slot ++ (le 1 (b2n phase) ++ (le 8 time ++ []))))))))

/-- PHASE goes into byte 0x17 of an entry. -/
theorem cplEntry_set_phase (c : Cmd) (st dt written slot time : Nat) (phase : Bool) :
    (cplEntry c st dt written slot time).set 0x17 (byteOf (b2n phase)) = cplBytes c st dt written slot time phase := by
  have hfront : 0x17 = (le 4 c.cmdId ++ le 2 c.opcode ++ le 2 st ++ le 8 dt ++ le 4 written ++ le 2 c.index ++ le 1 slot).length := by
    simp only [List.length_append, le_length]
  unfold cplEntry
  rw [hfront, List.append_assoc, List.set_append_right _ _ (Nat.le_refl _), Nat.sub_self]
  simp only [cplBytes, List.append_assoc, List.append_nil]
  rfl

theorem cplBytes_length (c : Cmd) (st dt written slot time : Nat) (phase : Bool) : (cplBytes c st dt written slot time phase).length = 32 := by
  simp only [cplBytes, List.length_append, le_length, List.length_nil]

/-- A response goes to RESP_ADDR, in front of what the command has posted (R72). -/
theorem writeResp_posted {d : Dev} (hport : (hostPort d).isSome = true) (a : Nat) (resp : Bytes) :
    (writeResp d a resp).posted = (if resp = [] then [] else [.write (hostBase + a) resp]) ++ d.posted := by
  have hup : (hostPort d).isNone = false := by simpa using hport
  cases resp with
  | nil => rfl
  | cons b bs => simp [writeResp, hup, postFirst]

/-- While a port is up, a response changes nothing of the window. -/
theorem writeResp_win {d : Dev} (hport : (hostPort d).isSome = true) (a : Nat) (resp : Bytes) : (writeResp d a resp).win = d.win := by
  have hup : (hostPort d).isNone = false := by simpa using hport
  unfold writeResp
  rw [hup]
  split
  · rfl
  · exact hostSlots_win d resp.length

theorem writeResp_hostPort (d : Dev) (a : Nat) (resp : Bytes) : hostPort (writeResp d a resp) = hostPort d := by
  unfold writeResp
  split
  · rfl
  · split
    · rfl
    · exact hostPort_hostSlots d resp.length

/-- A completion entry on a ring with room is written at its tail. -/
theorem writeCpl_room {d : Dev} (hlive : d.win.cpl.live = true) (hport : (hostPort d).isSome = true) (hroom : d.win.cpl.full = false) (e : Bytes) :
    writeCpl d e = modWin (hostWrite d (d.win.cpl.base + 32 * d.win.cpl.tail) (e.set 0x17 (byteOf (b2n d.win.cpl.phase)))) (fun w => { w with cpl := w.cpl.push }) := by
  have hup : (hostPort d).isNone = false := by simpa using hport
  simp [writeCpl, hlive, hup, hroom]

/-- The completion of a ring command, with the ring enabled and not full and a port up (R72). -/
theorem complete_room {d : Dev} {c : Cmd} (hring : c.chain = false) (hport : (hostPort d).isSome = true) (hlive : d.win.cpl.live = true) (hroom : d.win.cpl.full = false)
    (st dt slot : Nat) (resp : Bytes) :
    let e := complete d c st dt resp slot
    e.posted = (if resp = [] then [] else [.write (hostBase + c.respAddr) resp]) ++ d.posted ++
      [.write (hostBase + (d.win.cpl.base + 32 * d.win.cpl.tail)) (cplBytes c st dt resp.length slot d.time d.win.cpl.phase)] ∧
    e.win.cpl = d.win.cpl.push := by
  have hwin : (writeResp (dropCmd d c) c.respAddr resp).win = (dropCmd d c).win := writeResp_win (d := dropCmd d c) hport c.respAddr resp
  have hcpl : (writeResp (dropCmd d c) c.respAddr resp).win.cpl = d.win.cpl := by rw [hwin]; rfl
  have hposted := writeResp_posted (d := dropCmd d c) hport c.respAddr resp
  have hup : (hostPort (writeResp (dropCmd d c) c.respAddr resp)).isSome = true := by rw [writeResp_hostPort]; exact hport
  have hcomplete : complete d c st dt resp slot = writeCpl (writeResp (dropCmd d c) c.respAddr resp) (cplEntry c st dt resp.length slot d.time) := by
    simp [complete, hring]
  dsimp only
  rw [hcomplete, writeCpl_room (by rwa [hcpl]) hup (by rwa [hcpl]), hcpl, cplEntry_set_phase]
  constructor
  · simp only [modWin_posted, hostWrite_posted, hposted, dropCmd_posted]
  · simp only [modWin_win, hostWrite_win, hcpl]

end Sys2Proof.Machine

namespace Sys2Proof

open Sys2Proof.Machine

/-- Settles O19: the entry is read field by field, each past those that stand before it. -/
theorem completionEntry : Obligations.CompletionEntry := by
  intro d c st dt slot resp hring hport hlive hroom hid hop hst hdt hresp hindex hslot htime
  obtain ⟨hposted, hpush⟩ := complete_room hring hport hlive hroom st dt slot resp
  have hphase : b2n d.win.cpl.phase < 2 ^ 8 := by cases d.win.cpl.phase <;> decide
  refine ⟨_, cplBytes_length c st dt resp.length slot d.time d.win.cpl.phase, ?_, ?_, ?_, ?_, ?_, ?_, ?_, ?_, ?_, hposted, hpush⟩
  all_goals simp (disch := omega) only [cplBytes, u16at, u32at, u64at, uat_skip_le, u8at_skip_le, uat_le_append, u8at_le_append, Nat.reduceSub]
  rfl

end Sys2Proof
end

section
/-!
PROOFS. The rows of the command catalogue (03 R71, R72, R79): each serves its command, three of them once what they wait for is over.
-/

namespace Sys2Proof.Machine

open Sys2Proof

/-- A service whose command's protocol ends later accepts it. -/
theorem Service.run_accepted {sv : Service} {m : Memory} {d e : Dev} {c : Cmd} (h : sv.refuses m d c = none) (ha : sv.act m (wakeD0 d sv.opcode) c = (e, none)) :
    sv.run m d c = acceptCmd e c := by
  unfold Service.run
  rw [h]
  simp only [ha]

end Sys2Proof.Machine

namespace Sys2Proof

open Sys2Proof.Machine

/-- A row that serves its command, served when it is due. -/
theorem served_of_serve {s : State} {i : Instr} {sv : Service} {idx : Nat} {c : Cmd} (hexec : exec i s = runDev s (serve sv idx)) (hdue : Due s sv idx c) :
    Served s i sv c := by
  have hrun : Takes i s (sv.run s.mem (start s) c) := hexec.trans (serve_due hdue)
  obtain ⟨_, _, _, _, hchecks⟩ := hdue
  exact ⟨fun d resp hact => hrun.of_eq (Service.run_ok hchecks hact), fun d hact => hrun.of_eq (Service.run_accepted hchecks hact)⟩

/-- The rows without a wait of their own only serve. -/
theorem exec_mailboxRows : ∀ row ∈ mailboxRows, ∀ (s : State) (idx : Nat), exec (row.2 idx) s = runDev s (serve row.1 idx) := by
  rw [← List.forall_iff_forall_mem]
  unfold mailboxRows
  and_intros
  all_goals exact fun s idx => rfl

/-- A meaning is run only on the device that the command finds. -/
theorem runDev_congr {s : State} {f g : Memory → Dev → DevOut} (h : f s.mem (start s) = g s.mem (start s)) : runDev s f = runDev s g := congrArg (settle s) h

section
variable {s : State} {idx : Nat} {c : Cmd}

/-- EPOCH_COMMIT serves its command outside step 6 of a commit (04 R120). -/
theorem exec_epochCommit (hfind : findCmd s.dev idx = some c) (hstep : ((getJob s.dev c.slot).commit.map (fun x => x.step)) ≠ some 6) :
    exec (.epochCommit idx) s = runDev s (serve epochCommit idx) := by
  have hstart : findCmd (start s) idx = some c := hfind
  have hpast : ((getJob (start s) c.slot).commit.map (fun x => x.step == 6)).getD false = false := by
    show ((getJob s.dev c.slot).commit.map (fun x => x.step == 6)).getD false = false
    cases hcommit : (getJob s.dev c.slot).commit with
    | none => rfl
    | some x => simpa [hcommit] using hstep
  show execEpochCommit idx s = _
  unfold execEpochCommit
  refine runDev_congr ?_
  simp only [hstart, hpast, Bool.false_and, Bool.false_eq_true, if_false]

/-- STATION_PIN serves its command where the station of a RUNNING job is settled (R96). -/
theorem exec_stationPin (hfind : findCmd s.dev idx = some c) (hsettled : (getJob s.dev c.slot).state = .running → stationSettled s.dev c.slot (u16at c.body 0) = true) :
    exec (.stationPin idx) s = runDev s (serve stationPin idx) := by
  have hstart : findCmd (start s) idx = some c := hfind
  show execStationPin idx s = _
  unfold execStationPin
  refine runDev_congr ?_
  simp only [hstart]
  rw [if_neg]
  rintro ⟨_, hrun, _, hmoving⟩
  have hstill : stationSettled (start s) c.slot (u16at c.body 0) = true := hsettled hrun
  simp [hstill] at hmoving

/-- JOB_REBIND serves its command where no commit of either job is in progress and the affected instances have drained (R97, R101). -/
theorem exec_jobRebind {saved coded duration shale : Nat} (hfind : findCmd s.dev idx = some c) (hdonor : committing s.dev c.slot = false)
    (hrecip : committing s.dev (u8at c.body 0) = false) (hready : rebindReady (start s) c = true) :
    exec (.jobRebind idx saved coded duration shale) s = runDev s (serve (jobRebind saved coded duration shale) idx) := by
  have hstart : findCmd (start s) idx = some c := hfind
  have hdonor' : committing (start s) c.slot = false := hdonor
  have hrecip' : committing (start s) (u8at c.body 0) = false := hrecip
  show execJobRebind idx saved coded duration shale s = _
  unfold execJobRebind
  refine runDev_congr ?_
  simp [hstart, hdonor', hrecip', hready]

end

/-- Settles O16: each row serves its command, the last three where they need not wait. -/
theorem mailboxRows_served : Obligations.MailboxRows :=
  ⟨fun row hrow s idx _ hdue => served_of_serve (exec_mailboxRows row hrow s idx) hdue,
   fun _ _ _ hdue hstep => served_of_serve (exec_epochCommit hdue.1 hstep) hdue,
   fun _ _ _ hdue hsettled => served_of_serve (exec_stationPin hdue.1 hsettled) hdue,
   fun _ _ _ _ _ _ _ hdue hdonor hrecip hready => served_of_serve (exec_jobRebind hdue.1 hdonor hrecip hready) hdue⟩

end Sys2Proof
end

section
/-!
PROOFS. The full reset (03 R65, R83; 17 R448, R449): what it leaves of the register window, the job slots and the hedge address; the commands that start one.
-/

namespace Sys2Proof.Machine

open Sys2Proof

/-! ### The count of resets -/

/-- An event leaves the count of full resets. -/
theorem writeEvent_resets (d : Dev) (e : Bytes) : (writeEvent d e).win.resets = d.win.resets := by
  obtain ⟨evt, lost, flag, held, hwin, _⟩ := writeEvent_win d e
  rw [hwin]

theorem setJState_resets (d : Dev) (slot : Nat) (st : JState) (reason : Nat) : (setJState d slot st reason).win.resets = d.win.resets := by
  unfold setJState
  dsimp only
  split
  · rfl
  · exact writeEvent_resets _ _

/-- So does the end of a commit that no command waits for. -/
theorem finishCommit_resets {c : Commit} (h : c.waiters = []) (d : Dev) (slot : Nat) : (finishCommit d slot c).win.resets = d.win.resets := by
  unfold finishCommit
  rw [h]
  dsimp only [List.foldl_nil]
  split
  · exact (setJState_resets _ _ _ _).trans (writeEvent_resets _ _)
  · exact writeEvent_resets _ _

theorem dropPrepared_resets (d : Dev) (slot : Nat) : (dropPrepared d slot).win.resets = d.win.resets := by
  unfold dropPrepared
  dsimp only
  split
  · rfl
  · split <;> rfl

/-- What a full reset keeps of a job leaves the count. -/
theorem parkJob_resets (d : Dev) (slot : Nat) : (parkJob d slot).win.resets = d.win.resets := by
  unfold parkJob
  dsimp only
  split
  · rfl
  · split
    · split
      · exact finishCommit_resets rfl d slot
      · exact dropPrepared_resets d slot
    · rfl

/-! ### What a full reset leaves -/

/-- The messages that tell of a reset change links and what is sent, nothing else. -/
theorem stopAllJobs_frame (d : Dev) : (stopAllJobs d).win = d.win ∧ (stopAllJobs d).hedge = d.hedge := by
  have hstep (d : Dev) (s : Nat) (g : Dev → Prop) (hsame : g d) (hsent : g (sendAll d s 2 (le 2 0x0C21))) :
      g (if (getJob d s).state = .free then d else sendAll d s 2 (le 2 0x0C21)) := by
    split
    · exact hsame
    · exact hsent
  constructor
  · refine foldl_keeps (·.win) (fun e s => hstep e s (fun x => x.win = e.win) rfl ?_) _ d
    obtain ⟨ls, os, h⟩ := sendAll_frame e s 2 (le 2 0x0C21)
    rw [h]
  · refine foldl_keeps (·.hedge) (fun e s => hstep e s (fun x => x.hedge = e.hedge) rfl ?_) _ d
    obtain ⟨ls, os, h⟩ := sendAll_frame e s 2 (le 2 0x0C21)
    rw [h]

section
variable (d : Dev) (cause : Nat)

/-- A reset of the dies leaves a register window at reset, but for the cause and the count of resets. -/
theorem resetDies_win (cold : Bool) : (resetDies d cause true cold).win = resetWin d.win cause true := by
  have hcount : ((List.range 64).foldl parkJob d).win.resets = d.win.resets := foldl_keeps (·.win.resets) parkJob_resets _ d
  unfold resetDies loseMemory
  dsimp only
  simp only [resetWin, hcount]

theorem resetDies_hedge_addr (cold : Bool) : (resetDies d cause true cold).hedge.addr = d.hedge.addr := by
  unfold resetDies
  rfl

theorem fullReset_win : (fullReset d cause).win = resetWin d.win cause true := by
  unfold fullReset
  dsimp only
  rw [resetDies_win]
  split
  · rfl
  · rw [(stopAllJobs_frame d).1]

theorem fullReset_hedge_addr : (fullReset d cause).hedge.addr = d.hedge.addr := by
  unfold fullReset
  dsimp only
  rw [resetDies_hedge_addr]
  split
  · rfl
  · rw [(stopAllJobs_frame d).2]

theorem fullReset_jobs : (fullReset d cause).jobs = List.replicate 64 {} := by
  unfold fullReset resetDies
  rfl

end

/-- A device whose window and job slots are at reset: its cause, every slot FREE, every ring disabled. -/
theorem free_and_disabled {e : Dev} {w : Window} {cause : Nat} {count : Bool} (hwin : e.win = resetWin w cause count) (hjobs : e.jobs = List.replicate 64 {}) :
    e.win.lastCause = cause ∧ (∀ slot, (getJob e slot).state = .free) ∧ ∀ n, (e.win.ring n).enabled = false := by
  rw [hwin]
  refine ⟨rfl, fun slot => ?_, fun n => ?_⟩
  · rw [getJob, hjobs, getD_replicate_default]
  · match n with
    | 0 => rfl
    | 1 => rfl
    | _ + 2 => rfl

/-- The end of a command leaves the window and the jobs of its device. -/
theorem ended_win (s : State) (d : Dev) : (ended s d).dev.win = d.win := rfl
theorem ended_jobs (s : State) (d : Dev) : (ended s d).dev.jobs = d.jobs := rfl
theorem ended_hedge (s : State) (d : Dev) : (ended s d).dev.hedge = d.hedge := rfl

/-- RESET_CTL takes its key in the upper half (R65). -/
theorem writeResetCtl_eq (d : Dev) (v : Nat) :
    writeResetCtl d (wrap 32 v) = if (v / 65536) % 65536 = 0xA5C3 ∧ v.testBit 0 = true then fullReset d 2 else d := by
  have hkey : field (wrap 32 v) 31 16 = (v / 65536) % 65536 := by
    rw [field, wrap, pow2_eq, pow2_eq, Nat.shiftRight_eq_div_pow]
    omega
  have hstart : bit (wrap 32 v) 0 = v.testBit 0 := bit_wrap (by decide) v
  rw [writeResetCtl, hkey, hstart]

end Sys2Proof.Machine

namespace Sys2Proof

open Sys2Proof.Machine

/-- Settles O11, by what a full reset leaves. -/
theorem fullResetWrite : Obligations.FullResetWrite := by
  intro s v hup
  have htakes := (takes_fullReset s v).of_eq ((writeReg_resetCtl (d := start s) hup v).trans (writeResetCtl_eq (start s) v))
  split
  next hkey =>
    have hwin : (ended s (fullReset (start s) 2)).dev.win = resetWin s.dev.win 2 true := by rw [ended_win, fullReset_win, fresh_win]
    obtain ⟨hcause, hfree, hrings⟩ := free_and_disabled hwin (by rw [ended_jobs, fullReset_jobs])
    refine ⟨_, htakes.of_eq (if_pos hkey), hfree, hrings, ?_, ?_, hcause, by rw [ended_hedge, fullReset_hedge_addr, fresh_hedge]⟩
    · rw [hwin]
      rfl
    · rw [hwin]
      simp [resetWin]
  next hother => exact htakes.of_eq (if_neg hother)

section
variable {s : State} {idx : Nat} {c : Cmd}

/-- FW_ACTIVATE sets PENDING, completes and resets the device (17 R443). -/
theorem takes_fwActivate (hdue : Due s fwActivate idx c) :
    Takes (.fwActivate idx) s (fullReset (complete (setPending (wakeD0 (start s) 0x0071) (u8at c.body 0)) c 0 0 [] c.slot) 4) :=
  (served_of_serve (sv := fwActivate) rfl hdue).1 _ [] rfl

/-- RESET_DEVICE completes and resets the device, its rails on (03 R83). -/
theorem takes_resetDevice (hdue : Due s resetDevice idx c) :
    let d := fullReset (complete (wakeD0 (start s) 0x00F0) c 0 0 [] c.slot) 3
    Takes (.resetDevice idx) s { d with root := { d.root with mainOn := true } } :=
  (served_of_serve (sv := resetDevice) rfl hdue).1 _ [] rfl

end

/-- PEER_APPROVE turns away a digest that the peer has not presented (R83). -/
theorem peerApprove_other_digest {d : Dev} {c : Cmd} (m : Memory) (hverified : (d.links.getD (u8at c.body 0) {}).isVerified = true) (hlink : u8at c.body 0 < 48)
    (hdigest : (d.links.getD (u8at c.body 0) {}).peer.digest ≠ slice c.body 8 32) : (peerApprove.check m d c).map (·.1) = some 0x0002 := by
  have hnamed : ¬ (48 ≤ u8at c.body 0 ∨ (!(d.links.getD (u8at c.body 0) {}).isVerified) = true) := by
    simp only [hverified]
    simpa using hlink
  have hcheck : peerApprove.check m d c = badField 8 := (if_neg hnamed).trans (if_pos hdigest.symm)
  rw [hcheck]
  rfl

/-- RESET_DEVICE turns away another key. -/
theorem resetDevice_other_key {c : Cmd} (m : Memory) (d : Dev) (hkey : u32at c.body 0 ≠ 0x0000A5C3) : (resetDevice.check m d c).map (·.1) = some 0x0002 := by
  have hcheck : resetDevice.check m d c = badField 0 := if_neg hkey
  rw [hcheck]
  rfl

/-- Settles O20, by the checks of the two commands and by what a full reset leaves. -/
theorem resetAndApproveRules : Obligations.ResetAndApproveRules :=
  ⟨fun m _ _ => peerApprove_other_digest m, fun m d _ => resetDevice_other_key m d, fun _ _ _ => takes_fwActivate,
   fun _ _ _ hdue => ⟨_, takes_resetDevice hdue, free_and_disabled (by simp only [ended_win, fullReset_win]; rfl) (by simp only [ended_jobs, fullReset_jobs])⟩,
   fun _ _ _ hdue => ⟨_, takes_fwActivate hdue, free_and_disabled (by rw [ended_win, fullReset_win]) (by rw [ended_jobs, fullReset_jobs])⟩⟩

end Sys2Proof
end

section
/-!
PROOFS. What job commands leave of the jobs (03 R88, R91, R92; 04 R118, R119, R122): the state of their own job, exactly, and every other job as it was.
-/

namespace Sys2Proof.Machine

open Sys2Proof

/-! ### The other jobs -/

/-- A device in which every job but that of a slot is as it was. -/
def OthersKept (slot : Nat) (d e : Dev) : Prop := ∀ k, k ≠ slot → getJob e k = getJob d k

theorem othersKept_of_jobs {slot : Nat} {d e : Dev} (h : e.jobs = d.jobs) : OthersKept slot d e := fun k _ => getJob_congr h k

namespace OthersKept

variable {slot : Nat} {d e u : Dev}

theorem refl : OthersKept slot d d := othersKept_of_jobs rfl

theorem trans (h : OthersKept slot d e) (h' : OthersKept slot e u) : OthersKept slot d u := fun k hk => (h' k hk).trans (h k hk)

/-- An operation that leaves the jobs alone adds nothing. -/
theorem then_jobs (h : OthersKept slot d e) (hjobs : u.jobs = e.jobs) : OthersKept slot d u := h.trans (othersKept_of_jobs hjobs)

theorem ite {p : Prop} [Decidable p] (h : OthersKept slot d e) (h' : OthersKept slot d u) : OthersKept slot d (if p then e else u) := by
  split
  · exact h
  · exact h'

theorem modJob (h : OthersKept slot d e) (f : Job → Job) : OthersKept slot d (modJob e slot f) :=
  h.trans (fun _ hk => getJob_modJob_ne e (Ne.symm hk) f)

theorem setJState (h : OthersKept slot d e) (st : JState) (reason : Nat) : OthersKept slot d (setJState e slot st reason) := by
  have hjobs := setJState_jobs e slot st reason
  split at hjobs
  · exact h.then_jobs hjobs
  · exact (h.modJob (fun j => j.enter st)).then_jobs hjobs

/-- What every step of a fold leaves of the other jobs, the fold leaves. -/
theorem foldl {α : Type} {f : Dev → α → Dev} (h : OthersKept slot d e) (hf : ∀ d a, OthersKept slot d (f d a)) (xs : List α) : OthersKept slot d (xs.foldl f e) := by
  induction xs generalizing e with
  | nil => exact h
  | cons a xs ih => exact ih (h.trans (hf e a))

/-- Completions end a command, no job. -/
theorem completions (h : OthersKept slot d e) (status detail : Nat) (resp : Bytes) (xs : List Nat) :
    OthersKept slot d (xs.foldl (fun d i => completeIdx d i status detail resp) e) := h.then_jobs (foldl_jobs (fun d i => completeIdx_jobs d i status detail resp) xs e)

theorem endStart (h : OthersKept slot d e) (code : Nat) : OthersKept slot d (endStart e slot code) := by
  unfold Machine.endStart
  split
  · exact h
  · exact (h.modJob _).completions _ _ _ _

theorem dropPrepared (h : OthersKept slot d e) : OthersKept slot d (dropPrepared e slot) := by
  unfold Machine.dropPrepared
  dsimp only
  split
  · exact h
  · refine OthersKept.modJob (h.then_jobs ?_) _
    split <;> rfl

theorem finishCommit (h : OthersKept slot d e) (c : Commit) : OthersKept slot d (finishCommit e slot c) := by
  unfold Machine.finishCommit
  dsimp only
  refine completions (ite (then_jobs (setJState ?event _ _) (dropBursts_jobs _ _)) ?event) _ _ _ _
  exact then_jobs (modJob (h.then_jobs (by rfl)) _) (event_jobs _ _ _ _)

theorem endCommit (h : OthersKept slot d e) (code : Nat) : OthersKept slot d (endCommit e slot code) := by
  unfold Machine.endCommit
  split
  · exact h
  · split
    · exact h.finishCommit _
    · exact h.dropPrepared.completions _ _ _ _

theorem haltJob (h : OthersKept slot d e) (code : Nat) : OthersKept slot d (haltJob e slot code) := by
  unfold Machine.haltJob
  dsimp only
  exact modJob ((h.endCommit code).then_jobs (by rfl)) _

end OthersKept

section
variable (d : Dev) (slot : Nat)

theorem abortJob_others : OthersKept slot d (abortJob d slot) := by
  have hstart : OthersKept slot d (endStart d slot 0) := OthersKept.refl.endStart 0
  have hended := OthersKept.ite (p := (getJob (endStart d slot 0) slot).state.live = true) (hstart.endCommit 0) hstart
  exact .ite ((hended.haltJob 0).setJState .stopped 0) hended

theorem rollbackJob_others (again : Bool) : OthersKept slot d (rollbackJob d slot again) := by
  have hended : OthersKept slot d (endCommit d slot 0) := OthersKept.refl.endCommit 0
  have hhalted := (hended.haltJob 0).modJob (fun j => { j with provisional := false, restarts := if again then min 0xFFFF (j.restarts + 1) else j.restarts })
  exact .ite hended (.ite ((hhalted.setJState .restarting 0).modJob _) (hhalted.setJState .held 0))

theorem rollbackHere_others (again : Bool) : OthersKept slot d (rollbackHere d slot again) :=
  .ite (rollbackJob_others d slot again) (.ite (OthersKept.refl.modJob _) .refl)

end

/-! ### The state of the job -/

/-- A finished commit leaves its job FINISHED where it is the final one, and in its state otherwise (R118). -/
theorem finishCommit_state_eq {d : Dev} {slot : Nat} (hlen : slot < d.jobs.length) (c : Commit) :
    (getJob (finishCommit d slot c) slot).state = if c.cause = 1 then .finished else (getJob d slot).state := by
  unfold finishCommit
  dsimp only
  rw [getJob_congr (foldl_jobs (fun d i => completeIdx_jobs d i 0 0 _) _ _)]
  split
  · rw [getJob_congr (dropBursts_jobs _ _)]
    exact setJState_state (by simpa using hlen) .finished 0
  · rw [getJob_congr (event_jobs _ _ _ _)]
    exact getJob_modJob_keeps Job.state (by intro j; rfl) _ slot slot

/-- The end of the commit in progress leaves the job FINISHED where the record of its final commit is written, and in its state otherwise (R119). -/
theorem endCommit_state_eq {d : Dev} {slot : Nat} (hlen : slot < d.jobs.length) (code : Nat) :
    (getJob (endCommit d slot code) slot).state = if lastStep (getJob d slot) then .finished else (getJob d slot).state := by
  unfold endCommit lastStep
  split
  next hnone => rw [hnone]; rfl
  next c hc =>
    rw [hc]
    by_cases hstep : c.step = 6
    · rw [if_pos hstep, finishCommit_state_eq hlen]
      simp [hstep]
    · rw [if_neg hstep, getJob_congr (foldl_jobs (fun d i => completeIdx_jobs d i 0x000C code []) _ _), dropPrepared_state]
      simp [hstep]

/-- A halted job is entered into any state. -/
theorem setJState_haltJob_state {d : Dev} {slot : Nat} (h : (getJob d slot).state ≠ .free) (st : JState) :
    (getJob (setJState (haltJob d slot 0) slot st 0) slot).state = st := setJState_state (haltJob_rt h 0).1 st 0

/-- JOB_ABORT leaves a job STOPPED, a live one whose final commit's record is written FINISHED (R92, 04 R119). -/
theorem abortJob_state {d : Dev} {slot : Nat} (h : (getJob d slot).state.live = true ∨ (getJob d slot).state = .held) :
    (getJob (abortJob d slot) slot).state = if (getJob d slot).state.live = true ∧ lastStep (getJob d slot) then .finished else .stopped := by
  have hstate : (getJob (endStart d slot 0) slot).state = (getJob d slot).state := endStart_keeps Job.state (by intro j; rfl) d slot 0 slot
  have hcommit : (getJob (endStart d slot 0) slot).commit = (getJob d slot).commit := endStart_keeps Job.commit (by intro j; rfl) d slot 0 slot
  have hlast : lastStep (getJob (endStart d slot 0) slot) ↔ lastStep (getJob d slot) := by unfold lastStep; rw [hcommit]
  unfold abortJob
  dsimp only
  generalize endStart d slot 0 = e at hstate hlast ⊢
  rw [← hstate] at h ⊢
  rcases h with hlive | hheld
  · have hended := endCommit_state_eq (slot_exists_of_state (ne_free_of_live hlive)) 0
    rw [if_pos hlive]
    by_cases hfinal : lastStep (getJob d slot)
    · rw [if_pos (hlast.mpr hfinal)] at hended
      rw [if_neg (by rw [hended]; decide), if_pos ⟨hlive, hfinal⟩, hended]
    · rw [if_neg (fun hl => hfinal (hlast.mp hl))] at hended
      rw [if_pos (.inl (by rw [hended, hlive])), if_neg (fun hboth => hfinal hboth.2), setJState_haltJob_state (by rw [hended]; exact ne_free_of_live hlive)]
  · have hidle : ¬ (getJob e slot).state.live = true := by rw [hheld]; decide
    rw [if_neg hidle, if_pos (.inr hheld), if_neg (fun hboth => hidle hboth.1), setJState_haltJob_state (by simp [hheld])]

/-- A rollback of a RUNNING job leaves it RESTARTING or HELD, one whose final commit's record is written FINISHED (04 R119, R122). -/
theorem rollbackHere_state {d : Dev} {slot : Nat} (h : (getJob d slot).state = .running) (again : Bool) :
    (getJob (rollbackHere d slot again) slot).state = if lastStep (getJob d slot) then .finished else if again = true then .restarting else .held := by
  have hended := endCommit_state_eq (slot_exists_of_state (d := d) (slot := slot) (by simp [h])) 0
  unfold rollbackHere rollbackJob
  dsimp only
  rw [if_pos h]
  by_cases hfinal : lastStep (getJob d slot)
  · rw [if_pos hfinal] at hended
    rw [if_pos (by rw [hended]; decide), if_pos hfinal, hended]
  · rw [if_neg hfinal, h] at hended
    have hlen := (haltJob_rt (d := endCommit d slot 0) (slot := slot) (by simp [hended]) 0).1
    rw [if_neg (fun hrun => hrun hended), if_neg hfinal]
    cases again
    · exact setJState_state (by simpa using hlen) .held 0
    · exact (getJob_modJob_keeps Job.state (by intro j; rfl) _ slot slot).trans (setJState_state (by simpa using hlen) .restarting 0)

/-! ### JOB_UNLOAD -/

theorem getJob_cleared (d : Dev) (slot : Nat) : getJob (modJob d slot (fun _ => {})) slot = {} := by
  rw [getJob_modJob]
  split
  · rfl
  next h => exact Decidable.by_contra (fun hjob => h ⟨rfl, slot_exists hjob⟩)

theorem setJState_feeds (d : Dev) (slot : Nat) (st : JState) (reason : Nat) : (setJState d slot st reason).feeds = d.feeds := by
  obtain ⟨w, ps, po, h⟩ := setJState_frame d slot st reason
  rw [h]

theorem setJState_ckpts (d : Dev) (slot : Nat) (st : JState) (reason : Nat) : (setJState d slot st reason).ckpts = d.ckpts := by
  obtain ⟨w, ps, po, h⟩ := setJState_frame d slot st reason
  rw [h]

/-- A closed feed is told to the adapter: what is sent changes, nothing else. -/
theorem sendClosed_frame (d : Dev) (id : Nat) : ∃ os, sendClosed d id = { d with sent := os } := by
  unfold sendClosed
  split
  · exact ⟨_, rfl⟩
  · exact ⟨d.sent, rfl⟩

theorem sendClosed_jobs (d : Dev) (id : Nat) : (sendClosed d id).jobs = d.jobs := by
  obtain ⟨os, h⟩ := sendClosed_frame d id
  rw [h]

theorem sendClosed_ckpts (d : Dev) (id : Nat) : (sendClosed d id).ckpts = d.ckpts := by
  obtain ⟨os, h⟩ := sendClosed_frame d id
  rw [h]

theorem unmapRegion_others (d : Dev) (slot : Nat) (b : Binding) : OthersKept slot d (unmapRegion d slot b) :=
  (OthersKept.refl.modJob (fun j => { j with regions := j.regions.filter (fun x => x.id != b.id) })).then_jobs rfl

/-- A slot unloaded is as at reset. -/
theorem unloadJob_job (d : Dev) (slot : Nat) (keep : Bool) : getJob (unloadJob d slot keep) slot = {} := getJob_cleared _ slot

theorem unloadJob_feeds (d : Dev) (slot : Nat) (keep : Bool) : ∀ f ∈ (unloadJob d slot keep).feeds, f.slot ≠ slot := by
  unfold unloadJob
  extract_lets job unmapped kept closed movers freed
  rw [modJob_feeds, setJState_feeds]
  intro f hf
  simpa using (List.mem_filter.mp hf).2

/-- JOB_UNLOAD with checkpoint 0 leaves no checkpoint of the job's participant (R91). -/
theorem unloadJob_ckpts (d : Dev) (slot : Nat) : ∀ k ∈ (unloadJob d slot false).ckpts, ¬ (k.tag = (getJob d slot).image.jobTag ∧ k.part = (getJob d slot).partIndex) := by
  unfold unloadJob
  extract_lets job unmapped kept closed movers freed
  have hclosed : closed.ckpts = kept.ckpts := foldl_keeps (·.ckpts) (fun d (f : Feed) => sendClosed_ckpts d f.id) _ kept
  rw [modJob_ckpts, setJState_ckpts]
  intro k hk
  rw [show freed.ckpts = kept.ckpts from hclosed] at hk
  rw [not_and_or]
  simpa [job] using (List.mem_filter.mp hk).2

theorem unloadJob_others (d : Dev) (slot : Nat) (keep : Bool) : OthersKept slot d (unloadJob d slot keep) := by
  unfold unloadJob
  extract_lets job unmapped kept closed movers freed
  have hunmapped : OthersKept slot d unmapped := OthersKept.refl.foldl (fun d b => unmapRegion_others d slot b) job.regions
  have hkept : kept.jobs = unmapped.jobs := by
    show (ite _ _ _ : Dev).jobs = _
    split <;> rfl
  have hclosed : closed.jobs = kept.jobs := foldl_jobs (fun d (f : Feed) => sendClosed_jobs d f.id) _ kept
  have hfreed : OthersKept slot d freed := hunmapped.then_jobs (hclosed.trans hkept)
  exact (hfreed.setJState .free 0).modJob _

end Sys2Proof.Machine
end

section
/-!
PROOFS. Power and job commands that are due (03 R85, R88, R89, R91, R92; 16 R410, R417): what a completion and the return to D0 leave, the states the commands leave.
-/

namespace Sys2Proof.Machine

open Sys2Proof

/-! ### Around the effect of a command -/

@[simp] theorem wakeD0_jobs (d : Dev) (op : Nat) : (wakeD0 d op).jobs = d.jobs := by
  unfold wakeD0
  split <;> rfl

theorem getJob_wakeD0 (d : Dev) (op slot : Nat) : getJob (wakeD0 d op) slot = getJob d slot := getJob_congr (wakeD0_jobs d op) slot

@[simp] theorem complete_power (d : Dev) (c : Cmd) (st dt : Nat) (resp : Bytes) (slot : Nat) : (complete d c st dt resp slot).power = d.power := by
  obtain ⟨w, ps, po, ch, h⟩ := complete_frame d c st dt resp slot
  rw [h]

@[simp] theorem complete_feeds (d : Dev) (c : Cmd) (st dt : Nat) (resp : Bytes) (slot : Nat) : (complete d c st dt resp slot).feeds = d.feeds := by
  obtain ⟨w, ps, po, ch, h⟩ := complete_frame d c st dt resp slot
  rw [h]

@[simp] theorem complete_ckpts (d : Dev) (c : Cmd) (st dt : Nat) (resp : Bytes) (slot : Nat) : (complete d c st dt resp slot).ckpts = d.ckpts := by
  obtain ⟨w, ps, po, ch, h⟩ := complete_frame d c st dt resp slot
  rw [h]

/-- A command that passes the shared checks finds its job in a state in which it is legal (R89). -/
theorem cmdCheck_state {d : Dev} {c : Cmd} {k : CmdKind} (h : cmdCheck d c k = none) (hstates : k.states ≠ []) : k.states.contains (getJob d c.slot).state = true := by
  by_contra hother
  have hillegal : k.states ≠ [] ∧ (!k.states.contains (getJob d c.slot).state) = true := ⟨hstates, by simpa using hother⟩
  revert h
  unfold cmdCheck badField badState
  rw [if_pos hillegal]
  repeat' split
  all_goals exact Option.some_ne_none _

/-- JOB_ABORT, where no check turns it away, finds a live job or a HELD one. -/
theorem jobAbort_state {m : Memory} {d : Dev} {c : Cmd} (h : jobAbort.refuses m d c = none) : (getJob d c.slot).state.live = true ∨ (getJob d c.slot).state = .held := by
  have hshared : cmdCheck d c { job := true, states := [.running, .suspended, .restarting, .held] } = none := by
    unfold Service.refuses at h
    split at h
    · cases h
    next k hk =>
      cases hk
      split at h
      · cases h
      next hnone => exact hnone
  have hstate := cmdCheck_state hshared (by decide)
  revert hstate
  cases (getJob d c.slot).state <;> decide

/-- POWER_SET to D2 or D3 is turned away while some job is live (R85). -/
theorem powerSetCheck_live {d : Dev} {c : Cmd} (htarget : 2 ≤ u8at c.body 0) (hlive : ∃ k, k < 64 ∧ (getJob d k).state.live = true) : powerSetCheck d c ≠ none := by
  obtain ⟨k, hk, hlive⟩ := hlive
  obtain ⟨slot, hslot⟩ : ∃ slot, liveJob d = some slot :=
    Option.isSome_iff_exists.mp (List.find?_isSome.mpr ⟨k, List.mem_range.mpr hk, hlive⟩)
  unfold powerSetCheck badField badState
  rw [if_pos htarget, hslot]
  repeat' split
  any_goals exact Option.some_ne_none _
  all_goals contradiction

end Sys2Proof.Machine

namespace Sys2Proof

open Sys2Proof.Machine

section
variable {s : State} {idx : Nat} {c : Cmd}

theorem takes_clockSet (hdue : Due s clockSet idx c) :
    let d := wakeD0 (start s) 0x0042
    Takes (.clockSet idx) s (complete { d with power := { d.power with step := u8at c.body 0 } } c 0 0 [] c.slot) := (served_of_serve (sv := clockSet) rfl hdue).1 _ [] rfl

theorem takes_powerCap (hdue : Due s powerCap idx c) :
    let d := wakeD0 (start s) 0x0043
    Takes (.powerCap idx) s (complete { d with power := { d.power with cap := u16at c.body 0, overCap := 0, overSum := 0 } } c 0 0 [] c.slot) :=
  (served_of_serve (sv := powerCap) rfl hdue).1 _ [] rfl

theorem takes_jobAbort (hdue : Due s jobAbort idx c) :
    Takes (.jobAbort idx) s (complete (sendAll (abortJob (wakeD0 (start s) 0x0013) c.slot) c.slot 9 []) c 0 0 [] c.slot) :=
  (served_of_serve (sv := jobAbort) rfl hdue).1 _ [] rfl

theorem takes_epochRollback (hdue : Due s epochRollback idx c) :
    let r := u8at c.body 0
    let d := sendAll (rollbackHere (wakeD0 (start s) 0x0016) c.slot (decide (r = 1))) c.slot 10 (le 1 r)
    Takes (.epochRollback idx) s (complete d c 0 0 (padTo 8 (epochBytes (getJob d c.slot).lastCommitted)) c.slot) :=
  (served_of_serve (sv := epochRollback) rfl hdue).1 _ _ rfl

/-- The job that JOB_UNLOAD unloads no longer waits for a start. -/
def unloading (d : Dev) (slot : Nat) : Dev :=
  if (getJob d slot).state = .loaded ∨ (getJob d slot).state = .held ∨ (getJob d slot).state = .stopped then endStart d slot 0 else d

theorem unloading_keeps {α : Type} (g : Job → α) (hg : ∀ j : Job, g { j with start := none } = g j) (d : Dev) (slot k : Nat) :
    g (getJob (unloading d slot) k) = g (getJob d k) := by
  unfold unloading
  split
  · exact endStart_keeps g hg d slot 0 k
  · rfl

theorem takes_jobUnload (hdue : Due s jobUnload idx c) :
    Takes (.jobUnload idx) s (complete (unloadJob (unloading (wakeD0 (start s) 0x0018) c.slot) c.slot (decide (u8at c.body 0 = 1))) c 0 0 [] c.slot) :=
  (served_of_serve (sv := jobUnload) rfl hdue).1 _ [] rfl

/-- A job after a command that ends with the jobs of a device. -/
theorem getJob_ended {d e : Dev} (h : d.jobs = e.jobs) (slot : Nat) : getJob (ended s d).dev slot = getJob e slot := getJob_congr (d := (ended s d).dev) h slot

/-- The states of the other jobs after a command that changes one. -/
theorem others_states {d e : Dev} {op slot : Nat} (h : OthersKept slot (wakeD0 (start s) op) e) (hjobs : d.jobs = e.jobs) (k : Nat) (hk : k ≠ slot) :
    (getJob (ended s d).dev k).state = (getJob s.dev k).state := by
  rw [getJob_ended hjobs, h k hk, getJob_wakeD0]
  rfl

end

/-- Settles O21, command by command: its effect on its own job, and no other job changed. -/
theorem powerAndJobCommands : Obligations.PowerAndJobCommands := by
  intro s idx c
  have hwoken (op : Nat) : getJob (wakeD0 (start s) op) c.slot = getJob s.dev c.slot := getJob_wakeD0 (start s) op c.slot
  refine ⟨fun hdue => ⟨_, takes_clockSet hdue, ?_, ?_⟩, fun hdue => ⟨_, takes_powerCap hdue, ?_, ?_⟩, fun hdue => ⟨_, takes_jobAbort hdue, ?_, ?_⟩,
    fun hdue hrun => ⟨_, takes_epochRollback hdue, ?_, ?_⟩, fun hdue => ⟨_, takes_jobUnload hdue, ?_, ?_, ?_, ?_⟩,
    fun _ htarget hlive => powerSetCheck_live htarget hlive⟩
  case refine_1 => exact congrArg Power.step (complete_power ..)
  case refine_2 => exact (complete_jobs ..).trans (wakeD0_jobs ..)
  case refine_3 => exact congrArg Power.cap (complete_power ..)
  case refine_4 => exact (complete_jobs ..).trans (wakeD0_jobs ..)
  case refine_5 =>
    obtain ⟨_, _, _, _, hchecks⟩ := hdue
    have hlegal := jobAbort_state (d := start s) hchecks
    rw [getJob_ended ((complete_jobs ..).trans (sendAll_jobs ..)), abortJob_state (by rw [hwoken]; exact hlegal), hwoken]
  case refine_6 => exact others_states (abortJob_others _ c.slot) ((complete_jobs ..).trans (sendAll_jobs ..))
  case refine_7 =>
    rw [getJob_ended ((complete_jobs ..).trans (sendAll_jobs ..)), rollbackHere_state (by rw [hwoken]; exact hrun), hwoken]
    simp only [decide_eq_true_eq]
  case refine_8 => exact others_states (rollbackHere_others _ c.slot _) ((complete_jobs ..).trans (sendAll_jobs ..))
  case refine_9 => rw [getJob_ended (complete_jobs ..), unloadJob_job]
  case refine_10 =>
    show ∀ f ∈ (complete ..).feeds, _
    rw [complete_feeds]
    exact unloadJob_feeds _ c.slot _
  case refine_11 =>
    intro hdrop
    have hkept : decide (u8at c.body 0 = 1) = false := by rw [hdrop]; rfl
    have hnone := unloadJob_ckpts (unloading (wakeD0 (start s) 0x0018) c.slot) c.slot
    rw [unloading_keeps (·.image.jobTag) (fun _ => rfl), unloading_keeps Job.partIndex (fun _ => rfl), hwoken] at hnone
    show ∀ k ∈ (complete ..).ckpts, _
    rw [complete_ckpts, hkept]
    exact hnone
  case refine_12 =>
    have hunloading : OthersKept c.slot (wakeD0 (start s) 0x0018) (unloading (wakeD0 (start s) 0x0018) c.slot) := .ite (OthersKept.refl.endStart 0) .refl
    exact others_states (hunloading.trans (unloadJob_others _ c.slot _)) (complete_jobs ..)

end Sys2Proof
end

section
/-!
PROOFS. The rows of a stop and restart (03 R92, R94; 04 R122, R126 to R128, R132): for each message, the branch of its meaning that the device and the job select.
-/

namespace Sys2Proof.Machine

open Sys2Proof

section
variable {d : Dev} {m : Memory} {slot part mode check src code shale : Nat} {epoch : Option Nat} {g : Gather}

theorem stopMsg_stops (hfree : (getJob d slot).state ≠ .free) (hrun : (getJob d slot).state.live = true ∨ (getJob d slot).start.isSome = true)
    (hsrc : src ∈ (getJob d slot).participants) (hown : d.hedge.addr ≠ some src) :
    stopMsg slot src code d = .next (stopJob d { code := 0x0C03, slot := slot, detail := src, detail2 := code } code) := by
  have hother : ¬ ((getJob d slot).state = .free ∨ (!(getJob d slot).participants.contains src) = true ∨ d.hedge.addr = some src) := by
    simp [hfree, hsrc, hown]
  unfold stopMsg
  dsimp only
  rw [if_neg hother, if_pos hrun]

/-- A participant with the anchor's image arrives at the barrier of a job that waits to start (R92, R94). -/
theorem startBarrier_arrives (hother : fromOther (getJob d slot) part = true) (hmode : mode ≤ 2) (hanchor : isAnchor d (getJob d slot) = true)
    (hwaits : (getJob d slot).state.startable = true) (himage : check = (getJob d slot).image.check) :
    startBarrier slot part mode check m d = .next (barrierIfAll m (modJob (noteHeard d slot part) slot (fun j =>
      { j with start := some { ((getJob d slot).start.getD { since := d.time }) with arrived := (((getJob d slot).start.getD { since := d.time }).arrived ++ [part]).eraseDups } })) slot) := by
  have hstate : ¬ (getJob d slot).state = .restarting := by
    intro h
    rw [h] at hwaits
    cases hwaits
  unfold startBarrier
  dsimp only
  rw [if_neg (by simp [hother, hmode]), if_pos hanchor, if_neg hstate, if_neg (by simp [hwaits]), if_neg (not_not.mpr himage)]
  rfl

/-- Elsewhere the anchor's word passes the barrier (R92). -/
theorem startBarrier_passes (hother : fromOther (getJob d slot) part = true) (hmode : mode ≤ 2) (helse : isAnchor d (getJob d slot) = false)
    (hstart : (getJob d slot).start = some g) (hwaits : g.passed = false) (himage : check = (getJob d slot).image.check)
    (hfrom : partAddr d (getJob d slot) part = (getJob d slot).anchor) : startBarrier slot part mode check m d = .next (passBarrier m d slot) := by
  unfold startBarrier
  dsimp only
  rw [if_neg (by simp [hother, hmode]), if_neg (by simp [helse]), hstart]
  dsimp only
  rw [if_neg (not_not.mpr himage), if_neg (by simp [hfrom, hwaits])]

theorem startBarrierTimeout_fails {p : Nat} (hstart : (getJob d slot).start = some g) (hwaits : g.passed = false)
    (hindex : (getJob d slot).participants.findIdx? (· == src) = some p) (hmissing : isAnchor d (getJob d slot) = true → p ∉ g.arrived) :
    startBarrierTimeout slot src d = .next (failStart d slot 0x000B src) := by
  unfold startBarrierTimeout
  dsimp only
  rw [hstart, hindex]
  have hlate : (!g.passed && !(isAnchor d (getJob d slot) && g.arrived.contains p)) = true := by
    cases hanchor : isAnchor d (getJob d slot)
    · simp [hwaits]
    · simpa [hwaits] using hmissing hanchor
  exact if_pos hlate

/-- A participant that restores takes the epoch of the anchor's record (R127 step 5). -/
theorem restoreComplete_own (hown : part = (getJob d slot).partIndex) (hrestoring : restoring (getJob d slot) = some g) (hfirst : part ∉ g.restored)
    (hepoch : isAnchor d (getJob d slot) = true → epoch = recordEpoch d (getJob d slot)) (hshale : shale = 0 ∨ shaleCode shale = true) :
    restoreComplete slot part epoch shale m d = .next (restoreOwn slot epoch shale g m { d with free := d.free + 1 }) := by
  have hmet : ¬ (g.restored.contains part = true ∨ (isAnchor d (getJob d slot) = true ∧ epoch ≠ recordEpoch d (getJob d slot)) ∨ (shale ≠ 0 ∧ (!shaleCode shale) = true)) := by
    rintro (hagain | ⟨hanchor, hepoch'⟩ | ⟨hfault, hcode⟩)
    · exact hfirst (List.contains_iff_mem.mp hagain)
    · exact hepoch' (hepoch hanchor)
    · exact hshale.elim hfault (fun hshaleCode => by simp [hshaleCode] at hcode)
  unfold restoreComplete
  dsimp only
  rw [if_pos hown, hrestoring]
  exact if_neg hmet

/-- The anchor notes the restore of another participant (R127 step 5). -/
theorem restoreComplete_other (hpart : part ≠ (getJob d slot).partIndex) (hother : fromOther (getJob d slot) part = true) (hanchor : isAnchor d (getJob d slot) = true)
    (hrestart : (getJob d slot).restart = some g) :
    restoreComplete slot part epoch shale m d = .next (modRestoring (noteHeard d slot part) slot (fun g => { g with restored := (g.restored ++ [part]).eraseDups })) := by
  unfold restoreComplete
  dsimp only
  rw [if_neg hpart, if_neg (by simp [hother, hanchor]), hrestart]

/-- At the anchor RESUME needs every participant restored; it tells them (R127 step 6). -/
theorem resume_anchor (hrestoring : restoring (getJob d slot) = some g) (hanchor : isAnchor d (getJob d slot) = true) (hall : ∀ p ∈ allParts (getJob d slot), p ∈ g.restored) :
    resume slot d = .next (resumeJob (sendAll d slot 6 (le 2 (getJob d slot).partIndex ++ le 4 (getJob d slot).openEpoch)) slot g) := by
  have hrestored : ((allParts (getJob d slot)).all fun p => g.restored.contains p) = true := by simpa using hall
  unfold resume
  dsimp only
  rw [hrestoring]
  dsimp only
  rw [if_pos hanchor]
  exact if_pos hrestored

theorem resume_other (hrestoring : restoring (getJob d slot) = some g) (helse : isAnchor d (getJob d slot) = false) (hrestored : (getJob d slot).partIndex ∈ g.restored) :
    resume slot d = .next (resumeJob d slot g) := by
  unfold resume
  dsimp only
  rw [hrestoring]
  dsimp only
  rw [if_neg (by simp [helse])]
  exact if_pos (List.contains_iff_mem.mpr hrestored)

end

/-- A unit that did not return to idle makes a full reset due (04 R126). -/
theorem unitIdleTimeout_due {s : State} {slot die : Nat} (hslot : slot < 64) (hdie : die < 100)
    (hstate : (getJob s.dev slot).state = .restarting ∨ (getJob s.dev slot).state = .held) :
    ∃ u, exec (.unitIdleTimeout slot die) s = .next u ∧ u.dev.root.resetCause = some 5 := by
  have hexec : exec (.unitIdleTimeout slot die) s = settle s (unitIdleTimeout slot die (start s)) := by
    show runDev s (fun _ d => if 64 ≤ slot ∨ 100 ≤ die then .fault .noSuchUnit else unitIdleTimeout slot die d) = _
    exact congrArg (settle s) (if_neg (by omega))
  have hstopped : ((getJob s.dev slot).state = .restarting || (getJob s.dev slot).state = .held) = true := by simpa using hstate
  exact ⟨_, takes_of_onlyIf hexec hstopped, rfl⟩

/-- A full reset due happens, and its cause is 5 (04 R126). -/
theorem recoveryReset_resets {s : State} (hdue : s.dev.root.resetCause ≠ none) : ∃ u, exec .recoveryReset s = .next u ∧ u.dev.win.lastCause = 5 := by
  refine ⟨_, takes_of_onlyIf (i := .recoveryReset) rfl (Option.isSome_iff_ne_none.mpr hdue), ?_⟩
  rw [ended_win, recoveryReset, fullReset_win]
  rfl

end Sys2Proof.Machine

namespace Sys2Proof

open Sys2Proof.Machine

section
variable {s : State} {slot : Nat} (hslot : slot < 64)
include hslot

/-- A command about a slot takes the device that its meaning answers there. -/
theorem takes_of_onSlot {i : Instr} {d : Dev} (f : Memory → Dev → DevOut) (hexec : exec i s = onSlot slot s f) (hnext : f s.mem (start s) = .next d) : Takes i s d :=
  takes_of_settle (hexec.trans (onSlot_at hslot f)) hnext

/-- ABORT waits for a rebinding in progress (03 R99). -/
theorem takes_abort_waiting (h : rebinding s.dev slot = true) : Takes (.abort slot) s (start s) := by
  show execAbort slot s = _
  rw [execAbort, onSlot_at hslot]
  exact congrArg (settle s) (if_pos h)

theorem takes_abort (h : rebinding s.dev slot = false) (hfree : (getJob s.dev slot).state ≠ .free) (hparts : 1 < (getJob s.dev slot).participants.length) :
    Takes (.abort slot) s (abortJob (start s) slot) := by
  have hmet : (decide ((getJob s.dev slot).state ≠ .free) && decide ((getJob s.dev slot).participants.length > 1)) = true := by simpa using And.intro hfree hparts
  show execAbort slot s = _
  rw [execAbort, onSlot_at hslot]
  exact congrArg (settle s) ((if_neg (ne_true_of_eq_false h)).trans (if_pos hmet))

theorem takes_rollback (again : Bool) (hparts : 1 < (getJob s.dev slot).participants.length) : Takes (.rollback slot again) s (rollbackHere (start s) slot again) := by
  show execRollback slot again s = _
  rw [execRollback, onSlot_at hslot]
  exact congrArg (settle s) (if_pos (decide_eq_true hparts))

end

/-- Settles O52, message by message. -/
theorem restartRows : Obligations.RestartRows := by
  intro s slot part mode check src code shale again epoch hslot
  refine ⟨fun hfree hrun hsrc hown => takes_of_onSlot hslot (fun _ d => stopMsg slot src code d) rfl (stopMsg_stops hfree hrun hsrc hown),
    fun die hdie hstate => unitIdleTimeout_due hslot hdie hstate,
    recoveryReset_resets,
    takes_abort hslot,
    takes_abort_waiting hslot,
    takes_rollback hslot again,
    fun hother hmode hanchor hwaits himage => takes_of_onSlot hslot (startBarrier slot part mode check) rfl (startBarrier_arrives hother hmode hanchor hwaits himage),
    fun g hother hmode helse hstart hwaits himage hfrom => takes_of_onSlot hslot (startBarrier slot part mode check) rfl (startBarrier_passes hother hmode helse hstart hwaits himage hfrom),
    fun g p hstart hwaits hindex hmissing => takes_of_onSlot hslot (fun _ d => startBarrierTimeout slot src d) rfl (startBarrierTimeout_fails hstart hwaits hindex hmissing),
    fun g hown hrestoring hfirst hepoch hshale => takes_of_onSlot hslot (restoreComplete slot part epoch shale) rfl (restoreComplete_own hown hrestoring hfirst hepoch hshale),
    fun g hpart hother hanchor hrestart => takes_of_onSlot hslot (restoreComplete slot part epoch shale) rfl (restoreComplete_other hpart hother hanchor hrestart),
    fun g hrestoring hanchor hall => takes_of_onSlot hslot (fun _ d => resume slot d) rfl (resume_anchor hrestoring hanchor hall),
    fun g hrestoring helse hrestored => takes_of_onSlot hslot (fun _ d => resume slot d) rfl (resume_other hrestoring helse hrestored)⟩

end Sys2Proof
end

section
/-!
PROOFS. Exact accumulators and the cells of arrays (04 R109 to R111; 08 R235): a term is added as the accumulator that holds it alone, a record is read back
field by field, and of integer extremes the one with the lowest key is left.
-/

namespace Sys2Proof.Machine

open Sys2Proof

/-! ### Adding terms -/

theorem Acc.add_comm (a b : Acc) : a.add b = b.add a := by
  simp only [Acc.add, Int.add_comm, Nat.add_comm, Bool.or_comm]

theorem Acc.add_assoc (a b c : Acc) : (a.add b).add c = a.add (b.add c) := by
  simp only [Acc.add, Int.add_assoc, Nat.add_assoc, Bool.or_assoc]

theorem Acc.zero_add (a : Acc) : ({} : Acc).add a = a := by
  simp only [Acc.add, Int.zero_add, Nat.zero_add, Bool.false_or]

/-- A term is added as the accumulator that holds it alone. -/
theorem Acc.addInt_eq_add (a : Acc) (x : Int) : a.addInt x = a.add (({} : Acc).addInt x) := by
  simp only [Acc.addInt, Acc.add, Int.zero_add, Nat.zero_add, Bool.or_false]

theorem Acc.addVal_eq_add (a : Acc) (v : FVal) : a.addVal v = a.add (({} : Acc).addVal v) := by
  cases v with
  | nan => simp only [Acc.addVal, Acc.add, Int.add_zero, Nat.zero_add, Bool.or_false, Bool.or_true]
  | inf n => cases n <;> simp [Acc.addVal, Acc.add]
  | fin n m e => simp only [Acc.addVal, Acc.add, Int.zero_add, Nat.zero_add, Bool.or_false]

theorem Acc.addElem_eq_add (a : Acc) (t : Ty) (bits : Nat) : a.addElem t bits = a.add (({} : Acc).addElem t bits) := by
  unfold Acc.addElem
  split
  · exact a.addInt_eq_add _
  · exact a.addVal_eq_add _

theorem Acc.addProd_eq_add (a : Acc) (t : Ty) (x y : Nat) : a.addProd t x y = a.add (({} : Acc).addProd t x y) := by
  unfold Acc.addProd
  split
  · exact a.addInt_eq_add _
  · exact a.addVal_eq_add _

section
variable {β : Type} {f : Acc → β → Acc} (hf : ∀ a b, f a b = a.add (f {} b))
include hf

/-- Where each term is added as the accumulator that holds it alone, the order does not matter (R111). -/
theorem Acc.foldl_perm {xs ys : List β} (h : xs.Perm ys) (a : Acc) : xs.foldl f a = ys.foldl f a :=
  h.foldl_eq' (fun x _ y _ z => by rw [hf (f z x), hf z, hf (f z y), hf z, Acc.add_assoc, Acc.add_assoc, Acc.add_comm (f {} x)]) a

/-- Nor does what was added before. -/
theorem Acc.foldl_from (xs : List β) : ∀ a : Acc, xs.foldl f a = a.add (xs.foldl f {}) := by
  induction xs with
  | nil => intro a; rw [Acc.add_comm]; exact a.zero_add.symm
  | cons x xs ih => intro a; rw [List.foldl_cons, List.foldl_cons, ih (f a x), ih (f {} x), hf a, Acc.add_assoc]

theorem Acc.foldl_append (xs ys : List β) : (xs ++ ys).foldl f {} = (xs.foldl f {}).add (ys.foldl f {}) := by
  rw [List.foldl_append, Acc.foldl_from hf]

end

/-! ### Two's complement -/

theorem toSigned_eq_toInt {w v : Nat} (hw : w ≠ 0) (hv : v < 2 ^ w) : toSigned w v = (BitVec.ofNat w v).toInt := by
  have hmsb : (BitVec.ofNat w v).msb = v.testBit (w - 1) := by
    rw [BitVec.msb_eq_getLsbD_last, BitVec.getLsbD_ofNat, decide_eq_true (by omega), Bool.true_and]
  rw [BitVec.toInt_eq_msb_cond, hmsb, toSigned, BitVec.toNat_ofNat, Nat.mod_eq_of_lt hv, pow2_eq]
  simp only [hw, ne_eq, not_false_eq_true, true_and]

theorem toSigned_inj {w u v : Nat} (hw : w ≠ 0) (hu : u < 2 ^ w) (hv : v < 2 ^ w) (h : toSigned w u = toSigned w v) : u = v := by
  rw [toSigned_eq_toInt hw hu, toSigned_eq_toInt hw hv, BitVec.toInt_inj] at h
  have hnat := congrArg BitVec.toNat h
  rwa [BitVec.toNat_ofNat, BitVec.toNat_ofNat, Nat.mod_eq_of_lt hu, Nat.mod_eq_of_lt hv] at hnat

theorem ofSigned_eq_toNat (w : Nat) (x : Int) : ofSigned w x = (BitVec.ofInt w x).toNat := by
  rw [BitVec.toNat_ofInt, ofSigned, pow2_eq]

theorem ofSigned_lt (w : Nat) (x : Int) : ofSigned w x < 2 ^ w := by
  rw [ofSigned_eq_toNat]
  exact (BitVec.ofInt w x).isLt

theorem toSigned_ofSigned {w : Nat} {x : Int} (hw : w ≠ 0) (hlo : -2 ^ (w - 1) ≤ x) (hhi : x < 2 ^ (w - 1)) : toSigned w (ofSigned w x) = x := by
  rw [toSigned_eq_toInt hw (ofSigned_lt w x), ofSigned_eq_toNat, BitVec.ofNat_toNat, BitVec.setWidth_eq]
  exact BitVec.toInt_ofInt_eq_self (Nat.pos_of_ne_zero hw) hlo hhi

/-! ### The record of an accumulator -/

/-- The fields of the record, one behind the other (R109). -/
theorem Acc.encode_eq (a : Acc) : a.encode =
    le 52 (ofSigned 416 a.value) ++ (le 1 (b2n a.nan + 2 * b2n a.pinf + 4 * b2n a.ninf) ++ (le 3 0 ++ (le 8 a.count ++ []))) := by
  rw [List.append_nil, ← List.append_assoc, ← List.append_assoc]
  rfl

theorem Acc.encode_length (a : Acc) : a.encode.length = 64 := by
  simp only [Acc.encode_eq, List.length_append, le_length, List.length_nil]

/-- The flags of a record, read back. -/
theorem flags_read (x y z : Bool) : b2n x + 2 * b2n y + 4 * b2n z < 2 ^ 8 ∧ bit (b2n x + 2 * b2n y + 4 * b2n z) 0 = x ∧
    bit (b2n x + 2 * b2n y + 4 * b2n z) 1 = y ∧ bit (b2n x + 2 * b2n y + 4 * b2n z) 2 = z := by
  revert x y z
  decide

theorem Acc.decode_encode {a : Acc} (hlo : -2 ^ 415 ≤ a.value) (hhi : a.value < 2 ^ 415) (hcount : a.count < 2 ^ 64) : Acc.decode a.encode = a := by
  obtain ⟨hflags, hnan, hpinf, hninf⟩ := flags_read a.nan a.pinf a.ninf
  have hvalue : uat a.encode 0 52 = ofSigned 416 a.value := by
    rw [Acc.encode_eq]
    exact uat_le_append 52 _ _ (ofSigned_lt (8 * 52) a.value)
  have hbits : u8at a.encode 0x34 = b2n a.nan + 2 * b2n a.pinf + 4 * b2n a.ninf := by
    rw [Acc.encode_eq, u8at_skip_le _ _ _ (Nat.le_refl 52)]
    exact u8at_le_append _ _ hflags
  have hterms : u64at a.encode 0x38 = a.count := by
    rw [Acc.encode_eq, u64at]
    simp (disch := omega) only [uat_skip_le, uat_le_append, Nat.reduceSub]
  rw [Acc.decode, hvalue, hbits, hterms, hnan, hpinf, hninf, toSigned_ofSigned (by decide) hlo hhi]

/-! ### Cells of an array -/

/-- The one of two stored extremes whose key is lower, the first where they are equal. -/
def lowerBy (key : Nat → Int) (u v : Nat) : Nat := if key v < key u then v else u

theorem lowerBy_assoc (key : Nat → Int) (u v w : Nat) : lowerBy key (lowerBy key u v) w = lowerBy key u (lowerBy key v w) := by
  unfold lowerBy
  split_ifs <;> omega

theorem lowerBy_comm {key : Nat → Int} {u v : Nat} (h : key u = key v → u = v) : lowerBy key u v = lowerBy key v u := by
  rcases lt_trichotomy (key u) (key v) with hlt | heq | hgt
  · simp [lowerBy, hlt, hlt.not_gt]
  · rw [h heq]
  · simp [lowerBy, hgt, hgt.not_gt]

theorem lowerBy_lt {key : Nat → Int} {u v n : Nat} (hu : u < n) (hv : v < n) : lowerBy key u v < n := by
  unfold lowerBy
  split <;> assumption

/-- The key by which an array's extreme is the lowest: the value of MIN, its negative for MAX (R235). -/
def ArrD.key (a : ArrD) (v : Nat) : Int :=
  let x : Int := if a.ty.isSigned then toSigned 64 v else v
  if a.kind = 2 then x else -x

theorem ArrD.key_inj {a : ArrD} {u v : Nat} (hu : u < 2 ^ 64) (hv : v < 2 ^ 64) (h : a.key u = a.key v) : u = v := by
  have hx : (if a.ty.isSigned then toSigned 64 u else u) = (if a.ty.isSigned then toSigned 64 v else (v : Int)) := by
    unfold ArrD.key at h
    dsimp only at h
    split at h
    · exact h
    · exact Int.neg_inj.mp h
  split at hx
  · exact toSigned_inj (by decide) hu hv hx
  · exact Int.ofNat.inj hx

/-- What two values of an integer MIN or MAX give: the one with the lower key. -/
theorem joinCells_values {a : ArrD} (hint : a.ty.isInt = true) (u v : Nat) :
    joinCells a (.ext 1 u) (.ext 1 v) = some (.ext 1 (lowerBy a.key u v)) := by
  have hbelow (x y : Nat) : extBelow a.ty x y =
      decide ((if a.ty.isSigned then toSigned 64 x else (x : Int)) < (if a.ty.isSigned then toSigned 64 y else (y : Int))) := by
    rw [extBelow, if_pos hint]
    split <;> simp
  by_cases hkind : a.kind = 2
  · simp [joinCells, hbelow, lowerBy, ArrD.key, hkind]
  · simp [joinCells, hbelow, lowerBy, ArrD.key, hkind]

/-- A stored extreme of 64 bits: none yet, a value, or NaN (R235). -/
def IsExtreme (c : KCell) : Prop := c = .ext 0 0 ∨ (∃ v, v < 2 ^ 64 ∧ c = .ext 1 v) ∨ c = .ext 2 0

theorem isExtreme_of_bounds {st v : Nat} (hst : st ≤ 2) (hv : v < 2 ^ 64) (hzero : st ≠ 1 → v = 0) : IsExtreme (.ext st v) := by
  interval_cases st
  · exact .inl (by rw [hzero (by decide)])
  · exact .inr (.inl ⟨v, hv, rfl⟩)
  · exact .inr (.inr (by rw [hzero (by decide)]))

section
variable (a : ArrD)

/-- NaN stays, on either side. -/
theorem joinCells_nan_left (t u : Nat) : joinCells a (.ext 2 0) (.ext t u) = some (.ext 2 0) := rfl

theorem joinCells_nan_right (s v : Nat) : joinCells a (.ext s v) (.ext 2 0) = some (.ext 2 0) := by simp [joinCells]

/-- A cell that is empty gives the other one. -/
theorem joinCells_empty_left {y : KCell} (h : IsExtreme y) : joinCells a (.ext 0 0) y = some y := by
  rcases h with rfl | ⟨v, _, rfl⟩ | rfl <;> rfl

theorem joinCells_empty_right {x : KCell} (h : IsExtreme x) : joinCells a x (.ext 0 0) = some x := by
  rcases h with rfl | ⟨v, _, rfl⟩ | rfl <;> rfl

variable {a}

theorem joinCells_isExtreme (hint : a.ty.isInt = true) {x y : KCell} (hx : IsExtreme x) (hy : IsExtreme y) : ∃ u, joinCells a x y = some u ∧ IsExtreme u := by
  rcases hx with rfl | ⟨v, hv, rfl⟩ | rfl
  · exact ⟨y, joinCells_empty_left a hy, hy⟩
  · rcases hy with rfl | ⟨w, hw, rfl⟩ | rfl
    · exact ⟨_, rfl, .inr (.inl ⟨v, hv, rfl⟩)⟩
    · exact ⟨_, joinCells_values hint v w, .inr (.inl ⟨_, lowerBy_lt hv hw, rfl⟩)⟩
    · exact ⟨_, joinCells_nan_right a 1 v, .inr (.inr rfl)⟩
  · rcases hy with rfl | ⟨w, _, rfl⟩ | rfl <;> exact ⟨_, rfl, .inr (.inr rfl)⟩

/-- MIN and MAX over integers do not depend on the order of two cells. -/
theorem joinCells_extreme_comm (hint : a.ty.isInt = true) {x y : KCell} (hx : IsExtreme x) (hy : IsExtreme y) : joinCells a x y = joinCells a y x := by
  rcases hx with rfl | ⟨v, hv, rfl⟩ | rfl
  · rw [joinCells_empty_left a hy, joinCells_empty_right a hy]
  · rcases hy with rfl | ⟨w, hw, rfl⟩ | rfl
    · rfl
    · rw [joinCells_values hint, joinCells_values hint, lowerBy_comm (ArrD.key_inj hv hw)]
    · rw [joinCells_nan_left, joinCells_nan_right]
  · rcases hy with rfl | ⟨w, _, rfl⟩ | rfl
    · rfl
    · rw [joinCells_nan_left, joinCells_nan_right]
    · rfl

/-- Nor on the grouping of three: an empty one drops out, NaN stays, and of three values the one with the lowest key is left. -/
theorem joinCells_extreme_assoc (hint : a.ty.isInt = true) {x y z : KCell} (hx : IsExtreme x) (hy : IsExtreme y) (hz : IsExtreme z) :
    (joinCells a x y).bind (fun u => joinCells a u z) = (joinCells a y z).bind (fun u => joinCells a x u) := by
  obtain ⟨yz, hyz, hyzext⟩ := joinCells_isExtreme hint hy hz
  rcases hx with rfl | ⟨v, hv, rfl⟩ | rfl
  · rw [joinCells_empty_left a hy, hyz, Option.bind_some, Option.bind_some, hyz, joinCells_empty_left a hyzext]
  · rcases hy with rfl | ⟨w, hw, rfl⟩ | rfl
    · rw [joinCells_empty_left a hz]
      rfl
    · rcases hz with rfl | ⟨k, _, rfl⟩ | rfl
      · simp only [joinCells_values hint, joinCells_empty_right a (.inr (.inl ⟨_, lowerBy_lt hv hw, rfl⟩)), joinCells_empty_right a (.inr (.inl ⟨w, hw, rfl⟩)),
          Option.bind_some]
      · simp only [joinCells_values hint, Option.bind_some, lowerBy_assoc]
      · simp only [joinCells_values hint, joinCells_nan_right, Option.bind_some]
    · rcases hz with rfl | ⟨k, _, rfl⟩ | rfl <;> simp only [joinCells_nan_right, joinCells_nan_left, Option.bind_some]
  · have hleft (c : KCell) (h : IsExtreme c) : joinCells a (.ext 2 0) c = some (.ext 2 0) := by
      rcases h with rfl | ⟨_, _, rfl⟩ | rfl <;> exact joinCells_nan_left ..
    rw [hleft y hy, hyz, Option.bind_some, Option.bind_some, hleft z hz, hleft yz hyzext]

end

/-- Two sums give their sum while the count of its terms fits 64 bits. -/
theorem joinCells_sum (a : ArrD) (p q : Acc) : joinCells a (.sum p) (.sum q) = if 2 ^ 64 ≤ (p.add q).count then none else some (.sum (p.add q)) := rfl

theorem joinCells_count (a : ArrD) (p q : Nat) : joinCells a (.count p) (.count q) = if 2 ^ 64 ≤ p + q then none else some (.count (p + q)) := rfl

theorem joinCells_sum_assoc (a : ArrD) (p q r : Acc) : (joinCells a (.sum p) (.sum q)).bind (fun u => joinCells a u (.sum r)) =
    (joinCells a (.sum q) (.sum r)).bind (fun u => joinCells a (.sum p) u) := by
  have hcount (x y : Acc) : (x.add y).count = x.count + y.count := rfl
  by_cases hlim : 2 ^ 64 ≤ p.count + q.count + r.count
  · trans none
    · rw [joinCells_sum]
      split
      · rfl
      · rw [Option.bind_some, joinCells_sum, if_pos (by rwa [hcount, hcount])]
    · rw [joinCells_sum]
      split
      · rfl
      · rw [Option.bind_some, joinCells_sum, if_pos (by rwa [hcount, hcount, ← Nat.add_assoc])]
  · rw [joinCells_sum, joinCells_sum, if_neg (by rw [hcount]; omega), if_neg (by rw [hcount]; omega), Option.bind_some, Option.bind_some, joinCells_sum, joinCells_sum,
      Acc.add_assoc]

theorem joinCells_count_assoc (a : ArrD) (p q r : Nat) : (joinCells a (.count p) (.count q)).bind (fun u => joinCells a u (.count r)) =
    (joinCells a (.count q) (.count r)).bind (fun u => joinCells a (.count p) u) := by
  by_cases hlim : 2 ^ 64 ≤ p + q + r
  · trans none
    · rw [joinCells_count]
      split
      · rfl
      · rw [Option.bind_some, joinCells_count, if_pos hlim]
    · rw [joinCells_count]
      split
      · rfl
      · rw [Option.bind_some, joinCells_count, if_pos (by rwa [← Nat.add_assoc])]
  · rw [joinCells_count, joinCells_count, if_neg (by omega), if_neg (by omega), Option.bind_some, Option.bind_some, joinCells_count, joinCells_count, Nat.add_assoc]

/-- A cell as an array holds it: of the array's kind, an extreme over integers (R235). -/
def ArrD.Holds (a : ArrD) (c : KCell) : Prop :=
  match c with
  | .sum _ => a.kind = 0
  | .count _ => a.kind = 1
  | .ext st v => 2 ≤ a.kind ∧ a.ty.isInt = true ∧ st ≤ 2 ∧ v < 2 ^ 64 ∧ (st ≠ 1 → v = 0)

section
variable {a : ArrD} {c : KCell}

theorem ArrD.Holds.sum_of_kind (h : a.Holds c) (hkind : a.kind = 0) : ∃ p, c = .sum p := by
  cases c with
  | sum p => exact ⟨p, rfl⟩
  | count n => exact absurd (hkind.symm.trans h) (by decide)
  | ext st v => exact absurd (hkind ▸ h.1) (by decide)

theorem ArrD.Holds.count_of_kind (h : a.Holds c) (hkind : a.kind = 1) : ∃ n, c = .count n := by
  cases c with
  | sum p => exact absurd (hkind.symm.trans h) (by decide)
  | count n => exact ⟨n, rfl⟩
  | ext st v => exact absurd (hkind ▸ h.1) (by decide)

theorem ArrD.Holds.extreme_of_kind (h : a.Holds c) (hkind : 2 ≤ a.kind) : a.ty.isInt = true ∧ IsExtreme c := by
  cases c with
  | sum p => exact absurd (h ▸ hkind) (by decide)
  | count n => exact absurd (h ▸ hkind) (by decide)
  | ext st v =>
    obtain ⟨_, hint, hst, hv, hzero⟩ := h
    exact ⟨hint, isExtreme_of_bounds hst hv hzero⟩

/-- Cells of one array combine in any order and grouping (R235). -/
theorem joinCells_comm_assoc {x y z : KCell} (hx : a.Holds x) (hy : a.Holds y) (hz : a.Holds z) :
    joinCells a x y = joinCells a y x ∧ (joinCells a x y).bind (fun u => joinCells a u z) = (joinCells a y z).bind (fun u => joinCells a x u) := by
  rcases show a.kind = 0 ∨ a.kind = 1 ∨ 2 ≤ a.kind by omega with hkind | hkind | hkind
  · obtain ⟨p, rfl⟩ := hx.sum_of_kind hkind
    obtain ⟨q, rfl⟩ := hy.sum_of_kind hkind
    obtain ⟨r, rfl⟩ := hz.sum_of_kind hkind
    exact ⟨by rw [joinCells_sum, joinCells_sum, Acc.add_comm], joinCells_sum_assoc a p q r⟩
  · obtain ⟨p, rfl⟩ := hx.count_of_kind hkind
    obtain ⟨q, rfl⟩ := hy.count_of_kind hkind
    obtain ⟨r, rfl⟩ := hz.count_of_kind hkind
    exact ⟨by rw [joinCells_count, joinCells_count, Nat.add_comm], joinCells_count_assoc a p q r⟩
  · obtain ⟨hint, hx⟩ := hx.extreme_of_kind hkind
    obtain ⟨_, hy⟩ := hy.extreme_of_kind hkind
    obtain ⟨_, hz⟩ := hz.extreme_of_kind hkind
    exact ⟨joinCells_extreme_comm hint hx hy, joinCells_extreme_assoc hint hx hy hz⟩

end

end Sys2Proof.Machine

namespace Sys2Proof

open Sys2Proof.Machine

/-- Settles O45: each term is added as the accumulator that holds it alone, and accumulators add up in any order and grouping. -/
theorem sumsWithoutOrder : Obligations.SumsWithoutOrder := by
  have helem (t : Ty) (a : Acc) (b : Nat) : a.addElem t b = a.add (({} : Acc).addElem t b) := a.addElem_eq_add t b
  have hprod (t : Ty) (a : Acc) (b : Nat × Nat) : a.addProd t b.1 b.2 = a.add (({} : Acc).addProd t b.1 b.2) := a.addProd_eq_add t b.1 b.2
  refine ⟨fun t xs ys hperm => ?_, fun t xs ys => ?_, fun t xs ys hperm => ?_, fun a x y z => ?_, fun a hlo hhi hcount => ?_⟩
  · exact Acc.foldl_perm (f := fun a b => a.addElem t b) (helem t) hperm {}
  · exact Acc.foldl_append (f := fun a b => a.addElem t b) (helem t) xs ys
  · exact Acc.foldl_perm (f := fun (a : Acc) (b : Nat × Nat) => a.addProd t b.1 b.2) (hprod t) hperm {}
  · exact joinCells_comm_assoc (a := a)
  · exact ⟨a.encode_length, Acc.decode_encode hlo hhi hcount⟩

end Sys2Proof
end

section
/-!
PROOFS. A commit and a fault that ends it (04 R114, R118, R119, R127, R129; 03 R88): the record, the end of a commit, what a fault leaves of the job's epochs.
-/

namespace Sys2Proof.Machine

open Sys2Proof

/-! ### The record of a commit -/

/-- A commit whose record is due: at step 4, at the anchor, every participant prepared (R118 step 6). -/
def RecordDue (d : Dev) (j : Job) (c : Commit) : Prop := c.step = 4 ∧ isAnchor d j = true ∧ ∀ p ∈ allParts j, p ∈ c.prepared

/-- The record of a commit (R118 step 6). -/
def commitRecord (d : Dev) (j : Job) (c : Commit) : CommitRec :=
  { tag := j.image.jobTag, epoch := c.epoch, time := d.time, imageCheck := j.image.check, participants := j.participants, seals := c.seals }

@[simp] theorem sendAll_commits (d : Dev) (slot code : Nat) (payload : Bytes) : (sendAll d slot code payload).commits = d.commits := by
  obtain ⟨ls, os, h⟩ := sendAll_frame d slot code payload
  rw [h]

section
variable {d : Dev} {slot : Nat} {c : Commit} (hc : (getJob d slot).commit = some c)
include hc

theorem recordCommit_not_due (h : ¬ RecordDue d (getJob d slot) c) : recordCommit d slot = d := by
  unfold recordCommit
  dsimp only
  rw [hc]
  exact if_neg (by simpa [RecordDue] using h)

theorem recordCommit_due (h : RecordDue d (getJob d slot) c) :
    (recordCommit d slot).commits = d.commits.filter (fun x => x.tag != (getJob d slot).image.jobTag) ++
      List.replicate 2 (commitRecord d (getJob d slot) c) ∧
    (slot < d.jobs.length → (getJob (recordCommit d slot) slot).commit = some { c with step := 6, time := d.time }) := by
  unfold recordCommit
  dsimp only
  rw [hc]
  dsimp only
  rw [if_pos (by simpa [RecordDue] using h)]
  refine ⟨sendAll_commits .., fun hlen => ?_⟩
  rw [getJob_congr (sendAll_jobs ..), modCommit, getJob_modJob_self (by exact hlen)]
  exact congrArg (Option.map _) hc

end

/-! ### The end of a commit -/

@[simp] theorem event_ckpts (d : Dev) (ty slot : Nat) (data : Bytes) : (event d ty slot data).ckpts = d.ckpts := by
  obtain ⟨w, ps, po, h⟩ := event_frame d ty slot data
  rw [h]

@[simp] theorem completeIdx_ckpts (d : Dev) (idx st dt : Nat) (resp : Bytes) : (completeIdx d idx st dt resp).ckpts = d.ckpts := by
  obtain ⟨w, ps, po, ch, h⟩ := completeIdx_frame d idx st dt resp
  rw [h]

theorem foldl_ckpts {α : Type} {f : Dev → α → Dev} (hf : ∀ d a, (f d a).ckpts = d.ckpts) : ∀ (xs : List α) (d : Dev), (xs.foldl f d).ckpts = d.ckpts
  | [], _ => rfl
  | a :: xs, d => (foldl_ckpts hf xs (f d a)).trans (hf d a)

/-- A finished commit leaves a job, but for its state and its pins, with the epoch committed and no commit in progress. -/
theorem finishCommit_keeps {α : Type} (g : Job → α) (hg : ∀ j st, g (Job.enter j st) = g j) {d : Dev} {slot : Nat} (hlen : slot < d.jobs.length) (c : Commit) :
    g (getJob (finishCommit d slot c) slot) = g { getJob d slot with lastCommitted := some c.epoch, commit := none } := by
  unfold finishCommit
  dsimp only
  rw [getJob_congr (foldl_jobs (fun d i => completeIdx_jobs d i 0 0 _) _ _)]
  split
  · rw [getJob_congr (dropBursts_jobs _ _), setJState_keeps g hg, getJob_congr (event_jobs _ _ _ _), getJob_modJob_self (by exact hlen)]
    rfl
  · rw [getJob_congr (event_jobs _ _ _ _), getJob_modJob_self (by exact hlen)]
    rfl

/-- Of a job's checkpoints on the device a finished commit leaves those of its epoch (R118 step 7). -/
theorem finishCommit_ckpts (d : Dev) (slot : Nat) (c : Commit) : ∀ k ∈ (finishCommit d slot c).ckpts,
    k.tag = (getJob d slot).image.jobTag → k.part = (getJob d slot).partIndex → k.epoch = c.epoch ∧ k.final = true := by
  unfold finishCommit
  dsimp only
  rw [foldl_ckpts (fun d i => completeIdx_ckpts d i 0 0 _)]
  have hleft (e : Dev) : (if c.cause = 1 then dropBursts (setJState e slot .finished 0) slot else e).ckpts = e.ckpts := by
    split
    · exact setJState_ckpts ..
    · rfl
  rw [hleft, event_ckpts, modJob_ckpts]
  intro k hk htag hpart
  obtain ⟨x, hx, rfl⟩ := List.mem_map.mp hk
  obtain ⟨_, hepoch⟩ := List.mem_filter.mp hx
  by_cases hmine : (x.tag == (getJob d slot).image.jobTag && x.part == (getJob d slot).partIndex) = true
  · rw [if_pos hmine]
    rw [hmine] at hepoch
    exact ⟨by simpa using hepoch, rfl⟩
  · rw [if_neg hmine] at htag hpart
    exact absurd (by simp [htag, hpart]) hmine

/-! ### A fault that ends a commit -/

/-- What an abandoned commit leaves of its job. -/
theorem dropPrepared_keeps {α : Type} (g : Job → α) (hg : ∀ j : Job, g j.dropCommit = g j) (d : Dev) (slot k : Nat) :
    g (getJob (dropPrepared d slot) k) = g (getJob d k) := by
  unfold dropPrepared
  dsimp only
  split
  · rfl
  · rw [getJob_modJob_keeps g hg]
    split <;> rfl

theorem dropCommit_lastCommitted (j : Job) : j.dropCommit.lastCommitted = j.lastCommitted := by
  unfold Job.dropCommit
  split <;> rfl

theorem dropCommit_image (j : Job) : j.dropCommit.image = j.image := by
  unfold Job.dropCommit
  split <;> rfl

theorem dropCommit_commit (j : Job) : j.dropCommit.commit = none := by
  unfold Job.dropCommit
  split
  next h => exact h
  · rfl

theorem dropPrepared_commit {d : Dev} {slot : Nat} (hlen : slot < d.jobs.length) : (getJob (dropPrepared d slot) slot).commit = none := by
  unfold dropPrepared
  dsimp only
  split
  next h => exact h
  · rw [getJob_modJob_self (by split <;> exact hlen)]
    exact dropCommit_commit _

/-- The commit in progress ended: its epoch is committed where the record is written, else the last committed epoch stays (R119). -/
theorem endCommit_job {d : Dev} {slot : Nat} {c : Commit} (hlen : slot < d.jobs.length) (hc : (getJob d slot).commit = some c) (code : Nat) :
    (getJob (endCommit d slot code) slot).commit = none ∧
    (getJob (endCommit d slot code) slot).lastCommitted = (if c.step = 6 then some c.epoch else (getJob d slot).lastCommitted) ∧
    (getJob (endCommit d slot code) slot).image = (getJob d slot).image := by
  unfold endCommit
  rw [hc]
  dsimp only
  split
  · exact ⟨finishCommit_keeps Job.commit (by intros; rfl) hlen c, finishCommit_keeps Job.lastCommitted (by intros; rfl) hlen c, finishCommit_keeps Job.image (by intros; rfl) hlen c⟩
  · rw [getJob_congr (foldl_jobs (fun d i => completeIdx_jobs d i 0x000C code []) _ _)]
    exact ⟨dropPrepared_commit hlen, dropPrepared_keeps Job.lastCommitted dropCommit_lastCommitted d slot slot, dropPrepared_keeps Job.image dropCommit_image d slot slot⟩

/-- What of a job says where it stands between its commits: the one in progress, the last committed epoch, the open one. -/
def Job.epochs (j : Job) : Option Commit × Option Nat × Nat := (j.commit, j.lastCommitted, j.openEpoch)

/-- A halted job without a commit in progress opens the epoch behind the last committed one (04 R114, R127). -/
theorem haltJob_epochs {d : Dev} {slot : Nat} (hlen : slot < d.jobs.length) (hnone : (getJob d slot).commit = none) (code : Nat) :
    (getJob (haltJob d slot code) slot).epochs = (none, (getJob d slot).lastCommitted, reopened (getJob d slot)) := by
  have hended : endCommit d slot code = d := by rw [endCommit, hnone]
  unfold haltJob
  dsimp only
  rw [hended, getJob_modJob_self (by exact hlen), ← hnone]
  rfl

/-- The stop of a live job leaves its epochs as its halt does. -/
theorem stopFrom_epochs (e : Dev) (f : FaultInfo) (why : Nat) : (getJob (stopFrom e f why) f.slot).epochs = (getJob (haltJob e f.slot f.code) f.slot).epochs := by
  have hhalted : (getJob (haltedIn e f why) f.slot).epochs = (getJob (haltJob e f.slot f.code) f.slot).epochs := by
    unfold haltedIn
    dsimp only
    rw [setJState_keeps Job.epochs (by intros; rfl), getJob_modJob_keeps Job.epochs (by intro j; rfl)]
  unfold stopFrom
  dsimp only
  rw [getJob_congr (endRebinds_jobs _ _ _), reportFault_keeps Job.epochs (by intros; rfl), ← hhalted]
  split
  · exact getJob_modJob_keeps Job.epochs (by intro j; rfl) _ _ _
  · rfl

section
variable {d : Dev} {f : FaultInfo} {c : Commit} (hrun : (getJob d f.slot).state = .running) (hc : (getJob d f.slot).commit = some c)
include hrun

/-- A fault of a running job ends its commit, then stops the job if it still runs. -/
theorem jobFault_running_job : getJob (jobFault d f) f.slot =
    let e := endCommit d f.slot f.code
    getJob (if (getJob e f.slot).state.live then stopFrom e f f.code else stopIdle e f (equivalenceLost (getJob e f.slot) f.code)) f.slot := by
  rw [jobFault_job, stopJob_eq]
  dsimp only
  rw [if_pos (show (getJob d f.slot).state.live = true by rw [hrun]; rfl)]

include hc

/-- A fault behind the record of the final commit leaves the job FINISHED (R119; log entry 37). -/
theorem jobFault_final (hstep : c.step = 6) (hfinal : c.cause = 1) :
    (getJob (jobFault d f) f.slot).commit = none ∧ (getJob (jobFault d f) f.slot).lastCommitted = some c.epoch ∧ (getJob (jobFault d f) f.slot).state = .finished := by
  have hlen : f.slot < d.jobs.length := slot_exists_of_state (by simp [hrun])
  obtain ⟨hnone, hcommitted, _⟩ := endCommit_job hlen hc f.code
  rw [if_pos hstep] at hcommitted
  have hstate : (getJob (endCommit d f.slot f.code) f.slot).state = .finished := by
    rw [endCommit_state_eq hlen, if_pos]
    simp [lastStep, hc, hstep, hfinal]
  rw [jobFault_running_job hrun]
  dsimp only
  rw [if_neg (by rw [hstate]; decide)]
  have hidle (lost : Bool) : stopIdle (endCommit d f.slot f.code) f lost = reportFault (endCommit d f.slot f.code) f := if_neg (by simp [hstate])
  rw [hidle, reportFault_keeps Job.commit (by intros; rfl), reportFault_keeps Job.lastCommitted (by intros; rfl), reportFault_keeps Job.state (by intros; rfl)]
  exact ⟨hnone, hcommitted, hstate⟩

/-- Any other fault leaves it to restart or HELD, nothing in flight, with the epoch behind the last committed one open (R119, R127, R129). -/
theorem jobFault_reopens (hslot : f.slot < 64) (hnot : ¬(c.step = 6 ∧ c.cause = 1)) :
    (getJob (jobFault d f) f.slot).commit = none ∧
    (getJob (jobFault d f) f.slot).lastCommitted = (if c.step = 6 then some c.epoch else (getJob d f.slot).lastCommitted) ∧
    ((getJob (jobFault d f) f.slot).state = .restarting ∨ (getJob (jobFault d f) f.slot).state = .held) ∧ (getJob (jobFault d f) f.slot).rt = {} ∧
    (getJob (jobFault d f) f.slot).openEpoch =
      (match (getJob (jobFault d f) f.slot).lastCommitted with | some e => e + 1 | none => (getJob d f.slot).image.firstEpoch) := by
  have hlen : f.slot < d.jobs.length := slot_exists_of_state (by simp [hrun])
  obtain ⟨hnone, hcommitted, himage⟩ := endCommit_job hlen hc f.code
  have hstate : (getJob (endCommit d f.slot f.code) f.slot).state = .running := by
    rw [endCommit_state_eq hlen, if_neg, hrun]
    simpa [lastStep, hc] using hnot
  rw [jobFault_running_job hrun]
  dsimp only
  rw [if_pos (by rw [hstate]; rfl)]
  generalize endCommit d f.slot f.code = e at hnone hcommitted himage hstate
  obtain ⟨_, hrt, hst⟩ := stopFrom_job hslot (e := e) (f := f) (by simp [hstate]) f.code
  have hepochs := (stopFrom_epochs e f f.code).trans (haltJob_epochs (slot_exists_of_state (by simp [hstate])) hnone f.code)
  simp only [Job.epochs, Prod.mk.injEq] at hepochs
  obtain ⟨hcommit, hlast, hopen⟩ := hepochs
  refine ⟨hcommit, hlast.trans hcommitted, hst ▸ faultState_running hstate f.code, hrt, ?_⟩
  rw [hopen, hlast, ← himage]
  rfl

end

end Sys2Proof.Machine

namespace Sys2Proof

open Sys2Proof.Machine

/-- Settles O51: what a record, the end of a commit and a fault each leave of the job and its commit. -/
theorem commitFacts : Obligations.CommitFacts := by
  refine ⟨fun d slot c hfree hc => ⟨recordCommit_not_due hc, fun hdue => ?_⟩, fun d slot c hrun => ?_, fun d f c hslot hrun hc => ?_⟩
  · obtain ⟨hcommits, hcommit⟩ := recordCommit_due hc hdue
    exact ⟨hcommits, hcommit (slot_exists_of_state hfree)⟩
  · have hlen : slot < d.jobs.length := slot_exists_of_state (by simp [hrun])
    exact ⟨finishCommit_keeps Job.lastCommitted (by intros; rfl) hlen c, finishCommit_keeps Job.commit (by intros; rfl) hlen c,
      by rw [finishCommit_state_eq hlen, hrun], finishCommit_ckpts d slot c⟩
  · have hfault := (jobFault_running hslot hrun).1
    dsimp only
    by_cases hlast : c.step = 6 ∧ c.cause = 1
    · obtain ⟨hstep, hfinal⟩ := hlast
      obtain ⟨hnone, hcommitted, hfinished⟩ := jobFault_final hrun hc hstep hfinal
      exact ⟨hnone, hfault, fun _ => hcommitted, fun hearly => absurd hstep hearly, fun _ _ => hfinished, fun hnot => absurd ⟨hstep, hfinal⟩ hnot⟩
    · obtain ⟨hnone, hcommitted, hreopens⟩ := jobFault_reopens hrun hc hslot hlast
      exact ⟨hnone, hfault, fun hstep => hcommitted.trans (if_pos hstep), fun hearly => hcommitted.trans (if_neg hearly), fun hstep hfinal => absurd ⟨hstep, hfinal⟩ hlast,
        fun _ => hreopens⟩

end Sys2Proof
end

section
/-!
PROOFS. The rows of a commit (04 R115, R118 to R120; 03 R102): for each message, the branch of its meaning that the job and its commit select.
-/

namespace Sys2Proof.Machine

open Sys2Proof

section
variable {d : Dev} {m : Memory} {slot part epoch cause size time : Nat} {c : Commit} (hrun : (getJob d slot).state = .running)
include hrun

/-! ### PREPARE -/

/-- The anchor drains for its own commit, at the notice it sends itself (R118 step 3; log entry 36). -/
theorem prepare_own (hpart : part ∈ allParts (getJob d slot)) (hcause : cause ≤ 2) (hanchor : isAnchor d (getJob d slot) = true) (hown : part = (getJob d slot).partIndex)
    (hc : (getJob d slot).commit = some c) (hstep : c.step = 1) (hepoch : c.epoch = epoch) : prepare slot part epoch cause d = .next (beginDrain d slot c) := by
  unfold prepare
  dsimp only
  rw [if_neg (by simp [hrun, hpart, hcause]), if_pos hanchor, if_pos hown, hc]
  exact if_pos ⟨hstep, hepoch⟩

/-- The notice of another participant begins a commit at the anchor (R118 steps 1 and 2). -/
theorem prepare_notice (hpart : part ∈ allParts (getJob d slot)) (hcause : cause ≤ 2) (hends : cause ≠ 1) (hanchor : isAnchor d (getJob d slot) = true)
    (hother : part ≠ (getJob d slot).partIndex) (hnone : (getJob d slot).commit = none) (hepoch : epoch = (getJob d slot).openEpoch) :
    prepare slot part epoch cause d = .next (startCommit (noteHeard d slot part) slot cause []) := by
  unfold prepare
  dsimp only
  rw [if_neg (by simp [hrun, hpart, hcause]), if_pos hanchor, if_neg hother, if_neg hends, if_neg (by simp [hnone, hepoch])]

/-- The anchor's word for the open epoch makes a participant drain (R118 step 3). -/
theorem prepare_word (hpart : part ∈ allParts (getJob d slot)) (hcause : cause ≤ 2) (helse : isAnchor d (getJob d slot) = false)
    (hfrom : partAddr d (getJob d slot) part = (getJob d slot).anchor) (hepoch : epoch = (getJob d slot).openEpoch) (hnone : (getJob d slot).commit = none) :
    prepare slot part epoch cause d = .next (beginDrain (noteHeard d slot part) slot { epoch := epoch, cause := cause }) := by
  unfold prepare
  dsimp only
  rw [if_neg (by simp [hrun, hpart, hcause]), if_neg (by simp [helse]), if_neg (not_not.mpr hfrom), if_neg (not_not.mpr hepoch), hnone]

/-! ### CHECKPOINT_WRITTEN -/

/-- With room in the store the checkpoint of a drained job stands, behind the commit-stable state it refers to (R116, R118 steps 4 and 5; log entry 36). -/
theorem checkpointWritten_stands {states : List (Nat × Bytes)} {e : Dev} {area : List (Nat × Nat)} (hc : (getJob d slot).commit = some c) (hstep : c.step = 2)
    (hdrained : drained d slot c = true) (hstates : stateRegions m { d with free := d.free + 1 } (getJob d slot) = .ok states)
    (hroom : ckptRoom (d.ckpts.length + 1) { d with free := d.free + 1 } size = some (e, area)) :
    checkpointWritten slot size none m d = .next (writeCkpt (writeStables e slot) slot c (newCkpt e slot c size area states)) := by
  unfold checkpointWritten
  dsimp only
  rw [hc]
  dsimp only
  rw [if_neg (by simp [hrun, hstep]), if_neg (by simp [hdrained]), hstates]
  dsimp only
  rw [hroom]

/-- A block whose verification failed is a fault (R118 step 4). -/
theorem checkpointWritten_mismatch (x : Nat × Nat) (hc : (getJob d slot).commit = some c) (hstep : c.step = 2) (hdrained : drained d slot c = true) :
    checkpointWritten slot size (some x) m d =
      .next (jobFaultReset { d with free := d.free + 1 } { code := 0x0250, slot := slot, detail := x.1 % pow2 32, detail2 := x.2 }) := by
  unfold checkpointWritten
  dsimp only
  rw [hc]
  dsimp only
  rw [if_neg (by simp [hrun, hstep]), if_neg (by simp [hdrained])]

/-! ### PREPARED, COMMIT -/

/-- The anchor takes another participant's readiness for its epoch (R118 steps 5 and 6). -/
theorem prepared_ready (dirSeal : Bytes) (hpart : part ∈ allParts (getJob d slot)) (hother : part ≠ (getJob d slot).partIndex) (hc : (getJob d slot).commit = some c)
    (hstep : c.step ≠ 6) (hones : epoch ≠ 0xFFFFFFFF) (hanchor : isAnchor d (getJob d slot) = true) (hepoch : epoch = c.epoch) :
    prepared slot part epoch dirSeal d = .next (recordCommit (modCommit (noteHeard d slot part) slot (·.ready part (padTo 8 dirSeal))) slot) := by
  unfold prepared
  dsimp only
  rw [if_neg (by simp [hrun, hother, hpart]), hc]
  dsimp only
  rw [if_neg hstep, if_neg hones]
  exact if_pos ⟨hanchor, hepoch⟩

/-- COMMIT finishes the anchor's recorded commit, elsewhere a prepared one (R118 step 7). -/
theorem commitEpoch_finishes (hc : (getJob d slot).commit = some c) (hepoch : c.epoch = epoch)
    (hdue : if isAnchor d (getJob d slot) then c.step = 6 ∧ c.time = time else c.step = 4) :
    commitEpoch slot epoch time d = .next (finalIfDue (finishCommit d slot { c with time := time }) slot) := by
  unfold commitEpoch
  dsimp only
  rw [if_neg (not_not.mpr hrun), hc]
  dsimp only
  rw [if_neg (not_not.mpr hepoch)]
  by_cases hanchor : isAnchor d (getJob d slot) = true
  · rw [if_pos hanchor] at hdue ⊢
    obtain ⟨hstep, rfl⟩ := hdue
    exact if_pos ⟨hstep, rfl⟩
  · rw [if_neg hanchor] at hdue ⊢
    exact if_pos hdue

/-! ### The limits of a commit -/

theorem commitTimeout_faults (hc : (getJob d slot).commit = some c) (hpart : part ∈ allParts (getJob d slot)) (hmissing : part ∉ c.prepared)
    (hlate : if isAnchor d (getJob d slot) then c.step = 1 ∨ c.step = 2 ∨ c.step = 4 else c.step = 2 ∧ part = (getJob d slot).partIndex) :
    commitTimeout slot part d = .next (jobFault d { code := 0x0C20, slot := slot, detail := partAddr d (getJob d slot) part }) := by
  unfold commitTimeout
  dsimp only
  rw [hc]
  refine if_pos ?_
  by_cases hanchor : isAnchor d (getJob d slot) = true
  · rw [if_pos hanchor] at hlate
    simpa [hrun, hanchor, hpart, hmissing, or_assoc] using hlate
  · rw [if_neg hanchor] at hlate
    simpa [hrun, hanchor] using hlate

theorem progressSend_sends (hc : (getJob d slot).commit = some c) (hstep : c.step = 2) :
    progressSend slot d = .next (if isAnchor d (getJob d slot) then sendAll d slot 8 (le 2 (getJob d slot).partIndex ++ le 4 c.epoch)
      else sendCoord d slot 8 (getJob d slot).anchor (le 2 (getJob d slot).partIndex ++ le 4 c.epoch)) := by
  unfold progressSend
  dsimp only
  rw [hc]
  exact if_pos (by simp [hrun, hstep])

theorem participantLost_faults (hother : fromOther (getJob d slot) part = true) (hreach : partAddr d (getJob d slot) part ∈ d.hedge.reach)
    (hidle : atWork d (getJob d slot) part = false) : participantLost slot part d = .next (jobFault d { code := 0x0C04, slot := slot }) :=
  if_pos (by simp [hrun, hother, hreach, hidle])

end

end Sys2Proof.Machine

namespace Sys2Proof

open Sys2Proof.Machine

/-- PROGRESS of another participant of a running job: it was heard (R119). -/
theorem takes_progress {s : State} {slot part : Nat} (hslot : slot < 64) (hrun : (getJob s.dev slot).state = .running) (hother : fromOther (getJob s.dev slot) part = true) :
    Takes (.progress slot part) s (noteHeard (start s) slot part) :=
  takes_of_onSlot hslot (fun _ d => onlyIf ((getJob d slot).state.live && fromOther (getJob d slot) part) (noteHeard d slot part)) rfl
    (if_pos (show ((getJob s.dev slot).state.live && fromOther (getJob s.dev slot) part) = true by rw [hrun, hother]; rfl))

/-- Settles O50, message by message. -/
theorem commitRows : Obligations.CommitRows := by
  intro s slot part epoch cause size time dirSeal hslot hstate
  have hrun : (getJob (start s) slot).state = .running := hstate
  refine ⟨fun c hpart hcause hanchor hown hc hstep hepoch => takes_of_onSlot hslot (fun _ d => prepare slot part epoch cause d) rfl (prepare_own hrun hpart hcause hanchor hown hc hstep hepoch),
    fun hpart hcause hends hanchor hother hnone hepoch =>
      takes_of_onSlot hslot (fun _ d => prepare slot part epoch cause d) rfl (prepare_notice hrun hpart hcause hends hanchor hother hnone hepoch),
    fun hpart hcause helse hfrom hepoch hnone =>
      takes_of_onSlot hslot (fun _ d => prepare slot part epoch cause d) rfl (prepare_word hrun hpart hcause helse hfrom hepoch hnone),
    fun c states e area hc hstep hdrained hstates hroom =>
      takes_of_onSlot hslot (checkpointWritten slot size none) rfl (checkpointWritten_stands hrun hc hstep hdrained hstates hroom),
    fun c x hc hstep hdrained => takes_of_onSlot hslot (checkpointWritten slot size (some x)) rfl (checkpointWritten_mismatch hrun x hc hstep hdrained),
    fun c hpart hother hc hstep hones hanchor hepoch =>
      takes_of_onSlot hslot (fun _ d => prepared slot part epoch dirSeal d) rfl (prepared_ready hrun dirSeal hpart hother hc hstep hones hanchor hepoch),
    fun c hc hepoch hdue => takes_of_onSlot hslot (fun _ d => commitEpoch slot epoch time d) rfl (commitEpoch_finishes hrun hc hepoch hdue),
    fun c hc hpart hmissing hlate => takes_of_onSlot hslot (fun _ d => commitTimeout slot part d) rfl (commitTimeout_faults hrun hc hpart hmissing hlate),
    fun c hc hstep => takes_of_onSlot hslot (fun _ d => progressSend slot d) rfl (progressSend_sends hrun hc hstep),
    takes_progress hslot hstate,
    fun hother hreach hidle => takes_of_onSlot hslot (fun _ d => participantLost slot part d) rfl (participantLost_faults hrun hother hreach hidle)⟩

end Sys2Proof
end

section
/-!
PROOFS. What a job fault and the sealing of tiles keep of a job's image and of what a station keeps of its own.
-/

namespace Sys2Proof.Machine

open Sys2Proof

/-! ### What a job fault keeps -/

/-- The end of the commit in progress keeps all of its job but its state, its pins and what belongs to the commit. -/
theorem endCommit_keeps {α : Type} (g : Job → α) (henter : ∀ j st, g (Job.enter j st) = g j) (hdrop : ∀ j : Job, g j.dropCommit = g j)
    (hdone : ∀ (j : Job) e, g { j with lastCommitted := e, commit := none } = g j) (d : Dev) (slot code : Nat) :
    g (getJob (endCommit d slot code) slot) = g (getJob d slot) := by
  unfold endCommit
  split
  · rfl
  next c hc =>
    have hlen : slot < d.jobs.length := slot_exists (fun he => by simp [he] at hc)
    split
    · rw [finishCommit_keeps g henter hlen, hdone]
    · rw [getJob_congr (foldl_jobs (fun d i => completeIdx_jobs d i 0x000C code []) _ _), dropPrepared_keeps g hdrop]

/-- A fault of a job whose stations do not run keeps all of it but its last fault, its state, its pins, its start and the mark of an unrecoverable job. -/
theorem stopIdle_keeps {α : Type} (g : Job → α) (henter : ∀ j st, g (Job.enter j st) = g j) (hfault : ∀ j c e, g { j with lastFault := c, lastFaultEvent := e } = g j)
    (hstart : ∀ j : Job, g { j with start := none } = g j) (hlost : ∀ j : Job, g { j with unrecov := true } = g j) (d : Dev) (f : FaultInfo) (lost : Bool) :
    g (getJob (stopIdle d f lost) f.slot) = g (getJob d f.slot) := by
  unfold stopIdle
  split
  · dsimp only
    rw [endStart_keeps g hstart, reportFault_keeps g hfault]
    split
    · rw [setJState_keeps g henter, getJob_modJob_keeps g hlost]
    · rfl
  · exact reportFault_keeps g hfault ..

/-- Behind its halt the stop of a live job keeps all of it but its last fault and its restart. -/
theorem stopFrom_keeps {α : Type} (g : Job → α) (hfault : ∀ j c e, g { j with lastFault := c, lastFaultEvent := e } = g j)
    (hrestart : ∀ (j : Job) r, g { j with restart := r } = g j) (e : Dev) (f : FaultInfo) (why : Nat) :
    g (getJob (stopFrom e f why) f.slot) = g (getJob (haltedIn e f why) f.slot) := by
  unfold stopFrom
  dsimp only
  rw [getJob_congr (endRebinds_jobs _ _ _), reportFault_keeps g hfault]
  split
  · exact getJob_modJob_keeps g (fun j => hrestart j _) _ _ _
  · rfl

theorem haltedIn_image (e : Dev) (f : FaultInfo) (why : Nat) : (getJob (haltedIn e f why) f.slot).image = (getJob e f.slot).image := by
  unfold haltedIn haltJob
  dsimp only
  rw [setJState_keeps Job.image (by intros; rfl), getJob_modJob_keeps Job.image (by intro j; rfl), getJob_modJob_keeps Job.image (by intro j; rfl)]
  exact endCommit_keeps Job.image (by intros; rfl) dropCommit_image (by intros; rfl) e f.slot f.code

theorem dropCommit_rt (j : Job) : j.dropCommit.rt = j.rt := by
  unfold Job.dropCommit
  split <;> rfl

/-- What a fault leaves of a job's image and runtime: the image stays, the runtime stays or is gone (R127, R129). -/
def RuntimeKept (j j' : Job) : Prop := j'.image = j.image ∧ (j'.rt = j.rt ∨ j'.rt = {})

theorem stopIdle_runtime (d : Dev) (f : FaultInfo) (lost : Bool) : RuntimeKept (getJob d f.slot) (getJob (stopIdle d f lost) f.slot) :=
  ⟨stopIdle_keeps Job.image (by intros; rfl) (by intros; rfl) (by intro j; rfl) (by intro j; rfl) d f lost,
    .inl (stopIdle_keeps Job.rt (by intros; rfl) (by intros; rfl) (by intro j; rfl) (by intro j; rfl) d f lost)⟩

theorem stopFrom_runtime {e : Dev} {f : FaultInfo} (hlive : (getJob e f.slot).state.live = true) (why : Nat) :
    RuntimeKept (getJob e f.slot) (getJob (stopFrom e f why) f.slot) := by
  obtain ⟨_, hrt, _⟩ := haltedIn_job (ne_free_of_live hlive) why
  exact ⟨(stopFrom_keeps Job.image (by intros; rfl) (by intros; rfl) e f why).trans (haltedIn_image e f why),
    .inr ((stopFrom_keeps Job.rt (by intros; rfl) (by intros; rfl) e f why).trans hrt)⟩

theorem jobFault_runtime (d : Dev) (f : FaultInfo) : RuntimeKept (getJob d f.slot) (getJob (jobFault d f) f.slot) := by
  rw [jobFault_job, stopJob_eq]
  dsimp only
  have hended : RuntimeKept (getJob d f.slot) (getJob (if (getJob d f.slot).state.live then endCommit d f.slot f.code else d) f.slot) := by
    split
    · exact ⟨endCommit_keeps Job.image (by intros; rfl) dropCommit_image (by intros; rfl) d f.slot f.code,
        .inl (endCommit_keeps Job.rt (by intros; rfl) dropCommit_rt (by intros; rfl) d f.slot f.code)⟩
    · exact ⟨rfl, .inl rfl⟩
  generalize (if (getJob d f.slot).state.live then endCommit d f.slot f.code else d) = e at hended ⊢
  obtain ⟨himage, hrt⟩ := hended
  have hstop : RuntimeKept (getJob e f.slot) (getJob (if (getJob e f.slot).state.live then stopFrom e f f.code
      else stopIdle e f (equivalenceLost (getJob e f.slot) f.code)) f.slot) := by
    split
    next hlive => exact stopFrom_runtime hlive f.code
    · exact stopIdle_runtime e f _
  obtain ⟨himage', hrt'⟩ := hstop
  refine ⟨himage'.trans himage, hrt'.elim (fun h => ?_) .inr⟩
  exact hrt.imp h.trans h.trans

theorem jobFault_image (d : Dev) (f : FaultInfo) : (getJob (jobFault d f) f.slot).image = (getJob d f.slot).image := (jobFault_runtime d f).1

/-! ### What a station keeps of its own -/

/-- What a change of a station keeps of it reads as before, whether the station exists or not. -/
theorem getSt_modSt_keeps {α : Type} (g : StRun → α) {f : StRun → StRun} (hf : ∀ s, g (f s) = g s) (d : Dev) (slot n st : Nat) :
    g (getSt (modSt d slot n f) slot st) = g (getSt d slot st) := by
  refine getJob_modJob_keeps (fun j => g (j.rt.stations.getD st {})) (fun j => ?_) d slot slot
  dsimp only
  rw [modifyAt_getD]
  split
  · exact hf _
  · rfl

/-- A station of a job after a change of the job that keeps its runtime. -/
theorem getSt_modJob_keeps {f : Job → Job} (hf : ∀ j, (f j).rt = j.rt) (d : Dev) (slot st : Nat) : getSt (modJob d slot f) slot st = getSt d slot st :=
  getJob_modJob_keeps (fun j => j.rt.stations.getD st {}) (fun j => by rw [hf]) d slot slot

@[simp] theorem kind_modIn (d : Dev) (slot n st port : Nat) (f : InPort → InPort) : (getSt (modIn d slot n port f) slot st).kind = (getSt d slot st).kind :=
  getSt_modSt_keeps StRun.kind (by intro s; rfl) d slot n st

@[simp] theorem kind_modOut (d : Dev) (slot n st port : Nat) (f : OutPort → OutPort) : (getSt (modOut d slot n port f) slot st).kind = (getSt d slot st).kind :=
  getSt_modSt_keeps StRun.kind (by intro s; rfl) d slot n st

@[simp] theorem kind_countSt (d : Dev) (slot n st i k : Nat) : (getSt (countSt d slot n i k) slot st).kind = (getSt d slot st).kind :=
  getSt_modSt_keeps StRun.kind (by intro s; rfl) d slot n st

/-- A station after its own state is written: in that state, or of a job without that station. -/
theorem kind_setKind (d : Dev) (slot st : Nat) (k : KindSt) : (getSt (setKind d slot st k) slot st).kind = k ∨ (getSt (setKind d slot st k) slot st).kind = .plain := by
  by_cases hnone : getSt (setKind d slot st k) slot st = {}
  · exact .inr (by rw [hnone])
  · obtain ⟨hslot, hst⟩ := station_exists hnone
    have hslot' : slot < d.jobs.length := by simpa [setKind, modSt] using hslot
    have hcount : (getJob (setKind d slot st k) slot).rt.stations.length = (getJob d slot).rt.stations.length :=
      getJob_modJob_keeps (fun j => j.rt.stations.length) (fun _ => modifyAt_length ..) d slot slot
    left
    rw [setKind, getSt_modSt d slot st st _ hslot', if_pos ⟨rfl, hcount ▸ hst⟩]

/-- From one device to the next a station keeps its own state, unless its job's runtime is gone. -/
def OwnKept (slot st : Nat) (d e : Dev) : Prop := (getSt e slot st).kind = (getSt d slot st).kind ∨ (getSt e slot st).kind = .plain

section
variable {slot st : Nat} {d e u : Dev}

theorem OwnKept.refl : OwnKept slot st d d := .inl rfl

theorem OwnKept.trans (h : OwnKept slot st d e) (h' : OwnKept slot st e u) : OwnKept slot st d u := h'.elim (fun he => h.imp he.trans he.trans) .inr

theorem OwnKept.foldl {α : Type} {f : Dev → α → Dev} (hf : ∀ d a, OwnKept slot st d (f d a)) : ∀ (xs : List α) (d : Dev), OwnKept slot st d (xs.foldl f d)
  | [], _ => .refl
  | a :: xs, d => (hf d a).trans (OwnKept.foldl hf xs (f d a))

end

section
variable (slot st : Nat) (d : Dev)

theorem jobFault_ownKept (f : FaultInfo) : OwnKept f.slot st d (jobFault d f) := by
  unfold OwnKept getSt
  rcases (jobFault_runtime d f).2 with h | h <;> rw [h]
  · exact .inl rfl
  · exact .inr rfl

theorem modQ_ownKept (n : Nat) (f : QRun → QRun) : OwnKept slot st d (modQ d slot n f) := .inl (by rw [getSt_modQ])

theorem modOut_ownKept (n port : Nat) (f : OutPort → OutPort) : OwnKept slot st d (modOut d slot n port f) := .inl (kind_modOut ..)

theorem placeTile_ownKept (n : Nat) (t : Tile) : OwnKept slot st d (placeTile d slot n t) := by
  unfold placeTile
  dsimp only
  split
  · split
    · exact jobFault_ownKept st d { code := 0x0112, slot := slot, queue := n, producer := _, seqNo := _ }
    · exact modQ_ownKept ..
  · split
    · exact modQ_ownKept ..
    · exact modQ_ownKept ..

/-- Sealing a tile keeps every station's own state (R29 to R32). -/
theorem sealTile_ownKept (n port rows columns : Nat) (payload : Bytes) (eos : Bool) : OwnKept slot st d (sealTile d slot n port rows columns payload eos) := by
  unfold sealTile
  dsimp only
  split
  · exact jobFault_ownKept st d { code := 0x0113, slot := slot, queue := _, producer := n, seqNo := _ }
  · refine .trans ?_ (placeTile_ownKept ..)
    have hprov (e : Dev) : OwnKept slot st e (modJob e slot (fun j => { j with provisional := true })) := .inl (by rw [getSt_modJob_keeps (by intro j; rfl)])
    split
    · exact ((modQ_ownKept ..).trans (hprov _)).trans (modOut_ownKept ..)
    · exact (modQ_ownKept ..).trans (hprov _)

theorem sealRows_ownKept (n port : Nat) (eos : Bool) : OwnKept slot st d (sealRows d slot n port eos) := (modOut_ownKept slot st d n port _).trans (sealTile_ownKept ..)

theorem sealRecs_ownKept (n port : Nat) (eos : Bool) : OwnKept slot st d (sealRecs d slot n port eos) := (modOut_ownKept slot st d n port _).trans (sealTile_ownKept ..)

theorem addRow_ownKept (n port : Nat) (r : Row) : OwnKept slot st d (addRow slot n port d r) := by
  unfold addRow
  dsimp only
  split
  · exact modOut_ownKept ..
  · exact (sealRows_ownKept ..).trans (modOut_ownKept ..)

theorem addRows_ownKept (n port : Nat) (rs : List Row) : OwnKept slot st d (addRows d slot n port rs) := .foldl (fun d r => addRow_ownKept slot st d n port r) rs d

theorem endPort_ownKept (n port : Nat) : OwnKept slot st d (endPort d slot n port) := by
  unfold endPort
  dsimp only
  split
  · exact .refl
  split
  · exact sealRows_ownKept ..
  split
  · exact sealRecs_ownKept ..
  split
  · exact (modOut_ownKept ..).trans (sealTile_ownKept ..)
  · exact sealTile_ownKept ..

/-- The end of a stream keeps every station's own state (R50). -/
theorem endStation_ownKept (n : Nat) : OwnKept slot st d (endStation d slot n) :=
  (OwnKept.foldl (fun d p => endPort_ownKept slot st d n p) (List.range (descSt d slot n).outPorts) d).trans (.inl (getSt_modSt_keeps StRun.kind (by intro s; rfl) _ slot n st))

end

end Sys2Proof.Machine
end

section
/-!
PROOFS. The frontier, the release and the key order of an align station (05 R161 to R163).
-/

namespace Sys2Proof.Machine

open Sys2Proof

/-! ### The frontier -/

/-- A fold of minima is at most its start and at most each of its terms. -/
theorem foldl_min_le {α : Type} (g : α → Nat) : ∀ (xs : List α) (b : Nat),
    xs.foldl (fun m x => min m (g x)) b ≤ b ∧ ∀ x ∈ xs, xs.foldl (fun m x => min m (g x)) b ≤ g x
  | [], b => ⟨Nat.le_refl b, by simp⟩
  | x :: xs, b => by
    obtain ⟨hstart, hterms⟩ := foldl_min_le g xs (min b (g x))
    refine ⟨hstart.trans (Nat.min_le_left ..), fun y hy => ?_⟩
    rcases List.mem_cons.mp hy with rfl | hy
    · exact hstart.trans (Nat.min_le_right ..)
    · exact hterms y hy

theorem frontierOf_le_thrOf {lat w : Nat} {ws : List Nat} (h : w ∈ ws) : frontierOf lat ws ≤ thrOf lat w := (foldl_min_le (thrOf lat) ws alignInf).2 w h

theorem alignInf_eq : alignInf = 2 ^ 64 - 1 := by rw [alignInf, pow2_eq]

/-! ### Key order -/

theorem keyLt_iff (a b : AlignKey) : keyLt a b = true ↔ a.1 < b.1 ∨ a.1 = b.1 ∧ (a.2.1 < b.2.1 ∨ a.2.1 = b.2.1 ∧ a.2.2 < b.2.2) := by
  simp [keyLt]

theorem keyLt_false_iff (a b : AlignKey) : keyLt a b = false ↔ ¬(a.1 < b.1 ∨ a.1 = b.1 ∧ (a.2.1 < b.2.1 ∨ a.2.1 = b.2.1 ∧ a.2.2 < b.2.2)) := by
  rw [← keyLt_iff, Bool.not_eq_true]

theorem keyLt_asymm {a b : AlignKey} (h : keyLt a b = true) : keyLt b a = false := by
  rw [keyLt_iff] at h
  rw [keyLt_false_iff]
  omega

/-- The order in which a key may stand before another is transitive. -/
theorem keyLt_false_trans {a b c : AlignKey} (hba : keyLt b a = false) (hcb : keyLt c b = false) : keyLt c a = false := by
  rw [keyLt_false_iff] at *
  omega

theorem keyInsert_perm (k : AlignKey) (r : Row) : ∀ q : List (AlignKey × Row), (keyInsert k r q).Perm ((k, r) :: q)
  | [] => .refl _
  | x :: xs => by
    unfold keyInsert
    split
    · exact .refl _
    · exact ((keyInsert_perm k r xs).cons x).trans (.swap ..)

/-- A row put into a queue in key order stands behind the keys that are not above its own (R162). -/
theorem keyInsert_ordered (k : AlignKey) (r : Row) : ∀ {q : List (AlignKey × Row)}, q.Pairwise (fun a b => keyLt b.1 a.1 = false) →
    (keyInsert k r q).Pairwise (fun a b => keyLt b.1 a.1 = false)
  | [], _ => .cons (by simp) .nil
  | x :: xs, h => by
    obtain ⟨hx, hxs⟩ := List.pairwise_cons.mp h
    unfold keyInsert
    split
    next hlt =>
      refine .cons (fun y hy => ?_) h
      have hkx : keyLt x.1 k = false := keyLt_asymm hlt
      rcases List.mem_cons.mp hy with rfl | hy
      · exact hkx
      · exact keyLt_false_trans hkx (hx y hy)
    next hge =>
      refine .cons (fun y hy => ?_) (keyInsert_ordered k r hxs)
      rcases List.mem_cons.mp ((keyInsert_perm k r xs).mem_iff.mp hy) with rfl | hy
      · exact Bool.not_eq_true _ ▸ hge
      · exact hx y hy

/-! ### A release -/

/-- Every row that an align station holds has a time at or above a bound. -/
def HeldAbove (bound : Nat) (x : AlignSt) : Prop := ∀ e ∈ x.hold ++ x.late, bound ≤ e.1.1

theorem heldAbove_empty (bound : Nat) : HeldAbove bound {} := by
  intro e he
  cases he

section
variable {slot st : Nat} {d e : Dev} {bound : Nat}

theorem OwnKept.align (h : OwnKept slot st d e) : alignSt e slot st = alignSt d slot st ∨ alignSt e slot st = {} := by
  unfold alignSt
  rcases h with h | h <;> rw [h]
  · exact .inl rfl
  · exact .inr rfl

theorem OwnKept.heldAbove (h : OwnKept slot st d e) (hd : HeldAbove bound (alignSt d slot st)) : HeldAbove bound (alignSt e slot st) := by
  rcases h.align with h | h <;> rw [h]
  · exact hd
  · exact heldAbove_empty bound

theorem alignSt_modAlign (d : Dev) (slot st : Nat) (f : AlignSt → AlignSt) :
    alignSt (modAlign d slot st f) slot st = f (alignSt d slot st) ∨ alignSt (modAlign d slot st f) slot st = {} := by
  rcases kind_setKind d slot st (.align (f (alignSt d slot st))) with h | h
  · exact .inl (by rw [alignSt, modAlign, h])
  · exact .inr (by rw [alignSt, modAlign, h])

theorem heldAbove_modAlign {f : AlignSt → AlignSt} (h : HeldAbove bound (f (alignSt d slot st))) : HeldAbove bound (alignSt (modAlign d slot st f) slot st) := by
  rcases alignSt_modAlign d slot st f with he | he <;> rw [he]
  · exact h
  · exact heldAbove_empty bound

/-- A change that leaves both queues alone holds no other row. -/
theorem heldAbove_modAlign_keeps {f : AlignSt → AlignSt} (hhold : ∀ x, (f x).hold = x.hold) (hlate : ∀ x, (f x).late = x.late)
    (h : HeldAbove bound (alignSt d slot st)) : HeldAbove bound (alignSt (modAlign d slot st f) slot st) := by
  refine heldAbove_modAlign ?_
  rwa [HeldAbove, hhold, hlate]

/-- What is emitted below a bound leaves the rows at or above it (R162). -/
theorem emitBelow_heldAbove (d : Dev) (slot st bound : Nat) : HeldAbove bound (alignSt (emitBelow d slot st (some bound)) slot st) := by
  refine ((addRows_ownKept slot st _ st 0 _).trans (addRows_ownKept slot st _ st 1 _)).heldAbove (heldAbove_modAlign fun e he => ?_)
  rw [← List.filter_append] at he
  simpa using (List.mem_filter.mp he).2

/-- What is emitted without a bound leaves no row (R162). -/
theorem emitBelow_none_heldAbove (d : Dev) (slot st bound : Nat) : HeldAbove bound (alignSt (emitBelow d slot st none) slot st) := by
  refine ((addRows_ownKept slot st _ st 0 _).trans (addRows_ownKept slot st _ st 1 _)).heldAbove (heldAbove_modAlign fun e he => ?_)
  rw [← List.filter_append] at he
  simp at he

end

/-- After a release no row below the frontier is held (R162). -/
theorem alignRelease_heldAbove (d : Dev) (slot st : Nat) :
    HeldAbove (frontierOf (getJob d slot).image.latenessUs (alignSt d slot st).w) (alignSt (alignRelease d slot st) slot st) := by
  unfold alignRelease
  dsimp only
  split
  · exact (endStation_ownKept slot st _ st).heldAbove (emitBelow_none_heldAbove _ slot st _)
  · exact heldAbove_modAlign_keeps (by intro x; rfl) (by intro x; rfl) (emitBelow_heldAbove _ slot st _)

end Sys2Proof.Machine

namespace Sys2Proof

open Sys2Proof.Machine

/-- Settles O30: a release filters both queues at the frontier, and no tile it seals puts a row back. -/
theorem alignReleases : Obligations.AlignReleases := by
  refine ⟨fun d slot st e he => alignRelease_heldAbove d slot st e he, fun lat ws w hw => ?_, fun k r q hq => ⟨keyInsert_ordered k r hq, keyInsert_perm k r q⟩⟩
  have hle := frontierOf_le_thrOf (lat := lat) hw
  rwa [thrOf, alignInf_eq] at hle

end Sys2Proof
end

section
/-!
PROOFS. Length-prefixed records read back (05 R139, R454).
-/

namespace Sys2Proof.Machine

open Sys2Proof

/-- Records written each as its 32-bit length and its bytes. -/
def prefixed (rs : List Bytes) : Bytes := (rs.map (fun r => le 4 r.length ++ r)).flatten

theorem prefixed_cons (r : Bytes) (rs : List Bytes) : prefixed (r :: rs) = le 4 r.length ++ r ++ prefixed rs := rfl

theorem length_le_prefixed (rs : List Bytes) : rs.length ≤ (prefixed rs).length := by
  induction rs with
  | nil => exact Nat.le_refl 0
  | cons r rs ih =>
    rw [prefixed_cons, List.length_append, List.length_append, le_length, List.length_cons]
    omega

theorem splitRecords_succ (n : Nat) (bs : Bytes) (off : Nat) : splitRecords (n + 1) bs off =
    if bs.isEmpty then ([], none)
    else if bs.length < 4 + u32at bs 0 then ([bs], some off)
    else ((bs.drop 4).take (u32at bs 0) :: (splitRecords n (bs.drop (4 + u32at bs 0)) (off + 4 + u32at bs 0)).1,
      (splitRecords n (bs.drop (4 + u32at bs 0)) (off + 4 + u32at bs 0)).2) := rfl

theorem splitRecords_nil (n off : Nat) : splitRecords (n + 1) [] off = ([], none) := rfl

/-- Bytes in which fewer remain than a length needs or names are cut off (R454). -/
theorem splitRecords_cut {c : Bytes} (hc : c ≠ []) (hcut : c.length < 4 + u32at c 0) (n off : Nat) : splitRecords (n + 1) c off = ([c], some off) := by
  rw [splitRecords_succ, if_neg (by simpa using hc), if_pos hcut]

/-- One record is read off the front (R139). -/
theorem splitRecords_record {r : Bytes} (hr : r.length < 2 ^ 32) (rest : Bytes) (n off : Nat) :
    splitRecords (n + 1) (le 4 r.length ++ r ++ rest) off =
      (r :: (splitRecords n rest (off + 4 + r.length)).1, (splitRecords n rest (off + 4 + r.length)).2) := by
  have hlen : u32at (le 4 r.length ++ (r ++ rest)) 0 = r.length := uat_le_append 4 r.length (r ++ rest) hr
  have hpast : (le 4 r.length ++ (r ++ rest)).drop 4 = r ++ rest := List.drop_left' (le_length 4 _)
  have hsize : (le 4 r.length ++ (r ++ rest)).length = 4 + (r.length + rest.length) := by rw [List.length_append, List.length_append, le_length]
  rw [List.append_assoc]
  generalize le 4 r.length ++ (r ++ rest) = bs at hlen hpast hsize ⊢
  have hsome : ¬ bs.isEmpty = true := fun h => by
    rw [List.isEmpty_iff.mp h, List.length_nil] at hsize
    omega
  rw [splitRecords_succ, if_neg hsome, hlen, if_neg (by omega), hpast, List.take_left' rfl, ← List.drop_drop, hpast, List.drop_left' rfl]

/-- The records at the front are read in order, and what follows them as it would be alone. -/
theorem splitRecords_prefixed (c : Bytes) (n : Nat) : ∀ (rs : List Bytes) (off : Nat), (∀ r ∈ rs, r.length < 2 ^ 32) →
    splitRecords (rs.length + n) (prefixed rs ++ c) off =
      (rs ++ (splitRecords n c (off + (prefixed rs).length)).1, (splitRecords n c (off + (prefixed rs).length)).2)
  | [], off, _ => by simp [prefixed]
  | r :: rs, off, h => by
    obtain ⟨hr, hrs⟩ := List.forall_mem_cons.mp h
    have hoff : off + 4 + r.length + (prefixed rs).length = off + (prefixed (r :: rs)).length := by
      rw [prefixed_cons, List.length_append, List.length_append, le_length]
      omega
    rw [prefixed_cons, List.append_assoc, List.length_cons, Nat.add_right_comm, splitRecords_record hr, splitRecords_prefixed c n rs _ hrs, hoff, ← prefixed_cons]
    rfl

/-- Read with as many steps as there are bytes. -/
theorem splitRecords_all {rs : List Bytes} (c : Bytes) (h : ∀ r ∈ rs, r.length < 2 ^ 32) : ∃ n,
    splitRecords ((prefixed rs ++ c).length + 1) (prefixed rs ++ c) 0 =
      (rs ++ (splitRecords (n + 1) c (prefixed rs).length).1, (splitRecords (n + 1) c (prefixed rs).length).2) := by
  have hfuel : (prefixed rs ++ c).length + 1 = rs.length + ((prefixed rs ++ c).length - rs.length + 1) := by
    have hcount := length_le_prefixed rs
    rw [List.length_append]
    omega
  refine ⟨(prefixed rs ++ c).length - rs.length, ?_⟩
  rw [hfuel, splitRecords_prefixed c _ rs 0 h, Nat.zero_add]

end Sys2Proof.Machine

namespace Sys2Proof

open Sys2Proof.Machine

/-- Settles O31, by induction on the records: each is read off the front, and the cut bytes are the last. -/
theorem prefixedRecords : Obligations.PrefixedRecords := by
  intro rs c hrs
  show splitRecords ((prefixed rs).length + 1) (prefixed rs) 0 = _ ∧
    (c ≠ [] → _ → splitRecords ((prefixed rs ++ c).length + 1) (prefixed rs ++ c) 0 = (rs ++ [c], some (prefixed rs).length))
  constructor
  · obtain ⟨n, h⟩ := splitRecords_all [] hrs
    simpa [splitRecords_nil] using h
  · intro hc hcut
    obtain ⟨n, h⟩ := splitRecords_all c hrs
    rw [h, splitRecords_cut hc (by omega)]

end Sys2Proof
end

section
/-!
PROOFS. The rows of emit stations (05 R166; 11 R297 to R300; 04 R115, R121): tiles of a region, batches of a channel, CONSUMED.
-/

namespace Sys2Proof.Machine

open Sys2Proof

/-! ### Tiles into a region -/

/-- Where MODE 1 writes a tile: at OFFSET + 4,160 x SEQ, or behind what was written (R166). -/
def emitOff (p : Bytes) (x : EmitSt) (t : Tile) : Nat := if u8at p 1 = 0 then u64at p 8 + 4160 * t.seq else u64at p 8 + x.pos

/-- What it writes: the whole tile, or its payload (R166). -/
def emitBytes (p : Bytes) (t : Tile) : Bytes := if u8at p 1 = 0 then t.bytes else t.used

/-- A tile of MODE 1 that is not the last of its stream is written and leaves the port; the job has provisional output (R121, R166). -/
theorem emitTile_writes {d e : Dev} {slot st : Nat} {t : Tile} {r : List Tile} (hmode : u8at (paramSt d slot st) 0 = 1)
    (hgoes : (getSt d slot st).ended = false) (hinbox : (getIn d slot st 0).inbox = t :: r) (heos : t.eos = false)
    (hwrite : regWrite d (bindingOr (getJob d slot) (u16at (paramSt d slot st) 2)) (stationEngine (getJob d slot) st) (getJob d slot).image.jobTag
      (emitOff (paramSt d slot st) (emitSt d slot st) t) (emitBytes (paramSt d slot st) t) = .ok e) :
    emitTile slot st d = .next (modIn (setKind (modJob e slot (fun j => { j with provisional := true })) slot st
      (.emit { emitSt d slot st with pos := (emitSt d slot st).pos + (if u8at (paramSt d slot st) 1 = 0 then 0 else (emitBytes (paramSt d slot st) t).length) }))
      slot st 0 InPort.drop) := by
  have hplace : (if u8at (paramSt d slot st) 1 = 0 then (u64at (paramSt d slot st) 8 + 4160 * t.seq, t.bytes)
      else (u64at (paramSt d slot st) 8 + (emitSt d slot st).pos, t.used)) =
      (emitOff (paramSt d slot st) (emitSt d slot st) t, emitBytes (paramSt d slot st) t) := by
    unfold emitOff emitBytes
    split <;> rfl
  unfold emitTile
  dsimp only
  rw [if_neg (by simp [hmode, hgoes]), hinbox]
  dsimp only
  rw [hplace]
  dsimp only
  rw [hwrite]
  dsimp only
  rw [heos]
  rfl

/-! ### Batches of a channel -/

section
variable {d : Dev} {slot st b : Nat} (hmode : u8at (paramSt d slot st) 0 = 2) (hgoes : (getSt d slot st).ended = false)
include hmode hgoes

theorem batchEmit_ready (hready : (emitSt d slot st).ready = some b) : batchEmit slot st d = .next (tryBatch slot st d) := by
  unfold batchEmit
  dsimp only
  rw [if_neg (by simp [hmode, hgoes]), if_pos (by simp [hready])]

/-- A TENSOR tile joins the batch in hand, which then goes on if it may (R296, R299). -/
theorem batchEmit_gathers {t : Tile} {r : List Tile} (hnone : (emitSt d slot st).ready = none) (hinbox : (getIn d slot st 0).inbox = t :: r) (hbytes : 64 ≤ t.payloadBytes) :
    batchEmit slot st d = .next (tryBatch slot st (setKind (modIn d slot st 0 InPort.drop) slot st (.emit (gatherRun (emitSt d slot st) t.used)))) := by
  unfold batchEmit
  dsimp only
  rw [if_neg (by simp [hmode, hgoes]), if_neg (by simp [hnone]), hinbox]
  dsimp only
  rw [if_neg (by omega)]

end

/-- The run of a tile, and the batch it makes ready where it is its last (R296). -/
theorem gatherRun_eq (x : EmitSt) (b : Bytes) : gatherRun x b =
    { x with runs := x.runs ++ [(u64at b 8, (b.drop 64).take (u32at b 0x10))], ready := if (u8at b 0x14).testBit 0 then some (u64at b 0) else x.ready } := by
  unfold gatherRun bit
  split <;> rfl

section
variable {d : Dev} {slot st b : Nat} (hready : (emitSt d slot st).ready = some b)
include hready

/-- Without a credit, or while a write has not been read back, a complete batch waits (R299; 12 R317). -/
theorem tryBatch_waits (h : (emitSt d slot st).consumed + (emitCtx (getJob d slot).image st).slots ≤ (emitSt d slot st).written ∨ writesBack d slot st = false) :
    tryBatch slot st d = d := by
  unfold tryBatch
  dsimp only
  rw [hready]
  exact if_pos (by simpa using h)

/-- With a credit, its writes read back and no boundary before it, a complete batch goes on by one phase (R299; 04 R115). -/
theorem tryBatch_writes (hcredit : (emitSt d slot st).written < (emitSt d slot st).consumed + (emitCtx (getJob d slot).image st).slots) (hback : writesBack d slot st = true)
    (hbound : (emitSt d slot st).phase ≠ 0 ∨ (emitCtx (getJob d slot).image st).ch.channel ≠ 0 ∨ (getJob d slot).image.epochBatches = 0 ∨ b < nextBound (getJob d slot)) :
    tryBatch slot st d = let e := writeBatch slot st (emitCtx (getJob d slot).image st) b d; if stopped e slot then e else emitDone slot st e := by
  have hfree : (if (emitSt d slot st).phase = 0 then atBound slot (emitCtx (getJob d slot).image st).ch.channel b d else (d, false)) = (d, false) := by
    split
    next hphase => exact if_pos (hbound.resolve_left (not_not.mpr hphase))
    · rfl
  unfold tryBatch
  dsimp only
  rw [hready]
  dsimp only
  rw [if_neg (by simpa [hback] using hcredit), hfree]

end

/-! ### CONSUMED -/

section
variable {d : Dev} {m : Memory} {slot st : Nat} {bs : Bytes} {stores : List (Nat × Bytes)} (hmode : u8at (paramSt d slot st) 0 = 2) (hready : (emitSt d slot st).ready ≠ none)
  (hnone : (emitSt d slot st).consumed + (emitCtx (getJob d slot).image st).slots ≤ (emitSt d slot st).written)
  (hread : regRead m (hostStores d stores) (bindingOr (getJob d slot) (emitCtx (getJob d slot).image st).ch.descRegion) 0x18 8 = .ok bs)
include hmode hready hnone hread

/-- Without a credit the station reads CONSUMED: it faults, or keeps what it read (R299). -/
theorem consumedPoll_reads : consumedPoll slot st stores m d =
    if u64at bs 0 < max (emitSt d slot st).consumed ((assocGet (getJob d slot).consumedLast (emitCtx (getJob d slot).image st).ch.channel).getD 0) ∨
        (assocGet (getJob d slot).writtenHigh (emitCtx (getJob d slot).image st).ch.channel).getD 0 < u64at bs 0 then
      .next (stationFault (hostStores d stores) slot st 0x0C47 (emitCtx (getJob d slot).image st).ch.channel (u64at bs 0))
    else .next (modJob (setKind (hostStores d stores) slot st (.emit { emitSt d slot st with consumed := u64at bs 0 })) slot
      (fun j => { j with consumedLast := assocSet j.consumedLast (emitCtx (getJob d slot).image st).ch.channel (u64at bs 0) })) := by
  unfold consumedPoll
  dsimp only
  rw [if_neg (by simp [hmode, hready, hnone]), hread]

/-- A value within its bounds is kept. -/
theorem consumedPoll_keeps (hlow : (emitSt d slot st).consumed ≤ u64at bs 0)
    (hlast : (assocGet (getJob d slot).consumedLast (emitCtx (getJob d slot).image st).ch.channel).getD 0 ≤ u64at bs 0)
    (hhigh : u64at bs 0 ≤ (assocGet (getJob d slot).writtenHigh (emitCtx (getJob d slot).image st).ch.channel).getD 0) :
    consumedPoll slot st stores m d = .next (modJob (setKind (hostStores d stores) slot st (.emit { emitSt d slot st with consumed := u64at bs 0 })) slot
      (fun j => { j with consumedLast := assocSet j.consumedLast (emitCtx (getJob d slot).image st).ch.channel (u64at bs 0) })) :=
  (consumedPoll_reads hmode hready hnone hread).trans (if_neg (by omega))

/-- A value below the last or above the highest WRITTEN is a fault. -/
theorem consumedPoll_faults (hout : u64at bs 0 < max (emitSt d slot st).consumed ((assocGet (getJob d slot).consumedLast (emitCtx (getJob d slot).image st).ch.channel).getD 0) ∨
      (assocGet (getJob d slot).writtenHigh (emitCtx (getJob d slot).image st).ch.channel).getD 0 < u64at bs 0) :
    consumedPoll slot st stores m d = .next (stationFault (hostStores d stores) slot st 0x0C47 (emitCtx (getJob d slot).image st).ch.channel (u64at bs 0)) :=
  (consumedPoll_reads hmode hready hnone hread).trans (if_pos hout)

end

/-! ### The writes of a batch -/

/-- The low bytes of a number at the front are read back. -/
theorem uat_le_append_mod (n v : Nat) (rest : Bytes) : uat (le n v ++ rest) 0 n = v % 2 ^ (8 * n) := by
  rw [uat, show slice (le n v ++ rest) 0 n = le n v from slice_mid (a := []) rfl (le_length n v), leNat_le]

theorem u8at_le_append_mod (v : Nat) (rest : Bytes) : u8at (le 1 v ++ rest) 0 = v % 256 := rfl

/-- The descriptor holds the batch number at byte 8 and the channel at byte 1 (R298). -/
theorem batchDesc_fields (d : Dev) (j : Job) (c : EmitCtx) (i : BatchInfo) (check : Nat) :
    u64at (batchDesc d j c i check) 8 = i.batch % 2 ^ 64 ∧ u8at (batchDesc d j c i check) 1 = c.ch.channel % 256 := by
  unfold batchDesc
  constructor <;>
    simp (disch := omega) only [List.append_assoc, u64at, uat_skip_le, u8at_skip_le, uat_le_append_mod, u8at_le_append_mod, Nat.reduceSub, Nat.reduceMul]

end Sys2Proof.Machine

namespace Sys2Proof

open Sys2Proof.Machine

/-- A row command that finds its station takes the device that its meaning answers there. -/
theorem takes_of_onStation {s : State} {slot st : Nat} {ok : SType → Bool} (hat : AtStation s slot st ok) {i : Instr} {d : Dev} (f : Memory → Dev → DevOut)
    (hexec : exec i s = onStation slot st ok s f) (hnext : f s.mem (rowStart s) = .next d) : Takes i s d :=
  takes_of_settle (hexec.trans (onStation_at hat f)) hnext

section
variable {s : State} {slot st : Nat} (hat : AtStation s slot st (· = .emit))
include hat

theorem takes_batchEmit {d : Dev} (hnext : batchEmit slot st (rowStart s) = .next d) : Takes (.batchEmit slot st) s d :=
  takes_of_onStation hat (fun _ d => batchEmit slot st d) rfl hnext

/-- CONSUMED out of its bounds stops the job (R299). -/
theorem exec_consumedPoll_faults {stores : List (Nat × Bytes)} {ch v : Nat}
    (hnext : consumedPoll slot st stores s.mem (rowStart s) = .next (stationFault (hostStores (rowStart s) stores) slot st 0x0C47 ch v)) :
    ∃ u, exec (.consumedPoll slot st stores) s = .next u ∧ (getJob u.dev slot).lastFault = 0x0C47 ∧ (getJob u.dev slot).state ≠ .running := by
  have ⟨hslot, hrun, _⟩ := hat
  obtain ⟨hfault, hstop⟩ := jobFault_running (d := hostStores (rowStart s) stores) (f := stFault (hostStores (rowStart s) stores) slot st 0x0C47 ch v) hslot hrun
  exact ⟨_, takes_of_onStation hat (consumedPoll slot st stores) rfl hnext, hfault, hstop.not_running⟩

end

/-- Settles O32, row by row. -/
theorem emitRows : Obligations.EmitRows := by
  intro s slot st
  dsimp only
  refine ⟨fun t r d hat hmode hgoes hinbox hwrite heos => ?_, fun b hat hmode hgoes hready => ?_, fun t r hat hmode hgoes hnone hinbox hbytes => ?_,
    fun bs stores hat hmode hready hnone hread => ⟨fun hlow hlast hhigh => ?_, fun hout => ?_⟩, fun i => ⟨rfl, ⟨_, rfl, batchDesc_fields ..⟩, rfl⟩⟩
  · exact takes_of_onStation hat (fun _ d => emitTile slot st d) rfl (emitTile_writes (d := rowStart s) hmode hgoes hinbox heos hwrite)
  · have htry (e : Dev) (h : tryBatch slot st (rowStart s) = e) : Takes (.batchEmit slot st) s e :=
      takes_batchEmit hat ((batchEmit_ready (d := rowStart s) hmode hgoes hready).trans (congrArg DevOut.next h))
    exact ⟨fun hnone => htry _ (tryBatch_waits (d := rowStart s) hready (.inl hnone)), fun hback => htry _ (tryBatch_waits (d := rowStart s) hready (.inr hback)),
      fun hcredit hback hbound => htry _ (tryBatch_writes (d := rowStart s) hready hcredit hback hbound)⟩
  · rw [← gatherRun_eq]
    exact takes_batchEmit hat (batchEmit_gathers (d := rowStart s) hmode hgoes hnone hinbox hbytes)
  · exact takes_of_onStation hat (consumedPoll slot st stores) rfl (consumedPoll_keeps (d := rowStart s) hmode hready hnone hread hlow hlast hhigh)
  · exact exec_consumedPoll_faults hat (consumedPoll_faults (d := rowStart s) hmode hready hnone hread hout)

end Sys2Proof
end

section
/-!
PROOFS. The rows of intake (05 R134 to R141, R161, R454): objects of a region, items of a replayed log, messages of a feed.
-/

namespace Sys2Proof.Machine

open Sys2Proof

/-! ### What reading input keeps of the image -/

theorem exists_ok_of_map {ε α β : Type} {f : α → β} {r : Except ε α} {y : β} (h : r.map f = .ok y) : ∃ x, r = .ok x ∧ f x = y := by
  cases r with
  | error _ => cases h
  | ok x => exact ⟨x, rfl, Except.ok.inj h⟩

theorem capture_image (d : Dev) (slot : Nat) (items : List LogItem) (k : Nat) : (getJob (capture d slot items) k).image = (getJob d k).image := by
  unfold capture
  dsimp only
  split
  · rfl
  split
  · exact getJob_modJob_keeps Job.image (by intro j; rfl) d slot k
  · rw [jobNotice, reportFault_keeps Job.image (by intros; rfl), getJob_modJob_keeps Job.image (by intro j; rfl)]

theorem noteRead_image (d : Dev) (slot id : Nat) (bs : Bytes) : (getJob (noteRead d slot id bs) slot).image = (getJob d slot).image := by
  unfold noteRead
  dsimp only
  split
  · exact (jobFault_image _ { code := 0x0C25, slot := slot, detail := id }).trans (getJob_modJob_keeps Job.image (by intro j; rfl) d slot slot)
  · exact getJob_modJob_keeps Job.image (by intro j; rfl) d slot slot

theorem modIntake_image (d : Dev) (slot st : Nat) (f : IntakeSt → IntakeSt) (k : Nat) : (getJob (modIntake d slot st f) k).image = (getJob d k).image :=
  getJob_modJob_keeps Job.image (by intro j; rfl) d slot k

section
variable {m : Memory} {d e : Dev} {slot st : Nat}

/-- Input is read without a change of the job's image (R123, R125). -/
theorem readInput_image {id off n : Nat} {bs : Bytes} (h : readInput m d slot st id off n = .ok (bs, e)) : (getJob e slot).image = (getJob d slot).image := by
  unfold readInput at h
  dsimp only at h
  split at h
  · obtain ⟨_, _, hnoted⟩ := exists_ok_of_map h
    cases hnoted
    exact noteRead_image ..
  split at h
  · cases h
    exact modIntake_image ..
  · obtain ⟨_, _, hcaptured⟩ := exists_ok_of_map h
    cases hcaptured
    exact capture_image ..

/-- So is the manifest (R135). -/
theorem readManifest_image (h : readManifest m d slot st = .ok e) : (getJob e slot).image = (getJob d slot).image := by
  have hkeep (d : Dev) (bs : Bytes) : (getJob (modIntake d slot st (fun x => { x with man := some bs })) slot).image = (getJob d slot).image := modIntake_image ..
  unfold readManifest at h
  dsimp only at h
  split at h
  · cases h
    rfl
  split at h
  · cases h
    exact hkeep ..
  split at h
  · cases h
  next head u hhead =>
    have hu := readInput_image hhead
    split at h
    · cases h
      exact (hkeep ..).trans hu
    · obtain ⟨_, hentries, hkept⟩ := exists_ok_of_map h
      cases hkept
      exact (hkeep ..).trans ((readInput_image hentries).trans hu)

theorem readManifest_read (h : u16at (paramSt d slot st) 6 = 0xFFFF ∨ (intakeSt d slot st).man.isSome = true) : readManifest m d slot st = .ok d := if_pos h

/-! ### The next object -/

/-- An intake station of a region that can give its next object does (R135 to R138). -/
theorem intakeObject_region (hgoes : (getSt d slot st).ended = false) (hfree : outBlocked d slot st = false) (hsource : u8at (paramSt d slot st) 0 ≠ 2)
    (hman : readManifest m d slot st = .ok e) (hruns : stopped e slot = false) : intakeObject slot st m d = .next (regionObject slot st m e) := by
  unfold intakeObject
  rw [if_neg (by simp [hgoes]), if_neg (by simp [hfree]), if_neg hsource, hman]
  dsimp only
  rw [if_neg (by simp [hruns])]

/-- An intake station of a feed with items of a replayed log takes the next one (R141). -/
theorem intakeObject_item {it : LogItem} {r : List LogItem} (hgoes : (getSt d slot st).ended = false) (hfree : outBlocked d slot st = false)
    (hsource : u8at (paramSt d slot st) 0 = 2) (htodo : (intakeSt d slot st).todo = it :: r) :
    intakeObject slot st m d = .next (feedItem (modIntake d slot st (fun x => { x with todo := r })) slot st it) := by
  unfold intakeObject
  rw [if_neg (by simp [hgoes]), if_neg (by simp [hfree]), if_pos hsource, htodo]

theorem regionObject_none (h : objectRef d slot st (intakeSt d slot st).obj = .none) : regionObject slot st m d = endStation d slot st := by
  unfold regionObject
  dsimp only
  rw [h]

theorem regionObject_bad {i : Nat} (h : objectRef d slot st (intakeSt d slot st).obj = .bad i) : regionObject slot st m d = stationFault d slot st 0x0B01 i 0 := by
  unfold regionObject
  dsimp only
  rw [h]

/-- What becomes of the bytes of an object by FORM (R134, R136 to R138, R454): `p` the station's parameters, `n` the object's bytes in the region, `obj` its number,
`total` the tiles of the station's whole stream. -/
def formObject (slot st : Nat) (p bs : Bytes) (n obj : Nat) (total : Option Nat) (d : Dev) : Dev :=
  match u8at p 1 with
  | 0 => (segments (u8at p 2) bs).foldl (fun d b => addObject d slot st 0 b) d
  | 1 => (tilesIn (n / 4160) bs).foldl (passTile slot st total) d
  | _ =>
    let d := (splitRecords (bs.length + 1) bs 0).1.foldl (fun d r => addRec d slot st 0 r) d
    match (splitRecords (bs.length + 1) bs 0).2 with
    | some o => stationNotice d slot st 0x0B02 obj o
    | none => d

/-- An object that is read goes on by its FORM. -/
theorem regionObject_at {off n : Nat} {bs : Bytes} (hat : objectRef d slot st (intakeSt d slot st).obj = .at off n)
    (hread : readInput m d slot st (u16at (paramSt d slot st) 4) off n = .ok (bs, e)) (hruns : stopped e slot = false) :
    regionObject slot st m d = formObject slot st (paramSt d slot st) bs n (intakeSt d slot st).obj (totalTiles d slot st (objectBound d slot st) 0)
      (modIntake e slot st (fun x => { x with obj := x.obj + 1 })) := by
  unfold regionObject
  dsimp only
  rw [hat]
  dsimp only
  rw [hread]
  dsimp only
  rw [if_neg (by simp [hruns])]
  rfl

end

section
variable {slot st n obj : Nat} {p bs : Bytes} {total : Option Nat} {d : Dev}

theorem formObject_bytes (h : u8at p 1 = 0) :
    formObject slot st p bs n obj total d = (segments (u8at p 2) bs).foldl (fun d b => addObject d slot st 0 b) d := by
  simp only [formObject, h]

theorem formObject_tiles (h : u8at p 1 = 1) : formObject slot st p bs n obj total d = (tilesIn (n / 4160) bs).foldl (passTile slot st total) d := by
  simp only [formObject, h]

/-- Length-prefixed records, nothing cut (R454). -/
theorem formObject_records (h : 2 ≤ u8at p 1) (hcut : (splitRecords (bs.length + 1) bs 0).2 = none) :
    formObject slot st p bs n obj total d = (splitRecords (bs.length + 1) bs 0).1.foldl (fun d r => addRec d slot st 0 r) d := by
  obtain ⟨k, hk⟩ : ∃ k, u8at p 1 = k + 2 := ⟨_, (Nat.sub_add_cancel h).symm⟩
  simp only [formObject, hk, hcut]

end

/-! ### Messages of a feed -/

theorem getFeed_id {d : Dev} {id : Nat} {f : Feed} (h : getFeed d id = some f) : f.id = id := by simpa using List.find?_some h

section
variable {d : Dev} {id n : Nat} {f : Feed} (hfeed : getFeed d id = some f) (hnone : f.waits.head?.any (fun w => w.1 == 0) = false)
include hfeed hnone

/-- A message that is used, with no mark or close of a command due before it (R161): what waited behind it follows. -/
theorem feedEvent_used {use : Feed → Option Dev} {e : Dev} (huse : use f = some e) : feedEvent d id use = .next (settleFeed id (f.waits.length + 1) e) := by
  unfold feedEvent
  rw [hfeed]
  dsimp only
  rw [if_neg (by simp [hnone]), huse]

/-- A message of records, none missing before it, is taken when the job takes it: those not yet seen (R139 to R141). -/
theorem feedRecordsMsg_takes {first : Nat} {rs : List Bytes} (hmsg : feedMsg f.partBuf = (.recs first rs, n)) (hgap : first ≤ f.nextSeq)
    (htakes : feedTakes d f ((rs.drop (f.nextSeq - first)).map (LogItem.record f.station)) = true) :
    feedRecordsMsg id d = .next (settleFeed id (f.waits.length + 1) (((rs.drop (f.nextSeq - first)).map (LogItem.record f.station)).foldl
      (fun d it => takeItem d f.slot f.station it) (modFeed (feedTaken d f n) id (fun x => { x with nextSeq := max x.nextSeq (first + rs.length) })))) := by
  refine feedEvent_used hfeed hnone ?_
  rw [hmsg]
  dsimp only
  unfold feedTake
  dsimp only
  rw [if_neg (Nat.not_lt.mpr hgap), htakes, getFeed_id hfeed]
  rfl

/-- A watermark not below the feed's is taken at its position (R161). -/
theorem feedMarkMsg_takes {v : Nat} (hmsg : feedMsg f.partBuf = (.mark v, n)) (hmode : f.mode ≠ 0) (hup : f.mark ≤ v) (htakes : feedTakes d f [.mark f.station v] = true) :
    feedMarkMsg id d = .next (settleFeed id (f.waits.length + 1)
      (takeItem (modFeed (feedTaken d f n) id (fun x => { x with mark := v })) f.slot f.station (.mark f.station v))) := by
  refine feedEvent_used hfeed hnone ?_
  rw [hmsg]
  dsimp only
  unfold feedMark
  rw [if_neg hmode, if_neg (Nat.not_lt.mpr hup), htakes, getFeed_id hfeed]
  rfl

/-- A watermark below the feed's is ignored and counted (R161). -/
theorem feedMarkMsg_ignores {v : Nat} (hmsg : feedMsg f.partBuf = (.mark v, n)) (hmode : f.mode ≠ 0) (hbelow : v < f.mark) :
    feedMarkMsg id d = .next (settleFeed id (f.waits.length + 1) (modJob (feedTaken d f n) f.slot (fun j => { j with marksIgnored := j.marksIgnored + 1 }))) := by
  refine feedEvent_used hfeed hnone ?_
  rw [hmsg]
  dsimp only
  unfold feedMark
  rw [if_neg hmode, if_pos hbelow]

end

end Sys2Proof.Machine

namespace Sys2Proof

open Sys2Proof.Machine

section
variable {s : State} {slot st : Nat} (hat : AtStation s slot st (· = .intake)) (hgoes : (getSt s.dev slot st).ended = false) (hfree : outBlocked s.dev slot st = false)
include hat hgoes hfree

/-- INTAKE_OBJECT of a region, the manifest read: the next object (R135 to R138, R454). -/
theorem takes_intakeObject_region (hsource : u8at (paramSt s.dev slot st) 0 ≠ 2) {e u : Dev} (hman : readManifest s.mem (rowStart s) slot st = .ok e)
    (hruns : stopped e slot = false) (hobject : regionObject slot st s.mem e = u) : Takes (.intakeObject slot st) s u :=
  takes_of_onStation hat (intakeObject slot st) rfl ((intakeObject_region (d := rowStart s) hgoes hfree hsource hman hruns).trans (congrArg DevOut.next hobject))

theorem takes_intakeObject_item (hsource : u8at (paramSt s.dev slot st) 0 = 2) {it : LogItem} {r : List LogItem} (htodo : (intakeSt s.dev slot st).todo = it :: r) :
    Takes (.intakeObject slot st) s (feedItem (modIntake (rowStart s) slot st (fun x => { x with todo := r })) slot st it) :=
  takes_of_onStation hat (intakeObject slot st) rfl (intakeObject_item (d := rowStart s) hgoes hfree hsource htodo)

end

/-- Settles O28, row by row: the object that is due by its FORM, the item of a log, the message of a feed. -/
theorem intakeRows : Obligations.IntakeRows := by
  intro s slot st
  dsimp only
  refine ⟨fun hat hgoes hfree hsource => ⟨readManifest_read (d := rowStart s), fun e k hman hruns hk => ?_⟩,
    fun it r hat hgoes hfree hsource htodo => takes_intakeObject_item hat hgoes hfree hsource htodo,
    fun id f first rs n hfeed hnone hmsg hgap htakes => takes_of_settle (r := feedRecordsMsg id (start s)) rfl (feedRecordsMsg_takes (d := start s) hfeed hnone hmsg hgap htakes),
    fun id f v n hfeed hnone hmsg hmode => ⟨fun hup htakes => ?_, fun hbelow => ?_⟩⟩
  · have hobject {u : Dev} (h : regionObject slot st s.mem e = u) : Takes (.intakeObject slot st) s u :=
      takes_intakeObject_region hat hgoes hfree hsource hman hruns h
    have hparam : paramSt s.dev slot st = paramSt e slot st := congrArg (·.param st) (readManifest_image hman).symm
    subst hk
    rw [hparam]
    refine ⟨fun hnone => hobject (regionObject_none hnone), fun i hbad => hobject (regionObject_bad hbad), fun off n bs d hplace hread hruns' => ?_⟩
    have hform := regionObject_at hplace hread hruns'
    exact ⟨fun hbytes => hobject (hform.trans (formObject_bytes hbytes)), fun htiles => hobject (hform.trans (formObject_tiles htiles)),
      fun hrecords hcut => hobject (hform.trans (formObject_records hrecords hcut))⟩
  · exact takes_of_settle (r := feedMarkMsg id (start s)) rfl (feedMarkMsg_takes (d := start s) hfeed hnone hmsg hmode hup htakes)
  · exact takes_of_settle (r := feedMarkMsg id (start s)) rfl (feedMarkMsg_ignores (d := start s) hfeed hnone hmsg hmode hbelow)

end Sys2Proof
end

section
/-!
PROOFS. The rows of unpack, parse and align stations and of the bramble lane (05 R143 to R158, R162).
-/

namespace Sys2Proof.Machine

open Sys2Proof

/-- A compressed object without a dictionary and without an error is handed on whole (R143, R144). -/
theorem unpackObject_whole {d : Dev} {slot st : Nat} {m : Memory} {b : Bytes} {r : List Bytes} (hgoes : (getSt d slot st).ended = false) (hfree : outBlocked d slot st = false)
    (hobjs : (getIn d slot st 0).objs = b :: r) (hdict : u16at (paramSt d slot st) 2 = 0xFFFF)
    (hok : (unpackBytes (u8at (paramSt d slot st) 0) (findDict []) b).err = none) : unpackObject slot st m d =
      .next (addObject (modIn d slot st 0 InPort.popObj) slot st 0 (unpackBytes (u8at (paramSt d slot st) 0) (findDict []) b).out) := by
  unfold unpackObject
  dsimp only
  rw [if_neg (by simp [hgoes]), if_neg (by simp [hfree]), hobjs]
  dsimp only
  rw [if_pos hdict]
  dsimp only
  rw [hok]

/-! ### Units of a parse station -/

section
variable {d : Dev} {slot st : Nat} {u : RowUnit} {us : List RowUnit}

/-- A parse station with a unit in hand works on that unit (R150). -/
theorem parseStep_unit (hgoes : (getSt d slot st).ended = false) (hfree : outBlocked d slot st = false) (hwindow : windowRows (parseSt d slot st).window < 65536)
    (htodo : (parseSt d slot st).todo = u :: us) (away : Bool) : parseStep slot st away d = parseUnit slot st away d u us := by
  unfold parseStep
  dsimp only
  rw [if_neg (by simp [hgoes]), if_neg (by simpa [hfree] using hwindow)]
  simp only [htodo, List.isEmpty_cons, Bool.false_and, Bool.false_eq_true, if_false]

/-- What ends a step of a parse station that still runs: an object of which no row is left is closed (R152). -/
def closedParse (slot st : Nat) (d : Dev) : Dev := if stopped d slot then d else closeParse d slot st

/-- The next row of the unit in hand is decoded in the engine (R150, R157). -/
theorem parseUnit_row {r : RowSrc} {rs : List RowSrc} (hlane : u.lane = false) (hrows : u.rows = r :: rs) : parseUnit slot st false d u us =
    .next (closedParse slot st (emitParsed slot st (modParse d slot st (fun y => { y with todo := if rs = [] then us else { u with rows := rs, begun := true } :: us }))
      (r, (parseSt d slot st).obj))) := by
  have hrest : (if u.rows.length ≤ 1 then us else { u with rows := u.rows.drop 1, begun := true } :: us) =
      if rs = [] then us else { u with rows := rs, begun := true } :: us := by
    rw [hrows]
    cases rs <;> simp
  unfold parseUnit
  dsimp only
  rw [if_neg (by simp [hlane]), hrest, hrows]
  rfl

/-- All of it goes to the bramble lane, no row of it being out (R155, R158). -/
theorem parseUnit_divert {away : Bool} (haway : (away || u.lane) = true) (hbegun : u.begun = false) (hroom : brambleAway d < 4096) : parseUnit slot st away d u us =
    .next (closedParse slot st (divertUnit slot st (modParse d slot st (fun y => { y with todo := us })) (u.rows.map (fun r => (r, (parseSt d slot st).obj))))) := by
  unfold parseUnit
  dsimp only
  rw [if_pos haway, if_neg (by simp [hbegun]), if_neg (by omega)]
  rfl

/-- A unit that was away returns, and what no other unit is ahead of goes out (R156, R157). -/
theorem parseReturn_returns {unit i : Nat} {e : Waiting (RowSrc × Nat)} (hfree : outBlocked d slot st = false)
    (hunit : ((parseSt d slot st).window.zipIdx.filter (fun e => e.1.away))[unit]? = some (e, i)) : parseReturn slot st unit d =
      .next (drainParse slot st ((parseSt d slot st).window.length + 1) (modParse d slot st (fun y => { y with window := modifyAt y.window i (fun e => { e with away := false }) }))) := by
  unfold parseReturn
  dsimp only
  rw [if_neg (by simp [hfree]), hunit]

end

/-! ### Rows of an align station -/

section
variable {d : Dev} {slot st port : Nat} (hport : port < (descSt d slot st).inPorts) (hfree : outBlocked d slot st = false)
include hport hfree

/-- The next row of a port is classified while the station holds few tiles, or the port stands at the frontier (R162, R164). -/
theorem alignStep_row {r : Row} {fs : Nat} (hrow : (getIn d slot st port).row? = some (r, fs))
    (hroom : tilesOf ((alignSt d slot st).hold.map (·.2)) [] < u32at (paramSt d slot st) 4 ∨
      thrOf (getJob d slot).image.latenessUs ((alignSt d slot st).w.getD port 0) = frontierOf (getJob d slot).image.latenessUs (alignSt d slot st).w) :
    alignStep slot st port d = .next (alignRow slot st port (modIn d slot st port InPort.nextRow) r fs) := by
  unfold alignStep
  dsimp only
  rw [if_neg (Nat.not_le.mpr hport), if_neg (by simp [hfree]), hrow]
  exact if_neg (fun ⟨hfull, hapart⟩ => hroom.elim (fun hfew => absurd (of_decide_eq_true hfull) (Nat.not_le.mpr hfew)) hapart)

/-- A port at its end counts as infinite (R162). -/
theorem alignStep_end (hnone : (getIn d slot st port).row? = none) (hdone : (getIn d slot st port).done = true) (hfinite : (alignSt d slot st).w.getD port 0 ≠ alignInf) :
    alignStep slot st port d = .next (alignRelease (modAlign d slot st (fun y => { y with w := setAt y.w port alignInf })) slot st) := by
  unfold alignStep
  dsimp only
  rw [if_neg (Nat.not_le.mpr hport), if_neg (by simp [hfree]), hnone]
  exact if_pos (by rw [hdone, Bool.true_and]; exact bne_iff_ne.mpr hfinite)

end

end Sys2Proof.Machine

namespace Sys2Proof

open Sys2Proof.Machine

section
variable {s : State} {slot st : Nat} {d : Dev} {ty : SType}

theorem AtStation.stype_eq (hat : AtStation s slot st (· = ty)) : (descSt s.dev slot st).stype = ty := by
  obtain ⟨_, _, _, hstype⟩ := hat
  simpa using hstype

/-- The bramble rows find a parse station or an image station. -/
theorem AtStation.bramble (hat : AtStation s slot st (· = ty)) (hty : ty = .parse ∨ ty = .image) : AtStation s slot st (fun t => t = .parse || t = .image) := by
  have ⟨hslot, hrun, hst, _⟩ := hat
  exact ⟨hslot, hrun, hst, by simpa [hat.stype_eq] using hty⟩

/-- BRAMBLE_DIVERT by the type of the station (R155). -/
theorem takes_brambleDivert (hat : AtStation s slot st (· = ty)) (hty : ty = .parse ∨ ty = .image)
    (hnext : (if ty = .parse then parseStep slot st true (rowStart s) else imageDecode slot st true s.mem (rowStart s)) = .next d) : Takes (.brambleDivert slot st) s d := by
  rw [← hat.stype_eq] at hnext
  exact takes_of_onStation (hat.bramble hty) (fun m d => if (descSt d slot st).stype = .parse then parseStep slot st true d else imageDecode slot st true m d) rfl hnext

/-- BRAMBLE_RETURN by the type of the station (R156). -/
theorem takes_brambleReturn {unit : Nat} (hat : AtStation s slot st (· = ty)) (hty : ty = .parse ∨ ty = .image)
    (hnext : (if ty = .parse then parseReturn slot st unit (rowStart s) else imageReturn slot st unit (rowStart s)) = .next d) : Takes (.brambleReturn slot st unit) s d := by
  rw [← hat.stype_eq] at hnext
  exact takes_of_onStation (hat.bramble hty) (fun _ d => if (descSt d slot st).stype = .parse then parseReturn slot st unit d else imageReturn slot st unit d) rfl hnext

theorem takes_parseRecord (hat : AtStation s slot st (· = .parse)) (hnext : parseStep slot st false (rowStart s) = .next d) : Takes (.parseRecord slot st) s d :=
  takes_of_onStation hat (fun _ d => parseStep slot st false d) rfl hnext

theorem takes_alignRow {port : Nat} (hat : AtStation s slot st (· = .align)) (hnext : alignStep slot st port (rowStart s) = .next d) : Takes (.alignRow slot st port) s d :=
  takes_of_onStation hat (fun _ d => alignStep slot st port d) rfl hnext

end

/-- Settles O29, row by row. -/
theorem decodeRows : Obligations.DecodeRows := by
  intro s slot st port unit
  rw [← alignInf_eq]
  refine ⟨fun b r hat hgoes hfree hobjs hdict hok =>
      takes_of_onStation hat (unpackObject slot st) rfl (unpackObject_whole (d := rowStart s) hgoes hfree hobjs hdict hok),
    fun x u us hat hgoes hfree hx hwindow htodo => ?_,
    fun e i hat hfree hunit => takes_brambleReturn hat (.inl rfl) ((if_pos rfl).trans (parseReturn_returns (d := rowStart s) hfree hunit)),
    fun r fs hat hport hfree hrow hroom => takes_alignRow hat (alignStep_row (d := rowStart s) hport hfree hrow hroom),
    fun hat hport hfree hnone hdone hfinite => takes_alignRow hat (alignStep_end (d := rowStart s) hport hfree hnone hdone hfinite)⟩
  subst hx
  have hstep := parseStep_unit (d := rowStart s) hgoes hfree hwindow htodo
  refine ⟨fun r rs hlane hrows => takes_parseRecord hat ((hstep false).trans (parseUnit_row (d := rowStart s) hlane hrows)), fun hbegun hroom => ⟨?_, fun hlane => ?_⟩⟩
  · exact takes_brambleDivert hat (.inl rfl) ((if_pos rfl).trans ((hstep true).trans (parseUnit_divert (d := rowStart s) (away := true) rfl hbegun hroom)))
  · exact takes_parseRecord hat ((hstep false).trans (parseUnit_divert (d := rowStart s) (away := false) hlane hbegun hroom))

end Sys2Proof
end

section
/-!
PROOFS. The rows of image stations (05 R155 to R157; 10 R262, R263, R273, R274): the next image by its input, the warp, the return from the bramble lane.
-/

namespace Sys2Proof.Machine

open Sys2Proof

/-! ### JPEG objects -/

/-- The next JPEG is taken off the port into the window, to the bramble lane or decoded in the engine (R155, R263). -/
def jpegTaken (slot st : Nat) (q : ImgP) (b r : Bytes) (cut : Bool) (d : Dev) : Dev :=
  modImage (if cut then countSt (modIn d slot st 0 InPort.popObj) slot st 0 1 else modIn d slot st 0 InPort.popObj) slot st
    (fun x => { x with ordinal := x.ordinal + 1, window := x.window ++ [{ away := cut, src := jpegSource q (q.base + x.ordinal) r b }] })

/-- An image station's own state is kept as an object leaves its port and is counted. -/
theorem imageSt_popped (slot st : Nat) (cut : Bool) (d : Dev) :
    imageSt (if cut then countSt (modIn d slot st 0 InPort.popObj) slot st 0 1 else modIn d slot st 0 InPort.popObj) slot st = imageSt d slot st := by
  unfold imageSt
  cases cut <;> simp

section
variable {d : Dev} {m : Memory} {slot st : Nat} {b r : Bytes}

theorem takeJpeg_takes {away : Bool} (hroom : (away || jpegDiverts b) = true → brambleAway d < 4096)
    (hsample : (imgP (paramSt d slot st)).base + (imageSt d slot st).ordinal < 2 ^ 48)
    (hrecord : readRecord m d slot st (imgP (paramSt d slot st)) ((imgP (paramSt d slot st)).base + (imageSt d slot st).ordinal) = .ok r) :
    takeJpeg slot st m away d b = .next (jpegTaken slot st (imgP (paramSt d slot st)) b r (away || jpegDiverts b) d) := by
  unfold takeJpeg
  dsimp only
  rw [if_neg (by simpa using hroom), if_neg (by rw [pow2_eq]; omega), hrecord]
  unfold jpegTaken modImage
  rw [imageSt_popped]

/-- The next JPEG is taken while the staging area and the window have room (R262, R263). -/
theorem imageDecode_jpeg {bs : List Bytes} (hgoes : (getSt d slot st).ended = false) (hinput : (imgP (paramSt d slot st)).input = 0)
    (hobjs : (getIn d slot st 0).objs = b :: bs) (hstaged : stagedCount (imageSt d slot st) < 2)
    (hwindow : ((imageSt d slot st).window.dropWhile (fun e => !e.away)).length < 65536) (away : Bool) :
    imageDecode slot st away m d = takeJpeg slot st m away d b := by
  unfold imageDecode
  dsimp only
  rw [if_neg (by simp [hgoes]), if_pos hinput, hobjs]
  exact if_neg (by simpa [Nat.lt_succ_iff] using And.intro hstaged hwindow)

end

/-! ### Tiles of pixels -/

/-- An image with the pixels of one more tile. -/
def SrcImage.addPixels (p : SrcImage) (t : Tile) : SrcImage := { p with data := p.data ++ pixelEls t }

/-- What the pixel header of an image's first tile says of it, with its record (R272, R274). -/
def pixelImage (t : Tile) (r : Bytes) : SrcImage :=
  { sample := u64at t.used 0, w := u16at t.used 8, h := u16at t.used 0x0A, channels := u8at t.used 0x10, ty := (Ty.ofCode (u8at t.used 0x11)).getD .u8,
    ycc := bit (u8at t.used 0x12) 2, record := r }

/-- The size of an image is beyond what a station takes (R273). -/
def sizeBad (t : Tile) : Bool :=
  decide (0x10000000 < u16at t.used 8 * u16at t.used 0x0A * u8at t.used 0x10 * ((Ty.ofCode (u8at t.used 0x11)).getD .u8).bytes) ||
    decide (u16at t.used 8 = 0) || decide (u16at t.used 0x0A = 0) || decide (8192 < u16at t.used 8) || decide (8192 < u16at t.used 0x0A)

/-- The source of an image whose last tile has come: a hole where its size is bad (R273). -/
def wholeImage (q : ImgP) (t : Tile) (i : SrcImage) : SrcImage :=
  if sizeBad t then { i with data := [], hole := some (holeHeader q (u64at t.used 0) (u8at t.used 0x10) 4) } else i

section
variable {d : Dev} {m : Memory} {slot st : Nat} {t : Tile}

/-- A tile of pixels is taken while the staging area has room (R274). -/
theorem imageDecode_pixels {ts : List Tile} (hgoes : (getSt d slot st).ended = false) (hinput : (imgP (paramSt d slot st)).input ≠ 0)
    (hinbox : (getIn d slot st 0).inbox = t :: ts) (hstaged : stagedCount (imageSt d slot st) < 2) (hbytes : t.payloadBytes ≠ 0) :
    imageDecode slot st false m d = takePixels slot st m d t := by
  unfold imageDecode
  dsimp only
  rw [if_neg (by simp [hgoes]), if_neg hinput, hinbox]
  dsimp only
  rw [if_neg hbytes, if_neg (by simp), if_neg (by omega)]

variable (hpixels : pixelFails (imageSt d slot st) t = none) (hsample : u64at t.used 0 < 2 ^ 48)
include hpixels hsample

/-- An image behind a hole flag is a hole (R273, R274). -/
theorem takePixels_hole (hhole : bit (u8at t.used 0x12) 1 = true) : takePixels slot st m d t =
    .next (modImage (modIn d slot st 0 InPort.drop) slot st
      (fun x => { x with ordinal := x.ordinal + 1, window := x.window ++ [{ away := false, src := { sample := u64at t.used 0, hole := some t.used } }] })) := by
  unfold takePixels
  dsimp only
  rw [hpixels]
  dsimp only
  rw [if_neg (by rw [pow2_eq]; omega), if_pos hhole]

/-- The tiles of an image gather; the last makes it whole (R274). -/
theorem takePixels_image {p : SrcImage} (hhole : bit (u8at t.used 0x12) 1 = false)
    (hpart : (imageSt d slot st).part = some p ∨ (imageSt d slot st).part = none ∧
      ∃ r, readRecord m d slot st (imgP (paramSt d slot st)) (u64at t.used 0) = .ok r ∧ p = pixelImage t r) :
    takePixels slot st m d t =
      if bit (u8at t.used 0x12) 0 then
        .next (modImage (modIn d slot st 0 InPort.drop) slot st (fun x => { x with
          part := none, got := 0, ordinal := x.ordinal + 1, window := x.window ++ [{ away := false, src := wholeImage (imgP (paramSt d slot st)) t (p.addPixels t) }] }))
      else .next (modImage (modIn d slot st 0 InPort.drop) slot st (fun x => { x with part := some (p.addPixels t), got := x.got + t.rowCount })) := by
  unfold takePixels
  dsimp only
  rw [hpixels]
  dsimp only
  rw [if_neg (by rw [pow2_eq]; omega), if_neg (by simp [hhole])]
  rcases hpart with hsome | ⟨hnone, r, hrecord, rfl⟩
  · rw [hsome]
    rfl
  · rw [hnone]
    dsimp only
    rw [hrecord]
    rfl

end

/-- An image of a size that a station takes is whole as it gathered. -/
theorem wholeImage_sized {t : Tile} (hw : 0 < u16at t.used 8) (hwmax : u16at t.used 8 ≤ 8192) (hh : 0 < u16at t.used 0x0A) (hhmax : u16at t.used 0x0A ≤ 8192)
    (hbytes : u16at t.used 8 * u16at t.used 0x0A * u8at t.used 0x10 * ((Ty.ofCode (u8at t.used 0x11)).getD .u8).bytes ≤ 0x10000000) (q : ImgP) (i : SrcImage) :
    wholeImage q t i = i := by
  have hsize : sizeBad t = false := by
    simp only [sizeBad, Bool.or_eq_false_iff, decide_eq_false_iff_not]
    omega
  rw [wholeImage, hsize, if_neg Bool.false_ne_true]

/-! ### The warp and the return -/

section
variable {d : Dev} {slot st i : Nat}

/-- The oldest staged image is warped, and what no other image is ahead of leaves (R269 to R273). -/
theorem imageWarp_oldest (hgoes : (getSt d slot st).ended = false) (hfree : outBlocked d slot st = false)
    (hstaged : (imageSt d slot st).window.findIdx? (fun e => !e.away && e.tiles.isNone) = some i) : imageWarp slot st d =
      .next (drainImages slot st ((imageSt d slot st).window.length + 1) (modImage d slot st (fun y => { y with
        window := modifyAt y.window i (fun e => { e with
          tiles := some (imageTiles (getJob d slot).image (imgP (paramSt d slot st)) e.src), src := { sample := e.src.sample } }) }))) := by
  unfold imageWarp
  dsimp only
  rw [if_neg (by simp [hgoes]), if_neg (by simp [hfree]), hstaged]

/-- An image that was away returns to the staging area (R156, R157). -/
theorem imageReturn_returns {unit : Nat} {e : ImgEntry} (hunit : ((imageSt d slot st).window.zipIdx.filter (fun e => e.1.away))[unit]? = some (e, i)) :
    imageReturn slot st unit d = .next (modImage d slot st (fun x => { x with window := modifyAt x.window i (fun e => { e with away := false }) })) := by
  unfold imageReturn
  dsimp only
  rw [hunit]

end

end Sys2Proof.Machine

namespace Sys2Proof

open Sys2Proof.Machine

section
variable {s : State} {slot st : Nat} {d : Dev} (hat : AtStation s slot st (· = .image))
include hat

theorem takes_imageDecode (hnext : imageDecode slot st false s.mem (rowStart s) = .next d) : Takes (.imageDecode slot st) s d :=
  takes_of_onStation hat (imageDecode slot st false) rfl hnext

theorem takes_imageWarp (hnext : imageWarp slot st (rowStart s) = .next d) : Takes (.imageWarp slot st) s d :=
  takes_of_onStation hat (fun _ d => imageWarp slot st d) rfl hnext

end

/-- Settles O39, row by row. -/
theorem imageRows : Obligations.ImageRows := by
  intro s slot st unit hat
  dsimp only
  refine ⟨fun b bs r hgoes hinput hobjs hstaged hwindow hsample hrecord => ?_, fun t ts hgoes hinput hinbox hstaged hbytes hpixels hsample => ?_,
    fun i hgoes hfree hstaged => takes_imageWarp hat (imageWarp_oldest (d := rowStart s) hgoes hfree hstaged),
    fun e i hunit => takes_brambleReturn hat (.inr rfl) ((if_neg (by decide)).trans (imageReturn_returns (d := rowStart s) hunit))⟩
  · have htakes (away cut : Bool) (hcut : (away || jpegDiverts b) = cut) (hroom : cut = true → brambleAway s.dev < 4096) :
        imageDecode slot st away s.mem (rowStart s) = .next (jpegTaken slot st (imgP (paramSt s.dev slot st)) b r cut (rowStart s)) := by
      subst hcut
      exact (imageDecode_jpeg (d := rowStart s) hgoes hinput hobjs hstaged hwindow away).trans (takeJpeg_takes (d := rowStart s) hroom hsample hrecord)
    refine ⟨fun hengine => takes_imageDecode hat (htakes false false hengine (fun h => absurd h (by decide))), fun hroom => ⟨?_, fun hlane => ?_⟩⟩
    · exact takes_brambleDivert hat (.inr rfl) ((if_neg (by decide)).trans (htakes true true rfl (fun _ => hroom)))
    · exact takes_imageDecode hat (htakes false true hlane (fun _ => hroom))
  · have hnext := imageDecode_pixels (d := rowStart s) (m := s.mem) hgoes hinput hinbox hstaged hbytes
    refine ⟨fun hhole => takes_imageDecode hat (hnext.trans (takePixels_hole (d := rowStart s) hpixels hsample hhole)), fun p hhole hpart => ?_⟩
    have himage := hnext.trans (takePixels_image (d := rowStart s) hpixels hsample hhole hpart)
    refine ⟨fun hmore => ?_, fun hlast hw hwmax hh hhmax hsize => ?_⟩
    · rw [hmore] at himage
      exact takes_imageDecode hat himage
    · rw [hlast, wholeImage_sized hw hwmax hh hhmax hsize] at himage
      exact takes_imageDecode hat himage

end Sys2Proof
end

section
/-!
PROOFS. The shale codec gives a block back byte for byte (06 R173 to R178): what the compressor writes is a run of code words that stand for the block's
first CODED_IN bytes, and the decompressor reads any such run back.
-/

namespace Sys2Proof.Machine

open Sys2Proof

/-! ### Code words -/

/-- A match at `p` may copy from `dist` bytes before it (R173, R174): the source lies in the window, and its bytes are those at `p`. -/
structure IsMatch (a : Array Byte) (wlo p len dist : Nat) : Prop where
  back : 1 ≤ dist
  inWindow : wlo + dist ≤ p
  agrees : ∀ j < len, sAt a (p - dist + j) = sAt a (p + j)

/-- Code words that stand for the stream bytes from `bs` up to a position (R173), word behind word. -/
inductive CodesTo (a : Array Byte) (wlo bs : Nat) : Bytes → Nat → Prop
  | nil : CodesTo a wlo bs [] bs
  | lit {code : Bytes} {p n : Nat} (hcode : CodesTo a wlo bs code p) (hpos : 1 ≤ n) (hmax : n ≤ 128) (hsize : p + n ≤ a.size) :
      CodesTo a wlo bs (code ++ putLit a p n) (p + n)
  | copy {code : Bytes} {p len dist : Nat} (hcode : CodesTo a wlo bs code p) (hpos : 4 ≤ len) (hmax : len ≤ 4163) (hfar : dist ≤ 65536)
      (hmatch : IsMatch a wlo p len dist) (hsize : p + len ≤ a.size) : CodesTo a wlo bs (code ++ putMatch len dist) (p + len)

theorem CodesTo.start_le {a : Array Byte} {wlo bs p : Nat} {code : Bytes} (h : CodesTo a wlo bs code p) : bs ≤ p := by
  induction h with
  | nil => exact Nat.le_refl bs
  | lit _ _ _ _ ih => omega
  | copy _ _ _ _ _ _ ih => omega

theorem putLit_length {a : Array Byte} {p n : Nat} (hsize : p + n ≤ a.size) : (putLit a p n).length = n + 1 := by
  simp only [putLit, sBytes, List.length_cons, Array.length_toList, Array.size_extract]
  omega

theorem putMatch_length (len dist : Nat) : (putMatch len dist).length = if len ≤ 67 then 3 else 4 := by
  unfold putMatch
  split <;> simp [le_length]

/-! ### The compressor's search -/

/-- `matchLen` counts at most `n` further bytes, and those it counts agree. -/
theorem matchLen_agrees (a : Array Byte) (q p : Nat) : ∀ n l : Nat,
    matchLen a q p n l ≤ l + n ∧ ∀ j, l ≤ j → j < matchLen a q p n l → sAt a (q + j) = sAt a (p + j)
  | 0, l => ⟨Nat.le_refl l, fun j hl hj => absurd hj (Nat.not_lt.mpr hl)⟩
  | n + 1, l => by
    rw [matchLen]
    split
    case isTrue heq =>
      obtain ⟨hlen, hagree⟩ := matchLen_agrees a q p n (l + 1)
      refine ⟨by omega, fun j hl hj => ?_⟩
      obtain rfl | hlt := Nat.eq_or_lt_of_le hl
      · exact heq
      · exact hagree j hlt hj
    case isFalse => exact ⟨Nat.le_add_right _ _, fun j hl hj => absurd hj (Nat.not_lt.mpr hl)⟩

/-- What the search of R175 may hold: no bytes, or a match inside the block. -/
def FoundMatch (a : Array Byte) (wlo pos endp len dist : Nat) : Prop := 0 < len → IsMatch a wlo pos len dist ∧ pos + len ≤ endp

/-- The candidate at `q` is a match of the length counted at it. -/
theorem found_matchLen {a : Array Byte} {wlo pos endp q : Nat} (hwlo : wlo ≤ q) (hq : q < pos) :
    FoundMatch a wlo pos endp (matchLen a q pos (endp - pos) 0) (pos - q) := by
  obtain ⟨hlen, hagree⟩ := matchLen_agrees a q pos (endp - pos) 0
  refine fun hsome => ⟨⟨by omega, by omega, fun j hj => ?_⟩, by omega⟩
  rw [Nat.sub_sub_self (Nat.le_of_lt hq)]
  exact hagree j (Nat.zero_le j) hj

/-- A candidate of another hash is passed over. -/
theorem bestMatch_other {a : Array Byte} {pos endp wlo h k c len dist : Nat} (hc : c ≠ 0) (hhash : h4 a (wlo + k) ≠ h) :
    bestMatch a pos endp wlo h (k + 1) c len dist = bestMatch a pos endp wlo h k c len dist := by
  rw [bestMatch, if_neg hc]
  exact if_pos hhash

/-- A candidate of the same hash counts, and is kept where its match is longer. -/
theorem bestMatch_same {a : Array Byte} {pos endp wlo h k c len dist : Nat} (hc : c ≠ 0) (hhash : h4 a (wlo + k) = h) :
    bestMatch a pos endp wlo h (k + 1) c len dist = if len < matchLen a (wlo + k) pos (endp - pos) 0
      then bestMatch a pos endp wlo h k (c - 1) (matchLen a (wlo + k) pos (endp - pos) 0) (pos - (wlo + k))
      else bestMatch a pos endp wlo h k (c - 1) len dist := by
  rw [bestMatch, if_neg hc]
  exact if_neg (not_not.mpr hhash)

/-- What the search answers is a match. -/
theorem bestMatch_found (a : Array Byte) (pos endp wlo h k : Nat) (hk : wlo + k ≤ pos ∨ k = 0) : ∀ c len dist : Nat, FoundMatch a wlo pos endp len dist →
    FoundMatch a wlo pos endp (bestMatch a pos endp wlo h k c len dist).1 (bestMatch a pos endp wlo h k c len dist).2 := by
  induction k with
  | zero => exact fun _ _ _ hfound => hfound
  | succ k ih =>
    intro c len dist hfound
    have ih := ih (by omega)
    by_cases hc : c = 0
    · rw [bestMatch, if_pos hc]
      exact hfound
    by_cases hhash : h4 a (wlo + k) = h
    · rw [bestMatch_same hc hhash]
      split
      · exact ih (c - 1) _ _ (found_matchLen (by omega) (by omega))
      · exact ih (c - 1) len dist hfound
    · rw [bestMatch_other hc hhash]
      exact ih c len dist hfound

/-! ### The compressor's loop -/

/-- The match that the loop of R175 takes at a position: none where fewer than four bytes are left. -/
def matchAt (a : Array Byte) (endp wlo c pos : Nat) : Nat × Nat :=
  if 4 ≤ endp - pos then bestMatch a pos endp wlo (h4 a pos) (pos - wlo) c 0 0 else (0, 0)

theorem matchAt_found (a : Array Byte) (endp wlo c pos : Nat) : FoundMatch a wlo pos endp (matchAt a endp wlo c pos).1 (matchAt a endp wlo c pos).2 := by
  have hnone (dist : Nat) : FoundMatch a wlo pos endp 0 dist := fun h => absurd h (Nat.lt_irrefl 0)
  unfold matchAt
  split
  · exact bestMatch_found a pos endp wlo _ _ (by omega) c 0 0 (hnone 0)
  · exact hnone 0

section
variable {a : Array Byte} {endp wlo bs c cap : Nat}

/-- The code area holds code words for the block's bytes up to `ls`. -/
structure CodeArea (a : Array Byte) (endp wlo bs cap : Nat) (code : Bytes) (ls : Nat) : Prop where
  coded : CodesTo a wlo bs code ls
  fits : code.length ≤ cap
  inBlock : ls ≤ endp

/-- A literal run that fits is added. -/
theorem CodeArea.lit {code : Bytes} {ls n : Nat} (h : CodeArea a endp wlo bs cap code ls) (hpos : 1 ≤ n) (hmax : n ≤ 128) (hend : ls + n ≤ endp) (hsize : endp ≤ a.size)
    (hfits : code.length + (n + 1) ≤ cap) : CodeArea a endp wlo bs cap (code ++ putLit a ls n) (ls + n) :=
  ⟨h.coded.lit hpos hmax (by omega), by rwa [List.length_append, putLit_length (by omega)], hend⟩

/-- The bytes not yet coded before a match go out as a literal run. -/
theorem CodeArea.flush {code : Bytes} {ls pos : Nat} (h : CodeArea a endp wlo bs cap code ls) (hls : ls ≤ pos) (hrun : pos < ls + 128) (hend : pos ≤ endp) (hsize : endp ≤ a.size)
    (hfits : ¬ (ls < pos ∧ cap < code.length + (pos - ls) + 1)) :
    CodeArea a endp wlo bs cap (if ls < pos then code ++ putLit a ls (pos - ls) else code) pos := by
  split
  case isTrue hlt =>
    have hlit := h.lit (n := pos - ls) (by omega) (by omega) (by omega) hsize (by omega)
    rwa [Nat.add_sub_cancel' hls] at hlit
  case isFalse hge => rwa [← Nat.le_antisymm hls (Nat.not_lt.mp hge)]

/-- A match that fits is added: a block's length and its window bound what the word must carry (R174). -/
theorem CodeArea.copy {code : Bytes} {pos len dist : Nat} (h : CodeArea a endp wlo bs cap code pos) (hfound : FoundMatch a wlo pos endp len dist) (hpos : 4 ≤ len)
    (hblock : endp ≤ bs + 4096) (hwindow : endp ≤ wlo + 65536) (hsize : endp ≤ a.size) (hfits : code.length + (if len ≤ 67 then 3 else 4) ≤ cap) :
    CodeArea a endp wlo bs cap (code ++ putMatch len dist) (pos + len) := by
  obtain ⟨hmatch, hend⟩ := hfound (by omega)
  have hstart := h.coded.start_le
  have hin := hmatch.inWindow
  exact ⟨h.coded.copy hpos (by omega) (by omega) hmatch (by omega), by rwa [List.length_append, putMatch_length], hend⟩

/-- What the loop of R175 leaves (code, position, first byte not coded, cut): a code area, and, where no word was turned away, less than a literal run left over. -/
def LoopEnds (a : Array Byte) (endp wlo bs cap : Nat) (r : Bytes × Nat × Nat × Bool) : Prop :=
  CodeArea a endp wlo bs cap r.1 r.2.2.1 ∧ (r.2.2.2 = false → endp < r.2.2.1 + 128)

theorem encodeLoop_ends (hblock : endp ≤ bs + 4096) (hwindow : endp ≤ wlo + 65536) (hsize : endp ≤ a.size) : ∀ (fuel : Nat) (code : Bytes) (pos ls : Nat),
    CodeArea a endp wlo bs cap code ls → ls ≤ pos → pos < ls + 128 → pos ≤ endp → endp ≤ pos + fuel →
    LoopEnds a endp wlo bs cap (encodeLoop a endp wlo c cap fuel code pos ls)
  | 0, code, pos, ls, h, _, hrun, _, hfuel => ⟨h, fun _ => by simp only [encodeLoop]; omega⟩
  | fuel + 1, code, pos, ls, h, hls, hrun, hend, hfuel => by
    rw [encodeLoop, ← matchAt]
    have hfound := matchAt_found a endp wlo c pos
    split
    · exact ⟨h, fun _ => by dsimp only; omega⟩
    dsimp only
    generalize matchAt a endp wlo c pos = m at hfound ⊢
    split
    case isTrue hlen =>
      split
      · exact ⟨h, nofun⟩
      case isFalse hroom =>
        have hflush := h.flush hls hrun hend hsize hroom
        generalize (if ls < pos then code ++ putLit a ls (pos - ls) else code) = flushed at hflush ⊢
        generalize hword : (if m.1 ≤ 67 then 3 else 4) = size
        split
        · exact ⟨hflush, nofun⟩
        case isFalse hfits =>
          have hcopy := hflush.copy hfound hlen hblock hwindow hsize (by omega)
          exact encodeLoop_ends hblock hwindow hsize fuel _ _ _ hcopy (Nat.le_refl _) (by omega) hcopy.inBlock (by omega)
    case isFalse =>
      split
      case isTrue hfull =>
        split
        · exact ⟨h, nofun⟩
        case isFalse hfits =>
          have hlit := h.lit (n := 128) (by decide) (by decide) (by omega) hsize (by omega)
          rw [show ls + 128 = pos + 1 by omega] at hlit
          exact encodeLoop_ends hblock hwindow hsize fuel _ _ _ hlit (Nat.le_refl _) (by omega) (by omega) (by omega)
      case isFalse => exact encodeLoop_ends hblock hwindow hsize fuel _ _ _ h (by omega) (by omega) (by omega) (by omega)

end

/-- encode_block (R175) fills its code area with code words for the first CODED_IN bytes of the block. -/
theorem encodeBlock_codeArea {a : Array Byte} {bs n wlo : Nat} (c cap : Nat) (hn : n ≤ 4096) (hwindow : bs + n ≤ wlo + 65536) (hsize : bs + n ≤ a.size) :
    CodeArea a (bs + n) wlo bs cap (encodeBlock a bs n wlo c cap).1 (bs + (encodeBlock a bs n wlo c cap).2) := by
  obtain ⟨hloop, hleft⟩ := encodeLoop_ends (c := c) (cap := cap) (Nat.add_le_add_left hn bs) hwindow hsize (n + 1) [] bs bs
    ⟨.nil, Nat.zero_le cap, Nat.le_add_right bs n⟩ (Nat.le_refl bs) (by omega) (by omega) (by omega)
  unfold encodeBlock
  generalize encodeLoop a (bs + n) wlo c cap (n + 1) [] bs bs = r at hloop hleft ⊢
  obtain ⟨code, pos, ls, cut⟩ := r
  dsimp only at hloop hleft ⊢
  split
  case isTrue hlast =>
    simp only [Bool.and_eq_true, Bool.not_eq_true', decide_eq_true_eq] at hlast
    obtain ⟨⟨hcut, hsome⟩, hfits⟩ := hlast
    have hlit := hloop.lit (n := bs + n - ls) (by omega) (by have := hleft hcut; omega) (by omega) hsize (by omega)
    rwa [Nat.add_sub_cancel' hloop.inBlock] at hlit
  case isFalse => rwa [Nat.add_sub_cancel' hloop.coded.start_le]

/-! ### Reading code words -/

theorem byteOf_toNat {v : Nat} (hv : v < 256) : (byteOf v).toNat = v := Nat.mod_eq_of_lt hv

/-- A byte that stands behind others. -/
theorem u8at_behind {code pre rest : Bytes} {v off : Nat} (hcode : code = pre ++ byteOf v :: rest) (hoff : off = pre.length) (hv : v < 256) : u8at code off = v := by
  subst hcode hoff
  rw [u8at_append_right _ (Nat.le_refl _), Nat.sub_self]
  exact byteOf_toNat hv

/-- A field of two bytes that stands behind others. -/
theorem u16at_behind {code pre rest : Bytes} {v off : Nat} (hcode : code = pre ++ (le 2 v ++ rest)) (hoff : off = pre.length) (hv : v < 65536) : u16at code off = v := by
  subst hcode hoff
  rw [u16at, uat, slice_append_right _ _ (Nat.le_refl _), Nat.sub_self]
  exact uat_le_append 2 v rest hv

theorem sAt_inj {a : Array Byte} {p q : Nat} (h : sAt a p = sAt a q) : a.getD p 0 = a.getD q 0 := BitVec.eq_of_toNat_eq h

/-- One more byte of the stream. -/
theorem extract_push_getD {a : Array Byte} {p : Nat} (h : p < a.size) : (a.extract 0 p).push (a.getD p 0) = a.extract 0 (p + 1) := by
  rw [show a.getD p 0 = a[p] by simp [h], Array.push_extract_getElem h, Nat.zero_min]

/-- A byte of the stream before the position the history reaches to. -/
theorem extract_getD {a : Array Byte} {p q : Nat} (h : q < p) (hp : p ≤ a.size) : (a.extract 0 p).getD q 0 = a.getD q 0 := by
  have hq : q < a.size := Nat.lt_of_lt_of_le h hp
  simp [h, hq]

theorem sBytes_getD {a : Array Byte} {p n j : Nat} (hj : j < n) (hsize : p + n ≤ a.size) (rest : Bytes) : (sBytes a p n ++ rest).getD j 0 = a.getD (p + j) 0 := by
  have hin : p + j < a.size := by omega
  have hlen : j < (sBytes a p n).length := by simp [sBytes]; omega
  rw [List.getD_append _ _ _ _ hlen]
  simp [sBytes, hin, hj]

/-! ### The decompressor -/

section
variable {a : Array Byte} {code : Bytes} {ci bs wlo : Nat}

/-- Nothing is left to decode, and every code word was read (R178). -/
theorem decodeCodes_done {fuel room dist done : Nat} {hist : Array Byte} (hdone : ci ≤ done) :
    decodeCodes code ci bs wlo 0 (fuel + 1) ⟨code.length, done, 0, 0, dist⟩ room hist = (⟨code.length, done, 0, 0, dist⟩, hist, .codesDone) := by
  rw [decodeCodes, if_pos ⟨hdone, rfl, rfl⟩, if_neg (not_not.mpr rfl)]

/-- A byte of a literal run. -/
theorem decodeCodes_litByte {fuel room n cpos done dist : Nat} (hbyte : code.getD cpos 0 = a.getD (bs + done) 0) (hsize : bs + done < a.size) :
    decodeCodes code ci bs wlo 0 (fuel + 1) ⟨cpos, done, n + 1, 0, dist⟩ (room + 1) (a.extract 0 (bs + done)) =
      decodeCodes code ci bs wlo 0 fuel ⟨cpos + 1, done + 1, n, 0, dist⟩ room (a.extract 0 (bs + (done + 1))) := by
  rw [decodeCodes, if_neg (by simp), if_pos (by simp), if_neg (by omega), if_pos (by simp)]
  dsimp only
  rw [hbyte, extract_push_getD hsize]
  rfl

/-- A byte of a match: it may be one that the match itself delivered (R173). -/
theorem decodeCodes_copyByte {fuel room n cpos done dist : Nat} (hback : 1 ≤ dist) (hin : dist ≤ bs + done) (hbyte : sAt a (bs + done - dist) = sAt a (bs + done))
    (hsize : bs + done < a.size) : decodeCodes code ci bs wlo 0 (fuel + 1) ⟨cpos, done, 0, n + 1, dist⟩ (room + 1) (a.extract 0 (bs + done)) =
      decodeCodes code ci bs wlo 0 fuel ⟨cpos, done + 1, 0, n, dist⟩ room (a.extract 0 (bs + (done + 1))) := by
  rw [decodeCodes, if_neg (by simp), if_pos (by simp), if_neg (by omega), if_neg (by simp)]
  dsimp only
  rw [Nat.sub_zero, extract_getD (by omega) (Nat.le_of_lt hsize), sAt_inj hbyte, extract_push_getD hsize]
  rfl

/-- A literal run in progress delivers its bytes. -/
theorem decodeCodes_litRun {dist : Nat} (fuel room : Nat) : ∀ n cpos done : Nat, (∀ j < n, code.getD (cpos + j) 0 = a.getD (bs + done + j) 0) → bs + done + n ≤ a.size →
    decodeCodes code ci bs wlo 0 (fuel + n) ⟨cpos, done, n, 0, dist⟩ (room + n) (a.extract 0 (bs + done)) =
      decodeCodes code ci bs wlo 0 fuel ⟨cpos + n, done + n, 0, 0, dist⟩ room (a.extract 0 (bs + (done + n)))
  | 0, _, _, _, _ => rfl
  | n + 1, cpos, done, hbytes, hsize => by
    have hnext (j : Nat) (hj : j < n) : code.getD (cpos + 1 + j) 0 = a.getD (bs + (done + 1) + j) 0 := by
      rw [Nat.add_right_comm cpos, ← Nat.add_assoc bs, Nat.add_right_comm (bs + done)]
      exact hbytes (j + 1) (by omega)
    rw [← Nat.add_assoc, ← Nat.add_assoc, decodeCodes_litByte (cpos := cpos) (done := done) (hbytes 0 (by omega)) (by omega), decodeCodes_litRun fuel room n _ _ hnext (by omega),
      Nat.add_right_comm cpos, Nat.add_right_comm done]
    rfl

/-- A match in progress delivers its bytes. -/
theorem decodeCodes_copyRun {cpos dist : Nat} (fuel room : Nat) (hback : 1 ≤ dist) : ∀ n done : Nat, dist ≤ bs + done →
    (∀ j < n, sAt a (bs + done - dist + j) = sAt a (bs + done + j)) → bs + done + n ≤ a.size →
    decodeCodes code ci bs wlo 0 (fuel + n) ⟨cpos, done, 0, n, dist⟩ (room + n) (a.extract 0 (bs + done)) =
      decodeCodes code ci bs wlo 0 fuel ⟨cpos, done + n, 0, 0, dist⟩ room (a.extract 0 (bs + (done + n)))
  | 0, _, _, _, _ => rfl
  | n + 1, done, hin, hagree, hsize => by
    have hnext (j : Nat) (hj : j < n) : sAt a (bs + (done + 1) - dist + j) = sAt a (bs + (done + 1) + j) := by
      rw [← Nat.add_assoc bs, Nat.add_right_comm (bs + done), Nat.sub_add_comm hin, Nat.add_right_comm (bs + done - dist)]
      exact hagree (j + 1) (by omega)
    rw [← Nat.add_assoc, ← Nat.add_assoc, decodeCodes_copyByte hback hin (hagree 0 (by omega)) (by omega), decodeCodes_copyRun fuel room hback n _ (by omega) hnext (by omega),
      Nat.add_right_comm done]
    rfl

/-- The first byte of a literal run begins it (R173). -/
theorem decodeCodes_litWord {fuel room done dist n cpos : Nat} {hist : Array Byte} (hop : u8at code cpos + 1 = n) (hmax : n ≤ 128) (hcode : cpos + (n + 1) ≤ code.length)
    (hci : done + n ≤ ci) : decodeCodes code ci bs wlo 0 (fuel + 1) ⟨cpos, done, 0, 0, dist⟩ room hist = decodeCodes code ci bs wlo 0 fuel ⟨cpos + 1, done, n, 0, dist⟩ room hist := by
  subst hop
  have hlit : u8at code cpos < 0x80 := by omega
  rw [decodeCodes]
  dsimp only
  rw [if_neg (by omega), if_neg (by simp), if_neg (by omega), if_neg (by omega)]
  simp only [if_pos hlit]
  rw [if_neg (by omega), if_neg (by omega)]

/-- What the decompressor reads of a match word at a position (R173): its size, its length and its distance. -/
structure ReadsMatch (code : Bytes) (cpos size len dist : Nat) : Prop where
  low : 0x80 ≤ u8at code cpos
  high : u8at code cpos < 0xD0
  size_eq : size = if u8at code cpos < 0xC0 then 3 else 4
  len_eq : len = if u8at code cpos < 0xC0 then u8at code cpos % 64 + 4 else u8at code cpos % 16 * 256 + u8at code (cpos + 1) + 68
  dist_eq : dist = u16at code (cpos + size - 2) + 1
  whole : cpos + size ≤ code.length

/-- A match word begins its copy. -/
theorem decodeCodes_copyWord {fuel room done dist dist' size len cpos : Nat} {hist : Array Byte} (hword : ReadsMatch code cpos size len dist) (hpos : 1 ≤ len)
    (hci : done + len ≤ ci) (hwindow : wlo + dist ≤ bs + done) : decodeCodes code ci bs wlo 0 (fuel + 1) ⟨cpos, done, 0, 0, dist'⟩ room hist =
      decodeCodes code ci bs wlo 0 fuel ⟨cpos + size, done, 0, len, dist⟩ room hist := by
  obtain ⟨hlow, hhigh, hsize, hlen, hdist, hwhole⟩ := hword
  have hcopy : ¬ u8at code cpos < 0x80 := Nat.not_lt.mpr hlow
  have hsome : 3 ≤ size := by rw [hsize]; split <;> decide
  rw [decodeCodes]
  dsimp only
  rw [if_neg (by omega), if_neg (by simp), if_neg (by omega), if_neg (by omega)]
  simp only [if_neg hcopy]
  rw [← hsize, ← hlen, ← hdist, if_neg (by omega), if_neg (by omega), if_neg (by omega)]

end

/-- The decompressor reads the length and the distance that a match word was written with. -/
theorem readsMatch_putMatch (pre rest : Bytes) {len dist : Nat} (hpos : 4 ≤ len) (hmax : len ≤ 4163) (hback : 1 ≤ dist) (hfar : dist ≤ 65536) :
    ReadsMatch (pre ++ (putMatch len dist ++ rest)) pre.length (putMatch len dist).length len dist := by
  have hdist : dist - 1 < 65536 := by omega
  have hwhole : pre.length + (putMatch len dist).length ≤ (pre ++ (putMatch len dist ++ rest)).length := by simp only [List.length_append]; omega
  have hsize := putMatch_length len dist
  generalize hcode : pre ++ (putMatch len dist ++ rest) = code at hwhole ⊢
  unfold putMatch at hcode
  split at hcode
  case isTrue hshort =>
    rw [if_pos hshort] at hsize
    have hop : u8at code pre.length = 0x80 + (len - 4) := u8at_behind hcode.symm rfl (by omega)
    have hat : u16at code (pre.length + 3 - 2) = dist - 1 := u16at_behind (pre := pre ++ [byteOf (0x80 + (len - 4))]) (rest := rest) (by simp [← hcode]) (by simp) hdist
    have hsmall : u8at code pre.length < 0xC0 := by omega
    exact ⟨by omega, by omega, by rw [hsize, if_pos hsmall], by rw [if_pos hsmall]; omega, by rw [hsize, hat]; omega, hwhole⟩
  case isFalse hlong =>
    rw [if_neg hlong] at hsize
    have hop : u8at code pre.length = 0xC0 + (len - 68) / 256 := u8at_behind hcode.symm rfl (by omega)
    have hlow : u8at code (pre.length + 1) = (len - 68) % 256 :=
      u8at_behind (pre := pre ++ [byteOf (0xC0 + (len - 68) / 256)]) (rest := le 2 (dist - 1) ++ rest) (by simp [← hcode]) (by simp) (by omega)
    have hat : u16at code (pre.length + 4 - 2) = dist - 1 :=
      u16at_behind (pre := pre ++ [byteOf (0xC0 + (len - 68) / 256), byteOf ((len - 68) % 256)]) (rest := rest) (by simp [← hcode]) (by simp) hdist
    have hbig : ¬ u8at code pre.length < 0xC0 := by omega
    exact ⟨by omega, by omega, by rw [hsize, if_neg hbig], by rw [if_neg hbig, hop, hlow]; omega, by rw [hsize, hat]; omega, hwhole⟩

/-! ### Code words read back -/

/-- The decompressor reads a literal run back (R173, R178). -/
theorem decodeCodes_putLit {a : Array Byte} {ci bs wlo n done dist : Nat} (fuel room : Nat) (pre rest : Bytes) (hpos : 1 ≤ n) (hmax : n ≤ 128)
    (hsize : bs + done + n ≤ a.size) (hci : done + n ≤ ci) :
    decodeCodes (pre ++ (putLit a (bs + done) n ++ rest)) ci bs wlo 0 (fuel + n + 1) ⟨pre.length, done, 0, 0, dist⟩ (room + n) (a.extract 0 (bs + done)) =
      decodeCodes (pre ++ (putLit a (bs + done) n ++ rest)) ci bs wlo 0 fuel ⟨(pre ++ putLit a (bs + done) n).length, done + n, 0, 0, dist⟩ room
        (a.extract 0 (bs + (done + n))) := by
  have hlen := putLit_length hsize
  have hop : u8at (pre ++ (putLit a (bs + done) n ++ rest)) pre.length = n - 1 :=
    u8at_behind (rest := sBytes a (bs + done) n ++ rest) rfl rfl (by omega)
  have hbytes (j : Nat) (hj : j < n) : (pre ++ (putLit a (bs + done) n ++ rest)).getD (pre.length + 1 + j) 0 = a.getD (bs + done + j) 0 := by
    rw [← sBytes_getD hj hsize rest, Nat.add_assoc, List.getD_append_right _ _ _ _ (Nat.le_add_right _ _), Nat.add_sub_cancel_left, Nat.add_comm 1 j]
    rfl
  rw [decodeCodes_litWord (by rw [hop, Nat.sub_add_cancel hpos]) hmax (by simp only [List.length_append, hlen]; omega) hci, decodeCodes_litRun fuel room n _ _ hbytes hsize,
    List.length_append, hlen, Nat.add_assoc, Nat.add_comm 1]

/-- The decompressor reads a match back (R173, R178). -/
theorem decodeCodes_putMatch {a : Array Byte} {ci bs wlo len dist done dist' : Nat} (fuel room : Nat) (pre rest : Bytes) (hpos : 4 ≤ len) (hmax : len ≤ 4163)
    (hfar : dist ≤ 65536) (hmatch : IsMatch a wlo (bs + done) len dist) (hsize : bs + done + len ≤ a.size) (hci : done + len ≤ ci) :
    decodeCodes (pre ++ (putMatch len dist ++ rest)) ci bs wlo 0 (fuel + len + 1) ⟨pre.length, done, 0, 0, dist'⟩ (room + len) (a.extract 0 (bs + done)) =
      decodeCodes (pre ++ (putMatch len dist ++ rest)) ci bs wlo 0 fuel ⟨(pre ++ putMatch len dist).length, done + len, 0, 0, dist⟩ room
        (a.extract 0 (bs + (done + len))) := by
  obtain ⟨hback, hin, hagree⟩ := hmatch
  rw [decodeCodes_copyWord (readsMatch_putMatch pre rest hpos hmax hback hfar) (by omega) hci hin,
    decodeCodes_copyRun fuel room hback len done (by omega) hagree hsize, List.length_append]

/-- The decompressor reads code words back, whatever stands behind them: it delivers the bytes that they stand for, and takes at most two steps for each. -/
theorem CodesTo.decodes {a : Array Byte} {bs wlo p : Nat} {code : Bytes} (h : CodesTo a wlo bs code p) : ∀ {ci done : Nat}, p = bs + done → done ≤ ci →
    ∀ (rest : Bytes) (fuel room : Nat), ∃ fuel' dist, fuel ≤ fuel' ∧
      decodeCodes (code ++ rest) ci bs wlo 0 (fuel + 2 * done) {} (room + done) (a.extract 0 bs) =
        decodeCodes (code ++ rest) ci bs wlo 0 fuel' ⟨code.length, done, 0, 0, dist⟩ room (a.extract 0 (bs + done)) := by
  induction h with
  | nil =>
    intro ci done hp _ rest fuel room
    obtain rfl : done = 0 := by omega
    exact ⟨fuel, 0, Nat.le_refl fuel, rfl⟩
  | @lit code p n hcode hpos hmax hsize ih =>
    intro ci all hp hci rest fuel room
    obtain ⟨done, rfl⟩ := Nat.exists_eq_add_of_le hcode.start_le
    obtain rfl : all = done + n := by omega
    obtain ⟨fuel', dist, hfuel, hdecode⟩ := ih (ci := ci) (done := done) rfl (by omega) (putLit a (bs + done) n ++ rest) (fuel + 2 * n) (room + n)
    obtain ⟨m, rfl⟩ := Nat.exists_eq_add_of_le' (show n + 1 ≤ fuel' by omega)
    refine ⟨m, dist, by omega, ?_⟩
    rw [List.append_assoc, ← decodeCodes_putLit m room code rest hpos hmax hsize hci, show fuel + 2 * (done + n) = fuel + 2 * n + 2 * done by omega,
      show room + (done + n) = room + n + done by omega, hdecode, Nat.add_assoc m]
  | @copy code p len dist hcode hpos hmax hfar hmatch hsize ih =>
    intro ci all hp hci rest fuel room
    obtain ⟨done, rfl⟩ := Nat.exists_eq_add_of_le hcode.start_le
    obtain rfl : all = done + len := by omega
    obtain ⟨fuel', dist', hfuel, hdecode⟩ := ih (ci := ci) (done := done) rfl (by omega) (putMatch len dist ++ rest) (fuel + 2 * len) (room + len)
    obtain ⟨m, rfl⟩ := Nat.exists_eq_add_of_le' (show len + 1 ≤ fuel' by omega)
    refine ⟨m, dist, by omega, ?_⟩
    rw [List.append_assoc, ← decodeCodes_putMatch (dist' := dist') m room code rest hpos hmax hfar hmatch hsize hci,
      show fuel + 2 * (done + len) = fuel + 2 * len + 2 * done by omega, show room + (done + len) = room + len + done by omega, hdecode, Nat.add_assoc m]

/-- Code words decode with nothing behind them to all the bytes that they stand for. -/
theorem CodesTo.decodes_all {a : Array Byte} {bs wlo ci : Nat} {code : Bytes} (h : CodesTo a wlo bs code (bs + ci)) {fuel room : Nat} (hfuel : 2 * ci < fuel)
    (hroom : ci ≤ room) : ∃ dist, decodeCodes code ci bs wlo 0 fuel {} room (a.extract 0 bs) = (⟨code.length, ci, 0, 0, dist⟩, a.extract 0 (bs + ci), .codesDone) := by
  obtain ⟨fuel, rfl⟩ := Nat.exists_eq_add_of_le' hfuel
  obtain ⟨room, rfl⟩ := Nat.exists_eq_add_of_le' hroom
  obtain ⟨fuel', dist, hleft, hdecode⟩ := h.decodes rfl (Nat.le_refl ci) [] (fuel + 1) room
  obtain ⟨m, rfl⟩ := Nat.exists_eq_add_of_le' (show 1 ≤ fuel' by omega)
  rw [List.append_nil, decodeCodes_done (Nat.le_refl ci)] at hdecode
  exact ⟨dist, by rw [← hdecode, Nat.add_assoc, Nat.add_comm 1]⟩

/-! ### Blocks of a stream -/

/-- A block lies in the 64 KiB of its window (R174). -/
theorem block_le_windowAt (restart i : Nat) {n : Nat} (hn : n ≤ 4096) : 4096 * i + n ≤ windowAt restart i + 65536 := by
  unfold windowAt
  omega

/-- The slot's code area holds code words for the first CODED_IN bytes of the block (R169, R175). -/
theorem codeBlock_codeArea {a : Array Byte} (restart level ratio : Nat) {i n : Nat} (hn : n ≤ 4096) (hsize : 4096 * i + n ≤ a.size) :
    CodeArea a (4096 * i + n) (windowAt restart i) (4096 * i) (slotBytes ratio - 24) (codeBlock a 0 restart level ratio i n).1
      (4096 * i + (codeBlock a 0 restart level ratio i n).2) := by
  unfold codeBlock
  rw [Nat.sub_zero, Nat.sub_zero, Nat.max_zero]
  exact encodeBlock_codeArea _ _ hn (block_le_windowAt restart i hn) hsize

end Sys2Proof.Machine

namespace Sys2Proof

open Sys2Proof.Machine

/-- Settles O34: the slot holds code words for the block's first bytes, and the decompressor reads such code words back. -/
theorem shaleBlockRoundTrip : Obligations.ShaleBlockRoundTrip := by
  intro a restart level ratio i n room _ _ _ hn hsize
  dsimp only
  intro hroom
  obtain ⟨hcoded, hfits, hblock⟩ := codeBlock_codeArea restart level ratio hn hsize
  obtain ⟨dist, hdecode⟩ := hcoded.decodes_all (fuel := 4 * 4096 + 8) (by omega) hroom
  exact ⟨by omega, hfits, _, hdecode, rfl, rfl⟩

end Sys2Proof
end

section
/-!
PROOFS. The rows of shale stations (06 R168, R175, R178, R181, R182): blocks to code, stops, blocks to decode.
-/

namespace Sys2Proof.Machine

open Sys2Proof

section
variable {d : Dev} {slot st : Nat}

/-- The block that is ready is coded (R175). -/
theorem shaleEncode_ready (hgoes : (getSt d slot st).ended = false) (hstop : (shaleSt d slot st).stop = 0) (hready : blockReady (shaleSt d slot st) = true) :
    shaleEncode slot st d = .next (encodeStep slot st d) := by
  unfold shaleEncode
  dsimp only
  rw [if_neg (by simp [hgoes])]
  exact if_pos ⟨hstop, hready⟩

/-- While no block is ready, the compressor still takes bytes in. -/
theorem shaleRoom_pos {x : ShaleSt} (hready : blockReady x = false) : 0 < shaleRoom x := by
  have hfew : x.received < 4096 * (x.block + 1) := by
    unfold blockReady at hready
    obtain ⟨hwhole, _⟩ := Bool.or_eq_false_iff.mp hready
    exact Nat.not_le.mp (of_decide_eq_false hwhole)
  unfold shaleRoom
  split <;> omega

/-- The compressor's stream after it took the next bytes of the tile in hand: no more than the block in progress still needs (R168, R186). -/
def shaleTaken (slot st : Nat) (d : Dev) (t : Tile) : Dev :=
  let i := getIn d slot st 0
  let n := min (shaleRoom (shaleSt d slot st)) (4160 - i.pos)
  let whole := decide (4160 ≤ i.pos + n)
  modShale (modIn d slot st 0 (fun p => if whole then p.drop else { p with pos := p.pos + n })) slot st
    (fun y => { y with bytes := y.bytes ++ (t.bytes.drop i.pos).take n, received := y.received + n, closed := t.eos && whole })

/-- Where no block is ready, bytes of the tile in hand go into the stream first. -/
theorem shaleEncode_takes {t : Tile} {r : List Tile} (hgoes : (getSt d slot st).ended = false) (hready : blockReady (shaleSt d slot st) = false)
    (hinbox : (getIn d slot st 0).inbox = t :: r) (hpos : (getIn d slot st 0).pos < 4160) :
    shaleEncode slot st d = .next (encodeStep slot st (shaleTaken slot st d t)) := by
  have hroom := shaleRoom_pos hready
  unfold shaleEncode
  dsimp only
  rw [if_neg (by simp [hgoes]), if_neg (by simp [hready]), hinbox]
  exact if_neg (by omega)

theorem slotHeld_eq_false {q : ShaleP} {x : ShaleSt} (hfree : ∀ b ∈ x.blocks, b.index + q.slots ≠ x.block) : slotHeld q x = false := by
  simpa [slotHeld] using hfree

/-- Stopped for want of a slot, the compressor goes on when no block holds it (R181). -/
theorem shaleCompressorResume_slot (hstop : (shaleSt d slot st).stop = 1)
    (hfree : ∀ b ∈ (shaleSt d slot st).blocks, b.index + (shaleP (paramSt d slot st)).slots ≠ (shaleSt d slot st).block) :
    shaleCompressorResume slot st d = .next (encodeStep slot st (modShale d slot st (fun y => { y with stop := 0 }))) := by
  unfold shaleCompressorResume
  dsimp only
  rw [hstop]
  exact if_neg (by simp [slotHeld_eq_false hfree])

/-- Stopped for want of granules, it finishes the block in hand when its extent is free (R181). -/
theorem shaleCompressorResume_granules {b : ShaleBlock} (hstop : (shaleSt d slot st).stop = 2) (hhalf : (shaleSt d slot st).half = some b)
    (hfree : extentFree (shaleSt d slot st) (shaleP (paramSt d slot st)).granules b = true) : shaleCompressorResume slot st d =
      .next (closeBlock slot st d b (placeExtent (shaleSt d slot st).poolHead (ceilDiv b.ovf.length 64) (shaleP (paramSt d slot st)).granules).2.2) := by
  unfold shaleCompressorResume
  dsimp only
  rw [hstop, hhalf]
  exact if_pos hfree

/-- The decompressor runs on its next block (R178). -/
theorem shaleDecode_runs {b : ShaleBlock} (hblock : b ∈ (shaleSt d slot st).blocks) (hfull : (shaleSt d slot st).full = false) (hindex : b.index = (shaleSt d slot st).dblock) :
    shaleDecode slot st d = .next (decodeStep slot st d) := by
  have hfound : ((shaleSt d slot st).blocks.find? (fun b => b.index == (shaleSt d slot st).dblock)).isNone = false := by
    rw [← Bool.not_eq_true, Option.isNone_iff_eq_none, List.find?_eq_none]
    exact fun hnone => hnone b hblock (beq_iff_eq.mpr hindex)
  exact if_neg (by simp [hfull, hfound])

/-- Out of a full buffer, it goes on when the output queue takes more bytes than it has in hand (R182). -/
theorem shaleDecompressorResume_goes (hfull : (shaleSt d slot st).full = true)
    (hroom : (shaleSt d slot st).out.length < 4160 * freeSlots d slot (outQueueNo (getJob d slot) st 0)) :
    shaleDecompressorResume slot st d = .next (decodeStep slot st (modShale d slot st (fun y => { y with full := false }))) := by
  unfold shaleDecompressorResume
  dsimp only
  rw [if_neg (by simp [hfull])]
  exact if_neg (by omega)

end

end Sys2Proof.Machine

namespace Sys2Proof

open Sys2Proof.Machine

section
variable {s : State} {slot st : Nat} {d : Dev} (hat : AtStation s slot st (· = .shale))
include hat

theorem takes_shaleEncodeBlock (hnext : shaleEncode slot st (rowStart s) = .next d) : Takes (.shaleEncodeBlock slot st) s d :=
  takes_of_onStation hat (fun _ d => shaleEncode slot st d) rfl hnext

theorem takes_shaleCompressorResume (hnext : shaleCompressorResume slot st (rowStart s) = .next d) : Takes (.shaleCompressorResume slot st) s d :=
  takes_of_onStation hat (fun _ d => shaleCompressorResume slot st d) rfl hnext

theorem takes_shaleDecodeBlock (hnext : shaleDecode slot st (rowStart s) = .next d) : Takes (.shaleDecodeBlock slot st) s d :=
  takes_of_onStation hat (fun _ d => shaleDecode slot st d) rfl hnext

theorem takes_shaleDecompressorResume (hnext : shaleDecompressorResume slot st (rowStart s) = .next d) : Takes (.shaleDecompressorResume slot st) s d :=
  takes_of_onStation hat (fun _ d => shaleDecompressorResume slot st d) rfl hnext

end

/-- Settles O33, row by row. -/
theorem shaleRows : Obligations.ShaleRows := by
  intro s slot st hat
  dsimp only
  refine ⟨fun hstop hgoes => ⟨fun hready => ?_, fun t r hready hinbox hpos => ?_⟩, fun hstop hfree => ?_, fun b hstop hhalf hfree => ?_, fun b hblock hfull hindex => ?_,
    fun hfull hroom => ?_⟩
  · exact takes_shaleEncodeBlock hat (shaleEncode_ready (d := rowStart s) hgoes hstop hready)
  · exact takes_shaleEncodeBlock hat (shaleEncode_takes (d := rowStart s) hgoes hready hinbox hpos)
  · exact takes_shaleCompressorResume hat (shaleCompressorResume_slot (d := rowStart s) hstop hfree)
  · exact takes_shaleCompressorResume hat (shaleCompressorResume_granules (d := rowStart s) hstop hhalf hfree)
  · exact takes_shaleDecodeBlock hat (shaleDecode_runs (d := rowStart s) hblock hfull hindex)
  · exact takes_shaleDecompressorResume hat (shaleDecompressorResume_goes (d := rowStart s) hfull hroom)

end Sys2Proof
end

section
/-!
PROOFS. Searches of a match table (07 R188 to R197): what a search without soft errors finds, and that a search sees a flip that sets the two lines of a unit apart.
-/

namespace Sys2Proof.Machine

open Sys2Proof

/-! ### Entries by ascending ordinal -/

/-- Entries stand by ascending ordinal. -/
def Ascending (es : List MEntry) : Prop := es.Pairwise (fun a b => a.ord < b.ord)

theorem mem_insertBy {α : Type} {key : α → Nat} {a x : α} : ∀ {es : List α}, x ∈ insertBy key a es → x = a ∨ x ∈ es
  | [], h => .inl (List.mem_singleton.mp h)
  | b :: bs, h => by
    unfold insertBy at h
    split at h
    · exact List.mem_cons.mp h
    · rcases List.mem_cons.mp h with rfl | htail
      · exact .inr List.mem_cons_self
      · exact (mem_insertBy htail).imp_right (List.mem_cons_of_mem b)

/-- Insertion keeps strictly rising keys where the key is new. -/
theorem insertBy_ascending {α : Type} {key : α → Nat} {a : α} : ∀ {es : List α}, es.Pairwise (fun x y => key x < key y) → (∀ x ∈ es, key x ≠ key a) →
    (insertBy key a es).Pairwise (fun x y => key x < key y)
  | [], _, _ => List.pairwise_singleton _ _
  | b :: bs, hes, hnew => by
    obtain ⟨hb, hbs⟩ := List.pairwise_cons.mp hes
    unfold insertBy
    split
    next hlt => exact hes.cons (fun x hx => (List.mem_cons.mp hx).elim (fun he => he ▸ hlt) (fun hmem => hlt.trans (hb x hmem)))
    next hge =>
      have hba : key b < key a := lt_of_le_of_ne (Nat.not_lt.mp hge) (hnew b List.mem_cons_self)
      exact (insertBy_ascending hbs (fun x hx => hnew x (List.mem_cons_of_mem b hx))).cons
        (fun x hx => (mem_insertBy hx).elim (fun he => he ▸ hba) (hb x))

theorem putEntry_ascending {es : List MEntry} (h : Ascending es) (e : MEntry) : Ascending (putEntry e es) := by
  refine insertBy_ascending (h.filter _) (fun x hx => ?_)
  obtain ⟨_, hne⟩ := List.mem_filter.mp hx
  exact bne_iff_ne.mp hne

/-- Half of a pair puts one entry into the table, or does nothing (R200, R201). -/
theorem half_entries (x : MatchSt) (w : Nat) (h : Half) : (x.half w h).entries = x.entries ∨ ∃ e, (x.half w h).entries = putEntry e x.entries := by
  unfold MatchSt.half
  dsimp only
  split
  · exact .inl rfl
  right
  split
  · exact ⟨_, rfl⟩
  · split <;> exact ⟨_, rfl⟩

theorem half_ascending {x : MatchSt} (hx : Ascending x.entries) (w : Nat) (h : Half) : Ascending (x.half w h).entries := by
  rcases half_entries x w h with heq | ⟨e, heq⟩ <;> rw [heq]
  · exact hx
  · exact putEntry_ascending hx e

theorem pair_ascending {x : MatchSt} (hx : Ascending x.entries) (w : Nat) (p : MPair) : Ascending (x.pair w p).entries :=
  half_ascending (half_ascending hx w p.first) w p.second

theorem records_ascending (q : MatchP) (b : Bytes) (n : Nat) : Ascending ((List.range n).map (q.record b)) :=
  List.pairwise_map.mpr List.pairwise_lt_range

/-- Among entries by ascending ordinal an ordinal finds its own entry. -/
theorem entry_of_mem {x : MatchSt} (hx : Ascending x.entries) {e : MEntry} (he : e ∈ x.entries) (w : Nat) : x.entry w e.ord = e := by
  have hnodup : (x.entries.map MEntry.ord).Nodup := List.pairwise_map.mpr (hx.imp Nat.ne_of_lt)
  obtain ⟨f, hf⟩ : ∃ f, x.entries.find? (fun f => f.ord == e.ord) = some f := Option.isSome_iff_exists.mp (List.find?_isSome.mpr ⟨e, he, beq_self_eq_true e.ord⟩)
  have hord : f.ord = e.ord := by simpa using List.find?_some hf
  have hfe : f = e := List.inj_on_of_nodup_map hnodup (List.mem_of_find?_eq_some hf) he hord
  unfold MatchSt.entry
  rw [hf, hfe]
  rfl

/-- The first of entries by ascending ordinal is not above any of them. -/
theorem head_le_of_ascending {es : List MEntry} (hes : Ascending es) {e : MEntry} (he : e ∈ es) : ∃ o, (es.map MEntry.ord).head? = some o ∧ o ≤ e.ord := by
  cases es with
  | nil => exact absurd he List.not_mem_nil
  | cons b bs =>
    obtain ⟨hb, _⟩ := List.pairwise_cons.mp hes
    exact ⟨b.ord, rfl, (List.mem_cons.mp he).elim (fun h => h ▸ Nat.le_refl _) (fun h => Nat.le_of_lt (hb e h))⟩

/-! ### The lines of an entry -/

/-- R189, unit by unit. -/
def MEntry.unitsMatch (w : Nat) (s : List Nat) (e : MEntry) : Bool :=
  (List.range w).all (fun u => ((s.getD u 0 ^^^ e.key.getD u 0) &&& e.mask.getD u 0) == 0)

/-- The search key has the `w` units of the table, and every entry's key and mask have as many. -/
def UnitsOf (w : Nat) (s : List Nat) (es : List MEntry) : Prop := s.length = w ∧ ∀ e ∈ es, e.key.length = w ∧ e.mask.length = w

theorem hits_eq_unitsMatch {w : Nat} {s : List Nat} {e : MEntry} (hs : s.length = w) (hkey : e.key.length = w) (hmask : e.mask.length = w) :
    e.hits s = (e.valid && e.unitsMatch w s) := by
  have hzip : s.zip (e.key.zip e.mask) = (List.range w).map (fun u => (s.getD u 0, e.key.getD u 0, e.mask.getD u 0)) :=
    List.ext_getElem (by simp [hs, hkey, hmask]) (fun u hu _ => by
      have huw : u < w := by simpa [hs, hkey, hmask] using hu
      simp [hs, hkey, hmask, huw])
  unfold MEntry.hits MEntry.unitsMatch
  rw [hzip, List.all_map]
  rfl

section
variable {x : MatchSt} (hcells : x.cells = [])
include hcells

theorem flipOf_unflipped (copy ord unit part : Nat) : x.flipOf copy ord unit part = 0 := by
  unfold MatchSt.flipOf
  rw [hcells]
  rfl

theorem lineHit_unflipped (copy w : Nat) (e : MEntry) (s : List Nat) : x.lineHit copy w e s = (e.valid && e.unitsMatch w s) := by
  simp [MatchSt.lineHit, MatchSt.validNow, MatchSt.lines, MEntry.unitsMatch, flipOf_unflipped hcells]

theorem camEntries_unflipped (q : MatchP) (copy : Nat) : x.camEntries q copy = x.entries := by
  unfold MatchSt.camEntries
  rw [hcells]
  rfl

end

/-! ### Banks that a key selects -/

/-- With SELECT 1 an entry that lies in the CAM lies in the group of its own unit 0 (R194). -/
theorem place_group {x : MatchSt} {q : MatchP} {sets : List BankSet} {ord : Nat} {p : Nat × Nat × Nat × Nat} (hselect : q.select ≠ 0)
    (hplace : x.place q sets ord = some p) : p.1 = q.group ((x.entry q.w ord).key.getD 0 0) sets.length := by
  unfold MatchSt.place at hplace
  dsimp only at hplace
  split at hplace
  · exact absurd hplace (by simp)
  · obtain ⟨b, hb, rfl⟩ := Option.map_eq_some_iff.mp hplace
    obtain ⟨banks, hbanks, hmem⟩ := List.mem_flatten.mp (List.mem_of_getElem? hb)
    obtain ⟨set, hset, rfl⟩ := List.mem_map.mp hbanks
    obtain ⟨k, _, rfl⟩ := List.mem_map.mp hmem
    simpa [hselect] using (List.mem_filter.mp hset).2

/-- The bank set that an entry lies in, where the key selects it (R194). -/
def MatchSt.setFor (x : MatchSt) (q : MatchP) (s : List Nat) (ord : Nat) : Option Nat :=
  ((x.place q x.sets ord).map (·.1)).filter (fun k => q.select == 0 || k == q.group (s.getD 0 0) x.sets.length)

theorem setFor_isSome_iff {x : MatchSt} {q : MatchP} {s : List Nat} {ord : Nat} : (x.setFor q s ord).isSome = true ↔
    ∃ p, x.place q x.sets ord = some p ∧ (q.select = 0 ∨ p.1 = q.group (s.getD 0 0) x.sets.length) := by
  unfold MatchSt.setFor
  cases x.place q x.sets ord <;> simp [Option.filter]

/-- Keys that agree under a mask agree under what the mask covers. -/
theorem and_eq_of_covered {a b m h : Nat} (hmatch : (a ^^^ b) &&& m = 0) (hcover : m &&& h = h) : a &&& h = b &&& h := by
  refine Nat.xor_eq_zero_iff.mp ?_
  calc (a &&& h) ^^^ (b &&& h) = (a ^^^ b) &&& (m &&& h) := by rw [hcover, Nat.and_xor_distrib_right]
    _ = 0 := by rw [← Nat.and_assoc, hmatch, Nat.zero_and]

/-- A key that an entry matches chooses the group that the entry's own unit 0 chooses (R193, R194). -/
theorem group_eq_of_unitsMatch {q : MatchP} {s : List Nat} {e : MEntry} (hw : 1 ≤ q.w) (hcover : e.mask.getD 0 0 &&& q.hashMask = q.hashMask)
    (hmatch : e.unitsMatch q.w s = true) (n : Nat) : q.group (e.key.getD 0 0) n = q.group (s.getD 0 0) n := by
  have hunit : (s.getD 0 0 ^^^ e.key.getD 0 0) &&& e.mask.getD 0 0 = 0 := by simpa using List.all_eq_true.mp hmatch 0 (List.mem_range.mpr hw)
  unfold MatchP.group
  rw [and_eq_of_covered hunit hcover]

/-! ### What a search finds -/

/-- The entries that a search takes for hits: by the CAM's lines, or outside the CAM by the entry itself (R190, R206). -/
def MatchSt.hitEntries (x : MatchSt) (q : MatchP) (s : List Nat) : List MEntry :=
  (x.camEntries q x.copyNo).filter (fun e =>
    if (x.place q x.sets e.ord).isSome then (x.setFor q s e.ord).isSome && x.lineHit x.copyNo q.w e s else e.hits s)

theorem search_hits (x : MatchSt) (q : MatchP) (s : List Nat) : (x.search q s).hits = (x.hitEntries q s).map MEntry.ord := rfl

/-- A search has no false hit where every entry that it takes for a hit matches (R197). -/
theorem search_falseHits_nil {x : MatchSt} {q : MatchP} {s : List Nat} (h : ∀ e ∈ x.hitEntries q s, e.hits s = true) : (x.search q s).falseHits = [] := by
  refine List.map_eq_nil_iff.mpr (List.filter_eq_nil_iff.mpr (fun e he => ?_))
  obtain ⟨k, _, hk⟩ := List.mem_filterMap.mp he
  simp [h e (List.mem_filter.mp (List.mem_of_find?_eq_some hk)).1]

/-- The verify stage finds apart the flipped entries in the selected banks whose lines disagree (R197). -/
theorem mem_search_apart {x : MatchSt} {q : MatchP} {s : List Nat} {o : Nat} : o ∈ (x.search q s).apart ↔
    (∃ c ∈ x.cells, c.copy = x.copyNo ∧ c.ord = o) ∧ (x.setFor q s o).isSome = true ∧ x.disagrees x.copyNo q.w (x.entry q.w o) s = true := by
  have happart : (x.search q s).apart = ((((x.cells.filter (fun c => c.copy == x.copyNo)).map (·.ord)).eraseDups).filter (fun o => (x.setFor q s o).isSome)).filter
      (fun o => x.disagrees x.copyNo q.w (x.entry q.w o) s) := rfl
  simp only [happart, List.mem_filter, List.mem_eraseDups, List.mem_map, beq_iff_eq, and_assoc]

theorem clean_iff {f : Found} : f.clean = true ↔ f.falseHits = [] ∧ f.apart = [] := by
  simp [Found.clean]

/-- A search without soft errors takes for hits the entries that R189 matches: the banks that the key selects hold every such entry. -/
theorem hitEntries_unflipped {x : MatchSt} {q : MatchP} {s : List Nat} (hcells : x.cells = []) (hw : 1 ≤ q.w) (hunits : UnitsOf q.w s x.entries)
    (hasc : Ascending x.entries) (hcover : q.select = 0 ∨ ∀ e ∈ x.entries, e.mask.getD 0 0 &&& q.hashMask = q.hashMask) :
    x.hitEntries q s = x.entries.filter (fun e => e.hits s) := by
  unfold MatchSt.hitEntries
  rw [camEntries_unflipped hcells]
  refine List.filter_congr (fun e he => ?_)
  obtain ⟨hs, hes⟩ := hunits
  obtain ⟨hkey, hmask⟩ := hes e he
  rw [lineHit_unflipped hcells, hits_eq_unitsMatch hs hkey hmask]
  split
  next hsome =>
    obtain ⟨p, hp⟩ := Option.isSome_iff_exists.mp hsome
    have hselected (hmatch : e.unitsMatch q.w s = true) : (x.setFor q s e.ord).isSome = true := by
      refine setFor_isSome_iff.mpr ⟨p, hp, or_iff_not_imp_left.mpr (fun hselect => ?_)⟩
      rw [place_group hselect hp, entry_of_mem hasc he, group_eq_of_unitsMatch hw ((hcover.resolve_left hselect) e he) hmatch]
    cases hmatch : e.unitsMatch q.w s
    · simp
    · simp [hselected hmatch]
  · rfl

/-- A search without soft errors is clean (R197). -/
theorem clean_unflipped {x : MatchSt} {q : MatchP} {s : List Nat} (hcells : x.cells = []) (hhits : ∀ e ∈ x.hitEntries q s, e.hits s = true) :
    (x.search q s).clean = true := by
  refine clean_iff.mpr ⟨search_falseHits_nil hhits, List.eq_nil_iff_forall_not_mem.mpr (fun o ho => ?_)⟩
  obtain ⟨⟨c, hc, _⟩, _⟩ := mem_search_apart.mp ho
  rw [hcells] at hc
  exact List.not_mem_nil hc

/-- A flip in the selected banks that sets the two lines of a unit apart is seen (R197). -/
theorem clean_flipped {x : MatchSt} {q : MatchP} {s : List Nat} {c : CellHit} {u : Nat} (hc : c ∈ x.cells) (hcopy : c.copy = x.copyNo) (hu : u < q.w)
    (hset : (x.setFor q s c.ord).isSome = true) (happart : (x.lines x.copyNo (x.entry q.w c.ord) s u).1 ≠ (x.lines x.copyNo (x.entry q.w c.ord) s u).2) :
    (x.search q s).clean = false := by
  have hdisagrees : x.disagrees x.copyNo q.w (x.entry q.w c.ord) s = true := List.any_eq_true.mpr ⟨u, List.mem_range.mpr hu, bne_iff_ne.mpr happart⟩
  refine Bool.eq_false_iff.mpr (fun hclean => ?_)
  have hmem := mem_search_apart.mpr ⟨⟨c, hc, hcopy, rfl⟩, hset, hdisagrees⟩
  rw [(clean_iff.mp hclean).2] at hmem
  exact List.not_mem_nil hmem

end Sys2Proof.Machine

namespace Sys2Proof

open Sys2Proof.Machine

/-- Settles O36: a search without soft errors filters the entries, whose order is kept by every half that a pair puts in. -/
theorem searchFindsLowest : Obligations.SearchFindsLowest := by
  refine ⟨fun x q s hcells hs hw _ hes hasc hcover => ?_, fun x w p hx => pair_ascending hx w p, fun q b n => records_ascending q b n,
    fun x q s c u hc hcopy hu hset happart => clean_flipped hc hcopy hu (setFor_isSome_iff.mpr hset) happart⟩
  have hlengths : ∀ e ∈ x.entries, e.key.length = q.w ∧ e.mask.length = q.w := fun e he => by
    obtain ⟨hkey, hmask, _⟩ := hes e he
    exact ⟨hkey, hmask⟩
  have hfound := hitEntries_unflipped hcells hw ⟨hs, hlengths⟩ hasc hcover
  refine ⟨clean_unflipped hcells (fun e he => ?_), ?_, fun e he hhits => ?_⟩
  · rw [hfound] at he
    exact (List.mem_filter.mp he).2
  · rw [search_hits, hfound]
    refine congrArg _ (List.filter_congr (fun e he => ?_))
    obtain ⟨hkey, hmask⟩ := hlengths e he
    exact hits_eq_unitsMatch hs hkey hmask
  · rw [search_hits, hfound]
    exact head_le_of_ascending (hasc.filter _) (List.mem_filter.mpr ⟨he, hhits⟩)

end Sys2Proof
end

section
/-!
PROOFS. The rows of match stations (07 R190 to R206): the next row and its repeat, the held pair, the scrub, the table, the frequency sample.
-/

namespace Sys2Proof.Machine

open Sys2Proof

/-! ### What soft errors leave of a station -/

/-- A station after its own state is written: in that state, or as it was where its job has no such station. -/
theorem getSt_setKind (d : Dev) (slot st : Nat) (k : KindSt) :
    getSt (setKind d slot st k) slot st = { getSt d slot st with kind := k } ∨ getSt (setKind d slot st k) slot st = getSt d slot st := by
  unfold getSt setKind modSt
  rw [getJob_modJob]
  split
  · dsimp only
    rw [modifyAt_getD]
    split
    · exact .inl rfl
    · exact .inr rfl
  · exact .inr rfl

theorem outBlocked_setKind (d : Dev) (slot st : Nat) (k : KindSt) : outBlocked (setKind d slot st k) slot st = outBlocked d slot st :=
  getJob_modJob_keeps (fun j => (List.range (j.image.stations.getD st {}).outPorts).any (fun p => !(j.rt.queues.getD (outQueueNo j st p) {}).held.isEmpty))
    (by intros; rfl) d slot slot

/-- What a change of a match station's own state keeps of that state reads as before. -/
theorem matchSt_modMatch_keeps {α : Type} (g : MatchSt → α) {f : MatchSt → MatchSt} (hf : ∀ x, g (f x) = g x) (d : Dev) (slot st : Nat) :
    g (matchSt (modMatch d slot st f) slot st) = g (matchSt d slot st) := by
  rcases getSt_setKind d slot st (.matchSt (f (matchSt d slot st))) with h | h
  · have hnew : matchSt (modMatch d slot st f) slot st = f (matchSt d slot st) := by
      unfold modMatch
      rw [matchSt, h]
    rw [hnew, hf]
  · have hsame : matchSt (modMatch d slot st f) slot st = matchSt d slot st := by
      unfold modMatch
      rw [matchSt, h, matchSt]
    rw [hsame]

/-- The device after the soft errors that a command brings (R197, R199). -/
def upsetIn (slot st : Nat) (cells : List CellHit) (shadow : List ShadowHit) (d : Dev) : Dev := modMatch d slot st (fun x => x.upset cells shadow)

section
variable (slot st : Nat) (cells : List CellHit) (shadow : List ShadowHit) (d : Dev)

theorem ended_upsetIn : (getSt (upsetIn slot st cells shadow d) slot st).ended = (getSt d slot st).ended :=
  getSt_modSt_keeps StRun.ended (by intros; rfl) d slot st st

theorem getIn_upsetIn (port : Nat) : getIn (upsetIn slot st cells shadow d) slot st port = getIn d slot st port :=
  getSt_modSt_keeps (fun s => s.ins.getD port {}) (by intros; rfl) d slot st st

theorem outBlocked_upsetIn : outBlocked (upsetIn slot st cells shadow d) slot st = outBlocked d slot st := outBlocked_setKind ..

theorem redo_upsetIn : (matchSt (upsetIn slot st cells shadow d) slot st).redo = (matchSt d slot st).redo :=
  matchSt_modMatch_keeps MatchSt.redo (by intros; rfl) d slot st

theorem step_upsetIn : (matchSt (upsetIn slot st cells shadow d) slot st).step = (matchSt d slot st).step :=
  matchSt_modMatch_keeps MatchSt.step (by intros; rfl) d slot st

end

/-! ### Searches -/

section
variable {d : Dev} {slot st : Nat} {cells : List CellHit} {shadow : List ShadowHit} {r : Row}

/-- The next row, its key known or null, on the device after the soft errors (R192, R196, R201). -/
def rowSearched (slot st : Nat) (q : MatchP) (step : Nat) (r : Row) (d : Dev) : Dev :=
  (rowKey r q.keys).elim (matchDeliver slot st q (modIn d slot st 0 InPort.nextRow) r none true)
    (searchRow slot st q [] (countSt d slot st (1 + step) 1) r)

theorem rowSearched_null {q : MatchP} {step : Nat} (h : rowKey r q.keys = none) :
    rowSearched slot st q step r d = matchDeliver slot st q (modIn d slot st 0 InPort.nextRow) r none true := by
  rw [rowSearched, h, Option.elim_none]

theorem rowSearched_key {q : MatchP} {step : Nat} {k : Bytes} (h : rowKey r q.keys = some k) :
    rowSearched slot st q step r d = searchRow slot st q [] (countSt d slot st (1 + step) 1) r k := by
  rw [rowSearched, h, Option.elim_some]

/-- The next row is searched once the pairs of the tiles before it are committed (R190, R204). -/
theorem matchSearch_row {fs : Nat} {t : Tile} {ts : List Tile} (hgoes : (getSt d slot st).ended = false) (hredo : (matchSt d slot st).redo = none)
    (hfree : outBlocked d slot st = false) (hinbox : (getIn d slot st 0).inbox = t :: ts) (hrow : (getIn d slot st 0).row? = some (r, fs))
    (hpairs : pairsThrough (upsetIn slot st cells shadow d) slot st t.seq (matchP (paramSt d slot st)) = true) :
    matchSearch slot st cells shadow d =
      .next (rowSearched slot st (matchP (paramSt d slot st)) (matchSt d slot st).step r (upsetIn slot st cells shadow d)) := by
  unfold matchSearch
  dsimp only
  rw [← upsetIn, ended_upsetIn, redo_upsetIn, if_neg (by simp [hgoes, hredo]), outBlocked_upsetIn, if_neg (by simp [hfree]), getIn_upsetIn, hrow, hinbox]
  dsimp only
  rw [if_neg (by simp [hpairs]), step_upsetIn]
  cases hkey : rowKey r (matchP (paramSt d slot st)).keys with
  | none => rw [rowSearched_null hkey]
  | some k => rw [rowSearched_key hkey]

/-- A search that was not clean is issued again (R197). -/
theorem searchRepeat_repeats {o : List Nat} {fs : Nat} (hredo : (matchSt d slot st).redo = some o) (hrow : (getIn d slot st 0).row? = some (r, fs)) :
    searchRepeat slot st cells shadow d = .next (searchRow slot st (matchP (paramSt d slot st)) o (upsetIn slot st cells shadow d) r
      ((rowKey r (matchP (paramSt d slot st)).keys).getD [])) := by
  unfold searchRepeat
  dsimp only
  rw [hredo, hrow]
  rfl

end

/-! ### Pairs, scrub, table, sample -/

section
variable {d : Dev} {slot st : Nat}

/-- The oldest held pair commits when its tile is searched and the writer has finished it (R201, R204). -/
theorem pairCommit_oldest {p : MPair} {n k seq : Nat} {hs : List (Nat × MPair)} (hheld : (matchSt d slot st).held = (seq, p) :: hs)
    (hqueue : inQueueNo (getJob d slot) st 0 = some (n, k)) (htaken : seq < (getQ d slot n).taken.getD k 0) (hsearched : ∀ t ∈ (getIn d slot st 0).inbox, seq < t.seq)
    (hdone : writerDone d slot st seq (matchP (paramSt d slot st)) = true) : pairCommit slot st d =
      .next (modMatch d slot st (fun y => (({ y with held := hs } : MatchSt).pair (matchP (paramSt d slot st)).w p).rechoose (matchP (paramSt d slot st)))) := by
  have hinbox : (getIn d slot st 0).inbox.all (fun t => decide (seq < t.seq)) = true := List.all_eq_true.mpr (fun t ht => decide_eq_true (hsearched t ht))
  unfold pairCommit
  dsimp only
  rw [hheld, hqueue]
  dsimp only
  exact if_pos (by rw [decide_eq_true htaken, hinbox, hdone]; rfl)

/-- An entry is rewritten from its shadow, and counted at most once (R199). -/
theorem scrubEntry_scrubs {ord : Nat} {cells : List CellHit} {shadow : List ShadowHit} (hbuilt : (matchSt d slot st).built = true)
    (hord : ord < (matchP (paramSt d slot st)).capacity) (hplace : ∃ c ∈ (matchSt d slot st).copies, (matchSt d slot st).place (matchP (paramSt d slot st)) c ord ≠ none)
    (hshadow : ((matchSt d slot st).upset cells shadow).shadowBad ord = false) : ∃ n, scrubEntry slot st ord cells shadow d =
      .next (modMatch d slot st (fun _ => { (((matchSt d slot st).upset cells shadow).readShadow ord).rewrite ord with scrubbed := (matchSt d slot st).scrubbed + n })) ∧
        n ≤ 1 := by
  have hplaced : ¬ (((matchSt d slot st).upset cells shadow).copies.all
      (fun c => (((matchSt d slot st).upset cells shadow).place (matchP (paramSt d slot st)) c ord).isNone)) = true := fun hnone => by
    obtain ⟨c, hc, hne⟩ := hplace
    exact hne (Option.isNone_iff_eq_none.mp (List.all_eq_true.mp hnone c hc))
  unfold scrubEntry
  dsimp only
  rw [if_neg (by simp [MatchSt.upset, hbuilt]), if_neg (Nat.not_le.mpr hord), if_neg hplaced, if_neg (by simp [hshadow])]
  exact ⟨_, rfl, by unfold b2n; split <;> decide⟩

/-- The table is built from a good region, the saved changes over it (R193, R202, R203). -/
theorem tableBuild_builds {m : Memory} {h b : Bytes} (hbuilt : (matchSt d slot st).built = false)
    (hbytes : 64 ≤ (bindingOr (getJob d slot) (matchP (paramSt d slot st)).region).bytes)
    (hread : regRead m d (bindingOr (getJob d slot) (matchP (paramSt d slot st)).region) 0 64 = .ok h) (hheader : (matchP (paramSt d slot st)).headerOk h = true)
    (hroom : 64 + u32at h 8 * (matchP (paramSt d slot st)).recBytes ≤ (bindingOr (getJob d slot) (matchP (paramSt d slot st)).region).bytes)
    (hrecords : regRead m d (bindingOr (getJob d slot) (matchP (paramSt d slot st)).region) 64 (u32at h 8 * (matchP (paramSt d slot st)).recBytes) = .ok b)
    (hmasks : ∀ i < u32at h 8, (matchP (paramSt d slot st)).maskOk (((matchP (paramSt d slot st)).record b i).mask.getD 0 0) = true) :
    tableBuild slot st m d = .next (setTable d slot st (if (getJob d slot).replaying then 4 else 0) 0xFFFF
      ((matchSt d slot st).changed.foldl (fun y h => y.half (matchP (paramSt d slot st)).w h) { matchSt d slot st with
        built := true, entries := (List.range (u32at h 8)).map ((matchP (paramSt d slot st)).record b), cells := [], shadow := [] })) := by
  have hgood : ((List.range (u32at h 8)).map ((matchP (paramSt d slot st)).record b)).find? (fun e => !(matchP (paramSt d slot st)).maskOk (e.mask.getD 0 0)) = none := by
    simpa using hmasks
  unfold tableBuild
  dsimp only
  rw [if_neg (by simp [hbuilt]), if_neg (Nat.not_lt.mpr hbytes), hread]
  dsimp only
  rw [if_neg (by simp [hheader]), if_neg (Nat.not_lt.mpr hroom), hrecords]
  dsimp only
  rw [hgood]

/-- The entries that the CAM holds are chosen anew by the last counts (R206). -/
theorem frequencySample_samples (hbuilt : (matchSt d slot st).built = true) : frequencySample slot st d = .next (modMatch d slot st
    (fun x => MatchSt.rechoose { x with hot := ((sortBy (fun (f : Nat × Nat) => f.2) x.freq).reverse).map (·.1), freq := [] } (matchP (paramSt d slot st)))) := by
  unfold frequencySample
  exact if_neg (by simp [hbuilt])

end

end Sys2Proof.Machine

namespace Sys2Proof

open Sys2Proof.Machine

section
variable {s : State} {slot st : Nat} {d : Dev} (hat : AtStation s slot st (· = .matchSt))
include hat

theorem takes_matchSearch {cells : List CellHit} {shadow : List ShadowHit} (hnext : matchSearch slot st cells shadow (rowStart s) = .next d) :
    Takes (.matchSearch slot st cells shadow) s d :=
  takes_of_onStation hat (fun _ d => matchSearch slot st cells shadow d) rfl hnext

theorem takes_searchRepeat {cells : List CellHit} {shadow : List ShadowHit} (hnext : searchRepeat slot st cells shadow (rowStart s) = .next d) :
    Takes (.searchRepeat slot st cells shadow) s d :=
  takes_of_onStation hat (fun _ d => searchRepeat slot st cells shadow d) rfl hnext

theorem takes_pairCommit (hnext : pairCommit slot st (rowStart s) = .next d) : Takes (.pairCommit slot st) s d :=
  takes_of_onStation hat (fun _ d => pairCommit slot st d) rfl hnext

theorem takes_scrub {ord : Nat} {cells : List CellHit} {shadow : List ShadowHit} (hnext : scrubEntry slot st ord cells shadow (rowStart s) = .next d) :
    Takes (.scrub slot st ord cells shadow) s d :=
  takes_of_onStation hat (fun _ d => scrubEntry slot st ord cells shadow d) rfl hnext

theorem takes_tableBuildComplete (hnext : tableBuild slot st s.mem (rowStart s) = .next d) : Takes (.tableBuildComplete slot st) s d :=
  takes_of_onStation hat (tableBuild slot st) rfl hnext

theorem takes_frequencySample (hnext : frequencySample slot st (rowStart s) = .next d) : Takes (.frequencySample slot st) s d :=
  takes_of_onStation hat (fun _ d => frequencySample slot st d) rfl hnext

end

/-- Settles O35, row by row. -/
theorem matchRows : Obligations.MatchRows := by
  intro s slot st ord cells shadow hat
  dsimp only
  refine ⟨fun r fs t ts hgoes hredo hfree hinbox hrow hpairs => ?_,
    fun o r fs hredo hrow => takes_searchRepeat hat (searchRepeat_repeats (d := rowStart s) hredo hrow),
    fun p n k seq hs hheld hqueue htaken hsearched hdone =>
      takes_pairCommit hat (pairCommit_oldest (d := rowStart s) hheld hqueue htaken hsearched hdone),
    fun hbuilt hord hplace hshadow => ?_,
    fun h b hbuilt hbytes hread hheader hroom hrecords hmasks =>
      takes_tableBuildComplete hat (tableBuild_builds (d := rowStart s) hbuilt hbytes hread hheader hroom hrecords hmasks),
    fun hbuilt => takes_frequencySample hat (frequencySample_samples (d := rowStart s) hbuilt)⟩
  · have hnext := matchSearch_row (d := rowStart s) hgoes hredo hfree hinbox hrow hpairs
    refine ⟨fun hnull => takes_matchSearch hat (hnext.trans ?_), fun k hkey => takes_matchSearch hat (hnext.trans ?_)⟩
    · exact congrArg DevOut.next (rowSearched_null hnull)
    · exact congrArg DevOut.next (rowSearched_key hkey)
  · obtain ⟨n, hnext, hn⟩ := scrubEntry_scrubs (d := rowStart s) hbuilt hord hplace hshadow
    exact ⟨n, takes_scrub hat hnext, hn⟩

end Sys2Proof
end

section
/-!
PROOFS. The rows of hashjoin stations and of select stations (07 R207 to R209; 09 R247 to R256).
-/

namespace Sys2Proof.Machine

open Sys2Proof

/-! ### Build rows and probe rows -/

/-- A row as a build row of its partition's table (R208). -/
def buildRowOf (sd : StationD) (r : Row) : BuildRow := { part := partOf r sd.keyColumn sd.partitions, key := keyForm r sd.keyColumn, row := r }

/-- The build rows that a probe row's key finds, in build order (R208). -/
def joinFound (x : JoinSt) (sd : StationD) (r : Row) : List Row :=
  if keyForm r sd.keyColumn = none then []
  else (x.build.filter (fun b => b.part == partOf r sd.keyColumn sd.partitions && b.key == keyForm r sd.keyColumn)).map (·.row)

/-- The types of the build input's columns (R208). -/
def buildTypes (d : Dev) (slot st : Nat) : List (Nat × Ty) :=
  match inQueueNo (getJob d slot) st 0 with
  | some (n, _) => (getQ d slot n).types
  | none => []

/-- A probe row's output rows and the row behind it; at the end of the tile the tile's rows go out (02 R47). -/
def probed (slot st part : Nat) (out : List Row) (d : Dev) : Dev :=
  modIn (modJoin d slot st (fun x => { x with out := x.out ++ out.map (fun o => (part, o)) })) slot st 1 InPort.nextRow

section
variable {d : Dev} {slot st ord : Nat} {r : Row}

/-- A table that its memory has room for takes no more (R209). -/
theorem growJoin_room {n : Nat} (hroom : n ≤ (((getJob d slot).joinAreas.find? (fun a => a.1 == st)).elim [] (·.2)).foldl (fun a e => a + joinRoom e) 0) :
    growJoin d slot st n = some d :=
  if_pos hroom

/-- The next build row joins its partition's table where the table has memory and DUP 2 finds no earlier row with the key (R207 to R209). -/
theorem joinBuildRow_joins {e : Dev} (hrow : (getIn d slot st 0).row? = some (r, ord))
    (hdup : u8at (paramSt d slot st) 1 = 2 → (buildRowOf (descSt d slot st) r).key ≠ none →
      ∀ b ∈ (joinSt d slot st).build.filter (fun b => b.part == (buildRowOf (descSt d slot st) r).part), b.key ≠ (buildRowOf (descSt d slot st) r).key)
    (hgrow : growJoin d slot st (joinBytes ((joinSt d slot st).build ++ [buildRowOf (descSt d slot st) r])) = some e) : joinBuildRow slot st d =
      .next (modJoin (modIn e slot st 0 InPort.nextRow) slot st (fun x => { x with build := x.build ++ [buildRowOf (descSt d slot st) r] })) := by
  unfold buildRowOf at hdup hgrow ⊢
  unfold joinBuildRow
  dsimp only at hdup hgrow ⊢
  rw [hrow]
  dsimp only
  rw [if_neg, hgrow]
  rintro ⟨hmode, hkey, hsame⟩
  obtain ⟨b, hb, heq⟩ := List.any_eq_true.mp hsame
  exact hdup hmode (Option.isSome_iff_ne_none.mp hkey) b hb (beq_iff_eq.mp heq)

/-- The next probe row is looked up, and gives its rows by KIND and DUP (R208). -/
theorem joinProbeRow_probes (hgoes : (getSt d slot st).ended = false) (hfree : outBlocked d slot st = false) (hrow : (getIn d slot st 1).row? = some (r, ord))
    (hfew : u8at (paramSt d slot st) 1 = 0 → (joinFound (joinSt d slot st) (descSt d slot st) r).length ≤ 65535) {e : Dev}
    (he : e = probed slot st (partOf r (descSt d slot st).keyColumn (descSt d slot st).partitions)
      (probeOut (buildTypes d slot st) (paramSt d slot st) r (if u8at (paramSt d slot st) 1 = 1 then (joinFound (joinSt d slot st) (descSt d slot st) r).take 1
        else joinFound (joinSt d slot st) (descSt d slot st) r)) d) :
    joinProbeRow slot st d = .next (if (getIn d slot st 1).finished < (getIn e slot st 1).finished then flushJoin e slot st else e) := by
  have hfound : (if (keyForm r (descSt d slot st).keyColumn).isNone then [] else ((joinSt d slot st).build.filter (fun b =>
      b.part == partOf r (descSt d slot st).keyColumn (descSt d slot st).partitions && b.key == keyForm r (descSt d slot st).keyColumn)).map (·.row)) =
      joinFound (joinSt d slot st) (descSt d slot st) r := by
    simp [joinFound]
  subst he
  unfold joinProbeRow
  dsimp only
  rw [if_neg (by simp [hgoes]), if_neg (by simp [hfree]), hrow]
  dsimp only
  rw [hfound, if_neg (fun ⟨hall, hmany⟩ => absurd (hfew hall) (Nat.not_le.mpr hmany))]
  rfl

end

/-! ### Groups of a select station -/

section
variable {d : Dev} {slot st : Nat} (hgoes : (getSt d slot st).ended = false) (hfree : outBlocked d slot st = false)
include hgoes hfree

/-- Rows of the open group are taken from the tile in hand (R247). -/
theorem selectGroup_takes {t : Tile} {ts : List Tile} (hinbox : (getIn d slot st 0).inbox = t :: ts) :
    selectGroup slot st d = .next (selRows slot st (selP (paramSt d slot st)) (t.rowCount + 1 - (getIn d slot st 0).pos) d) := by
  unfold selectGroup
  dsimp only
  rw [if_neg (by simp [hgoes]), if_neg (by simp [hfree]), hinbox]

/-- The last group closes when the input has ended (R254). -/
theorem selectGroup_ends (hempty : (getIn d slot st 0).inbox = []) (hdone : inputsDone d slot st = true) :
    selectGroup slot st d = .next (endStation (closeGroup d slot st (selP (paramSt d slot st))) slot st) := by
  unfold selectGroup
  dsimp only
  rw [if_neg (by simp [hgoes]), if_neg (by simp [hfree]), hempty]
  exact if_pos hdone

end

/-! ### The output of a probe row, by KIND -/

section
variable (types : List (Nat × Ty)) {p : Bytes} (r : Row) (ms : List Row)

theorem probeOut_inner (h : u8at p 0 = 0) : probeOut types p r ms = ms.map (fun b => joinRow types p r (some b)) := by
  rw [probeOut, h]
  rfl

theorem probeOut_outer (h : u8at p 0 = 1) : probeOut types p r ms = if ms = [] then [joinRow types p r none] else ms.map (fun b => joinRow types p r (some b)) := by
  rw [probeOut, h]
  simp

theorem probeOut_semi (h : u8at p 0 = 2) : probeOut types p r ms = if ms = [] then [] else [r] := by
  rw [probeOut, h]
  simp

theorem probeOut_anti (h : u8at p 0 = 3) : probeOut types p r ms = if ms = [] then [r] else [] := by
  rw [probeOut, h]
  simp

end

end Sys2Proof.Machine

namespace Sys2Proof

open Sys2Proof.Machine

section
variable {s : State} {slot st : Nat} {d : Dev}

theorem takes_hashjoinBuildRow (hat : AtStation s slot st (· = .hashjoin)) (hnext : joinBuildRow slot st (rowStart s) = .next d) : Takes (.hashjoinBuildRow slot st) s d :=
  takes_of_onStation hat (fun _ d => joinBuildRow slot st d) rfl hnext

theorem takes_hashjoinProbeRow (hat : AtStation s slot st (· = .hashjoin)) (hnext : joinProbeRow slot st (rowStart s) = .next d) : Takes (.hashjoinProbeRow slot st) s d :=
  takes_of_onStation hat (fun _ d => joinProbeRow slot st d) rfl hnext

theorem takes_selectGroup (hat : AtStation s slot st (· = .select)) (hnext : selectGroup slot st (rowStart s) = .next d) : Takes (.selectGroup slot st) s d :=
  takes_of_onStation hat (fun _ d => selectGroup slot st d) rfl hnext

end

/-- Settles O37, row by row, and KIND by KIND. -/
theorem joinSelectRows : Obligations.JoinSelectRows := by
  refine ⟨fun s slot st => ?_, fun types p r ms => ⟨probeOut_inner types r ms, probeOut_outer types r ms, probeOut_semi types r ms, probeOut_anti types r ms⟩⟩
  refine ⟨fun r ord hat hrow hdup => ⟨fun e hgrow => ?_, fun hroom => growJoin_room (d := rowStart s) hroom⟩, fun r ord hat hgoes hfree hrow hfew => ?_,
    fun t ts hat hgoes hfree hinbox => takes_selectGroup hat (selectGroup_takes (d := rowStart s) hgoes hfree hinbox),
    fun hat hgoes hfree hempty hdone => takes_selectGroup hat (selectGroup_ends (d := rowStart s) hgoes hfree hempty hdone)⟩
  · exact takes_hashjoinBuildRow hat (joinBuildRow_joins (d := rowStart s) hrow hdup hgrow)
  · exact ⟨buildTypes (rowStart s) slot st, _, rfl, takes_hashjoinProbeRow hat (joinProbeRow_probes (d := rowStart s) hgoes hfree hrow hfew rfl)⟩

end Sys2Proof
end

section
/-!
PROOFS. Integer kernel ops (08 R227): the value of an integer element, results wrapped and limited, shifts and rotations bit by bit, and TIME_US as U64.
-/

namespace Sys2Proof.Machine

open Sys2Proof

/-! ### The value of an integer element -/

theorem wrap_of_lt {w v : Nat} (h : v < 2 ^ w) : wrap w v = v := by rw [wrap, pow2_eq, Nat.mod_eq_of_lt h]

theorem toSigned_cases {w a : Nat} (hw : 0 < w) (ha : a < 2 ^ w) : toSigned w a = if 2 ^ (w - 1) ≤ a then (a : Int) - 2 ^ w else a := by
  have hhalf := Nat.two_pow_pred_add_two_pow_pred hw
  rw [toSigned_eq_toInt (by omega) ha, BitVec.toInt_eq_toNat_cond, BitVec.toNat_ofNat, Nat.mod_eq_of_lt ha]
  by_cases htop : 2 ^ (w - 1) ≤ a
  · rw [if_neg (by omega), if_pos htop]
    norm_cast
  · rw [if_pos (by omega), if_neg htop]

section
variable {t : Ty}

theorem Ty.width_pos (hint : t.isInt = true) : 0 < t.width := by
  revert hint
  cases t <;> decide

/-- An integer element's value: its bits, or with the top bit set and a signed type two to the width less (R227). -/
theorem Ty.toInt_cases (hint : t.isInt = true) {a : Nat} (ha : a < 2 ^ t.width) :
    t.toInt a = if t.isSigned ∧ 2 ^ (t.width - 1) ≤ a then (a : Int) - 2 ^ t.width else a := by
  rw [Ty.toInt, wrap_of_lt ha]
  by_cases hsigned : t.isSigned = true
  · simp [hsigned, toSigned_cases (Ty.width_pos hint) ha]
  · simp [hsigned]

/-- The bits of an integer: the integer modulo two to the width (R227). -/
theorem Ty.ofInt_eq (t : Ty) (i : Int) : t.ofInt i = (i % 2 ^ t.width).toNat := by
  rw [Ty.ofInt, ofSigned, pow2_eq]
  norm_cast

theorem Ty.minInt_eq (t : Ty) : t.minInt = if t.isSigned then -2 ^ (t.width - 1) else 0 := by
  rw [Ty.minInt, pow2_eq]
  norm_cast

theorem Ty.maxInt_eq (t : Ty) : t.maxInt = if t.isSigned then 2 ^ (t.width - 1) - 1 else 2 ^ t.width - 1 := by
  rw [Ty.maxInt, pow2_eq, pow2_eq]
  norm_cast

theorem Ty.minInt_le_maxInt (t : Ty) : t.minInt ≤ t.maxInt := by
  have hhalf : (0 : Int) < 2 ^ (t.width - 1) := by positivity
  have hfull : (0 : Int) < 2 ^ t.width := by positivity
  rw [Ty.minInt_eq, Ty.maxInt_eq]
  split <;> omega

theorem Ty.clampInt_eq (t : Ty) (i : Int) : t.clampInt i = max t.minInt (min t.maxInt i) := by
  have hends := t.minInt_le_maxInt
  unfold Ty.clampInt
  split_ifs <;> omega

/-- The least value over minus one is the least value again: its quotient is out of the type by one and wraps (R227). -/
theorem Ty.ofInt_tdiv_minInt {a b : Nat} (hint : t.isInt = true) (ha : a < 2 ^ t.width) (hb : b < 2 ^ t.width) (hone : t.toInt b = -1)
    (hleast : t.toInt a = t.minInt) : t.ofInt (Int.tdiv (t.toInt a) (t.toInt b)) = a := by
  have hhalf : (2 : Int) ^ t.width = 2 * 2 ^ (t.width - 1) := by rw [← pow_succ', Nat.sub_add_cancel (Ty.width_pos hint)]
  have hpos : (0 : Int) < 2 ^ (t.width - 1) := by positivity
  have hsigned : t.isSigned = true := by
    by_contra hplain
    rw [Ty.toInt_cases hint hb, if_neg (by simp [hplain])] at hone
    omega
  have hquot : Int.tdiv (t.toInt a) (t.toInt b) = 2 ^ (t.width - 1) := by
    rw [hone, hleast, Ty.minInt_eq, if_pos hsigned]
    simp
  have hbits : (a : Int) = 2 ^ (t.width - 1) := by
    rw [Ty.toInt_cases hint ha, Ty.minInt_eq, if_pos hsigned] at hleast
    split at hleast <;> omega
  rw [hquot, Ty.ofInt_eq, ← hbits, Int.emod_eq_of_lt (by omega) (by omega), Int.toNat_natCast]

end

/-! ### Shifts and rotations, bit by bit -/

/-- An arithmetic shift right copies the top bit in, whatever the count. -/
theorem testBit_sar {w a n i : Nat} (hw : 0 < w) (ha : a < 2 ^ w) (hi : i < w) :
    (ofSigned w (toSigned w a / (pow2 (min n w) : Nat))).testBit i = if i + n < w then a.testBit (i + n) else a.testBit (w - 1) := by
  have hshift : ofSigned w (toSigned w a / (pow2 (min n w) : Nat)) = ((BitVec.ofNat w a).sshiftRight (min n w)).toNat := by
    rw [ofSigned_eq_toNat, toSigned_eq_toInt (by omega) ha, pow2_eq, BitVec.sshiftRight, Int.shiftRight_eq_div_pow]
  rw [hshift, ← BitVec.getLsbD, BitVec.getLsbD_sshiftRight, BitVec.msb_eq_getLsbD_last]
  simp only [BitVec.getLsbD_ofNat]
  by_cases hin : i + n < w
  · rw [if_pos hin, if_pos (by omega)]
    simp [hi, show min n w + i = i + n by omega, hin]
  · rw [if_neg hin, if_neg (by omega)]
    simp [hi, hw]

/-- Bit `i` goes to the place `n` further, round the width. -/
theorem testBit_rotl {w a n i : Nat} (ha : a < 2 ^ w) (hi : i < w) : (rotl w a n).testBit ((i + n) % w) = a.testBit i := by
  have hw : 0 < w := by omega
  have hn : n % w < w := Nat.mod_lt n hw
  have hbeyond (j : Nat) (hj : w ≤ j) : a.testBit j = false := Nat.testBit_lt_two_pow (ha.trans_le (Nat.pow_le_pow_right (by decide) hj))
  rw [← Nat.add_mod_mod, rotl, wrap, pow2_eq, Nat.testBit_mod_two_pow, Nat.testBit_or, Nat.testBit_shiftLeft, Nat.testBit_shiftRight]
  generalize n % w = k at hn
  rw [decide_eq_true (Nat.mod_lt _ hw), Bool.true_and]
  by_cases hround : i + k < w
  · rw [Nat.mod_eq_of_lt hround, hbeyond (w - k + (i + k)) (by omega), decide_eq_true (by omega), Nat.add_sub_cancel]
    simp
  · rw [Nat.mod_eq_sub_mod (by omega), Nat.mod_eq_of_lt (by omega), decide_eq_false (by omega), show w - k + (i + k - w) = i by omega]
    simp

theorem rotl_lt (w a n : Nat) : rotl w a n < 2 ^ w := by
  rw [rotl, wrap, pow2_eq]
  exact Nat.mod_lt _ (Nat.two_pow_pos w)

/-- A rotation right is the rotation left by what is left of the width. -/
theorem testBit_rotr {w a n i : Nat} (ha : a < 2 ^ w) (hi : i < w) : (rotl w a (w - n % w)).testBit i = a.testBit ((i + n) % w) := by
  have hw : 0 < w := by omega
  have hn : n % w < w := Nat.mod_lt n hw
  have hback : ((i + n) % w + (w - n % w)) % w = i := by
    rw [Nat.mod_add_mod, Nat.add_assoc, show n + (w - n % w) = w * (n / w + 1) by rw [Nat.mul_succ]; have := Nat.div_add_mod n w; omega, Nat.add_mul_mod_self_left,
      Nat.mod_eq_of_lt hi]
  rw [← testBit_rotl ha (Nat.mod_lt _ hw), hback]

/-! ### The ops on integer elements -/

section
variable {x : EArg} {a b c : Nat} (s : Srcs)

theorem num1_int (hint : x.ty.isInt = true) (ha : s.a = some (.bits a)) (ff : Fmt → FVal → Nat) (fi : Int → Int) :
    num1 x s ff fi = some (.bits (x.ty.ofInt (fi (x.ty.toInt a)))) := by
  simp [num1, on1, rbits, ha, hint, Val.n]

theorem num2_int (hint : x.ty.isInt = true) (ha : s.a = some (.bits a)) (hb : s.b = some (.bits b)) (ff : Fmt → FVal → FVal → Nat) (fi : Int → Int → Option Int) :
    num2 x s ff fi = (fi (x.ty.toInt a) (x.ty.toInt b)).map (fun i => .bits (x.ty.ofInt i)) := by
  simp [num2, on2, ha, hb, hint, Val.n]

theorem num3_int (hint : x.ty.isInt = true) (ha : s.a = some (.bits a)) (hb : s.b = some (.bits b)) (hc : s.c = some (.bits c))
    (ff : Fmt → FVal → FVal → FVal → Nat) (fi : Int → Int → Int → Int) :
    num3 x s ff fi = some (.bits (x.ty.ofInt (fi (x.ty.toInt a) (x.ty.toInt b) (x.ty.toInt c)))) := by
  simp [num3, on3, rbits, ha, hb, hc, hint, Val.n]

theorem satOp_bits (ha : s.a = some (.bits a)) (hb : s.b = some (.bits b)) (f : Int → Int → Int) :
    satOp x s f = some (.bits (x.ty.ofInt (max x.ty.minInt (min x.ty.maxInt (f (x.ty.toInt a) (x.ty.toInt b)))))) := by
  simp [satOp, on2, rbits, ha, hb, Val.n, Ty.clampInt_eq]

theorem shiftOp_bits {n : Nat} (ha : s.a = some (.bits a)) (hb : s.b = some (.bits n)) (hwidth : a < 2 ^ x.ty.width) (hn : n < 2 ^ 32) (f : Nat → Nat → Nat → Nat) :
    shiftOp x s f = some (.bits (f x.ty.width a n)) := by
  simp [shiftOp, on2, rbits, ha, hb, Val.n, wrap_of_lt hwidth, wrap_of_lt hn]

end

/-! ### TIME_US as U64 -/

/-- The type as which the ops take a type: U64 for TIME_US (R227). -/
def Ty.asU64 (t : Ty) : Ty := if t = .time then .u64 else t

/-- What an op reads, with TIME_US as U64. -/
def EArg.asU64 (x : EArg) : EArg := { x with ty := x.ty.asU64, td := x.td.asU64, ta := x.ta.asU64, tb := x.tb.asU64, tc := x.tc.asU64 }

section
variable (t : Ty)

@[simp] theorem Ty.asU64_width : t.asU64.width = t.width := by cases t <;> rfl
@[simp] theorem Ty.asU64_isInt : t.asU64.isInt = t.isInt := by cases t <;> rfl
@[simp] theorem Ty.asU64_isSigned : t.asU64.isSigned = t.isSigned := by cases t <;> rfl
@[simp] theorem Ty.asU64_isF : t.asU64.isF = t.isF := by cases t <;> rfl
@[simp] theorem Ty.asU64_isFloat : t.asU64.isFloat = t.isFloat := by cases t <;> rfl
@[simp] theorem Ty.asU64_fmt : t.asU64.fmt = t.fmt := by cases t <;> rfl
@[simp] theorem Ty.asU64_eq_str : t.asU64 = .str ↔ t = .str := by cases t <;> decide
@[simp] theorem Ty.asU64_bytes : t.asU64.bytes = t.bytes := by simp [Ty.bytes]
@[simp] theorem Ty.asU64_minInt : t.asU64.minInt = t.minInt := by simp [Ty.minInt]
@[simp] theorem Ty.asU64_maxInt : t.asU64.maxInt = t.maxInt := by simp [Ty.maxInt]
@[simp] theorem Ty.asU64_toInt (n : Nat) : t.asU64.toInt n = t.toInt n := by simp [Ty.toInt]
@[simp] theorem Ty.asU64_ofInt (i : Int) : t.asU64.ofInt i = t.ofInt i := by simp [Ty.ofInt]
@[simp] theorem Ty.asU64_inRange (i : Int) : t.asU64.inRange i = t.inRange i := by simp [Ty.inRange]
@[simp] theorem Ty.asU64_clampInt (i : Int) : t.asU64.clampInt i = t.clampInt i := by simp [Ty.clampInt]
@[simp] theorem byteForm_asU64 (v : Val) : byteForm t.asU64 v = byteForm t v := by cases t <;> rfl
@[simp] theorem concatForm_asU64 (v : Val) : concatForm t.asU64 v = concatForm t v := by simp [concatForm]
@[simp] theorem compare?_asU64 (a b : Val) : compare? t.asU64 a b = compare? t a b := by simp [compare?]
@[simp] theorem boundLe_asU64 (b v : Nat) : boundLe t.asU64 b v = boundLe t b v := by simp [boundLe]
@[simp] theorem convertTy_asU64 (ta : Ty) (mode : Rnd) (sat : Bool) (n : Nat) : convertTy t.asU64 ta.asU64 mode sat n = convertTy t ta mode sat n := by simp [convertTy]

@[simp] theorem bucketSearch_asU64 (bs : List Nat) (v : Nat) : ∀ n lo hi : Nat, bucketSearch t.asU64 bs v n lo hi = bucketSearch t bs v n lo hi
  | 0, _, _ => rfl
  | n + 1, lo, hi => by simp [bucketSearch, bucketSearch_asU64 bs v n]

end

section
variable (x : EArg) (s : Srcs)

@[simp] theorem EArg.asU64_ty : x.asU64.ty = x.ty.asU64 := rfl
@[simp] theorem EArg.asU64_td : x.asU64.td = x.td.asU64 := rfl
@[simp] theorem EArg.asU64_ta : x.asU64.ta = x.ta.asU64 := rfl
@[simp] theorem EArg.asU64_imm : x.asU64.imm = x.imm := rfl
@[simp] theorem EArg.asU64_k0 : x.asU64.k0 = x.k0 := rfl
@[simp] theorem EArg.asU64_bounds : x.asU64.bounds = x.bounds := rfl
@[simp] theorem EArg.asU64_dict : x.asU64.dict = x.dict := rfl

@[simp] theorem num1_asU64 (ff : Fmt → FVal → Nat) (fi : Int → Int) : num1 x.asU64 s ff fi = num1 x s ff fi := by simp [num1]
@[simp] theorem num2_asU64 (ff : Fmt → FVal → FVal → Nat) (fi : Int → Int → Option Int) : num2 x.asU64 s ff fi = num2 x s ff fi := by simp [num2]
@[simp] theorem num3_asU64 (ff : Fmt → FVal → FVal → FVal → Nat) (fi : Int → Int → Int → Int) : num3 x.asU64 s ff fi = num3 x s ff fi := by simp [num3]
@[simp] theorem flt1_asU64 (f : Fmt → FVal → Nat) : flt1 x.asU64 s f = flt1 x s f := by simp [flt1]
@[simp] theorem satOp_asU64 (f : Int → Int → Int) : satOp x.asU64 s f = satOp x s f := by simp [satOp]
@[simp] theorem cmpOp_asU64 (nan : Bool) (f : Int → Bool) : cmpOp x.asU64 s nan f = cmpOp x s nan f := by simp [cmpOp]
@[simp] theorem fltTest_asU64 (f : FVal → Bool) : fltTest x.asU64 s f = fltTest x s f := by simp [fltTest]
@[simp] theorem bitOp_asU64 (f : Nat → Nat → Nat) : bitOp x.asU64 s f = bitOp x s f := by simp [bitOp]
@[simp] theorem shiftOp_asU64 (f : Nat → Nat → Nat → Nat) : shiftOp x.asU64 s f = shiftOp x s f := by simp [shiftOp]
@[simp] theorem countOp_asU64 (f : Nat → Nat → Nat) : countOp x.asU64 s f = countOp x s f := by simp [countOp]

@[simp] theorem elDstr_asU64 : elDstr x.asU64 s = elDstr x s := rfl

/-- Every elementwise op reads the types through what TIME_US and U64 share: the width, the class, the sign, the byte form (R227). -/
theorem elementOp_asU64 {op : Nat} {f : EArg → Srcs → Option Val} (h : elementOp op = some f) : f x.asU64 s = f x s := by
  unfold elementOp at h
  split at h
  all_goals cases h
  all_goals simp [elMov, elValid, elSetnull, elCoalesce, elSel, elAdd, elSub, elMul, elDiv, elFma, elNeg, elAbs, elMin, elMax, elClamp, elSqrt, elRecip, elRsqrt,
    elExp, elLog, elLog1p, elExpm1, elFloor, elCeil, elRint, elTrunc, elMod, elAdds, elSubs, elMuls, elSign, elCopysign, elCmpeq, elCmpne, elCmplt, elCmple,
    elCmpgt, elCmpge, elIsnan, elIsinf, elIsfin, elAnd, elOr, elXor, elNot, elAndn, elShl, elShr, elSar, elRotl, elRotr, elPopcnt, elClz, elCtz, elBswap,
    elCvt, elCvts, elReint, elTimepart, elTimetrunc, elXxh64, elMur3l, elMur3h, elCrc32c, elXxh64c, elHmod, elHbucket, elBucket, elBucketw, elSlen, elSchars,
    elSlower, elSupper, elSsub, elSprefix, elSsuffix, elSfind, elSfield, elStoi, elStof, elScat]

end

end Sys2Proof.Machine

namespace Sys2Proof

open Sys2Proof.Machine

/-- Settles O44: each op is its integer function on the values of its sources, wrapped or limited; the shifts bit by bit; a type only by what U64 shares. -/
theorem integerOps : Obligations.IntegerOps := by
  refine ⟨fun x a b c n hint ha hb hc hn => ?_, fun op f x s hop => (elementOp_asU64 x s hop).symm⟩
  intro w v wrapped lo hi limited two count
  have hv {m : Nat} (hm : m < 2 ^ w) : x.ty.toInt m = v m := Ty.toInt_cases hint hm
  have hwrapped (i : Int) : wrapped i = some (.bits (x.ty.ofInt i)) := by rw [Ty.ofInt_eq]
  have hlimited (i : Int) : limited i = some (.bits (x.ty.ofInt (max x.ty.minInt (min x.ty.maxInt i)))) := by
    rw [Ty.minInt_eq, Ty.maxInt_eq]
    exact hwrapped _
  have hquot (q : Int → Int → Int) (ff : Fmt → FVal → FVal → Nat) : num2 x two ff (fun a b => if b = 0 then none else some (q a b)) =
      if x.ty.toInt b = 0 then none else some (.bits (x.ty.ofInt (q (x.ty.toInt a) (x.ty.toInt b)))) := by
    rw [num2_int two hint rfl rfl]
    split <;> rfl
  have hshift (f : Nat → Nat → Nat → Nat) : shiftOp x count f = some (.bits (f w a n)) := shiftOp_bits count rfl rfl ha hn f
  simp only [hwrapped, hlimited, ← hv ha, ← hv hb, ← hv hc]
  refine ⟨num2_int two hint rfl rfl _ _, num2_int two hint rfl rfl _ _, num2_int two hint rfl rfl _ _, num3_int two hint rfl rfl rfl _ _, num1_int two hint rfl _ _,
    num1_int two hint rfl _ _, satOp_bits two rfl rfl _, satOp_bits two rfl rfl _, satOp_bits two rfl rfl _, hquot Int.tdiv _, hquot Int.tmod _,
    fun hone hleast => ?_, ?_, ?_, ⟨_, hshift _, ofSigned_lt _ _, fun i hi => testBit_sar (Ty.width_pos hint) ha hi⟩,
    ⟨_, hshift _, rotl_lt _ _ _, fun i hi => testBit_rotl ha hi⟩, ⟨_, hshift _, rotl_lt _ _ _, fun i hi => testBit_rotr ha hi⟩⟩
  · rw [elDiv, hquot Int.tdiv, if_neg (by omega), Ty.ofInt_tdiv_minInt hint ha hb hone (by rw [hleast, Ty.minInt_eq])]
  · rw [elShl, hshift, wrap, pow2_eq, Nat.shiftLeft_eq]
  · rw [elShr, hshift, Nat.shiftRight_eq_div_pow]

end Sys2Proof
end

section
/-!
PROOFS. The next word of a row group (08 R223, R228): the group in which a word runs, what a due word comes to, and the elementwise words.
-/

namespace Sys2Proof.Machine

open Sys2Proof

/-! ### One word of the op table -/

section
variable {e : KEnv} {w : PWord} {x y : KM} {f : EArg → Srcs → Option Val}

theorem kstep_word (hpc : x.c.pc < e.s.programWords) (hsteps : x.c.steps < 1048576) :
    kstep e x = kexec e (progWord e.im e.s x.c.pc) { x with c := { x.c with pc := x.c.pc + 1, steps := x.c.steps + 1 } } := by
  rw [kstep, if_neg (by omega), if_neg (by omega)]

/-- A group that has used its words takes no more (R223). -/
theorem kstep_limit (hpc : x.c.pc < e.s.programWords) (hsteps : 1048576 ≤ x.c.steps) : kstep e x = .error (.fault 0x0801 x.c.pc x.c.first) := by
  rw [kstep, if_neg (by omega), if_pos hsteps]

theorem kread_ok {region off len : Nat} {b : Bytes} (hread : regRead e.m x.d (bindingOr (getJob x.d e.slot) region) off len = .ok b) :
    kread e x region off len = .ok b := by
  rw [kread, hread]

/-- An elementwise word whose dictionary can be read and whose results fit the heap writes them. -/
theorem kexec_element {dict : Bytes} (hop : elementOp w.op = some f)
    (hdict : if w.op = 0x83 then kread e x w.imm 0 (bindingOr (getJob x.d e.slot) w.imm).bytes = .ok dict else dict = [])
    (hheap : heapAfter w.op x.c (elementOut f e w x.c dict) ≤ e.p.heap) :
    kexec e w x = .ok { x with c := { writeOp x.c w.d (elementOut f e w x.c dict) with heap := heapAfter w.op x.c (elementOut f e w x.c dict) } } := by
  have hread : (if w.op = 0x83 then kread e x w.imm 0 (bindingOr (getJob x.d e.slot) w.imm).bytes else .ok []) = .ok dict := by
    split at hdict
    · rwa [if_pos ‹_›]
    · rw [if_neg ‹_›, hdict]
  rw [kexec, hop]
  dsimp only
  rw [kElement, hread]
  dsimp only
  rw [if_neg (by omega)]

end

/-- The rows of the op table run the next word of their code. -/
theorem exec_word : ∀ r ∈ elementRows ++ otherWordRows, ∀ ka w s, exec (r.2 ka w) s = kernelRow r.1 ka w s := by
  simp only [elementRows, otherWordRows, List.cons_append, List.nil_append, List.forall_mem_cons, List.not_mem_nil, IsEmpty.forall_iff, implies_true, and_true]
  and_intros <;> intros <;> rfl

end Sys2Proof.Machine

namespace Sys2Proof

open Sys2Proof.Machine

/-- The device in which a word of a station finds its row group open: as it is, or with the next group opened where that can be (R223). -/
def GroupOpen (s : State) (slot st : Nat) (d : Dev) : Prop :=
  (kernelSt s.dev slot st).ctx ≠ none ∧ d = rowStart s ∨
  (kernelSt s.dev slot st).ctx = none ∧ (getSt s.dev slot st).ended = false ∧ outBlocked s.dev slot st = false ∧ openGroup slot st (rowStart s) = .ready d

section
variable {s : State} {ka : KAt} {op : Nat} {w : KWord} {c : Ctx} {i : Instr} {y : KM}

/-- A word runs as the next word of the group that is open for it. -/
theorem takes_word {d : Dev} (hat : AtStation s ka.slot ka.station (· = .kernel)) (hexec : exec i s = kernelRow op ka w s) (hopen : GroupOpen s ka.slot ka.station d)
    (hctx : (kernelSt d ka.slot ka.station).ctx = some c) (hpc : c.pc < (descSt d ka.slot ka.station).programWords)
    (hword : progWord (getJob d ka.slot).image (descSt d ka.slot ka.station) c.pc = w.prog op) :
    Takes i s (kfinish ka.slot ka.station d (kstep (kenv s.mem d ka.slot ka.station) { d := d, k := { kernelSt d ka.slot ka.station with ctx := none }, c := c })) := by
  refine takes_of_settle (hexec.trans (onStation_at hat _)) ?_
  have hdue : ¬((kenv s.mem d ka.slot ka.station).s.programWords ≤ c.pc ∨ progWord (kenv s.mem d ka.slot ka.station).im (kenv s.mem d ka.slot ka.station).s c.pc ≠
      { op := op, ty := w.ty, d := w.d, a := w.a, b := w.b, c := w.c, imm := w.imm }) := by
    rintro (hend | hother)
    · exact absurd hpc (Nat.not_lt.mpr hend)
    · exact hother hword
  have hready : (if (kernelSt (rowStart s) ka.slot ka.station).ctx.isSome then .ready (rowStart s)
      else if (getSt (rowStart s) ka.slot ka.station).ended then .none
      else if outBlocked (rowStart s) ka.slot ka.station then .waits
      else openGroup ka.slot ka.station (rowStart s)) = Opening.ready d := by
    rcases hopen with ⟨hsome, rfl⟩ | ⟨hnone, hgoes, hfree, hnext⟩
    · exact if_pos (Option.isSome_iff_ne_none.mpr hsome)
    · have hclosed : (kernelSt (rowStart s) ka.slot ka.station).ctx.isSome = false := Option.isSome_eq_false_iff.mpr (Option.isNone_iff_eq_none.mpr hnone)
      have hgoes' : (getSt (rowStart s) ka.slot ka.station).ended = false := hgoes
      have hfree' : outBlocked (rowStart s) ka.slot ka.station = false := hfree
      simp only [hclosed, hgoes', hfree', hnext, Bool.false_eq_true, if_false]
  dsimp only
  rw [hready]
  dsimp only
  rw [hctx]
  dsimp only
  rw [if_neg hdue]

/-- A due word has the effect of its op. -/
theorem takes_due (hdue : WordDue s ka op w c) (hexec : exec i s = kernelRow op ka w s) :
    Takes i s (kfinish ka.slot ka.station (rowStart s) (kexec (kenv s.mem (rowStart s) ka.slot ka.station) (w.prog op) (wordStart s ka c))) := by
  obtain ⟨hat, hctx, hpc, hsteps, hword⟩ := hdue
  have htakes := takes_word (d := rowStart s) hat hexec (.inl ⟨by rw [hctx]; exact Option.some_ne_none c, rfl⟩) hctx hpc hword
  rw [kstep_word hpc hsteps] at htakes
  have hprog : progWord (kenv s.mem (rowStart s) ka.slot ka.station).im (kenv s.mem (rowStart s) ka.slot ka.station).s c.pc = w.prog op := hword
  rw [hprog] at htakes
  exact htakes

/-- A due word that ends normally leaves the group behind it. -/
theorem takes_wordEnd (hdue : WordDue s ka op w c) (hexec : exec i s = kernelRow op ka w s)
    (hok : kexec (kenv s.mem (rowStart s) ka.slot ka.station) (w.prog op) (wordStart s ka c) = .ok y) : Takes i s (wordEnd ka y) := by
  have htakes := takes_due hdue hexec
  rw [hok] at htakes
  exact htakes

end

/-- Settles O40: an elementwise word writes the results of its op. -/
theorem elementWords : Obligations.ElementWords := by
  intro s ka w c r f dict hr hdue hop e x reg hdict out hheap
  refine takes_wordEnd hdue (exec_word r (List.mem_append_left _ hr) ka w s) (kexec_element hop ?_ hheap)
  split at hdict
  · exact (if_pos ‹_›).mpr (kread_ok hdict)
  · exact (if_neg ‹_›).mpr hdict

end Sys2Proof
end

section
/-!
PROOFS. The plain kernel words (08 R223, R228, R229, R241, R243): branches and counts, payload offsets, table elements, and the settled statement.
-/

namespace Sys2Proof.Machine

open Sys2Proof

/-! ### The valid rows of a BOOL operand -/

theorem length_filter_id (bs : List Bool) : (bs.filter id).length = bs.count true := by
  rw [List.count, List.countP_eq_length_filter]
  congr
  funext b
  cases b <;> rfl

theorem b2n_any_id (bs : List Bool) : b2n (bs.any id) = if true ∈ bs then 1 else 0 := by simp [b2n]

theorem b2n_all_id (bs : List Bool) : b2n (bs.all id) = if false ∈ bs then 0 else 1 := by
  by_cases h : false ∈ bs
  · simp [b2n, h]
  · have hall : bs.all id = true := List.all_eq_true.mpr (fun b hb => by cases b with
      | false => exact absurd hb h
      | true => rfl)
    simp [b2n, h, hall]

section
variable {e : KEnv} {w : PWord} {x : KM}

/-- SCOUNT counts the valid rows that are 1, SANY tells of one, SALL of none that is 0 (R228). -/
theorem kScount_eq : kScount e w x = .ok { x with c := x.c.setScalar w.d ((boolBits e w x).count true) } := by rw [kScount, length_filter_id]

theorem kSany_eq : kSany e w x = .ok { x with c := x.c.setScalar w.d (if true ∈ boolBits e w x then 1 else 0) } := by rw [kSany, b2n_any_id]

theorem kSall_eq : kSall e w x = .ok { x with c := x.c.setScalar w.d (if false ∈ boolBits e w x then 0 else 1) } := by rw [kSall, b2n_all_id]

/-! ### Branches -/

/-- The word behind a branch that is taken (R223). -/
def KM.jumped (w : PWord) (x : KM) : KM := { x with c := { x.c with pc := ((x.c.pc : Int) + toSigned 16 w.imm).toNat } }

theorem kBrz_eq : kBrz e w x = .ok (if rawOp e.p x.c w.a = 0 then x.jumped w else x) := by
  by_cases hzero : rawOp e.p x.c w.a = 0 <;> simp [kBrz, branch, KM.jumped, hzero]

theorem kBrnz_eq : kBrnz e w x = .ok (if rawOp e.p x.c w.a = 0 then x else x.jumped w) := by
  by_cases hzero : rawOp e.p x.c w.a = 0 <;> simp [kBrnz, branch, KM.jumped, hzero]

/-! ### Operands in range -/

/-- LDCOL of a column that no row has in another type (R228). -/
theorem kLdcol_ok (hty : ∀ r ∈ portRows x (field w.imm 10 8), ∀ row, r = some row → ∀ u, Row.ty row (field w.imm 5 0) = some u → u = e.p.slotTy w.d) :
    kLdcol e w x = .ok { x with c := x.c.setSlot w.d ((portRows x (field w.imm 10 8)).map (fun r => r.bind (fun r => Row.get r (field w.imm 5 0)))) } := by
  have hnone : (portRows x (field w.imm 10 8)).findIdx? (fun r =>
      ((r.bind (fun r => Row.ty r (field w.imm 5 0))).map (fun u => decide (u ≠ e.p.slotTy w.d))).getD false) = none := by
    refine List.findIdx?_eq_none_iff.mpr (fun r hr => ?_)
    cases r with
    | none => rfl
    | some row =>
      cases hcol : Row.ty row (field w.imm 5 0) with
      | none => simp [hcol]
      | some u => simp [hcol, hty _ hr row rfl u hcol]
  rw [kLdcol, hnone]

/-- Payload offsets within 4,096 (R228). -/
theorem badOffset_eq_none {offs : List (Option Val)} {width : Nat} (h : ∀ o ∈ offs, ∀ v, o = some v → v.n + width ≤ 4096) : badOffset offs width = none := by
  refine List.findIdx?_eq_none_iff.mpr (fun o ho => ?_)
  cases o with
  | none => rfl
  | some v => simpa using h _ ho v rfl

theorem kLdpay_ok (h : ∀ o ∈ readOp e.p x.c (if w.d < 0x40 then x.c.n else 1) w.a .u32, ∀ v, o = some v → v.n + w.type.bytes ≤ 4096) : ∃ y, kLdpay e w x = .ok y := by
  rw [kLdpay]
  dsimp only
  rw [badOffset_eq_none h]
  exact ⟨_, rfl⟩

theorem kStpay_ok (h : ∀ o ∈ readOp e.p x.c (if w.a < 0x40 ∨ w.b < 0x40 then x.c.n else 1) w.b .u32, ∀ v, o = some v → v.n + w.type.bytes ≤ 4096) :
    ∃ y, kStpay e w x = .ok y := by
  rw [kStpay]
  dsimp only
  rw [badOffset_eq_none h]
  exact ⟨_, rfl⟩

/-- The index lies in the table region and its element can be read (R228). -/
def InTable (e : KEnv) (x : KM) (region : Nat) (t : Ty) (i : Int) : Prop :=
  0 ≤ i ∧ (i.toNat + 1) * t.bytes ≤ (bindingOr (getJob x.d e.slot) region).bytes ∧
    ∃ b, regRead e.m x.d (bindingOr (getJob x.d e.slot) region) (i.toNat * t.bytes) t.bytes = .ok b

theorem tableElem_ok {region i : Nat} {t : Ty} {b : Bytes} (hread : regRead e.m x.d (bindingOr (getJob x.d e.slot) region) (i * t.bytes) t.bytes = .ok b) :
    tableElem e x region i t = .ok (some (.bits (leNat b))) := by
  rw [tableElem, kread_ok hread]

theorem loadTable_ok {region : Nat} {t ta : Ty} : ∀ {vs : List (Option Val)}, (∀ o ∈ vs, ∀ v, o = some v → InTable e x region t (ta.toInt v.n)) → ∀ i : Nat,
    ∃ rs, loadTable e x region t ta vs i = .ok rs
  | [], _, _ => ⟨[], rfl⟩
  | v :: vs, h, i => by
    obtain ⟨rs, hrest⟩ := loadTable_ok (fun o ho => h o (List.mem_cons_of_mem v ho)) (i + 1)
    cases v with
    | none =>
      rw [loadTable, hrest]
      exact ⟨_, rfl⟩
    | some v =>
      obtain ⟨hpos, hend, b, hread⟩ := h _ List.mem_cons_self v rfl
      rw [loadTable, hrest]
      dsimp only
      rw [if_neg (by omega), tableElem_ok hread]
      exact ⟨_, rfl⟩

theorem kLdtab_ok (h : ∀ o ∈ readOp e.p x.c (if w.d < 0x40 then x.c.n else 1) w.a (operandTy e.p w.type .index w.a), ∀ v, o = some v →
    InTable e x w.imm w.type ((operandTy e.p w.type .index w.a).toInt v.n)) : ∃ y, kLdtab e w x = .ok y := by
  obtain ⟨rs, hload⟩ := loadTable_ok h 0
  rw [kLdtab, hload]
  exact ⟨_, rfl⟩

end

end Sys2Proof.Machine

namespace Sys2Proof

open Sys2Proof.Machine

section
variable {s : State} {ka : KAt} {op : Nat} {w : KWord} {c : Ctx} {i : Instr}

/-- A due word whose op answers completes. -/
theorem takes_word_of_ok {f : KEnv → PWord → KM → KRes} (hdue : WordDue s ka op w c) (hexec : exec i s = kernelRow op ka w s)
    (hop : kexec (kenv s.mem (rowStart s) ka.slot ka.station) (w.prog op) (wordStart s ka c) =
      f (kenv s.mem (rowStart s) ka.slot ka.station) (w.prog op) (wordStart s ka c))
    (hok : ∃ y, f (kenv s.mem (rowStart s) ka.slot ka.station) (w.prog op) (wordStart s ka c) = .ok y) :
    ∃ y, f (kenv s.mem (rowStart s) ka.slot ka.station) (w.prog op) (wordStart s ka c) = .ok y ∧ Takes i s (wordEnd ka y) := by
  obtain ⟨y, hy⟩ := hok
  exact ⟨y, hy, takes_wordEnd hdue hexec (hop.trans hy)⟩

end

/-- Settles O41, word by word. -/
theorem plainWords : Obligations.PlainWords := by
  intro s ka w c op hdue e x p at' bools jump
  refine ⟨?_, ?_, ?_, ?_, ?_, ?_, ?_, ?_, ?_, ?_, ?_, ?_, ?_, ?_, ?_, ?_, ?_, ?_, ?_⟩ <;> rintro rfl
  · exact takes_wordEnd hdue rfl rfl
  · exact takes_word_of_ok hdue rfl rfl ⟨_, rfl⟩
  · exact takes_wordEnd hdue rfl rfl
  · exact takes_word_of_ok hdue rfl rfl ⟨_, rfl⟩
  · exact takes_wordEnd hdue rfl rfl
  · rw [show jump = wordEnd ka (x.jumped p) from rfl, ← apply_ite (wordEnd ka)]
    exact takes_wordEnd hdue rfl kBrz_eq
  · rw [show jump = wordEnd ka (x.jumped p) from rfl, ← apply_ite (wordEnd ka)]
    exact takes_wordEnd hdue rfl kBrnz_eq
  · exact takes_due hdue rfl
  · exact takes_wordEnd hdue rfl kScount_eq
  · exact takes_wordEnd hdue rfl kSany_eq
  · exact takes_wordEnd hdue rfl kSall_eq
  · exact takes_wordEnd hdue rfl rfl
  · exact takes_word_of_ok hdue rfl rfl ⟨_, rfl⟩
  · exact takes_word_of_ok hdue rfl rfl ⟨_, rfl⟩
  · exact takes_word_of_ok hdue rfl rfl ⟨_, rfl⟩
  · exact fun hty => takes_wordEnd hdue rfl (kLdcol_ok hty)
  · exact fun hoffs => takes_word_of_ok hdue rfl rfl (kLdpay_ok hoffs)
  · exact fun hoffs => takes_word_of_ok hdue rfl rfl (kStpay_ok hoffs)
  · exact fun hidx => takes_word_of_ok hdue rfl rfl (kLdtab_ok hidx)

end Sys2Proof
end

section
/-!
PROOFS. Cells and their counts (08 R235): what a write of a cell leaves, and folds of cells in range whose counts stay below their end.
-/

namespace Sys2Proof.Machine

open Sys2Proof

/-! ### One cell -/

/-- A cell after the write of one: the written value, or what it was. -/
theorem getCell_setCell (k : KernelSt) (arr cell kind n : Nat) (v : KCell) :
    getCell (setCell k arr cell v) arr kind n = v ∧ n = cell ∨ getCell (setCell k arr cell v) arr kind n = getCell k arr kind n := by
  rw [getCell, setCell, modifyAt_getD]
  by_cases harr : arr < k.arrays.length
  · rw [if_pos ⟨rfl, harr⟩, assocGet_set]
    by_cases hn : n = cell
    · exact .inl ⟨by simp [hn], hn⟩
    · exact .inr (by simp [hn, getCell])
  · rw [if_neg (fun h => harr h.2)]
    exact .inr rfl

section
variable {a : ArrD}

/-- Two cells whose counts together fit 64 bits join to a cell of no more (R235). -/
theorem joinCells_terms (x y : KCell) (h : x.terms + y.terms < 2 ^ 64) : ∃ z, joinCells a x y = some z ∧ z.terms ≤ x.terms + y.terms := by
  match x, y, h with
  | .sum p, .sum q, h => exact ⟨_, (joinCells_sum a p q).trans (if_neg (Nat.not_le.mpr h)), Nat.le_refl _⟩
  | .count p, .count q, h => exact ⟨_, (joinCells_count a p q).trans (if_neg (Nat.not_le.mpr h)), Nat.le_refl _⟩
  | .ext s v, .ext t u, _ =>
    simp only [joinCells]
    split_ifs <;> exact ⟨_, rfl, Nat.le_refl 0⟩
  | .sum p, .count _, _ | .sum p, .ext _ _, _ => exact ⟨.sum p, rfl, Nat.le_add_right _ _⟩
  | .count p, .sum _, _ | .count p, .ext _ _, _ => exact ⟨.count p, rfl, Nat.le_add_right _ _⟩
  | .ext s v, .sum _, _ | .ext s v, .count _, _ => exact ⟨.ext s v, rfl, Nat.zero_le _⟩

/-- The terms that every cell of the array can still count. -/
def RoomFor (a : ArrD) (arr : Nat) (k : KernelSt) (n : Nat) : Prop := ∀ cell, (getCell k arr a.kind cell).terms + n < 2 ^ 64

theorem RoomFor.mono {arr n m : Nat} {k : KernelSt} (h : RoomFor a arr k n) (hm : m ≤ n) : RoomFor a arr k m :=
  fun cell => Nat.lt_of_le_of_lt (Nat.add_le_add_left hm _) (h cell)

/-- A cell in range takes a term for which every cell has room, and each keeps the room for the rest. -/
theorem foldCell_room {arr cell n : Nat} {v : KCell} {k : KernelSt} (hcell : cell < a.cells) (hroom : RoomFor a arr k (v.terms + n)) :
    ∃ k', foldCell a arr cell v k = .ok k' ∧ RoomFor a arr k' n := by
  have hold := hroom cell
  obtain ⟨z, hjoin, hterms⟩ := joinCells_terms (a := a) (getCell k arr a.kind cell) v (by omega)
  refine ⟨setCell k arr cell z, by rw [foldCell, if_neg (by omega), hjoin], fun m => ?_⟩
  rcases getCell_setCell k arr cell a.kind m z with ⟨hz, _⟩ | hkept
  · rw [hz]
    omega
  · rw [hkept]
    exact hroom.mono (Nat.le_add_left _ _) m

/-- Terms in range for which every cell has room are all taken. -/
theorem foldCells_ok {arr : Nat} : ∀ {ts : List (Nat × KCell)} {k : KernelSt}, (∀ t ∈ ts, t.1 < a.cells) → RoomFor a arr k (ts.map (fun t => t.2.terms)).sum →
    ∃ k', foldCells a arr ts k = .ok k'
  | [], k, _, _ => ⟨k, rfl⟩
  | (cell, v) :: ts, k, hcells, hroom => by
    obtain ⟨k', hfold, hrest⟩ := foldCell_room (hcells _ List.mem_cons_self) hroom
    rw [foldCells, hfold]
    exact foldCells_ok (fun t ht => hcells t (List.mem_cons_of_mem _ ht)) hrest

/-! ### Terms of the rows of a group -/

/-- The cells named lie in the array. -/
def CellsBelow (a : ArrD) (cs : List (Option Nat)) : Prop := ∀ o ∈ cs, ∀ n, o = some n → n < a.cells

theorem mem_of_getD_eq_some {α : Type} {xs : List (Option α)} {i : Nat} {v : α} (h : xs.getD i none = some v) : some v ∈ xs := by
  rw [List.getD_eq_getElem?_getD] at h
  cases hi : xs[i]? with
  | none => simp [hi] at h
  | some o =>
    rw [hi] at h
    exact h ▸ List.mem_of_getElem? hi

theorem CellsBelow.getD {cs : List (Option Nat)} (h : CellsBelow a cs) {i n : Nat} (hi : cs.getD i none = some n) : n < a.cells :=
  h _ (mem_of_getD_eq_some hi) n rfl

section
variable {w : PWord} {x : KM}

theorem accDone_ok {ts : List (Nat × KCell)} (hcells : ∀ t ∈ ts, t.1 < a.cells) (hroom : RoomFor a (field w.imm 3 0) x.k (ts.map (fun t => t.2.terms)).sum) :
    ∃ y, accDone a w x ts = .ok y := by
  obtain ⟨k, hfold⟩ := foldCells_ok hcells hroom
  rw [accDone, hfold]
  exact ⟨_, rfl⟩

/-- Terms of the rows, one or none of each: in range, each of one term, with room for as many as there are rows (R225, R235). -/
theorem accDone_rows {f : Nat → Option (Nat × KCell)} (hf : ∀ i t, f i = some t → t.1 < a.cells ∧ t.2.terms ≤ 1) (hroom : RoomFor a (field w.imm 3 0) x.k x.c.n) :
    ∃ y, accDone a w x ((List.range x.c.n).filterMap f) = .ok y := by
  have hterm : ∀ t ∈ (List.range x.c.n).filterMap f, t.1 < a.cells ∧ t.2.terms ≤ 1 := fun t ht => by
    obtain ⟨i, _, hi⟩ := List.mem_filterMap.mp ht
    exact hf i t hi
  refine accDone_ok (fun t ht => (hterm t ht).1) (hroom.mono ?_)
  calc (((List.range x.c.n).filterMap f).map (fun t => t.2.terms)).sum
      ≤ (((List.range x.c.n).filterMap f).map (fun t => t.2.terms)).length • 1 := List.sum_le_card_nsmul _ 1 (fun m hm => by
        obtain ⟨t, ht, rfl⟩ := List.mem_map.mp hm
        exact (hterm t ht).2)
    _ ≤ x.c.n := by
        have hlen := List.length_filterMap_le f (List.range x.c.n)
        simpa using hlen

/-- The terms of an accumulator op that go to the cells it names are all taken. -/
theorem accDone_accTerms {cells : List (Option Nat)} {term : Nat → Option KCell} (hcells : CellsBelow a cells) (hone : ∀ i t, term i = some t → t.terms ≤ 1)
    (hroom : RoomFor a (field w.imm 3 0) x.k x.c.n) : ∃ y, accDone a w x (accTerms x cells term) = .ok y := by
  refine accDone_rows (fun i t hi => ?_) hroom
  obtain ⟨cell, hcell, hterm⟩ := Option.bind_eq_some_iff.mp hi
  obtain ⟨v, hv, rfl⟩ := Option.map_eq_some_iff.mp hterm
  exact ⟨hcells.getD hcell, hone i v hv⟩

/-- So are terms that each valid element gives. -/
theorem accDone_mapped {cells : List (Option Nat)} {vs : List (Option Val)} {g : Val → KCell} (hcells : CellsBelow a cells) (hone : ∀ v, (g v).terms ≤ 1)
    (hroom : RoomFor a (field w.imm 3 0) x.k x.c.n) : ∃ y, accDone a w x (accTerms x cells (fun i => (vs.getD i none).map g)) = .ok y := by
  refine accDone_accTerms hcells (fun i t ht => ?_) hroom
  obtain ⟨v, _, rfl⟩ := Option.map_eq_some_iff.mp ht
  exact hone v

end

end

/-! ### The accumulator words -/

theorem Acc.addVal_count (v : FVal) : (({} : Acc).addVal v).count = 1 := by
  cases v with
  | nan => rfl
  | inf n => cases n <;> rfl
  | fin n m e => rfl

/-- An element, and a product, is one term (R110). -/
theorem Acc.addElem_count (t : Ty) (bits : Nat) : (({} : Acc).addElem t bits).count = 1 := by
  rw [Acc.addElem]
  split
  · rfl
  · exact Acc.addVal_count _

theorem Acc.addProd_count (t : Ty) (x y : Nat) : (({} : Acc).addProd t x y).count = 1 := by
  rw [Acc.addProd]
  split
  · rfl
  · exact Acc.addVal_count _

/-- A key fits its type's width (R249). -/
theorem topkKey_lt {t : Ty} (hw : 0 < t.width) (bits : Nat) (nanHigh : Bool) : topkKey t bits nanHigh < 2 ^ t.width := by
  have hhalf := Nat.two_pow_pred_add_two_pow_pred hw
  have hpos := Nat.two_pow_pos (t.width - 1)
  have hwrap : wrap t.width bits < 2 ^ t.width := by
    rw [wrap, pow2_eq]
    exact Nat.mod_lt _ (Nat.two_pow_pos _)
  have hxor : wrap t.width bits ^^^ 2 ^ (t.width - 1) < 2 ^ t.width := Nat.xor_lt_two_pow hwrap (by omega)
  simp only [topkKey, pow2_eq]
  split_ifs <;> omega

section
variable {e : KEnv} {w : PWord} {x : KM} {a : ArrD}

theorem kAcc_ok (harr : e.p.arr w = some a) (hcells : CellsBelow a (sumCells e w x)) (hroom : RoomFor a (field w.imm 3 0) x.k x.c.n) : ∃ y, kAcc e w x = .ok y := by
  rw [kAcc, harr]
  exact accDone_mapped hcells (fun v => (Acc.addElem_count w.type v.n).le) hroom

theorem kAccn_ok (harr : e.p.arr w = some a) (hcells : CellsBelow a (sumCells e w x)) (hroom : RoomFor a (field w.imm 3 0) x.k x.c.n) : ∃ y, kAccn e w x = .ok y := by
  rw [kAccn, harr]
  exact accDone_mapped hcells (fun _ => Nat.le_refl 1) hroom

theorem kAccx_ok (harr : e.p.arr w = some a) (hcells : CellsBelow a (sumCells e w x)) (hroom : RoomFor a (field w.imm 3 0) x.k x.c.n) : ∃ y, kAccx e w x = .ok y := by
  rw [kAccx, harr]
  refine accDone_mapped hcells (fun v => ?_) hroom
  split <;> exact Nat.zero_le 1

theorem kAccp_ok (harr : e.p.arr w = some a) (hcells : CellsBelow a ((readOp e.p x.c x.c.n w.c .u32).map (fun v => v.map Val.n)))
    (hroom : RoomFor a (field w.imm 3 0) x.k x.c.n) : ∃ y, kAccp e w x = .ok y := by
  rw [kAccp, harr]
  refine accDone_accTerms hcells (fun i t ht => ?_) hroom
  split at ht
  · cases ht
    exact (Acc.addProd_count _ _ _).le
  · cases ht

/-- SKETCH counts in one of the 4,096 cells of its sketch (R238). -/
theorem kSketch_ok (harr : e.p.arr w = some a) (hcells : CellsBelow a ((cellOp e.p x.c x.c.n w.b).map (fun o => o.map (fun k => 4096 * k + 4095))))
    (hroom : RoomFor a (field w.imm 3 0) x.k x.c.n) : ∃ y, kSketch e w x = .ok y := by
  rw [kSketch, harr]
  refine accDone_rows (fun i t ht => ?_) hroom
  dsimp only at ht
  split at ht
  next v k hv hk =>
    split at ht
    · cases ht
    · cases ht
      have hlast : 4096 * k + 4095 < a.cells := hcells _ (List.mem_map_of_mem (mem_of_getD_eq_some hk)) _ rfl
      have hkey := topkKey_lt (t := .fp32) (by decide) (fp32.ofVal .near false (w.type.fmt.decode v.n)) false
      refine ⟨Nat.lt_of_le_of_lt (Nat.add_le_add_left (Nat.le_of_lt_succ ?_) _) hlast, Nat.le_refl 1⟩
      exact Nat.div_lt_of_lt_mul hkey
  · cases ht

/-- ACCMERGE folds each record into the cell of its ordinal modulo CELLS (R239). -/
theorem kAccmerge_ok (harr : e.p.arr w = some a) (hcells : 0 < a.cells)
    (hroom : RoomFor a (field w.imm 3 0) x.k (x.c.rows.map (fun r => (Acc.decode r.acc).count)).sum) : ∃ y, kAccmerge e w x = .ok y := by
  rw [kAccmerge, harr]
  refine accDone_ok (fun t ht => ?_) (hroom.mono ?_)
  · obtain ⟨r, _, rfl⟩ := List.mem_map.mp ht
    exact Nat.mod_lt _ hcells
  · rw [List.map_map]
    exact (List.filter_sublist.map _).sum_le_sum (fun _ _ => Nat.zero_le _)

/-- ACCRD of cells in range, the next one with it where the mode reads it (R237). -/
theorem kAccrd_ok (harr : e.p.arr w = some a) (hcells : CellsBelow a ((cellOp e.p x.c (if w.d < 0x40 then x.c.n else 1) w.a).map
      (fun o => o.map (fun n => if 2 ≤ field w.imm 15 12 ∧ field w.imm 15 12 ≤ 5 then n + 1 else n)))) :
    kAccrd e w x = .ok { x with c := writeOp x.c w.d ((cellOp e.p x.c (if w.d < 0x40 then x.c.n else 1) w.a).map
      (fun o => o.bind (fun n => readCell x.k a (field w.imm 3 0) (field w.imm 15 12) n w.type))) } := by
  rw [kAccrd, harr]
  dsimp only
  split
  next c hfound =>
    obtain ⟨o, ho, hbad⟩ := List.exists_of_findSome?_eq_some hfound
    obtain ⟨n, rfl, hout⟩ := Option.bind_eq_some_iff.mp hbad
    have hin := hcells _ (List.mem_map_of_mem ho) _ rfl
    rw [if_neg (Nat.not_le.mpr hin)] at hout
    cases hout
  · rfl

/-- QREAD of sketches that lie in the array (R238). -/
theorem kQread_ok (harr : e.p.arr w = some a)
    (hcells : CellsBelow a ((cellOp e.p x.c (if w.d < 0x40 then x.c.n else 1) w.a).map (fun o => o.map (fun k => 4096 * k + 4095)))) : ∃ y, kQread e w x = .ok y := by
  rw [kQread, harr]
  dsimp only
  split
  next c hfound =>
    obtain ⟨o, ho, hbad⟩ := List.exists_of_findSome?_eq_some hfound
    obtain ⟨k, rfl, hout⟩ := Option.bind_eq_some_iff.mp hbad
    have hin : 4096 * k + 4095 < a.cells := hcells _ (List.mem_map_of_mem ho) _ rfl
    rw [if_neg (by omega)] at hout
    cases hout
  · exact ⟨_, rfl⟩

/-- The device after an array's records went to a port (R239). -/
def recordsEmitted (e : KEnv) (w : PWord) (x : KM) (a : ArrD) : Dev :=
  (List.range a.cells).foldl (fun d n => addResult d e.slot e.st (field w.imm 10 8) (getCell x.k (field w.imm 3 0) 0 n).acc.encode)
    (flushPend x.d e.slot e.st (field w.imm 10 8))

theorem kAccemit_ok (harr : e.p.arr w = some a) (hruns : stopped (recordsEmitted e w x a) e.slot = false) :
    kAccemit e w x = .ok { x with d := recordsEmitted e w x a } := by
  rw [kAccemit, harr]
  exact if_neg (by rw [Bool.not_eq_true]; exact hruns)

end

end Sys2Proof.Machine
end

section
/-!
PROOFS. EMIT, MWRITE and EMBAG (08 R240, R243, R244), and the settled statement on the words that act on more than one element.
-/

namespace Sys2Proof.Machine

open Sys2Proof

theorem ite_isEmpty {α β : Type} (xs : List α) [Decidable (xs = [])] (a b : β) : (if xs.isEmpty then a else b) = if xs = [] then a else b := by
  cases xs <;> simp

section
variable {e : KEnv} {w : PWord} {x : KM}

/-! ### EMIT and MWRITE -/

/-- The kernel's own state after EMIT: its last bit ends the station's input (R243). -/
def afterEmit (w : PWord) (k : KernelSt) : KernelSt := if bit w.imm 9 then { k with stop := true } else k

/-- The rows that EMIT's mask selects (R243). -/
def emitRowsOf (e : KEnv) (w : PWord) (x : KM) : List Nat :=
  (List.range x.c.n).filter (fun i => bit w.imm 8 || (((readOp e.p x.c x.c.n w.a .bool).getD i none).map (fun v => decide (v.n % 2 = 1))).getD false)

theorem kEmit_rows {d : Dev} (hrows : bit w.imm 10 = false)
    (hemit : emitRows e (field w.imm 2 0) x (emitRowsOf e w x) (if emitRowsOf e w x = [] then x.d else flushPend x.d e.slot e.st (field w.imm 2 0)) = .ok d) :
    kEmit e w x = .ok { d := d, k := afterEmit w x.k, c := { x.c with staged := x.c.staged.filter (fun s => s.1 != field w.imm 2 0) } } := by
  rw [← ite_isEmpty] at hemit
  rw [kEmit]
  dsimp only
  rw [if_neg (by simp [hrows])]
  unfold emitRowsOf at hemit
  rw [hemit]
  rfl

/-- The device after a payload went out: the port's rows and records are sealed first (R243). -/
def payloadEmitted (e : KEnv) (w : PWord) (x : KM) : Dev :=
  let port := field w.imm 2 0
  let q := (outQueues e.im e.st port).head?.getD {}
  let d := if (getOut x.d e.slot e.st port).rows = [] then x.d else sealRows x.d e.slot e.st port false
  addTile (if (getOut d e.slot e.st port).recs = [] then d else sealRecs d e.slot e.st port false) e.slot e.st port
    (rawOp e.p x.c w.b) (if hasColumns q.format then q.columns else 0) (padTo (rawOp e.p x.c w.c) x.c.build)

theorem kEmit_payload (hpayload : bit w.imm 10 = true) (hrows : rawOp e.p x.c w.b ≤ 4096) (hbytes : rawOp e.p x.c w.c ≤ 4096)
    (hruns : stopped (payloadEmitted e w x) e.slot = false) :
    kEmit e w x = .ok { d := payloadEmitted e w x, k := afterEmit w x.k, c := { x.c with build := [] } } := by
  rw [kEmit]
  dsimp only
  rw [if_pos hpayload, if_neg (by omega)]
  simp only [ite_isEmpty]
  exact if_neg (by rw [Bool.not_eq_true]; exact hruns)

/-- The sequence number under which MWRITE holds its pairs (R244; log entry 77). -/
def pairSeq (e : KEnv) (x : KM) : Nat :=
  if x.c.endProg then (match inQueueNo (getJob x.d e.slot) e.st 0 with
    | some (n, k) => (getQ x.d e.slot n).taken.getD k 0 - 1
    | none => 0) else x.c.seq

/-- The rows whose pairs MWRITE issues (R244). -/
def pairRowsOf (e : KEnv) (w : PWord) (x : KM) : List Nat :=
  (List.range x.c.n).filter (fun i => (((readOp e.p x.c x.c.n w.c .bool).getD i none).map (fun v => decide (v.n % 2 = 1))).getD false)

theorem kMwrite_ok {t : StationD} {q : MatchP} {d : Dev} (htable : writtenTable e.im e.p = some (t, q))
    (hissue : issuePairs e w q t.index (pairSeq e x) x (readOp e.p x.c x.c.n w.a .u32) (pairRowsOf e w x) x.d = .ok d) : kMwrite e w x = .ok { x with d := d } := by
  rw [kMwrite, htable]
  dsimp only
  split
  next d' hnext =>
    cases hnext.symm.trans hissue
    rfl
  next r hnext => cases hnext.symm.trans hissue

/-! ### EMBAG -/

/-- The index lies in the table and its row can be read (R240). -/
def InBag (e : KEnv) (x : KM) (c : Nat) (t : Ty) (n : Nat) (i : Int) : Prop :=
  0 ≤ i ∧ i.toNat < (bindingOr (getJob x.d e.slot) (embagRegion c)).bytes / embagRow c ∧
    ∃ b, regRead e.m x.d (bindingOr (getJob x.d e.slot) (embagRegion c)) (i.toNat * embagRow c) (n * t.bytes) = .ok b

theorem bagRows_ok {c n i : Nat} {t : Ty} : ∀ {idx : List (Nat × Ty × Val)}, (∀ u ∈ idx, InBag e x c t n (u.2.1.toInt u.2.2.n)) →
    ∃ rows, bagRows e x c t n i idx = .ok rows
  | [], _ => ⟨[], rfl⟩
  | (j, ti, v) :: idx, h => by
    obtain ⟨hpos, hend, b, hread⟩ := h _ List.mem_cons_self
    obtain ⟨rows, hrest⟩ := bagRows_ok (i := i) (fun u hu => h u (List.mem_cons_of_mem _ hu))
    dsimp only at hpos hend hread
    rw [bagRows, if_neg (by omega), kread_ok hread, hrest]
    exact ⟨_, rfl⟩

/-- The indices of the rows from `i` on lie in their table. -/
def BagsIn (e : KEnv) (w : PWord) (x : KM) (c : Nat) (t : Ty) (i n : Nat) : Prop :=
  ∀ r, i ≤ r → r < i + n → ∀ j < embagK w, ∀ v, (x.c.slot (w.a + j)).getD r none = some v → InBag e x c t (embagD w) ((e.p.slotTy (w.a + j)).toInt v.n)

theorem bagAll_ok {c : Nat} {t : Ty} : ∀ {n i : Nat}, BagsIn e w x c t i n → ∃ rows, bagAll e w x c t n i = .ok rows
  | 0, _, _ => ⟨[], rfl⟩
  | n + 1, i, h => by
    obtain ⟨rest, hrest⟩ := bagAll_ok (n := n) (i := i + 1) (fun r hr hend => h r (by omega) (by omega))
    have hidx : ∀ u ∈ (List.range (embagK w)).filterMap (fun j => ((x.c.slot (w.a + j)).getD i none).map (fun v => (j, e.p.slotTy (w.a + j), v))),
        InBag e x c t (embagD w) (u.2.1.toInt u.2.2.n) := fun u hu => by
      obtain ⟨j, hj, hmap⟩ := List.mem_filterMap.mp hu
      obtain ⟨v, hv, rfl⟩ := Option.map_eq_some_iff.mp hmap
      exact h i (by omega) (by omega) j (List.mem_range.mp hj) v hv
    obtain ⟨rows, hrows⟩ := bagRows_ok (i := i) hidx
    rw [bagAll, hrows, hrest]
    exact ⟨_, rfl⟩

theorem kEmbag_ok (h : BagsIn e w x (e.p.const w.c) ((Ty.ofCode (field (e.p.const w.c) 23 16)).getD .fp32) 0 x.c.n) : ∃ y, kEmbag e w x = .ok y := by
  obtain ⟨rows, hrows⟩ := bagAll_ok h
  rw [kEmbag, hrows]
  exact ⟨_, rfl⟩

end

end Sys2Proof.Machine

namespace Sys2Proof

open Sys2Proof.Machine

/-- Settles O42, word by word: terms in range for which every cell has room are taken, and what goes out goes out as its op says. -/
theorem arrayWords : Obligations.ArrayWords := by
  intro s ka w c op hdue e x p below room
  refine ⟨fun a harr => ⟨?_, ?_, ?_, ?_, ?_, ?_, ?_, ?_, ?_⟩, ?_, ?_, ?_, ?_⟩
  · rintro rfl hcells hroom
    exact takes_word_of_ok hdue rfl rfl (kAcc_ok harr hcells hroom)
  · rintro rfl hcells hroom
    exact takes_word_of_ok hdue rfl rfl (kAccn_ok harr hcells hroom)
  · rintro rfl hcells hroom
    exact takes_word_of_ok hdue rfl rfl (kAccx_ok harr hcells hroom)
  · rintro rfl hcells hroom
    exact takes_word_of_ok hdue rfl rfl (kAccp_ok harr hcells hroom)
  · rintro rfl hcells hroom
    exact takes_word_of_ok hdue rfl rfl (kSketch_ok harr hcells hroom)
  · rintro rfl hcells hroom
    exact takes_word_of_ok hdue rfl rfl (kAccmerge_ok harr hcells hroom)
  · rintro rfl mode hcells
    exact takes_wordEnd hdue rfl (kAccrd_ok harr hcells)
  · rintro rfl hcells
    exact takes_word_of_ok hdue rfl rfl (kQread_ok harr hcells)
  · rintro rfl d hruns
    exact takes_wordEnd hdue rfl (kAccemit_ok harr hruns)
  · rintro rfl port k
    exact ⟨fun hrows d hemit => takes_wordEnd hdue rfl (kEmit_rows hrows hemit),
      fun hpayload hrows hbytes hruns => takes_wordEnd hdue rfl (kEmit_payload hpayload hrows hbytes hruns)⟩
  · rintro t q d rfl htable seq go sel hissue
    exact takes_wordEnd hdue rfl (kMwrite_ok htable hissue)
  · rintro rfl k reg t hin
    exact takes_word_of_ok hdue rfl rfl (kEmbag_ok (fun r _ hr j hj v hv => hin r (hr.trans_eq (Nat.zero_add _)) j hj v hv))
  · rintro rfl
    exact takes_due hdue rfl

end Sys2Proof
end

section
/-!
PROOFS. The groups of a kernel station and its end (08 R213, R216, R223, R236, R245): ROW_GROUP, END_PROGRAM, PARTIALS, and the settled statement.
-/

namespace Sys2Proof.Machine

open Sys2Proof

section
variable {m : Memory} {d : Dev} {slot st : Nat}

/-- A group that is open runs to its end; the next one runs where its input is there and its output is free (R213, R223). -/
theorem rowGroup_open (hgoes : (getSt d slot st).ended = false) (hctx : (kernelSt d slot st).ctx ≠ none) : rowGroup slot st m d = .next (runGroup m slot st d) := by
  rw [rowGroup, if_neg (by simp [hgoes]), if_pos (Option.isSome_iff_ne_none.mpr hctx)]

theorem rowGroup_opens {d' : Dev} (hgoes : (getSt d slot st).ended = false) (hctx : (kernelSt d slot st).ctx = none) (hfree : outBlocked d slot st = false)
    (hopen : openGroup slot st d = .ready d') : rowGroup slot st m d = .next (runGroup m slot st d') := by
  rw [rowGroup, if_neg (by simp [hgoes]), if_neg (by simp [hctx]), if_neg (by simp [hfree]), hopen]

/-- The device of a kernel at the end of its input, its output free and its side ports ended too. -/
structure KernelAtEnd (d : Dev) (slot st : Nat) : Prop where
  goes : (getSt d slot st).ended = false
  done : kernelDone d slot st = true
  free : outBlocked d slot st = false
  sides : sidesEnded d slot st = .ok ()

theorem KernelAtEnd.closed (h : KernelAtEnd d slot st) : (kernelSt d slot st).ctx = none :=
  Option.isNone_iff_eq_none.mp (Bool.and_eq_true_iff.mp h.done).1

/-- The first rows of the PRELOAD ports, which the end program reads (R216). -/
def preloadRows (d : Dev) (slot st : Nat) : List (Nat × List (Option Row)) :=
  (((List.range (descSt d slot st).inPorts).drop 1).filter (fun i => u8at (paramSt d slot st) (8 + i) == 4)).map
    (fun i => (i, [(((getIn d slot st i).ktiles.map (·.rows)).flatten).head?.map (·.row)]))

/-- The device in which the end program of a kernel with parameters `p` and state `y` is open (R223). -/
def endOpened (d : Dev) (slot st : Nat) (p : KParam) (y : KernelSt) : Dev :=
  modKernel d slot st (fun _ => openCtx p y { rows := [{ ord := 0, seq := 0 }], side := preloadRows d slot st, endProg := true, pc := p.endEntry })

/-- What END_PROGRAM does at the end of the input (R223, R236). -/
def atEnd (slot st : Nat) (m : Memory) (d : Dev) : DevOut :=
  let j := getJob d slot
  let p := kparam j.image (descSt d slot st)
  let x := kernelSt d slot st
  if p.endEntry = noOffset then .next (endStation d slot st)
  else if !isAnchor d j then .next (endStation (sendCoord d slot 11 j.anchor (le 2 st ++ partialsBytes p x)) slot st)
  else if x.partials.length + 1 < j.participants.length then .next d
  else match x.partials.foldl (combinePart p) (.ok x) with
  | .error e => .next (kernelFails d slot st e)
  | .ok y => .next (runGroup m slot st (endOpened d slot st p y))

theorem endProgram_atEnd (h : KernelAtEnd d slot st) : endProgram slot st m d = atEnd slot st m d := by
  rw [endProgram]
  dsimp only
  rw [if_neg (by simp [h.goes]), h.closed]
  dsimp only
  rw [if_neg (by simp [h.done]), if_neg (by simp [h.free]), h.sides]
  rfl

/-- Without an end program the station seals its output. -/
theorem endProgram_none (h : KernelAtEnd d slot st) (hnone : (kparam (getJob d slot).image (descSt d slot st)).endEntry = noOffset) :
    endProgram slot st m d = .next (endStation d slot st) := by
  rw [endProgram_atEnd h, atEnd, if_pos hnone]

/-- A device that is not the anchor sends its partials and seals. -/
theorem endProgram_sends (h : KernelAtEnd d slot st) (hsome : (kparam (getJob d slot).image (descSt d slot st)).endEntry ≠ noOffset)
    (helse : isAnchor d (getJob d slot) = false) : endProgram slot st m d = .next (endStation (sendCoord d slot 11 (getJob d slot).anchor
      (le 2 st ++ partialsBytes (kparam (getJob d slot).image (descSt d slot st)) (kernelSt d slot st))) slot st) := by
  rw [endProgram_atEnd h, atEnd, if_neg hsome, if_pos (by simp [helse])]

/-- The anchor runs the end program once all partials are there, combined with its own. -/
theorem endProgram_runs {y : KernelSt} (h : KernelAtEnd d slot st) (hsome : (kparam (getJob d slot).image (descSt d slot st)).endEntry ≠ noOffset)
    (hanchor : isAnchor d (getJob d slot) = true) (hall : (getJob d slot).participants.length ≤ (kernelSt d slot st).partials.length + 1)
    (hcombined : (kernelSt d slot st).partials.foldl (combinePart (kparam (getJob d slot).image (descSt d slot st))) (.ok (kernelSt d slot st)) = .ok y) :
    endProgram slot st m d = .next (runGroup m slot st (endOpened d slot st (kparam (getJob d slot).image (descSt d slot st)) y)) := by
  rw [endProgram_atEnd h, atEnd, if_neg hsome, if_neg (by simp [hanchor]), if_neg (by omega), hcombined]

/-- The anchor keeps a participant's partials once (R236). -/
theorem takePartials_keeps {part : Nat} {data : Bytes} (hanchor : isAnchor d (getJob d slot) = true) (hpart : part < (getJob d slot).participants.length)
    (hother : part ≠ (getJob d slot).partIndex) (honce : part ∉ (kernelSt d slot st).partials.map (·.1)) :
    takePartials slot st part data d =
      .next (setKind d slot st (.kernel { kernelSt d slot st with partials := (kernelSt d slot st).partials ++ [(part, data)] })) := by
  have hnew : (kernelSt d slot st).partials.any (fun y => y.1 == part) = false := by
    refine List.any_eq_false.mpr (fun y hy hsame => honce ?_)
    exact List.mem_map.mpr ⟨y, hy, beq_iff_eq.mp hsame⟩
  rw [takePartials]
  exact if_neg (by simp [hanchor, hpart, hother, hnew])

end

/-- A partial of one cell is folded into its array (R236). -/
theorem combinePart_cell {p : KParam} {k k' : KernelSt} {part i cell : Nat} {data : Bytes} {v : KCell} {a : ArrD}
    (hread : readPartials p data.length data = [(i, cell, v)]) (harr : p.arrays[i]? = some a) (hfold : foldCell a i cell v k = .ok k') :
    combinePart p (.ok k) (part, data) = .ok k' := by
  rw [combinePart, hread, List.foldl_cons, List.foldl_nil]
  dsimp only
  rw [harr]
  exact hfold

end Sys2Proof.Machine

namespace Sys2Proof

open Sys2Proof.Machine

section
variable {s : State} {slot st : Nat} {d : Dev} (hat : AtStation s slot st (· = .kernel))
include hat

theorem takes_rowGroup (hnext : rowGroup slot st s.mem (rowStart s) = .next d) : Takes (.rowGroup slot st) s d :=
  takes_of_onStation hat (rowGroup slot st) rfl hnext

theorem takes_endProgram (hnext : endProgram slot st s.mem (rowStart s) = .next d) : Takes (.endProgram slot st) s d :=
  takes_of_onStation hat (endProgram slot st) rfl hnext

theorem takes_partials {part : Nat} {data : Bytes} (hnext : takePartials slot st part data (rowStart s) = .next d) : Takes (.partials slot st part data) s d :=
  takes_of_onStation hat (fun _ d => takePartials slot st part data d) rfl hnext

end

/-- A word due when the group has used its words is the fault 0x0801 (R223). -/
theorem takes_word_limit {s : State} {ka : KAt} {op : Nat} {w : KWord} {c : Ctx} {i : Instr} (hat : AtStation s ka.slot ka.station (· = .kernel))
    (hexec : exec i s = kernelRow op ka w s) (hctx : (kernelSt s.dev ka.slot ka.station).ctx = some c) (hpc : c.pc < (descSt s.dev ka.slot ka.station).programWords)
    (hsteps : 1048576 ≤ c.steps) (hword : progWord (getJob s.dev ka.slot).image (descSt s.dev ka.slot ka.station) c.pc = w.prog op) :
    Takes i s (stationFault (rowStart s) ka.slot ka.station 0x0801 c.pc c.first) := by
  have htakes := takes_word (d := rowStart s) hat hexec (.inl ⟨by rw [hctx]; exact Option.some_ne_none c, rfl⟩) hctx hpc hword
  rw [kstep_limit hpc hsteps] at htakes
  exact htakes

/-- Settles O43, row by row. -/
theorem kernelGroups : Obligations.KernelGroups := by
  intro s slot st part data hat k j kp
  refine ⟨fun hgoes hctx => takes_rowGroup hat (rowGroup_open (d := rowStart s) hgoes hctx), fun d hgoes hctx hfree hopen => ⟨?_, ?_⟩,
    fun hgoes hdone hfree hsides => ?_, fun hnone => ?_, fun hanchor hpart hother honce => ?_, fun i cell v a k2 hread harr hfold => ?_, fun r hr w c hctx hpc hsteps hword => ?_⟩
  · exact takes_rowGroup hat (rowGroup_opens (d := rowStart s) hgoes hctx hfree hopen)
  · intro r hr w c hctx' hpc hword
    exact takes_word (ka := ⟨slot, st⟩) hat (exec_word r hr _ w s) (.inr ⟨hctx, hgoes, hfree, hopen⟩) hctx' hpc hword
  · have hend : KernelAtEnd (rowStart s) slot st := ⟨hgoes, hdone, hfree, hsides⟩
    exact ⟨fun hnone => takes_endProgram hat (endProgram_none hend hnone), fun hsome helse => takes_endProgram hat (endProgram_sends hend hsome helse),
      fun y hsome hanchor hall hcombined => ⟨preloadRows (rowStart s) slot st, takes_endProgram hat (endProgram_runs hend hsome hanchor hall hcombined)⟩⟩
  · rw [hnone]
    rfl
  · exact takes_partials hat (takePartials_keeps (d := rowStart s) hanchor hpart hother honce)
  · exact combinePart_cell hread harr hfold
  · exact takes_word_limit (ka := ⟨slot, st⟩) hat (exec_word r hr _ w s) hctx hpc hsteps hword

end Sys2Proof
end

section
/-!
PROOFS. The keys of the select engines and the ranking by them (09 R249 to R252): NaN by format, keys of numbers and of signed integers, candidates in order of key.
-/

namespace Sys2Proof.Machine

open Sys2Proof

/-! ### One bit of a word -/

section
variable {n a : Nat}

theorem testBit_top (h : a < 2 ^ (n + 1)) : a.testBit n = decide (2 ^ n ≤ a) := by
  by_cases htop : 2 ^ n ≤ a
  · rw [decide_eq_true htop]
    exact Nat.testBit_of_two_pow_le_and_two_pow_add_one_gt htop h
  · rw [decide_eq_false htop]
    exact Nat.testBit_lt_two_pow (by omega)

theorem and_top_ne_zero_iff (h : a < 2 ^ (n + 1)) : a &&& 2 ^ n ≠ 0 ↔ 2 ^ n ≤ a := by
  rw [Nat.and_two_pow, testBit_top h]
  by_cases htop : 2 ^ n ≤ a <;> simp [htop]

theorem xor_two_pow_of_lt (h : a < 2 ^ n) : a ^^^ 2 ^ n = a + 2 ^ n := by
  rw [← Nat.or_two_pow_eq_add_of_lt h]
  refine Nat.eq_of_testBit_eq (fun i => ?_)
  rw [Nat.testBit_xor, Nat.testBit_or, Nat.testBit_two_pow]
  by_cases hi : n = i
  · rw [← hi, Nat.testBit_lt_two_pow h, Bool.false_xor, Bool.false_or]
  · simp [hi]

theorem xor_two_pow_of_ge (hle : 2 ^ n ≤ a) (h : a < 2 ^ (n + 1)) : a ^^^ 2 ^ n = a - 2 ^ n := by
  have hlow : a - 2 ^ n < 2 ^ n := by omega
  have hback : (a - 2 ^ n) ^^^ 2 ^ n = a := by rw [xor_two_pow_of_lt hlow, Nat.sub_add_cancel hle]
  rw [← hback, Nat.xor_assoc, Nat.xor_self, Nat.xor_zero, hback]

/-- The complement of a word. -/
theorem ones_xor (h : a < 2 ^ n) : (2 ^ n - 1) ^^^ a = 2 ^ n - 1 - a := by
  refine Nat.eq_of_testBit_eq (fun i => ?_)
  rw [Nat.testBit_xor, Nat.testBit_two_pow_sub_one, Nat.sub_sub, Nat.add_comm 1 a, Nat.testBit_two_pow_sub_succ h]
  by_cases hi : i < n
  · simp [hi]
  · simp [hi, Nat.testBit_lt_two_pow (h.trans_le (Nat.pow_le_pow_right (by decide) (Nat.le_of_not_lt hi)))]

end

/-! ### NaN by format -/

section
variable {f : Fmt}

/-- NaN has the highest exponent: in E4M3 with the fraction of ones, elsewhere with a fraction other than zero. -/
theorem Fmt.decode_eq_nan_iff_fields (f : Fmt) (v : Nat) : f.decode v = .nan ↔
    field v (f.width - 2) f.man = f.expOnes ∧ if f.e4m3 then v % pow2 f.man = pow2 f.man - 1 else v % pow2 f.man ≠ 0 := by
  unfold Fmt.decode
  dsimp only
  split_ifs <;> simp_all

theorem Fmt.inf_eq (hkind : ¬ f.e4m3 = true) : f.inf false = 2 ^ f.man * f.expOnes := by
  simp [Fmt.inf, hkind, pow2_eq, Nat.mul_comm]

theorem Fmt.two_le_two_pow_man (hp : 2 ≤ f.p) : 2 ≤ 2 ^ f.man := Nat.le_self_pow (by simp only [Fmt.man]; omega) 2

section
variable (hexp : 0 < f.expBits) (hp : 2 ≤ f.p)
include hexp hp

theorem Fmt.two_pow_below_sign : 2 ^ (f.width - 1) = 2 ^ f.man * (f.expOnes + 1) := by
  rw [Fmt.expOnes, pow2_eq, Nat.sub_add_cancel Nat.one_le_two_pow, ← pow_add]
  congr 1
  simp only [Fmt.width, Fmt.man]
  omega

theorem Fmt.exponent_eq (v : Nat) : field v (f.width - 2) f.man = v / 2 ^ f.man % (f.expOnes + 1) := by
  rw [field, pow2_eq, Nat.shiftRight_eq_div_pow, Fmt.expOnes, pow2_eq, Nat.sub_add_cancel Nat.one_le_two_pow]
  congr 2
  simp only [Fmt.width, Fmt.man]
  omega

/-- The bits below the sign reach the word of the highest exponent and fraction `n` in that exponent alone. -/
theorem Fmt.le_magnitude_iff (v n : Nat) : 2 ^ f.man * f.expOnes + n ≤ v % 2 ^ (f.width - 1) ↔
    field v (f.width - 2) f.man = f.expOnes ∧ n ≤ v % 2 ^ f.man := by
  have hfr : v % 2 ^ f.man < 2 ^ f.man := Nat.mod_lt v (Nat.two_pow_pos _)
  have hex : v / 2 ^ f.man % (f.expOnes + 1) < f.expOnes + 1 := Nat.mod_lt _ (Nat.succ_pos _)
  rw [Fmt.two_pow_below_sign hexp hp, Fmt.exponent_eq hexp hp, Nat.mod_mul]
  generalize v / 2 ^ f.man % (f.expOnes + 1) = ex at hex
  rcases Nat.lt_succ_iff_lt_or_eq.mp hex with hless | rfl
  · have hbelow : 2 ^ f.man * ex + 2 ^ f.man ≤ 2 ^ f.man * f.expOnes := Nat.mul_le_mul_left (2 ^ f.man) hless
    exact iff_of_false (by omega) (by omega)
  · omega

/-- NaN is what stands above infinity, and in E4M3, which has no infinity, the word of ones (R249). -/
theorem Fmt.decode_eq_nan_iff (v : Nat) : f.decode v = .nan ↔
    if f.e4m3 then v % 2 ^ (f.width - 1) = 2 ^ (f.width - 1) - 1 else f.inf false < v % 2 ^ (f.width - 1) := by
  have hman := Fmt.two_le_two_pow_man hp
  rw [Fmt.decode_eq_nan_iff_fields, pow2_eq]
  split_ifs with hkind
  · have hbelow := Nat.mod_lt v (Nat.two_pow_pos (f.width - 1))
    have hones := Fmt.le_magnitude_iff hexp hp v (2 ^ f.man - 1)
    have hfr := Nat.mod_lt v (Nat.two_pow_pos f.man)
    have hall := Fmt.two_pow_below_sign hexp hp
    rw [Nat.mul_succ] at hall
    omega
  · have habove := Fmt.le_magnitude_iff hexp hp v 1
    have hinf := Fmt.inf_eq hkind
    omega

/-- The same with the sign masked off, as the table of R249 writes it. -/
theorem Fmt.decode_eq_nan_iff_mask (v : Nat) : f.decode v = .nan ↔
    if f.e4m3 then v &&& (2 ^ (f.width - 1) - 1) = 2 ^ (f.width - 1) - 1 else f.inf false < v &&& (2 ^ (f.width - 1) - 1) := by
  rw [Nat.and_two_pow_sub_one_eq_mod]
  exact Fmt.decode_eq_nan_iff hexp hp v

theorem Fmt.decode_ne_nan_of_zero (v : Nat) (hzero : v % 2 ^ (f.width - 1) = 0) : f.decode v ≠ .nan := by
  have htwo : 2 ≤ 2 ^ (f.width - 1) := Nat.le_self_pow (by simp only [Fmt.width]; omega) 2
  rw [ne_eq, Fmt.decode_eq_nan_iff hexp hp, hzero]
  split_ifs <;> omega

/-- No number is the word of ones below its sign. -/
theorem Fmt.magnitude_of_number (v : Nat) (hnum : f.decode v ≠ .nan) : v % 2 ^ (f.width - 1) + 1 < 2 ^ (f.width - 1) := by
  have hbelow := Nat.mod_lt v (Nat.two_pow_pos (f.width - 1))
  have hman := Fmt.two_le_two_pow_man hp
  have hall := Fmt.two_pow_below_sign hexp hp
  rw [Nat.mul_succ] at hall
  rw [ne_eq, Fmt.decode_eq_nan_iff hexp hp] at hnum
  split_ifs at hnum with hkind
  · omega
  · have hinf := Fmt.inf_eq hkind
    omega

end
end

/-! ### The rows of the table of R249 -/

section
variable (v : Nat)

theorem fp16_decode_eq_nan_iff : fp16.decode v = .nan ↔ 0x7C00 < v &&& 0x7FFF := Fmt.decode_eq_nan_iff_mask (by decide) (by decide) v
theorem bf16_decode_eq_nan_iff : bf16.decode v = .nan ↔ 0x7F80 < v &&& 0x7FFF := Fmt.decode_eq_nan_iff_mask (by decide) (by decide) v
theorem fp32_decode_eq_nan_iff : fp32.decode v = .nan ↔ 0x7F800000 < v &&& 0x7FFFFFFF := Fmt.decode_eq_nan_iff_mask (by decide) (by decide) v
theorem e5m2_decode_eq_nan_iff : fp8e5m2.decode v = .nan ↔ 0x7C < v &&& 0x7F := Fmt.decode_eq_nan_iff_mask (by decide) (by decide) v
theorem e4m3_decode_eq_nan_iff : fp8e4m3.decode v = .nan ↔ v &&& 0x7F = 0x7F := Fmt.decode_eq_nan_iff_mask (by decide) (by decide) v

end

/-! ### Keys -/

theorem topkBucket_eq (key w : Nat) : topkBucket key w = key <<< (64 - w) % 2 ^ 64 / 2 ^ 52 := by
  rw [topkBucket, wrap, pow2_eq, Nat.shiftRight_eq_div_pow]

/-- The bits of a number with −0 as +0. -/
def plusZero (w b : Nat) : Nat := if b = 2 ^ (w - 1) then 0 else b

@[simp] theorem plusZero_zero (w : Nat) : plusZero w 0 = 0 := ite_self 0

@[simp] theorem plusZero_top (w : Nat) : plusZero w (2 ^ (w - 1)) = 0 := if_pos rfl

theorem plusZero_lt {w b : Nat} (hb : b < 2 ^ w) : plusZero w b < 2 ^ w := by
  rw [plusZero]
  split <;> omega

/-- The two ways R249 takes the key of a number, as sums and differences. -/
theorem orderBits_eq {w c : Nat} (hw : 0 < w) (hc : c < 2 ^ w) :
    (if c &&& 2 ^ (w - 1) ≠ 0 then (2 ^ w - 1) ^^^ c else c ||| 2 ^ (w - 1)) = if 2 ^ (w - 1) ≤ c then 2 ^ w - 1 - c else c + 2 ^ (w - 1) := by
  have htop : c &&& 2 ^ (w - 1) ≠ 0 ↔ 2 ^ (w - 1) ≤ c := and_top_ne_zero_iff (by rwa [Nat.sub_add_cancel hw])
  rw [ones_xor hc]
  by_cases hneg : 2 ^ (w - 1) ≤ c
  · rw [if_pos (htop.mpr hneg), if_pos hneg]
  · rw [if_neg (mt htop.mp hneg), if_neg hneg, Nat.or_two_pow_eq_add_of_lt (by omega)]

section
variable {t : Ty} (bits : Nat) (nanHigh : Bool)

theorem topkKey_of_isInt (hint : t.isInt = true) :
    topkKey t bits nanHigh = if t.isSigned then (bits % 2 ^ t.width) ^^^ 2 ^ (t.width - 1) else bits % 2 ^ t.width := by
  simp only [topkKey, hint, wrap, pow2_eq, if_true]

theorem Ty.isInt_of_isSigned (hsigned : t.isSigned = true) : t.isInt = true := by
  revert hsigned
  cases t <;> decide

/-- The key of a signed integer is its value, moved up by half the range. -/
theorem topkKey_of_isSigned {a : Nat} (hsigned : t.isSigned = true) (ha : a < 2 ^ t.width) : (topkKey t a nanHigh : Int) = t.toInt a + 2 ^ (t.width - 1) := by
  have hint := Ty.isInt_of_isSigned hsigned
  have hwidth : t.width - 1 + 1 = t.width := Nat.sub_add_cancel (Ty.width_pos hint)
  have hhalf := Nat.two_pow_pred_add_two_pow_pred (Ty.width_pos hint)
  rw [topkKey_of_isInt a nanHigh hint, if_pos hsigned, Nat.mod_eq_of_lt ha, Ty.toInt_cases hint ha]
  by_cases htop : 2 ^ (t.width - 1) ≤ a
  · rw [xor_two_pow_of_ge htop (by rwa [hwidth]), if_pos ⟨hsigned, htop⟩, Nat.cast_sub htop, Nat.cast_pow, Nat.cast_ofNat]
    have hrange : (2 : Int) ^ (t.width - 1) + 2 ^ (t.width - 1) = 2 ^ t.width := by exact_mod_cast hhalf
    omega
  · rw [xor_two_pow_of_lt (by omega), if_neg (by simp [htop])]
    push_cast
    rfl

section
variable (hf : t.isF = true)
include hf

theorem Ty.isInt_of_isF : t.isInt = false := by
  revert hf
  cases t <;> decide

theorem Ty.fmt_facts_of_isF : 0 < t.fmt.expBits ∧ 2 ≤ t.fmt.p ∧ t.fmt.width = t.width ∧ 2 ≤ t.width := by
  revert hf
  cases t <;> decide

theorem topkKey_nan (hnan : t.fmt.decode (bits % 2 ^ t.width) = .nan) : topkKey t bits nanHigh = if nanHigh then 2 ^ t.width - 1 else 0 := by
  simp [topkKey, Ty.isInt_of_isF hf, wrap, pow2_eq, hnan]

/-- The key of a number: with the sign set, its complement; otherwise the bits with the sign set (R249). -/
theorem topkKey_number (hnum : t.fmt.decode (bits % 2 ^ t.width) ≠ .nan) : topkKey t bits nanHigh =
    if 2 ^ (t.width - 1) ≤ plusZero t.width (bits % 2 ^ t.width) then 2 ^ t.width - 1 - plusZero t.width (bits % 2 ^ t.width)
    else plusZero t.width (bits % 2 ^ t.width) + 2 ^ (t.width - 1) := by
  simp only [topkKey, Ty.isInt_of_isF hf, wrap, pow2_eq, if_neg hnum, plusZero]
  rfl

/-- No number takes a key of NaN (R249). -/
theorem topkKey_number_ne_ends (hnum : t.fmt.decode (bits % 2 ^ t.width) ≠ .nan) : topkKey t bits nanHigh ≠ 0 ∧ topkKey t bits nanHigh ≠ 2 ^ t.width - 1 := by
  obtain ⟨hexp, hp, hwidth, hwide⟩ := Ty.fmt_facts_of_isF hf
  have hmag := Fmt.magnitude_of_number hexp hp _ hnum
  have hhalf := Nat.two_pow_pred_add_two_pow_pred (show 0 < t.width by omega)
  have hbits := Nat.mod_lt bits (Nat.two_pow_pos t.width)
  rw [hwidth] at hmag
  have hplus : plusZero t.width (bits % 2 ^ t.width) + 1 < 2 ^ t.width ∧ plusZero t.width (bits % 2 ^ t.width) + 1 ≠ 2 ^ (t.width - 1) := by
    rw [plusZero]
    split
    · omega
    · by_cases hneg : 2 ^ (t.width - 1) ≤ bits % 2 ^ t.width
      · rw [Nat.mod_eq_sub_mod hneg, Nat.mod_eq_of_lt (by omega)] at hmag
        omega
      · rw [Nat.mod_eq_of_lt (by omega)] at hmag
        omega
  rw [topkKey_number bits nanHigh hf hnum]
  split <;> omega

/-- Both zeros have one key (R249). -/
theorem topkKey_minusZero : topkKey t 0 nanHigh = topkKey t (2 ^ (t.width - 1)) nanHigh := by
  obtain ⟨hexp, hp, hwidth, hwide⟩ := Ty.fmt_facts_of_isF hf
  have hhalf := Nat.two_pow_pred_add_two_pow_pred (show 0 < t.width by omega)
  have hpos := Nat.two_pow_pos (t.width - 1)
  have hplus : 0 % 2 ^ t.width = 0 := Nat.zero_mod _
  have hminus : 2 ^ (t.width - 1) % 2 ^ t.width = 2 ^ (t.width - 1) := Nat.mod_eq_of_lt (by omega)
  have hnum : t.fmt.decode (0 % 2 ^ t.width) ≠ .nan := Fmt.decode_ne_nan_of_zero hexp hp _ (by simp)
  have hnumTop : t.fmt.decode (2 ^ (t.width - 1) % 2 ^ t.width) ≠ .nan := Fmt.decode_ne_nan_of_zero hexp hp _ (by rw [hminus, hwidth, Nat.mod_self])
  rw [topkKey_number _ nanHigh hf hnum, topkKey_number _ nanHigh hf hnumTop, hplus, hminus, plusZero_zero, plusZero_top]

end
end

/-! ### Lists in order of a key, and cut by it -/

section
variable {α : Type}

theorem insertByLe_eq_orderedInsert (key : α → Nat) (a : α) :
    ∀ xs : List α, sortBy.insertByLe key a xs = xs.orderedInsert (fun a b => key a ≤ key b) a
  | [] => rfl
  | b :: xs => by rw [sortBy.insertByLe, List.orderedInsert_cons, insertByLe_eq_orderedInsert key a xs]

theorem sortBy_eq_insertionSort (key : α → Nat) : ∀ xs : List α, sortBy key xs = xs.insertionSort (fun a b => key a ≤ key b)
  | [] => rfl
  | a :: xs => by
    rw [List.insertionSort_cons, ← sortBy_eq_insertionSort key xs, ← insertByLe_eq_orderedInsert, sortBy, List.foldr_cons, ← sortBy]
    cases sortBy key xs <;> rfl

theorem sortBy_perm (key : α → Nat) (xs : List α) : (sortBy key xs).Perm xs := by
  rw [sortBy_eq_insertionSort]
  exact List.perm_insertionSort _ xs

theorem sortBy_pairwise (key : α → Nat) (xs : List α) : (sortBy key xs).Pairwise (fun a b => key a ≤ key b) := by
  have htotal : Std.Total (fun a b => key a ≤ key b) := ⟨fun a b => Nat.le_total (key a) (key b)⟩
  have htrans : IsTrans α (fun a b => key a ≤ key b) := ⟨fun _ _ _ => Nat.le_trans⟩
  rw [sortBy_eq_insertionSort]
  exact List.pairwise_insertionSort _ xs

theorem nodup_eraseDups [DecidableEq α] : ∀ xs : List α, xs.eraseDups.Nodup
  | [] => by simp
  | a :: xs => by
    rw [List.eraseDups_cons, List.nodup_cons]
    exact ⟨by simp, nodup_eraseDups _⟩
termination_by xs => xs.length
decreasing_by exact Nat.lt_succ_of_le (List.length_filter_le _ xs)

/-- A list falls apart into its parts by key, for keys among which each key of the list stands once. -/
theorem flatMap_filter_perm (key : α → Nat) : ∀ {ks : List Nat} {xs : List α}, ks.Nodup → (∀ x ∈ xs, key x ∈ ks) →
    (ks.flatMap (fun k => xs.filter (fun x => key x == k))).Perm xs
  | [], xs, _, hin => by
    have hnil : xs = [] := List.eq_nil_iff_forall_not_mem.mpr (fun x hx => by simpa using hin x hx)
    rw [hnil, List.flatMap_nil]
  | k :: ks, xs, hks, hin => by
    obtain ⟨hk, hks⟩ := List.nodup_cons.mp hks
    have hrest : ks.flatMap (fun k => xs.filter (fun x => key x == k)) =
        ks.flatMap (fun j => (xs.filter (fun x => !key x == k)).filter (fun x => key x == j)) := by
      refine List.flatMap_congr (fun j hj => ?_)
      rw [List.filter_filter]
      refine (List.filter_congr (fun x _ => ?_)).symm
      have hne : j ≠ k := fun heq => hk (heq ▸ hj)
      by_cases hx : key x = j <;> simp [hx, hne]
    have hother : ∀ x ∈ xs.filter (fun x => !key x == k), key x ∈ ks := by
      intro x hx
      obtain ⟨hmem, hne⟩ := List.mem_filter.mp hx
      exact (List.mem_cons.mp (hin x hmem)).resolve_left (by simpa using hne)
    rw [List.flatMap_cons, hrest]
    exact ((flatMap_filter_perm key hks hother).append_left _).trans (List.filter_append_perm _ xs)

end

/-! ### Candidates by rank -/

/-- The keys of candidates, each once, the highest first. -/
def rankKeys (cs : List Cand) : List Nat := (sortBy id ((cs.map (·.key)).eraseDups)).reverse

theorem ranked_eq (q : SelP) (cs : List Cand) : q.ranked cs = (rankKeys cs).flatMap (fun k => q.tied k cs) := by
  rw [SelP.ranked, List.flatMap_def, rankKeys]

theorem mem_rankKeys {k : Nat} {cs : List Cand} : k ∈ rankKeys cs ↔ ∃ c ∈ cs, c.key = k := by
  rw [rankKeys, List.mem_reverse, (sortBy_perm _ _).mem_iff, List.mem_eraseDups, List.mem_map]

theorem rankKeys_nodup (cs : List Cand) : (rankKeys cs).Nodup :=
  List.nodup_reverse.mpr ((sortBy_perm _ _).nodup_iff.mpr (nodup_eraseDups _))

theorem rankKeys_pairwise (cs : List Cand) : (rankKeys cs).Pairwise (fun j k => k < j) := by
  have hle : (rankKeys cs).Pairwise (fun j k => k ≤ j) := List.pairwise_reverse.mpr (sortBy_pairwise id _)
  exact (hle.and (rankKeys_nodup cs)).imp (fun ⟨hkj, hne⟩ => Nat.lt_of_le_of_ne hkj hne.symm)

section
variable {q : SelP} (hstable : q.ties = 0) (k : Nat) (cs : List Cand)
include hstable

theorem tied_stable : q.tied k cs = sortBy Cand.index (cs.filter (fun c => c.key == k)) := by
  rw [SelP.tied]
  exact if_pos hstable

theorem mem_tied {c : Cand} : c ∈ q.tied k cs ↔ c ∈ cs ∧ c.key = k := by
  rw [tied_stable hstable, (sortBy_perm _ _).mem_iff, List.mem_filter, beq_iff_eq]

/-- The ranking loses and doubles no candidate (R250). -/
theorem ranked_perm : (q.ranked cs).Perm cs := by
  have hparts : ((rankKeys cs).flatMap (fun k => q.tied k cs)).Perm ((rankKeys cs).flatMap (fun k => cs.filter (fun c => c.key == k))) :=
    List.Perm.flatMap_left _ (fun k _ => by rw [tied_stable hstable]; exact sortBy_perm _ _)
  rw [ranked_eq]
  exact hparts.trans (flatMap_filter_perm Cand.key (rankKeys_nodup cs) (fun c hc => mem_rankKeys.mpr ⟨c, hc, rfl⟩))

/-- Higher keys rank first, and of one key the lower index (R252). -/
theorem ranked_pairwise : (q.ranked cs).Pairwise (fun a b => b.key < a.key ∨ (a.key = b.key ∧ a.index ≤ b.index)) := by
  rw [ranked_eq, List.pairwise_flatMap]
  constructor
  · intro k _
    have hsame : ∀ c ∈ q.tied k cs, c.key = k := fun c hc => ((mem_tied hstable k cs).mp hc).2
    have hrising : (q.tied k cs).Pairwise (fun a b => a.index ≤ b.index) := by
      rw [tied_stable hstable]
      exact sortBy_pairwise _ _
    exact hrising.imp_of_mem (fun ha hb hab => .inr ⟨(hsame _ ha).trans (hsame _ hb).symm, hab⟩)
  · refine (rankKeys_pairwise cs).imp (fun hkj a ha b hb => .inl ?_)
    rwa [((mem_tied hstable _ cs).mp ha).2, ((mem_tied hstable _ cs).mp hb).2]

end

end Sys2Proof.Machine

namespace Sys2Proof

open Sys2Proof.Machine

/-- Settles O38: NaN and keys by the order of the stored bits, signed keys as values moved up by half the range, the ranking key by key. -/
theorem keysInValueOrder : Obligations.KeysInValueOrder := by
  refine ⟨fun t bits nanHigh ht => ?_, fun t a b hsigned ha hb => ?_, fun q cs hstable => ⟨ranked_perm hstable cs, ranked_pairwise hstable cs⟩⟩
  · intro w b top mask nan c
    have hnan : t.isF = true → (t.fmt.decode b = .nan ↔ nan = true) := by
      intro hf
      cases t with
      | fp16 => exact (fp16_decode_eq_nan_iff b).trans decide_eq_true_iff.symm
      | bf16 => exact (bf16_decode_eq_nan_iff b).trans decide_eq_true_iff.symm
      | fp32 => exact (fp32_decode_eq_nan_iff b).trans decide_eq_true_iff.symm
      | e5m2 => exact (e5m2_decode_eq_nan_iff b).trans decide_eq_true_iff.symm
      | e4m3 => exact (e4m3_decode_eq_nan_iff b).trans decide_eq_true_iff.symm
      | _ => cases hf
    refine ⟨?_, topkBucket_eq _ _, fun hf hnum => ?_, fun hf => topkKey_minusZero nanHigh hf⟩
    · have hb : b < 2 ^ w := Nat.mod_lt bits (Nat.two_pow_pos w)
      rcases ht with hint | hf
      · rw [if_pos hint]
        exact topkKey_of_isInt bits nanHigh hint
      · obtain ⟨-, -, -, hwide⟩ := Ty.fmt_facts_of_isF hf
        rw [if_neg (by simp [Ty.isInt_of_isF hf])]
        by_cases hdecode : t.fmt.decode b = .nan
        · rw [topkKey_nan bits nanHigh hf hdecode, if_pos ((hnan hf).mp hdecode)]
        · rw [topkKey_number bits nanHigh hf hdecode, if_neg (mt (hnan hf).mpr hdecode)]
          exact (orderBits_eq (Nat.lt_of_lt_of_le (by decide) hwide) (plusZero_lt hb)).symm
    · exact topkKey_number_ne_ends bits nanHigh hf (by rw [ne_eq, hnan hf, hnum]; decide)
  · intro value
    have hvalue {n : Nat} (hn : n < 2 ^ t.width) : t.toInt n = value n := by
      rw [Ty.toInt_cases (Ty.isInt_of_isSigned hsigned) hn]
      simp only [hsigned, true_and, value, ← Nat.not_lt, ite_not]
    have hkeyA := topkKey_of_isSigned false hsigned ha
    have hkeyB := topkKey_of_isSigned false hsigned hb
    rw [← hvalue ha, ← hvalue hb]
    omega

end Sys2Proof
end

section
/-!
PROOFS. The permuter is a permutation of [0, N) (11 R282): the rounds are undone in reverse order, and walking a cycle comes back to [0, N).
-/

namespace Sys2Proof.Machine

open Sys2Proof

/-! ### Two halves of a number -/

/-- The high half and the low half of `h` bits. -/
def halves (h x : Nat) : Nat × Nat := (x >>> h, x % pow2 h)

/-- The number of two halves. -/
def joined (h : Nat) (s : Nat × Nat) : Nat := (s.1 <<< h) ||| s.2

/-- Both halves fit `h` bits. -/
def HalvesFit (h : Nat) (s : Nat × Nat) : Prop := s.1 < 2 ^ h ∧ s.2 < 2 ^ h

section
variable {h : Nat} {s : Nat × Nat}

theorem joined_eq (hs : HalvesFit h s) : joined h s = s.1 * 2 ^ h + s.2 := by
  rw [joined, ← Nat.shiftLeft_add_eq_or_of_lt hs.2, Nat.shiftLeft_eq]

theorem halves_eq (h x : Nat) : halves h x = (x / 2 ^ h, x % 2 ^ h) := by
  rw [halves, pow2_eq, Nat.shiftRight_eq_div_pow]

theorem joined_lt (hs : HalvesFit h s) : joined h s < 2 ^ (2 * h) := by
  obtain ⟨hl, hr⟩ := hs
  rw [joined_eq ⟨hl, hr⟩, Nat.two_mul, Nat.pow_add]
  calc s.1 * 2 ^ h + s.2 < (s.1 + 1) * 2 ^ h := by rw [Nat.succ_mul]; omega
    _ ≤ 2 ^ h * 2 ^ h := Nat.mul_le_mul_right _ hl

theorem halves_joined (hs : HalvesFit h s) : halves h (joined h s) = s := by
  rw [halves_eq, joined_eq hs, Nat.mul_comm, Nat.mul_add_div (Nat.two_pow_pos h), Nat.mul_add_mod, Nat.div_eq_of_lt hs.2, Nat.mod_eq_of_lt hs.2, Nat.add_zero]

theorem halves_fits {x : Nat} (hx : x < 2 ^ (2 * h)) : HalvesFit h (halves h x) := by
  rw [halves_eq]
  rw [Nat.two_mul, Nat.pow_add] at hx
  exact ⟨Nat.div_lt_of_lt_mul hx, Nat.mod_lt _ (Nat.two_pow_pos h)⟩

theorem joined_halves {x : Nat} (hx : x < 2 ^ (2 * h)) : joined h (halves h x) = x := by
  rw [joined_eq (halves_fits hx), halves_eq]
  exact Nat.div_add_mod' x (2 ^ h)

end

/-! ### Rounds -/

/-- One round. -/
def roundStep (h : Nat) (s : Nat × Nat) (k : Nat) : Nat × Nat := (s.2, s.1 ^^^ roundF h s.2 k)

/-- One round undone. -/
def roundBack (h : Nat) (s : Nat × Nat) (k : Nat) : Nat × Nat := (s.2 ^^^ roundF h s.1 k, s.1)

theorem feistel_eq (keys : List Nat) (h x : Nat) : feistel keys h x = joined h (keys.foldl (roundStep h) (halves h x)) := rfl

theorem feistelInv_eq (keys : List Nat) (h y : Nat) : feistelInv keys h y = joined h (keys.reverse.foldl (roundBack h) (halves h y)) := rfl

theorem roundBack_roundStep (h : Nat) (s : Nat × Nat) (k : Nat) : roundBack h (roundStep h s k) k = s := by
  rw [roundBack, roundStep, Nat.xor_xor_cancel_right]

theorem roundStep_roundBack (h : Nat) (s : Nat × Nat) (k : Nat) : roundStep h (roundBack h s k) k = s := by
  rw [roundBack, roundStep, Nat.xor_xor_cancel_right]

/-- The round function gives `h` bits. -/
theorem roundF_lt {h : Nat} (hh : h ≤ 64) (r key : Nat) : roundF h r key < 2 ^ h := by
  rw [roundF, pow2_eq, Nat.shiftRight_eq_div_pow]
  refine Nat.div_lt_of_lt_mul ?_
  rw [← Nat.pow_add, Nat.sub_add_cancel hh]
  exact Nat.mod_lt _ (Nat.two_pow_pos 64)

theorem roundStep_fits {h : Nat} (hh : h ≤ 64) {s : Nat × Nat} (hs : HalvesFit h s) (k : Nat) : HalvesFit h (roundStep h s k) :=
  ⟨hs.2, Nat.xor_lt_two_pow hs.1 (roundF_lt hh ..)⟩

theorem roundBack_fits {h : Nat} (hh : h ≤ 64) {s : Nat × Nat} (hs : HalvesFit h s) (k : Nat) : HalvesFit h (roundBack h s k) :=
  ⟨Nat.xor_lt_two_pow hs.2 (roundF_lt hh ..), hs.1⟩

/-- Steps that are undone one by one are undone in reverse order. -/
theorem foldl_reverse_undoes {α β : Type} {f g : α → β → α} (hgf : ∀ a b, g (f a b) b = a) : ∀ (bs : List β) (a : α), bs.reverse.foldl g (bs.foldl f a) = a
  | [], _ => rfl
  | b :: bs, a => by
    rw [List.reverse_cons, List.foldl_append, List.foldl_cons, List.foldl_nil, List.foldl_cons, foldl_reverse_undoes hgf bs (f a b), hgf]

/-- Two functions on [0, m) undo each other. -/
structure Inverse (m : Nat) (f g : Nat → Nat) : Prop where
  maps : ∀ x < m, f x < m
  back : ∀ x < m, g x < m
  left : ∀ x < m, g (f x) = x
  right : ∀ x < m, f (g x) = x

theorem Inverse.symm {m : Nat} {f g : Nat → Nat} (hfg : Inverse m f g) : Inverse m g f := ⟨hfg.back, hfg.maps, hfg.right, hfg.left⟩

/-- The four rounds permute [0, 2^(2h)), whatever the keys. -/
theorem feistel_inverse (keys : List Nat) {h : Nat} (hh : h ≤ 64) : Inverse (2 ^ (2 * h)) (feistel keys h) (feistelInv keys h) := by
  have hstep {x : Nat} (hx : x < 2 ^ (2 * h)) : HalvesFit h (keys.foldl (roundStep h) (halves h x)) :=
    List.foldlRecOn keys _ (halves_fits hx) (fun _ hs k _ => roundStep_fits hh hs k)
  have hback {x : Nat} (hx : x < 2 ^ (2 * h)) : HalvesFit h (keys.reverse.foldl (roundBack h) (halves h x)) :=
    List.foldlRecOn keys.reverse _ (halves_fits hx) (fun _ hs k _ => roundBack_fits hh hs k)
  constructor <;> intro x hx
  · exact joined_lt (hstep hx)
  · exact joined_lt (hback hx)
  · rw [feistelInv_eq, feistel_eq, halves_joined (hstep hx), foldl_reverse_undoes (roundBack_roundStep h), joined_halves hx]
  · have hundone := foldl_reverse_undoes (roundStep_roundBack h) keys.reverse (halves h x)
    rw [List.reverse_reverse] at hundone
    rw [feistel_eq, feistelInv_eq, halves_joined (hback hx), hundone, joined_halves hx]

/-! ### Cycle walking -/

/-- A walk whose `k`-th step is the first below `n` ends there. -/
theorem cycleWalk_eq_iterate {f : Nat → Nat} {n : Nat} : ∀ {k fuel x : Nat}, k < fuel → (∀ i < k, n ≤ f^[i + 1] x) → f^[k + 1] x < n →
    cycleWalk f n fuel x = f^[k + 1] x
  | 0, fuel + 1, x, _, _, hin => if_pos hin
  | k + 1, fuel + 1, x, hfuel, hout, hin => by
    have hfirst : ¬ f x < n := Nat.not_lt.mpr (hout 0 (Nat.succ_pos k))
    rw [cycleWalk, if_neg hfirst]
    exact cycleWalk_eq_iterate (Nat.lt_of_succ_lt_succ hfuel) (fun i hi => hout (i + 1) (Nat.succ_lt_succ hi)) hin

section
variable {m : Nat} {f g : Nat → Nat} (hfg : Inverse m f g)
include hfg

theorem Inverse.iterate_lt {x : Nat} (hx : x < m) (i : Nat) : f^[i] x < m := by
  induction i with
  | zero => exact hx
  | succ i ih =>
    rw [Function.iterate_succ_apply']
    exact hfg.maps _ ih

theorem Inverse.iterate_undoes {x : Nat} (hx : x < m) (i j : Nat) : g^[i] (f^[i + j] x) = f^[j] x := by
  induction i with
  | zero => rw [Nat.zero_add, Function.iterate_zero_apply]
  | succ i ih => rw [Function.iterate_succ_apply, Nat.succ_add, Function.iterate_succ_apply', hfg.left _ (hfg.iterate_lt hx _), ih]

/-- A number comes back to itself within `m` steps: of `m + 1` numbers below `m` two are the same. -/
theorem Inverse.returns {x : Nat} (hx : x < m) : ∃ k < m, f^[k + 1] x = x := by
  have hmaps : ∀ i ∈ Finset.range (m + 1), f^[i] x ∈ Finset.range m := fun i _ => Finset.mem_range.mpr (hfg.iterate_lt hx i)
  obtain ⟨i, hi, j, hj, hne, heq⟩ := Finset.exists_ne_map_eq_of_card_lt_of_maps_to (by simp) hmaps
  wlog hij : i < j generalizing i j
  · exact this j hj i hi hne.symm heq.symm (by omega)
  have hsum : j = i + (j - i - 1 + 1) := by omega
  refine ⟨j - i - 1, by have := Finset.mem_range.mp hj; omega, ?_⟩
  rw [← hfg.iterate_undoes hx i (j - i - 1 + 1), ← hsum, ← heq]
  exact hfg.iterate_undoes hx i 0

/-- From below `n` the walk ends below `n`, and the walk of the inverse comes back. -/
theorem Inverse.cycleWalk {n x : Nat} (hn : n ≤ m) (hx : x < n) : cycleWalk f n m x < n ∧ cycleWalk g n m (cycleWalk f n m x) = x := by
  have hxm : x < m := Nat.lt_of_lt_of_le hx hn
  obtain ⟨r, hr, hreturn⟩ := hfg.returns hxm
  have hin : f^[r + 1] x < n := by rwa [hreturn]
  have hends : ∃ k, f^[k + 1] x < n := ⟨r, hin⟩
  obtain ⟨k, hk, hfirst⟩ : ∃ k, f^[k + 1] x < n ∧ ∀ i < k, ¬ f^[i + 1] x < n := ⟨Nat.find hends, Nat.find_spec hends, fun _ => Nat.find_min hends⟩
  have hkm : k < m := Nat.lt_of_le_of_lt (Nat.le_of_not_lt (fun h => hfirst r h hin)) hr
  have hwalk : Machine.cycleWalk f n m x = f^[k + 1] x := cycleWalk_eq_iterate hkm (fun i hi => Nat.le_of_not_lt (hfirst i hi)) hk
  have hback (i : Nat) (hi : i ≤ k) : g^[i + 1] (f^[k + 1] x) = f^[k - i] x := by
    rw [← hfg.iterate_undoes hxm (i + 1) (k - i), show i + 1 + (k - i) = k + 1 by omega]
  rw [hwalk]
  refine ⟨hk, (cycleWalk_eq_iterate hkm (fun i hi => ?_) ?_).trans ?_⟩
  · rw [hback i (Nat.le_of_lt hi), show k - i = k - i - 1 + 1 by omega]
    exact Nat.le_of_not_lt (hfirst _ (by omega))
  · rw [hback k (Nat.le_refl k), Nat.sub_self]
    exact hx
  · rw [hback k (Nat.le_refl k), Nat.sub_self]
    rfl

end

/-! ### The half width -/

theorem halfBits_le (n : Nat) : halfBits n ≤ 24 := by
  unfold halfBits
  cases hfind : (List.range 25).find? (fun h => decide (1 ≤ h) && decide (n ≤ pow2 (2 * h))) with
  | none => exact Nat.le_refl 24
  | some h => exact Nat.le_of_lt_succ (List.mem_range.mp (List.mem_of_find?_eq_some hfind))

/-- The two halves hold every sample index. -/
theorem le_two_pow_halfBits {n : Nat} (hn : n ≤ 2 ^ 48) : n ≤ 2 ^ (2 * halfBits n) := by
  unfold halfBits
  cases hfind : (List.range 25).find? (fun h => decide (1 ≤ h) && decide (n ≤ pow2 (2 * h))) with
  | none => exact hn
  | some h =>
    have hwide := List.find?_some hfind
    rw [Bool.and_eq_true, decide_eq_true_iff, decide_eq_true_iff, pow2_eq] at hwide
    exact hwide.2

section
variable (keys : List Nat) {n : Nat} (hn : n ≤ 2 ^ 48)
include hn

/-- A pass holds every sample at one offset, at which it is found (R282). -/
theorem positionOf_sampleAt {r : Nat} (hr : r < n) : sampleAt keys n r < n ∧ positionOf keys n (sampleAt keys n r) = r := by
  rw [positionOf, sampleAt, pow2_eq]
  exact (feistel_inverse keys (Nat.le_trans (halfBits_le n) (by decide))).cycleWalk (le_two_pow_halfBits hn) hr

theorem sampleAt_positionOf {s : Nat} (hs : s < n) : positionOf keys n s < n ∧ sampleAt keys n (positionOf keys n s) = s := by
  rw [positionOf, sampleAt, pow2_eq]
  exact (feistel_inverse keys (Nat.le_trans (halfBits_le n) (by decide))).symm.cycleWalk (le_two_pow_halfBits hn) hs

end

end Sys2Proof.Machine

namespace Sys2Proof

open Sys2Proof.Machine

/-- Settles O47: the rounds are undone in reverse order, so the walk of a cycle has an inverse; the worked example of R282 is computed. -/
theorem permuterBijective : Obligations.PermuterBijective :=
  ⟨fun keys _ _ hn => ⟨fun _ hr => positionOf_sampleAt keys hn hr, fun _ hs => sampleAt_positionOf keys hn hs⟩, by decide +kernel⟩

end Sys2Proof
end

section
/-!
PROOFS. Samples fill the batch in progress; a full one is closed behind those that wait to leave (11 R285, R286, R298).
-/

namespace Sys2Proof.Machine

open Sys2Proof

/-! ### A station's own state after it is written -/

/-- A station that keeps a state of its own keeps the one that is written. -/
theorem kind_setKind_self {d : Dev} {slot st : Nat} (hown : (getSt d slot st).kind ≠ .plain) (k : KindSt) : (getSt (setKind d slot st k) slot st).kind = k := by
  obtain ⟨hslot, hst⟩ := station_exists (fun he => hown (by rw [he]))
  rw [setKind, getSt_modSt d slot st st _ hslot, if_pos ⟨rfl, hst⟩]

section
variable {d : Dev} {slot st : Nat} {x : BatchSt} (hx : (getSt d slot st).kind = .batch x)
include hx

theorem batchSt_of_kind : batchSt d slot st = x := by rw [batchSt, hx]

theorem kind_modBatch (f : BatchSt → BatchSt) : (getSt (modBatch d slot st f) slot st).kind = .batch (f x) := by
  rw [modBatch, batchSt_of_kind hx]
  exact kind_setKind_self (by simp [hx]) _

end

/-! ### One sample -/

/-- A corrupt sample of a bulk channel: it takes no slot (R285). -/
def Drops (c : BatchCtx) (s : Sample) : Prop := c.ch.kind ≠ 1 ∧ s.parts = none

/-- The station's state with a sample in the next slot (R285, R286). -/
def BatchSt.slotted (x : BatchSt) (c : BatchCtx) (s : Sample) : BatchSt :=
  { x with pass := if x.slots.isEmpty then s.pos / c.ch.samples else x.pass, slots := x.slots ++ [s], next := s.pos + 1,
           valid := x.valid + b2n s.parts.isSome, skipped := x.corrupt }

/-- The mask of the holes of a batch: bit q for slot q (R286). -/
def holeMask (slots : List Sample) : Nat := slots.zipIdx.foldl (fun a s => a + (if s.1.parts.isNone then pow2 s.2 else 0)) 0

/-- The descriptor fields of the batch in progress (R298). -/
def BatchSt.info (x : BatchSt) (c : BatchCtx) : BatchInfo :=
  let first := x.batch * c.ch.batchSamples
  { batch := x.batch, pass := if c.ch.kind = 1 then first / c.ch.samples else x.pass, samples := x.slots.length, first := first,
    skipped := if c.ch.kind = 1 then 0 else x.skipped, holes := (x.slots.filter (·.parts.isNone)).length, mask := holeMask x.slots }

/-- A batch that is full is closed. -/
def closeFull (c : BatchCtx) (d : Dev) : Dev := if (batchSt d c.slot c.st).slots.length = c.ch.batchSamples then completeBatch c d else d

/-- A corrupt sample of a bulk channel only counts. -/
theorem putSample_dropped {c : BatchCtx} {s : Sample} (hdrops : Drops c s) (d : Dev) :
    putSample c d s = closeFull c (modBatch d c.slot c.st (fun x => { x with corrupt := x.corrupt + 1, next := s.pos + 1 })) := by
  obtain ⟨hbulk, hnone⟩ := hdrops
  simp only [putSample, hbulk, hnone, ne_eq, not_false_eq_true, decide_true, Option.isNone_none, Bool.and_self, if_true]
  rfl

/-- Any other sample takes the next slot. -/
theorem putSample_slotted {c : BatchCtx} {s : Sample} (hkeeps : ¬ Drops c s) (d : Dev) :
    putSample c d s = closeFull c (modBatch d c.slot c.st (fun x => x.slotted c s)) := by
  have htakes : (decide (c.ch.kind ≠ 1) && s.parts.isNone) = false := by
    rw [Bool.and_eq_false_iff, decide_eq_false_iff_not, ← Bool.not_eq_true, Option.isNone_iff_eq_none]
    exact not_and_or.mp hkeeps
  simp only [putSample, htakes, Bool.false_eq_true, if_false]
  rfl

section
variable {c : BatchCtx} {d : Dev} {x : BatchSt} {s : Sample} (hx : (getSt d c.slot c.st).kind = .batch x)
include hx

theorem kind_completeBatch : (getSt (completeBatch c d) c.slot c.st).kind =
    .batch { x with ready := x.ready ++ [(x.info c, x.slots)], batch := x.batch + 1, slots := [] } := by
  unfold completeBatch
  rw [kind_modBatch hx, batchSt_of_kind hx]
  simp only [BatchSt.info, holeMask, decide_eq_true_eq]

/-- A batch whose slots reach BATCH_SAMPLES is closed. -/
theorem batchSt_closeFull : batchSt (closeFull c d) c.slot c.st =
    if x.slots.length = c.ch.batchSamples then { x with ready := x.ready ++ [(x.info c, x.slots)], batch := x.batch + 1, slots := [] } else x := by
  rw [closeFull, batchSt_of_kind hx]
  split
  · exact batchSt_of_kind (kind_completeBatch hx)
  · exact batchSt_of_kind hx

theorem batchSt_putSample_dropped (hroom : x.slots.length < c.ch.batchSamples) (hdrops : Drops c s) :
    batchSt (putSample c d s) c.slot c.st = { x with corrupt := x.corrupt + 1, next := s.pos + 1 } := by
  rw [putSample_dropped hdrops, batchSt_closeFull (kind_modBatch hx _)]
  exact if_neg (Nat.ne_of_lt hroom)

theorem batchSt_putSample_slotted (hkeeps : ¬ Drops c s) : batchSt (putSample c d s) c.slot c.st =
    if (x.slots ++ [s]).length = c.ch.batchSamples then
      { x.slotted c s with ready := x.ready ++ [((x.slotted c s).info c, x.slots ++ [s])], batch := x.batch + 1, slots := [] }
    else x.slotted c s := by
  rw [putSample_slotted hkeeps, batchSt_closeFull (kind_modBatch hx _)]
  rfl

end

/-! ### The holes of a batch -/

theorem holeMask_append (slots : List Sample) (s : Sample) : holeMask (slots ++ [s]) = holeMask slots + if s.parts.isNone then 2 ^ slots.length else 0 := by
  simp only [holeMask, List.zipIdx_append, List.foldl_append, Nat.zero_add, List.zipIdx_cons, List.zipIdx_nil, List.foldl_cons, List.foldl_nil, pow2_eq]

theorem holeMask_lt (slots : List Sample) : holeMask slots < 2 ^ slots.length := by
  induction slots using List.reverseRecOn with
  | nil => exact Nat.one_pos
  | append_singleton slots s ih =>
    rw [holeMask_append, List.length_append, List.length_singleton, Nat.pow_succ]
    split <;> omega

/-- A number with one more bit at the top. -/
theorem testBit_add_top {n k : Nat} (hn : n < 2 ^ k) (b : Bool) (q : Nat) : (n + if b then 2 ^ k else 0).testBit q = if q = k then b else n.testBit q := by
  have htop : n.testBit k = false := Nat.testBit_lt_two_pow hn
  cases b with
  | false =>
    rw [if_neg Bool.false_ne_true, Nat.add_zero]
    split
    next heq => rw [heq, htop]
    · rfl
  | true =>
    rw [if_pos rfl, Nat.add_comm]
    rcases Nat.lt_trichotomy q k with hlt | rfl | hgt
    · rw [Nat.testBit_two_pow_add_gt hlt, if_neg (Nat.ne_of_lt hlt)]
    · rw [Nat.testBit_two_pow_add_eq, htop, if_pos rfl, Bool.not_false]
    · have hpow : 2 ^ (k + 1) ≤ 2 ^ q := Nat.pow_le_pow_right (by decide) hgt
      rw [if_neg (Nat.ne_of_gt hgt), Nat.testBit_lt_two_pow (by omega), Nat.testBit_lt_two_pow (by omega)]

theorem getElem?_append_singleton {α : Type} (xs : List α) (a : α) (q : Nat) : (xs ++ [a])[q]? = if q = xs.length then some a else xs[q]? := by
  grind

/-- Bit q of the mask says that slot q is a hole (R286, R298). -/
theorem holeMask_testBit (slots : List Sample) (q : Nat) : (holeMask slots).testBit q = decide ((slots[q]?).map (·.parts) = some none) := by
  induction slots using List.reverseRecOn with
  | nil => simp [holeMask]
  | append_singleton slots s ih =>
    rw [holeMask_append, testBit_add_top (holeMask_lt slots), getElem?_append_singleton, ih]
    split
    · cases hparts : s.parts <;> simp [hparts]
    · rfl

end Sys2Proof.Machine

namespace Sys2Proof

open Sys2Proof.Machine

/-- Settles O49: a sample that is not dropped takes the next slot, and the batch is closed in the state that this leaves. -/
theorem batchesFill : Obligations.BatchesFill := by
  intro c d x s hx hroom
  have hput := batchSt_putSample_slotted (c := c) (s := s) hx
  dsimp only
  refine ⟨fun hbulk hnone => batchSt_putSample_dropped hx hroom ⟨hbulk, hnone⟩, fun hkeeps hopen => ?_, fun hkeeps hfull => ?_⟩
  · rw [hput hkeeps, if_neg (Nat.ne_of_lt hopen)]
    exact ⟨rfl, rfl, rfl, rfl⟩
  · rw [hput hkeeps, if_pos hfull]
    refine ⟨rfl, rfl, rfl, _, rfl, rfl, rfl, hfull, ?_, rfl, ?_, fun q _ => holeMask_testBit _ q⟩
    · exact congrArg List.length (List.filter_congr (fun z _ => Bool.eq_iff_iff.mpr (by simp)))
    · simp only [BatchSt.info, BatchSt.slotted, List.isEmpty_iff]

end Sys2Proof
end

section
/-!
PROOFS. The rows of shuffle stations (11 R279 to R281): the store fills, its coverage, the next position of a port.
-/

namespace Sys2Proof.Machine

open Sys2Proof

/-! ### Filing rows -/

section
variable {d : Dev} {slot st : Nat}

/-- A row is filed under the channels it names, or counted where it names none (R279, R280). -/
theorem storeRow_files {r : Row} {ord i : Nat} (hopen : (shuffleSt d slot st).full = false) (hrow : (getIn d slot st 0).row? = some (r, ord))
    (hindex : sampleIndex r (u8at (paramSt d slot st) 0) = some i)
    (hbelow : ∀ c ∈ rowChannels (getJob d slot).image (descSt d slot st) r, i < (channelD (getJob d slot).image c).samples) :
    storeRow slot st d = .next (if rowChannels (getJob d slot).image (descSt d slot st) r = [] then countSt (modIn d slot st 0 InPort.nextRow) slot st 0 1
      else modShuffle (modIn d slot st 0 InPort.nextRow) slot st
        (fun x => { x with store := x.store ++ (rowChannels (getJob d slot).image (descSt d slot st) r).map (fun c => (c, i, r)) })) := by
  have hfits : (rowChannels (getJob d slot).image (descSt d slot st) r).find? (fun c => decide ((channelD (getJob d slot).image c).samples ≤ i)) = none :=
    List.find?_eq_none.mpr (fun c hc => by simpa using hbelow c hc)
  unfold storeRow
  dsimp only
  rw [hopen, hrow]
  dsimp only
  rw [hindex]
  dsimp only
  rw [hfits]
  simp only [Bool.false_eq_true, if_false, List.isEmpty_iff]
  split <;> rfl

/-- Behind the last row the store is complete, and the other participants hear what it holds (R280). -/
theorem storeRow_completes (hopen : (shuffleSt d slot st).full = false) (hrow : (getIn d slot st 0).row? = none) (hdone : inputsDone d slot st = true) :
    ∃ payload, storeRow slot st d = .next (sendAll (modShuffle d slot st (fun x => { x with full := true })) slot 13 payload) := by
  unfold storeRow
  dsimp only
  rw [hopen, hrow, hdone]
  exact ⟨_, rfl⟩

theorem shuffleSt_modShuffle {x : ShuffleSt} (hx : (getSt d slot st).kind = .shuffle x) (f : ShuffleSt → ShuffleSt) :
    shuffleSt (modShuffle d slot st f) slot st = f x := by
  rw [modShuffle, shuffleSt, kind_setKind_self (by simp [hx]), shuffleSt, hx]

end

/-- A device with the same jobs has the same sample store. -/
theorem shuffleSt_congr {d e : Dev} {slot st : Nat} (h : d.jobs = e.jobs) : shuffleSt d slot st = shuffleSt e slot st := by
  rw [shuffleSt, shuffleSt, getSt, getSt, getJob_congr h]

theorem sendAll_posted (d : Dev) (slot code : Nat) (payload : Bytes) : (sendAll d slot code payload).posted = d.posted := by
  obtain ⟨ls, os, h⟩ := sendAll_frame d slot code payload
  rw [h]

/-! ### Coverage -/

/-- Numbers in a row leave no gap. -/
theorem firstGap_range' (n : Nat) : ∀ k i, i + k = n → firstGap n i (List.range' i k) = none
  | 0, i, h => if_neg (by omega)
  | k + 1, i, h => by
    rw [List.range'_succ, firstGap, if_pos rfl]
    exact firstGap_range' n k (i + 1) (by omega)

/-- Numbers in a row stand once each. -/
theorem firstTwice_range' : ∀ k i, firstTwice (List.range' i k) = none
  | 0, _ => rfl
  | 1, _ => rfl
  | k + 2, i => by
    have hrest := firstTwice_range' (k + 1) (i + 1)
    rw [List.range'_succ] at hrest
    rw [List.range'_succ, List.range'_succ, firstTwice, if_neg (Nat.ne_of_lt (Nat.lt_succ_self i))]
    exact hrest

/-- A complete store whose every index is held once begins emission at position 0 (R280, R281). -/
theorem storeComplete_emits {d : Dev} {slot st : Nat} (hfull : (shuffleSt d slot st).full = true) (hidle : (shuffleSt d slot st).emitting = false)
    (hheard : (getJob d slot).participants.length ≤ (shuffleSt d slot st).holds.length + 1)
    (honce : ∀ c ∈ (shufEntries (getJob d slot).image (descSt d slot st)).map (·.channel),
      heldSamples (shuffleSt d slot st) c = List.range (channelD (getJob d slot).image c).samples) :
    storeComplete slot st d = .next (modShuffle d slot st
      (fun x => { x with emitting := true, pos := ((shufEntries (getJob d slot).image (descSt d slot st)).map (·.channel)).map (fun _ => 0) })) := by
  have hsingle : ((shufEntries (getJob d slot).image (descSt d slot st)).map (·.channel)).findSome?
      (fun c => (firstTwice (heldSamples (shuffleSt d slot st) c)).map (fun i => (c, i))) = none :=
    List.findSome?_eq_none_iff.mpr (fun c hc => by rw [honce c hc, List.range_eq_range', firstTwice_range', Option.map_none])
  have hwhole : ((shufEntries (getJob d slot).image (descSt d slot st)).map (·.channel)).findSome?
      (fun c => (firstGap (channelD (getJob d slot).image c).samples 0 (heldSamples (shuffleSt d slot st) c)).map (fun i => (c, i))) = none :=
    List.findSome?_eq_none_iff.mpr (fun c hc => by rw [honce c hc, List.range_eq_range', firstGap_range' _ _ _ (Nat.zero_add _), Option.map_none])
  unfold storeComplete
  dsimp only
  rw [if_neg (by simpa [hfull, hidle] using hheard), hsingle]
  dsimp only
  rw [hwhole]

/-! ### Emission -/

section
variable {d : Dev} {slot st port : Nat}

/-- The samples of a port's channel that this participant holds, in the order in which they were filed. -/
def portHeld (d : Dev) (slot st port : Nat) : List Nat :=
  ((shuffleSt d slot st).store.filter (fun y => y.1 == (shufEntry (paramSt d slot st) port).channel)).map (·.2.1)

/-- The next position of a port's channel (R281). -/
def portNext (d : Dev) (slot st port : Nat) : Option (Nat × Nat) :=
  nextPos (getJob d slot).image (channelD (getJob d slot).image (shufEntry (paramSt d slot st) port).channel) (shufEntry (paramSt d slot st) port).passes
    (portHeld d slot st port) ((shuffleSt d slot st).pos.getD port 0)

/-- The device behind the end of a port's stream: with the last port the station ends (R50, R281). -/
def portEnded (slot st port : Nat) (d : Dev) : Dev :=
  if ∀ p < (descSt d slot st).outPorts, (getOut (endPort d slot st port) slot st p).eos = true then modSt (endPort d slot st port) slot st (fun s => { s with ended := true })
  else endPort d slot st port

variable (hport : port < (descSt d slot st).outPorts) (hemits : (shuffleSt d slot st).emitting = true) (hgoes : (getOut d slot st port).eos = false)
  (hfree : (getQ d slot (outQueueNo (getJob d slot) st port)).held = [])
include hport hemits hgoes hfree

/-- The next held position goes out as its stored row. -/
theorem shuffleEmit_row {p i : Nat} (hnext : portNext d slot st port = some (p, i)) : shuffleEmit slot st port d =
    .next (addRow slot st port (modShuffle d slot st (fun x => { x with pos := setAt x.pos port (p + 1) }))
      ((((shuffleSt d slot st).store.find? (fun y => y.1 == (shufEntry (paramSt d slot st) port).channel && y.2.1 == i)).map (·.2.2)).getD [])) := by
  unfold portNext portHeld at hnext
  unfold shuffleEmit
  dsimp only
  rw [if_neg (Nat.not_le.mpr hport), if_neg (by simp [hemits, hgoes]), if_neg (by simp [hfree]), hnext]

/-- A port past its last position ends its stream. -/
theorem shuffleEmit_end (hnone : portNext d slot st port = none) (hpasses : (shufEntry (paramSt d slot st) port).passes ≠ 0) :
    shuffleEmit slot st port d = .next (portEnded slot st port d) := by
  unfold portNext portHeld at hnone
  unfold shuffleEmit
  dsimp only
  rw [if_neg (Nat.not_le.mpr hport), if_neg (by simp [hemits, hgoes]), if_neg (by simp [hfree]), hnone]
  dsimp only
  rw [if_neg hpasses, portEnded]
  simp only [List.all_eq_true, List.mem_range]

end

end Sys2Proof.Machine

namespace Sys2Proof

open Sys2Proof.Machine

section
variable {s : State} {slot st : Nat} {d : Dev} (hat : AtStation s slot st (· = .shuffle))
include hat

theorem takes_shuffleStoreRow (hnext : storeRow slot st (rowStart s) = .next d) : Takes (.shuffleStoreRow slot st) s d :=
  takes_of_onStation hat (fun _ d => storeRow slot st d) rfl hnext

theorem takes_shuffleEmit {port : Nat} (hnext : shuffleEmit slot st port (rowStart s) = .next d) : Takes (.shuffleEmit slot st port) s d :=
  takes_of_onStation hat (fun _ d => shuffleEmit slot st port d) rfl hnext

/-- SAMPLE_HOLDINGS of another participant is kept (R280). -/
theorem takes_sampleHoldings {part : Nat} (hpart : part < (getJob s.dev slot).participants.length) (hother : part ≠ (getJob s.dev slot).partIndex) (held : List (Nat × Nat)) :
    Takes (.sampleHoldings slot st part held) s (modShuffle (rowStart s) slot st (fun x => { x with holds := assocSet x.holds part held })) :=
  takes_of_onStation hat (fun _ d => onlyIf (decide (part < (getJob d slot).participants.length) && decide (part ≠ (getJob d slot).partIndex))
    (modShuffle d slot st (fun x => { x with holds := assocSet x.holds part held }))) rfl
    (onlyIf_eq_next.mpr ⟨Bool.and_eq_true_iff.mpr ⟨decide_eq_true hpart, decide_eq_true hother⟩, rfl⟩)

/-- Behind the last row the station's store is complete, and memory is as it was. -/
theorem exec_shuffleStoreRow_completes {x : ShuffleSt} (hx : (getSt s.dev slot st).kind = .shuffle x) (hopen : x.full = false)
    (hrow : (getIn s.dev slot st 0).row? = none) (hdone : inputsDone s.dev slot st = true) :
    ∃ u, exec (.shuffleStoreRow slot st) s = .next u ∧ shuffleSt u.dev slot st = { x with full := true } ∧ u.mem = s.mem := by
  have hst : shuffleSt (rowStart s) slot st = x := by
    change shuffleSt s.dev slot st = x
    rw [shuffleSt, hx]
  obtain ⟨payload, hnext⟩ := storeRow_completes (d := rowStart s) (slot := slot) (st := st) (by rw [hst, hopen]) hrow hdone
  refine ⟨_, takes_shuffleStoreRow hat hnext, ?_, ?_⟩
  · rw [← shuffleSt_modShuffle (d := rowStart s) hx (fun x => { x with full := true })]
    exact shuffleSt_congr (sendAll_jobs ..)
  · rw [ended_mem, sendAll_posted, modShuffle, setKind_posted]
    exact applyPosts_nil s.mem

end

/-- Settles O46, row by row. -/
theorem shuffleRows : Obligations.ShuffleRows := by
  intro s slot st port part held hat
  dsimp only
  refine ⟨fun r ord i hopen hrow hindex hbelow => takes_shuffleStoreRow hat (storeRow_files (d := rowStart s) hopen hrow hindex hbelow),
    exec_shuffleStoreRow_completes hat, fun hpart hother => takes_sampleHoldings hat hpart hother held, fun hfull hidle hheard honce => ?_,
    fun hport hemits hgoes hfree => ⟨fun p i hnext => ?_, fun hnone hpasses => ?_⟩⟩
  · exact takes_of_onStation hat (fun _ d => storeComplete slot st d) rfl (storeComplete_emits (d := rowStart s) hfull hidle hheard honce)
  · exact takes_shuffleEmit hat (shuffleEmit_row (d := rowStart s) hport hemits hgoes hfree hnext)
  · exact takes_shuffleEmit hat (shuffleEmit_end (d := rowStart s) hport hemits hgoes hfree hnone hpasses)

end Sys2Proof
end

section
/-!
PROOFS. The rows of batch and layout stations (11 R284, R287, R288, R290, R293, R296).
-/

namespace Sys2Proof.Machine

open Sys2Proof

/-! ### The next sample of a holder's stream -/

/-- The end of a holder's stream: its sample in progress is closed, and what that resolves leaves (R284, R287). -/
def streamEnded (c : BatchCtx) (h : Nat) (d : Dev) : Dev := settleBatch c (modHolder (closeSample c h d) c.slot c.st h (fun y => { y with ended := true }))

/-- What is taken of the tile in hand: the rows of one sample, or a tile of an image (R284). -/
def takeSample (c : BatchCtx) (h : Nat) (t : Tile) (pos : Nat) (d : Dev) : Dev :=
  if batchPixels c.im c.st then takeImageTile c h t d else takeRows c h (t.rowCount + 1 - pos) true d

/-- A stream of a participant that goes on at a station that goes on may be taken from. -/
theorem stream_open {parts h : Nat} {done gone : Bool} (hpart : h < parts) (hopen : done = false) (hgoes : gone = false) :
    ¬ (parts ≤ h ∨ done = true ∨ gone = true) := by
  rw [hopen, hgoes]
  simpa using hpart

/-- A station whose output is free and whose reorder window has room, or is waited for by this stream, takes a sample (R45, R287). -/
theorem window_open {waiting next own : Nat} {blocked : Bool} (hfree : blocked = false) (hwindow : waiting < 65536 ∨ own ≤ next) :
    ¬ (blocked || (decide (windowPositions ≤ waiting) && decide (next < own))) = true := by
  rw [hfree, Bool.false_or, Bool.and_eq_true, decide_eq_true_iff, decide_eq_true_iff, windowPositions]
  omega

section
variable {d : Dev} {slot st h : Nat} (hpart : h < (batchCtx d slot st).parts) (hopen : ((batchSt d slot st).holder h).ended = false)
  (hgoes : (getSt d slot st).ended = false) (hfree : outBlocked d slot st = false)
  (hwindow : (batchSt d slot st).waiting.length < 65536 ∨ ((batchSt d slot st).holder h).next ≤ (batchSt d slot st).next)
include hpart hopen hgoes hfree hwindow

/-- A tile in hand gives its next sample; with another participant's last tile its stream ends (R284, R287). -/
theorem batchAssemble_takes {t : Tile} {pos : Nat} (hhead : headTile d (batchCtx d slot st) h = some (t, pos)) (hfilled : 0 < t.rowCount ∨ 0 < t.payloadBytes)
    (hruns : stopped (takeSample (batchCtx d slot st) h t pos d) slot = false) : batchAssemble slot st h d =
    .next (if t.eos = true ∧ headTile (takeSample (batchCtx d slot st) h t pos d) (batchCtx d slot st) h = none ∧ h ≠ (batchCtx d slot st).own then
        streamEnded (batchCtx d slot st) h (takeSample (batchCtx d slot st) h t pos d)
      else settleBatch (batchCtx d slot st) (takeSample (batchCtx d slot st) h t pos d)) := by
  unfold batchAssemble
  dsimp only
  rw [if_neg (stream_open hpart hopen hgoes), if_neg (window_open hfree hwindow), hhead]
  dsimp only
  rw [if_neg (by omega)]
  change DevOut.next (if stopped (takeSample (batchCtx d slot st) h t pos d) slot then _ else _) = _
  rw [hruns]
  simp only [Bool.false_eq_true, if_false, Bool.and_eq_true, Option.isNone_iff_eq_none, bne_iff_ne, and_assoc]
  rfl

/-- An empty last tile of another participant ends its stream (R50, R287). -/
theorem batchAssemble_lastTile {t : Tile} {pos : Nat} (hhead : headTile d (batchCtx d slot st) h = some (t, pos)) (hrows : t.rowCount = 0) (hbytes : t.payloadBytes = 0)
    (heos : t.eos = true) (hother : h ≠ (batchCtx d slot st).own) :
    batchAssemble slot st h d = .next (streamEnded (batchCtx d slot st) h (tookTile (batchCtx d slot st) h d)) := by
  unfold batchAssemble
  dsimp only
  rw [if_neg (stream_open hpart hopen hgoes), if_neg (window_open hfree hwindow), hhead]
  exact if_pos ⟨hrows, heos, hbytes, hother⟩

/-- The own stream ends with the station's input (R284). -/
theorem batchAssemble_inputEnd (hnone : headTile d (batchCtx d slot st) h = none) (hown : h = (batchCtx d slot st).own) (hdone : inputsDone d slot st = true) :
    batchAssemble slot st h d = .next (streamEnded (batchCtx d slot st) h d) := by
  unfold batchAssemble
  dsimp only
  rw [if_neg (stream_open hpart hopen hgoes), if_neg (window_open hfree hwindow), hnone]
  dsimp only
  rw [if_neg (not_not.mpr hown)]
  exact if_pos ((if_pos hown).trans hdone)

/-- The own stream goes by the positions that a filter dropped (R284). -/
theorem batchAssemble_goesBy {e : Dev} (hnone : headTile d (batchCtx d slot st) h = none) (hown : h = (batchCtx d slot st).own) (hmore : inputsDone d slot st = false)
    (hgone : goBy (batchCtx d slot st) d = some e) : batchAssemble slot st h d = .next (settleBatch (batchCtx d slot st) e) := by
  have hstream : streamDone d (batchCtx d slot st) h = false := (if_pos hown).trans hmore
  unfold batchAssemble
  dsimp only
  rw [if_neg (stream_open hpart hopen hgoes), if_neg (window_open hfree hwindow), hnone]
  dsimp only
  rw [if_neg (not_not.mpr hown), if_neg (by simp [hstream]), hgone]

end

/-! ### Slices of a batch -/

/-- The slice in hand is gathered (R290). -/
def sliceTaken (slot st : Nat) (t : Tile) (d : Dev) : Dev :=
  modLayout (modIn d slot st 0 InPort.drop) slot st (fun x => { x with slots := takeSlice t.used x.slots })

/-- The runs of a batch's slot image leave; the slices gathered and their shapes are gone (R293, R296). -/
def runsSent (slot st : Nat) (batch : Nat) (img : SlotImage) (d : Dev) : Dev :=
  (slotRuns img).zipIdx.foldl (fun d (r, i) => addTile d slot st 0 0 0 (tensorPayload batch r (decide (i + 1 = (slotRuns img).length))))
    (modBatch (modLayout d slot st (fun x => { x with slots := [] })) slot (batchOf (getJob d slot).image st)
      (fun x => { x with shapes := x.shapes.filter (fun s => s.1.1 != batch) }))

theorem image_modLayout (d : Dev) (slot st k : Nat) (f : LayoutSt → LayoutSt) : (getJob (modLayout d slot st f) k).image = (getJob d k).image :=
  getJob_modJob_keeps Job.image (by intro j; rfl) d slot k

section
variable {d : Dev} {m : Memory} {slot st : Nat} {t : Tile} {ts : List Tile} (hgoes : (getSt d slot st).ended = false) (hfree : outBlocked d slot st = false)
  (hinbox : (getIn d slot st 0).inbox = t :: ts) (hwhole : 64 ≤ t.used.length)
include hgoes hfree hinbox hwhole

theorem layoutTransfer_gathers (hmore : bit (u8at t.used 0x0D) 1 = false) : layoutTransfer slot st m d = .next (sliceTaken slot st t d) := by
  unfold layoutTransfer
  dsimp only
  rw [if_neg (by simp [hgoes]), if_neg (by simp [hfree]), hinbox]
  dsimp only
  rw [if_neg (Nat.not_lt.mpr hwhole), if_pos (by simp [hmore]), sliceTaken]

theorem layoutTransfer_sends {img : SlotImage} (hlast : bit (u8at t.used 0x0D) 1 = true) (himg : slotImage m (sliceTaken slot st t d) slot st (u64at t.used 0) = .ok img) :
    layoutTransfer slot st m d = .next (runsSent slot st (u64at t.used 0) img (sliceTaken slot st t d)) := by
  unfold sliceTaken at himg ⊢
  unfold layoutTransfer
  dsimp only
  rw [if_neg (by simp [hgoes]), if_neg (by simp [hfree]), hinbox]
  dsimp only
  rw [if_neg (Nat.not_lt.mpr hwhole), if_neg (by simp [hlast]), himg]
  dsimp only
  rw [image_modLayout, runsSent]

end

end Sys2Proof.Machine

namespace Sys2Proof

open Sys2Proof.Machine

section
variable {s : State} {slot st : Nat} {d : Dev}

theorem takes_batchAssemble {h : Nat} (hat : AtStation s slot st (· = .batch)) (hnext : batchAssemble slot st h (rowStart s) = .next d) : Takes (.batchAssemble slot st h) s d :=
  takes_of_onStation hat (fun _ d => batchAssemble slot st h d) rfl hnext

theorem takes_layoutTransfer (hat : AtStation s slot st (· = .layout)) (hnext : layoutTransfer slot st s.mem (rowStart s) = .next d) : Takes (.layoutTransfer slot st) s d :=
  takes_of_onStation hat (layoutTransfer slot st) rfl hnext

/-- VALID_COUNTS of another participant is kept, and what it resolves leaves (R288). -/
theorem takes_validCounts {h : Nat} (hat : AtStation s slot st (· = .batch)) (hpart : h < (batchCtx (rowStart s) slot st).parts)
    (hother : h ≠ (batchCtx (rowStart s) slot st).own) (hgoes : (getSt s.dev slot st).ended = false) (window count : Nat) :
    Takes (.validCounts slot st h window count) s (settleBatch (batchCtx (rowStart s) slot st)
      (modBatch (rowStart s) slot st (fun x => { x with told := assocSet x.told (h, window) count }))) :=
  takes_of_onStation hat (fun _ d => onlyIf (decide (h < (batchCtx d slot st).parts) && decide (h ≠ (batchCtx d slot st).own) && !(getSt d slot st).ended)
    (settleBatch (batchCtx d slot st) (modBatch d slot st (fun x => { x with told := assocSet x.told (h, window) count })))) rfl
    (onlyIf_eq_next.mpr ⟨Bool.and_eq_true_iff.mpr ⟨Bool.and_eq_true_iff.mpr ⟨decide_eq_true hpart, decide_eq_true hother⟩, congrArg not hgoes⟩, rfl⟩)

end

/-- Settles O48, row by row. -/
theorem batchRows : Obligations.BatchRows := by
  intro s slot st h window count
  refine ⟨fun hat => ⟨fun hpart hopen hgoes hfree hwindow => ⟨?_, ?_, ?_, ?_⟩, fun hpart hother hgoes => takes_validCounts hat hpart hother hgoes window count⟩,
    fun hat hgoes hfree t ts hinbox hwhole => ⟨fun hmore => ?_, fun img hlast himg => ?_⟩⟩
  · exact fun t pos hhead hfilled hruns => takes_batchAssemble hat (batchAssemble_takes (d := rowStart s) hpart hopen hgoes hfree hwindow hhead hfilled hruns)
  · exact fun t pos hhead hrows hbytes heos hother =>
      takes_batchAssemble hat (batchAssemble_lastTile (d := rowStart s) hpart hopen hgoes hfree hwindow hhead hrows hbytes heos hother)
  · exact fun hnone hown hdone => takes_batchAssemble hat (batchAssemble_inputEnd (d := rowStart s) hpart hopen hgoes hfree hwindow hnone hown hdone)
  · exact fun e hnone hown hmore hgone => takes_batchAssemble hat (batchAssemble_goesBy (d := rowStart s) hpart hopen hgoes hfree hwindow hnone hown hmore hgone)
  · exact takes_layoutTransfer hat (layoutTransfer_gathers (d := rowStart s) hgoes hfree hinbox hwhole hmore)
  · exact takes_layoutTransfer hat (layoutTransfer_sends (d := rowStart s) hgoes hfree hinbox hwhole hlast himg)

end Sys2Proof
end

section
/-!
PROOFS. What a bus error leaves of its engine and of the jobs (12 R325, R326): every fault that it raises leaves the engine stopped and the other jobs as they were.
-/

namespace Sys2Proof.Machine

open Sys2Proof

/-! ### What a fault leaves of the movers and of memory -/

/-- What a job's stop does not touch but for the job's own channels: the movers, and the facts of memory. -/
def aside (d : Dev) : Movers × MemFacts := (d.movers, d.facts)

@[simp] theorem complete_aside (d : Dev) (c : Cmd) (st dt : Nat) (resp : Bytes) (slot : Nat) : aside (complete d c st dt resp slot) = aside d := by
  obtain ⟨w, ps, po, ch, h⟩ := complete_frame d c st dt resp slot
  rw [h]
  rfl

@[simp] theorem completeIdx_aside (d : Dev) (idx st dt : Nat) (resp : Bytes) : aside (completeIdx d idx st dt resp) = aside d := by
  obtain ⟨w, ps, po, ch, h⟩ := completeIdx_frame d idx st dt resp
  rw [h]
  rfl

@[simp] theorem event_aside (d : Dev) (ty slot : Nat) (data : Bytes) : aside (event d ty slot data) = aside d := by
  obtain ⟨w, ps, po, h⟩ := event_frame d ty slot data
  rw [h]
  rfl

@[simp] theorem reportFault_aside (d : Dev) (f : FaultInfo) : aside (reportFault d f) = aside d := by
  obtain ⟨w, ps, po, js, h⟩ := reportFault_frame d f
  rw [h]
  rfl

@[simp] theorem modJob_aside (d : Dev) (slot : Nat) (f : Job → Job) : aside (modJob d slot f) = aside d := rfl

@[simp] theorem setJState_aside (d : Dev) (slot : Nat) (st : JState) (reason : Nat) : aside (setJState d slot st reason) = aside d := by
  obtain ⟨w, ps, po, h⟩ := setJState_frame d slot st reason
  rw [h]
  rfl

@[simp] theorem sendAll_aside (d : Dev) (slot code : Nat) (payload : Bytes) : aside (sendAll d slot code payload) = aside d := by
  obtain ⟨ls, os, h⟩ := sendAll_frame d slot code payload
  rw [h]
  rfl

@[simp] theorem endRebinds_aside (d : Dev) (slot code : Nat) : aside (endRebinds d slot code) = aside d :=
  foldl_keeps aside (fun d c => complete_aside d c 0x000C code [] c.slot) _ d

theorem completions_aside (d : Dev) (status detail : Nat) (resp : Bytes) (xs : List Nat) :
    aside (xs.foldl (fun d i => completeIdx d i status detail resp) d) = aside d := foldl_keeps aside (fun d i => completeIdx_aside d i status detail resp) xs d

@[simp] theorem endStart_aside (d : Dev) (slot code : Nat) : aside (endStart d slot code) = aside d := by
  unfold endStart
  split
  · rfl
  · rw [completions_aside, modJob_aside]

@[simp] theorem dropPrepared_aside (d : Dev) (slot : Nat) : aside (dropPrepared d slot) = aside d := by
  unfold dropPrepared
  dsimp only
  split
  · rfl
  · rw [modJob_aside]
    split <;> rfl

@[simp] theorem stopIdle_aside (d : Dev) (f : FaultInfo) (lost : Bool) : aside (stopIdle d f lost) = aside d := by
  unfold stopIdle
  split
  · dsimp only
    rw [endStart_aside, reportFault_aside]
    split
    · rw [setJState_aside, modJob_aside]
    · rfl
  · exact reportFault_aside d f

/-- A halted job's channels are gone, but not those that an engine's stop holds (R326). -/
def dropChans (d : Dev) (slot : Nat) : Dev :=
  { d with movers := { d.movers with chans := d.movers.chans.filter (fun x => x.2.arm.owner != slot || x.2.state == 3) } }

/-- A predicate about the movers and the facts of memory that every part of a job's stop keeps. -/
structure FaultStable (P : Dev → Prop) : Prop where
  of_aside : ∀ {d u}, P d → aside u = aside d → P u
  dropBursts : ∀ {d}, P d → ∀ slot, P (dropBursts d slot)
  dropChans : ∀ {d}, P d → ∀ slot, P (dropChans d slot)

namespace FaultStable

variable {P : Dev → Prop} (hP : FaultStable P) {d : Dev}
include hP

theorem finishCommit (h : P d) (slot : Nat) (c : Commit) : P (finishCommit d slot c) := by
  have hevent (e : Dev) (he : aside e = aside d) (data : Bytes) : P (event e 3 slot data) := hP.of_aside h ((event_aside ..).trans he)
  unfold Machine.finishCommit
  dsimp only
  refine hP.of_aside ?_ (completions_aside ..)
  split
  · exact hP.dropBursts (hP.of_aside (hevent _ (by rfl) _) (setJState_aside ..)) slot
  · exact hevent _ (by rfl) _

theorem endCommit (h : P d) (slot code : Nat) : P (endCommit d slot code) := by
  unfold Machine.endCommit
  split
  · exact h
  · split
    · exact hP.finishCommit h slot _
    · exact hP.of_aside h ((completions_aside ..).trans (dropPrepared_aside d slot))

theorem haltJob (h : P d) (slot code : Nat) : P (haltJob d slot code) :=
  hP.of_aside (hP.dropChans (hP.endCommit h slot code) slot) rfl

theorem stopFrom (h : P d) (f : FaultInfo) (why : Nat) : P (stopFrom d f why) := by
  have hhalted : P (haltedIn d f why) := hP.of_aside (hP.haltJob h f.slot f.code) ((setJState_aside ..).trans (modJob_aside ..))
  unfold Machine.stopFrom
  dsimp only
  refine hP.of_aside hhalted ((endRebinds_aside ..).trans ((reportFault_aside ..).trans ?_))
  split <;> rfl

/-- A job fault keeps what every part of a stop keeps. -/
theorem jobFault (h : P d) (f : FaultInfo) : P (jobFault d f) := by
  have hended : P (if (getJob d f.slot).state.live = true then Machine.endCommit d f.slot f.code else d) := by
    split
    · exact hP.endCommit h f.slot f.code
    · exact h
  have hstop : P (stopJob d f f.code) := by
    rw [stopJob_eq]
    dsimp only
    generalize (if (getJob d f.slot).state.live = true then Machine.endCommit d f.slot f.code else d) = e at hended ⊢
    split
    · exact hP.stopFrom hended f f.code
    · exact hP.of_aside hended (stopIdle_aside ..)
  unfold Machine.jobFault
  dsimp only
  split
  · exact hP.of_aside hstop (sendAll_aside ..)
  · exact hstop

end FaultStable

/-- A job fault leaves the facts of memory. -/
@[simp] theorem jobFault_facts (d : Dev) (f : FaultInfo) : (jobFault d f).facts = d.facts :=
  have hstable : FaultStable (fun u => u.facts = d.facts) :=
    ⟨fun h haside => (congrArg Prod.snd haside).trans h, fun h _ => h, fun h _ => h⟩
  hstable.jobFault rfl f

@[simp] theorem reportFault_facts (d : Dev) (f : FaultInfo) : (reportFault d f).facts = d.facts := congrArg Prod.snd (reportFault_aside d f)

/-! ### A stopped engine stays stopped -/

/-- What a bus error leaves of a channel (R325): it is stopped, and nothing is held, pending, staged or to be issued. -/
def Chan.Emptied (x : Chan) : Prop := x.state = 3 ∧ x.pending = none ∧ x.held = none ∧ x.stage = [] ∧ x.sentWr = []

/-- An engine as a bus error leaves it: STOPPED and DRAINING, each listed channel of it emptied, and each channel of it in `old` still listed. -/
structure EngineDown (e : Nat) (old : List ((Nat × Nat) × Chan)) (d : Dev) : Prop where
  stopped : (getEngine d e).stopped = true
  draining : (getEngine d e).draining = true
  emptied : ∀ x ∈ d.movers.chans, x.1.1 = e → x.2.Emptied
  listed : ∀ x ∈ old, x.1.1 = e → ∃ y ∈ d.movers.chans, y.1 = x.1

namespace EngineDown

variable {e : Nat} {old : List ((Nat × Nat) × Chan)} {d u : Dev}

/-- Only the movers count. -/
theorem of_movers (h : EngineDown e old d) (hmovers : u.movers = d.movers) : EngineDown e old u := by
  have hengine : getEngine u e = getEngine d e := by rw [getEngine, hmovers, getEngine]
  exact ⟨hengine ▸ h.stopped, hengine ▸ h.draining, hmovers ▸ h.emptied, hmovers ▸ h.listed⟩

/-- A held burst that is dropped leaves its channel emptied. -/
theorem dropBursts (h : EngineDown e old d) (slot : Nat) : EngineDown e old (dropBursts d slot) where
  stopped := h.stopped
  draining := h.draining
  emptied := by
    intro x hx he
    obtain ⟨y, hy, rfl⟩ := List.mem_map.mp hx
    by_cases howner : (y.2.arm.owner == slot) = true
    · rw [if_pos howner] at he ⊢
      obtain ⟨hstate, hpending, _, hstage, hsent⟩ := h.emptied y hy he
      exact ⟨hstate, hpending, rfl, hstage, hsent⟩
    · rw [if_neg howner] at he ⊢
      exact h.emptied y hy he
  listed := by
    intro x hx he
    obtain ⟨y, hy, hkey⟩ := h.listed x hx he
    refine ⟨_, List.mem_map.mpr ⟨y, hy, rfl⟩, ?_⟩
    split <;> exact hkey

/-- A channel at state 3 outlasts the stop of its job (R326). -/
theorem dropChans (h : EngineDown e old d) (slot : Nat) : EngineDown e old (dropChans d slot) where
  stopped := h.stopped
  draining := h.draining
  emptied := fun x hx => h.emptied x (List.mem_filter.mp hx).1
  listed := by
    intro x hx he
    obtain ⟨y, hy, hkey⟩ := h.listed x hx he
    have hstate := (h.emptied y hy (hkey ▸ he)).1
    exact ⟨y, List.mem_filter.mpr ⟨hy, by simp [hstate]⟩, hkey⟩

theorem faultStable (e : Nat) (old : List ((Nat × Nat) × Chan)) : FaultStable (EngineDown e old) :=
  ⟨fun h haside => h.of_movers (congrArg Prod.fst haside), dropBursts, dropChans⟩

/-- What every step of a fold keeps, the fold keeps. -/
theorem foldl {α : Type} {f : Dev → α → Dev} (hf : ∀ {d a}, EngineDown e old d → EngineDown e old (f d a)) (h : EngineDown e old d) (xs : List α) :
    EngineDown e old (xs.foldl f d) := by
  induction xs generalizing d with
  | nil => exact h
  | cons a xs ih => exact ih (hf h)

end EngineDown

/-! ### A fault leaves the other jobs -/

section
variable {d e : Dev} {f : FaultInfo}

theorem OthersKept.reportFault {slot : Nat} (h : OthersKept slot d e) (hslot : f.slot = slot) : OthersKept slot d (reportFault e f) := by
  subst hslot
  have hjobs := reportFault_jobs e f
  split at hjobs
  · exact (h.modJob _).then_jobs hjobs
  · exact h.then_jobs hjobs

theorem OthersKept.stopIdle (h : OthersKept f.slot d e) (lost : Bool) : OthersKept f.slot d (stopIdle e f lost) := by
  have hheld := OthersKept.ite (p := lost = true) ((h.modJob (fun j => { j with unrecov := true })).setJState .held f.code) h
  unfold Machine.stopIdle
  dsimp only
  exact .ite (OthersKept.endStart (OthersKept.reportFault hheld (by rfl)) f.code) (h.reportFault rfl)

theorem OthersKept.stopFrom (h : OthersKept f.slot d e) (why : Nat) : OthersKept f.slot d (stopFrom e f why) := by
  have hhalted : OthersKept f.slot d (haltedIn e f why) := ((h.haltJob f.code).modJob _).setJState _ _
  unfold Machine.stopFrom
  dsimp only
  refine then_jobs ?_ (endRebinds_jobs ..)
  exact (OthersKept.ite (hhalted.modJob _) hhalted).reportFault rfl

/-- A job fault leaves every other job as it is. -/
theorem jobFault_others (d : Dev) (f : FaultInfo) : OthersKept f.slot d (jobFault d f) := by
  have hended : OthersKept f.slot d (if (getJob d f.slot).state.live = true then endCommit d f.slot f.code else d) := .ite (OthersKept.refl.endCommit f.code) .refl
  have hstop : OthersKept f.slot d (stopJob d f f.code) := by
    rw [stopJob_eq]
    exact .ite (hended.stopFrom f.code) (hended.stopIdle _)
  exact .ite (hstop.then_jobs (sendAll_jobs ..)) hstop

end

/-- A fold over slots, each step of which leaves the other jobs as they are, leaves a job whose slot it does not reach. -/
theorem foldl_skips {f : Dev → Nat → Dev} (hf : ∀ d k, OthersKept k d (f d k)) {k : Nat} :
    ∀ {ks : List Nat}, k ∉ ks → ∀ d : Dev, getJob (ks.foldl f d) k = getJob d k
  | [], _, _ => rfl
  | i :: ks, hk, d => by
    obtain ⟨hi, hks⟩ := not_or.mp (mt List.mem_cons.mpr hk)
    exact (foldl_skips hf hks (f d i)).trans (hf d i k hi)

/-- A job whose slot it reaches once is the one that the step of its slot leaves. -/
theorem foldl_reaches {f : Dev → Nat → Dev} (hf : ∀ d k, OthersKept k d (f d k)) {ks : List Nat} (hks : ks.Nodup) {k : Nat} (hk : k ∈ ks) (d : Dev) :
    ∃ u, getJob u k = getJob d k ∧ getJob (ks.foldl f d) k = getJob (f u k) k := by
  obtain ⟨before, after, rfl⟩ := List.append_of_mem hk
  obtain ⟨_, hafter, hapart⟩ := List.nodup_append.mp hks
  have hbefore : k ∉ before := fun h => hapart k h k List.mem_cons_self rfl
  refine ⟨before.foldl f d, foldl_skips hf hbefore d, ?_⟩
  rw [List.foldl_append, List.foldl_cons, foldl_skips hf (List.nodup_cons.mp hafter).1]

/-! ### The bus error -/

/-- The engine stops, and its channels with it (R325). -/
def stopEngine (d : Dev) (e : Nat) : Dev :=
  let stop (x : (Nat × Nat) × Chan) : (Nat × Nat) × Chan :=
    if x.1.1 = e then (x.1, { x.2 with state := 3, pending := none, held := none, stage := [], sentWr := [], waiting := false }) else x
  let d := { d with movers := { d.movers with chans := d.movers.chans.map stop } }
  setEngine d e { (getEngine d e) with stopped := true, draining := true, since := d.time }

/-- The fault of a bus error in a job (R330): of the lowest channel that the job holds, or of channel 63. -/
def busFault (e source addr slot c : Nat) : FaultInfo :=
  { code := 0x0401, slot := slot, die := engineDie e, detail := moverDetail source e c 0, detail2 := addr }

/-- The fault is raised in a job that holds a channel of the engine, and in one of `own`, for which channel 63 was moving (R326). -/
def busErrorIn (e source addr : Nat) (own : List Nat) (d : Dev) (slot : Nat) : Dev :=
  match lowestChan (getJob d slot) e with
  | some c => jobFault d (busFault e source addr slot c)
  | none => if own.contains slot && decide ((getJob d slot).state ≠ .free) then jobFault d (busFault e source addr slot 63) else d

theorem busError_eq (d : Dev) (e source addr : Nat) :
    busError d e source addr = (List.range 64).foldl (busErrorIn e source addr (oluatSlots d (getChan d e 63))) (stopEngine d e) := rfl

section
variable {d : Dev} {e source addr slot : Nat} {own : List Nat}

theorem busErrorIn_some {c : Nat} (h : lowestChan (getJob d slot) e = some c) :
    busErrorIn e source addr own d slot = jobFault d (busFault e source addr slot c) := by
  unfold busErrorIn
  rw [h]

theorem busErrorIn_none (h : lowestChan (getJob d slot) e = none) : busErrorIn e source addr own d slot =
    if own.contains slot && decide ((getJob d slot).state ≠ .free) then jobFault d (busFault e source addr slot 63) else d := by
  unfold busErrorIn
  rw [h]

theorem busErrorIn_others (d : Dev) (slot : Nat) : OthersKept slot d (busErrorIn e source addr own d slot) := by
  cases h : lowestChan (getJob d slot) e with
  | some c => rw [busErrorIn_some h]; exact jobFault_others d (busFault e source addr slot c)
  | none => rw [busErrorIn_none h]; exact .ite (jobFault_others d (busFault e source addr slot 63)) .refl

theorem EngineDown.busErrorIn {k : Nat} {old : List ((Nat × Nat) × Chan)} (h : EngineDown k old d) : EngineDown k old (busErrorIn e source addr own d slot) := by
  have hfault (c : Nat) := (faultStable k old).jobFault h (busFault e source addr slot c)
  cases hlow : lowestChan (getJob d slot) e with
  | some c => rw [busErrorIn_some hlow]; exact hfault c
  | none =>
    rw [busErrorIn_none hlow]
    split
    · exact hfault 63
    · exact h

end

theorem stopEngine_down (d : Dev) (e : Nat) : EngineDown e d.movers.chans (stopEngine d e) := by
  have hengine : getEngine (stopEngine d e) e = { (getEngine d e) with stopped := true, draining := true, since := d.time } := by
    rw [stopEngine, getEngine_setEngine, if_pos (beq_self_eq_true e)]
  refine ⟨by rw [hengine], by rw [hengine], fun x hx he => ?_, fun x hx _ => ⟨_, List.mem_map.mpr ⟨x, hx, rfl⟩, ?_⟩⟩
  · obtain ⟨y, -, rfl⟩ := List.mem_map.mp hx
    by_cases hof : y.1.1 = e
    · rw [if_pos hof]
      exact ⟨rfl, rfl, rfl, rfl, rfl⟩
    · rw [if_neg hof] at he
      exact absurd he hof
  · split <;> rfl

theorem busError_down (d : Dev) (e source addr : Nat) : EngineDown e d.movers.chans (busError d e source addr) :=
  busError_eq d e source addr ▸ EngineDown.foldl EngineDown.busErrorIn (stopEngine_down d e) _

/-- A job after a bus error is the one that the fault of its own slot leaves. -/
theorem busError_job (d : Dev) (e source addr : Nat) {k : Nat} (hk : k < 64) :
    ∃ u, getJob u k = getJob d k ∧ getJob (busError d e source addr) k = getJob (busErrorIn e source addr (oluatSlots d (getChan d e 63)) u k) k :=
  busError_eq d e source addr ▸ foldl_reaches busErrorIn_others List.nodup_range (List.mem_range.mpr hk) (stopEngine d e)

theorem lowestChan_some {j : Job} {e : Nat} (h : ∃ c < 63, j.units.contains (chanRes e c) = true) : ∃ c, lowestChan j e = some c := by
  obtain ⟨c, hc, hholds⟩ := h
  exact Option.isSome_iff_exists.mp (List.find?_isSome.mpr ⟨c, List.mem_range.mpr hc, hholds⟩)

theorem lowestChan_none {j : Job} {e : Nat} (h : ∀ c < 63, j.units.contains (chanRes e c) = false) : lowestChan j e = none :=
  List.find?_eq_none.mpr fun c hc => by rw [h c (List.mem_range.mp hc)]; decide

section
variable {d : Dev} {e source addr k : Nat}

/-- A running job that holds a channel of the engine, with no commit in progress, stops with the fault (R326, 03 R88). -/
theorem busError_stops (hk : k < 64) (hrun : (getJob d k).state = .running) (hcommit : (getJob d k).commit = none)
    (hholds : ∃ c < 63, (getJob d k).units.contains (chanRes e c) = true) :
    ((getJob (busError d e source addr) k).state = .restarting ∨ (getJob (busError d e source addr) k).state = .held) ∧
    (getJob (busError d e source addr) k).lastFault = 0x0401 ∧ (getJob (busError d e source addr) k).rt = {} := by
  obtain ⟨u, hsame, hjob⟩ := busError_job d e source addr hk
  rw [← hsame] at hrun hcommit hholds
  obtain ⟨c, hlow⟩ := lowestChan_some hholds
  rw [hjob, busErrorIn_some hlow]
  obtain ⟨hfault, hstop⟩ := jobFault_running (d := u) (f := busFault e source addr k c) hk hrun
  rcases hstop with ⟨hstate, hrt⟩ | ⟨hstep, _⟩
  · exact ⟨hstate, hfault, hrt⟩
  · have hstep : (getJob u k).commit.map (·.step) = some 6 := hstep
    simp [hcommit] at hstep

/-- A job that holds none of the engine's channels and that channel 63 was not moving for is not touched. -/
theorem busError_spares (hk : k < 64) (hnone : ∀ c < 63, (getJob d k).units.contains (chanRes e c) = false) (hown : k ∉ oluatSlots d (getChan d e 63)) :
    getJob (busError d e source addr) k = getJob d k := by
  obtain ⟨u, hsame, hjob⟩ := busError_job d e source addr hk
  rw [← hsame] at hnone ⊢
  rw [hjob, busErrorIn_none (lowestChan_none hnone), if_neg (by simp [hown])]

end

end Sys2Proof.Machine

namespace Sys2Proof

open Sys2Proof.Machine

section
variable {s : State} {e : Nat} (he : e < 96)
include he

/-- A command about an engine that exists runs on it. -/
theorem runDev_engine (f : Dev → DevOut) :
    runDev s (fun _ d => if 96 ≤ e then .fault .noSuchUnit else f d) = settle s (f (start s)) := by
  simp only [runDev, if_neg (Nat.not_le.mpr he)]

theorem takes_moverBusError {source : Nat} (addr : Nat) (hlow : 1 ≤ source) (hhigh : source ≤ 5) (hgoes : (getEngine s.dev e).stopped = false) :
    Takes (.moverBusError e source addr) s (busError (start s) e source addr) :=
  takes_of_onlyIf (runDev_engine he (fun d => onlyIf (decide (1 ≤ source) && decide (source ≤ 5) && !(getEngine d e).stopped) (busError d e source addr)))
    (by simp [hlow, hhigh, show (getEngine (start s) e).stopped = false from hgoes])

end

/-- Settles O55: each fault that the bus error raises leaves the engine stopped and every other job as it was. -/
theorem busErrorStopsEngine : Obligations.BusErrorStopsEngine := by
  intro s e source addr he hlow hhigh hgoes
  have htakes := takes_moverBusError he addr hlow hhigh hgoes
  have hdown := busError_down (start s) e source addr
  have hstops (k : Nat) (hk : k < 64) := busError_stops (d := start s) (e := e) (source := source) (addr := addr) hk
  have hspares (k : Nat) (hk : k < 64) := busError_spares (d := start s) (e := e) (source := source) (addr := addr) hk
  generalize busError (start s) e source addr = d at htakes hdown hstops hspares
  exact ⟨ended s d, htakes, hdown.stopped, hdown.draining, hdown.emptied, hdown.listed, hstops,
    fun k hk hnone hown => congrArg Job.state (hspares k hk hnone hown)⟩

end Sys2Proof
end

section
/-!
PROOFS. How an engine comes back from a bus error (12 R305, R325, R326), and what PATROL leaves of memory, its poison and its counts (13 R349 to R354).
-/

namespace Sys2Proof.Machine

open Sys2Proof

/-! ### An engine that is cleared -/

/-- The value of a key among the pairs whose keys are kept. -/
theorem assocGet_filter {κ α : Type} [BEq κ] [LawfulBEq κ] (xs : List (κ × α)) (keep : κ → Bool) (k : κ) :
    assocGet (xs.filter (fun x => keep x.1)) k = if keep k then assocGet xs k else none := by
  induction xs with
  | nil => simp [assocGet]
  | cons x xs ih =>
    have hcons (ys : List (κ × α)) : assocGet (x :: ys) k = if x.1 == k then some x.2 else assocGet ys k := by
      simp only [assocGet, List.find?_cons]
      cases x.1 == k <;> rfl
    rw [hcons, List.filter_cons]
    by_cases hk : (x.1 == k) = true
    · rw [eq_of_beq hk]
      by_cases hkeep : keep k = true
      · rw [if_pos hkeep, hcons, if_pos hk, if_pos hkeep, if_pos (beq_self_eq_true k)]
      · rw [if_neg hkeep, ih, if_neg hkeep]
        rw [if_neg hkeep]
    · rw [if_neg hk]
      split
      · rw [hcons, if_neg hk, ih]
      · exact ih

section
variable {d : Dev} {e : Nat}

theorem moverClear_clears (h : (getEngine d e).stopped = true ∧ (getEngine d e).draining = false) :
    getEngine (moverClear e d) e = {} ∧ ∀ c, getChan (moverClear e d) e c = {} := by
  unfold moverClear
  dsimp only
  rw [if_pos (by simp [h])]
  refine ⟨by rw [getEngine_setEngine, if_pos (beq_self_eq_true e)], fun c => ?_⟩
  have hgone := assocGet_filter d.movers.chans (fun key => decide (key.1 ≠ e)) (e, c)
  exact congrArg (·.getD {}) (hgone.trans (if_neg (by simp)))

theorem moverClear_nothing (h : ¬ ((getEngine d e).stopped = true ∧ (getEngine d e).draining = false)) : moverClear e d = d :=
  if_neg (by simpa using h)

theorem moverClear_ne {k : Nat} (hk : k ≠ e) : getEngine (moverClear e d) k = getEngine d k ∧ ∀ c, getChan (moverClear e d) k c = getChan d k c := by
  unfold moverClear
  dsimp only
  split
  · refine ⟨by rw [getEngine_setEngine, if_neg (by simpa using hk)]; rfl, fun c => ?_⟩
    have hkept := assocGet_filter d.movers.chans (fun key => decide (key.1 ≠ e)) (k, c)
    exact congrArg (·.getD {}) (hkept.trans (if_pos (by simpa using hk)))
  · exact ⟨rfl, fun _ => rfl⟩

theorem moverClear_posted : (moverClear e d).posted = d.posted := by
  unfold moverClear
  dsimp only
  split <;> rfl

theorem engineReads_eq_false (h : ∀ c < 64, chanReads d e c = []) : engineReads d e = false := by
  unfold engineReads
  rw [List.any_eq_false]
  intro c hc
  rw [h c (List.mem_range.mp hc)]
  decide

end

/-! ### What the patrol leaves of the facts of memory -/

section
variable (d : Dev) (a : Nat)

theorem patrolFound_facts (mem : Nat) : ∃ n, (patrolFound d a mem).facts = { d.facts with freeBad := n } := by
  unfold patrolFound
  split
  · exact ⟨_, rfl⟩
  · exact ⟨_, foldl_keeps (·.facts) (fun d _ => reportFault_facts d _) _ d⟩

theorem clusterError_facts : ∃ errs, (clusterError d a).facts = { d.facts with clusterErr := errs } := by
  refine ⟨assocSet d.facts.clusterErr (clusterOf a) d.time, ?_⟩
  unfold clusterError
  dsimp only
  split
  · rfl
  · split
    · exact reportFault_facts _ _
    · exact jobFault_facts _ _

theorem mem_poisonSector : a ∈ (poisonSector d a).facts.poison := by
  unfold poisonSector
  dsimp only
  split
  next h => exact List.contains_iff_mem.mp h
  · simp

end

/-- A sector that the patrol finds uncorrectable is poisoned (R352). -/
theorem patrol_poisons (d : Dev) (addr : Nat) : addr / 64 * 64 ∈ (patrol addr true false d).facts.poison := by
  unfold patrol
  extract_lets a known _ marked found
  rw [if_pos rfl]
  have hmarked : a ∈ marked.facts.poison := mem_poisonSector _ a
  have hfound : a ∈ found.facts.poison := by
    obtain ⟨n, h⟩ := patrolFound_facts marked a (scrubMemory a)
    rwa [h]
  split
  · obtain ⟨errs, h⟩ := clusterError_facts found a
    rwa [h]
  · exact hfound

/-- A sector whose poison a dirty line holds is reported of the line's slice (R351). -/
theorem poisonFault_dirty {d : Dev} {addr : Nat} {x : Nat × Nat} (h : d.facts.dirty.find? (fun s => s.1 == addr / 64 * 64) = some x) :
    poisonFault d addr = (0x0502, x.2) := by
  unfold poisonFault
  rw [h]

/-- A dirty line that the patrol finds uncorrectable is poisoned in its slice (R351). -/
theorem patrolLine_poisons (d : Dev) (addr slice : Nat) :
    addr / 64 * 64 ∈ (patrolLine addr slice true false d).facts.poison ∧ poisonFault (patrolLine addr slice true false d) addr = (0x0502, slice) := by
  unfold patrolLine
  extract_lets a marked _
  rw [if_neg Bool.false_ne_true, if_pos rfl]
  obtain ⟨n, h⟩ := patrolFound_facts { marked with facts := { marked.facts with dirty := marked.facts.dirty.filter (fun s => s.1 != a) ++ [(a, slice)] } } a 3
  have hother : (marked.facts.dirty.filter (fun s => s.1 != a)).find? (fun s => s.1 == a) = none := by simp
  have hfind : (marked.facts.dirty.filter (fun s => s.1 != a) ++ [(a, slice)]).find? (fun s => s.1 == a) = some (a, slice) := by
    rw [List.find?_append, hother]
    simp
  constructor
  · rw [h]
    exact mem_poisonSector d a
  · exact poisonFault_dirty (by rw [h]; exact hfind)

theorem countCorrection_counts (d : Dev) (i : Nat) : assocGet (countCorrection d i).power.counts i = some ((assocGet d.power.counts i).getD 0 + 1) := by
  rw [countCorrection, assocGet_set, if_pos (beq_self_eq_true i)]

end Sys2Proof.Machine

namespace Sys2Proof

open Sys2Proof.Machine

section
variable {s : State} {e : Nat} (he : e < 96)
include he

theorem takes_moverDrainComplete (hdrains : (getEngine s.dev e).draining = true) (hreads : ∀ c < 64, chanReads s.dev e c = []) :
    Takes (.moverDrainComplete e) s (setEngine (start s) e { (getEngine s.dev e) with draining := false }) :=
  takes_of_onlyIf (runDev_engine he (fun d => onlyIf ((getEngine d e).draining && !engineReads d e) (setEngine d e { (getEngine d e) with draining := false })))
    (Bool.and_eq_true_iff.mpr ⟨hdrains, congrArg not (engineReads_eq_false (d := start s) hreads)⟩)

/-- A drain not done in time makes a full reset due (R326). -/
theorem drainTimeout_due (hdrains : (getEngine s.dev e).draining = true) : ∃ u, exec (.drainTimeout e) s = .next u ∧ u.dev.root.resetCause = some 5 :=
  ⟨_, takes_of_onlyIf (runDev_engine he (fun d => onlyIf (getEngine d e).draining (drainTimeout e d))) hdrains, rfl⟩

theorem takes_moverClear : Takes (.moverClear e) s (moverClear e (start s)) :=
  takes_of_settle (runDev_engine he (fun d => .next (moverClear e d))) rfl

end

section
variable {s : State} {addr : Nat} (hlocal : inLocal s.dev addr = true)
include hlocal

theorem takes_patrol {bad corrected : Bool} (hone : bad = false ∨ corrected = false) : Takes (.patrol addr 255 bad corrected) s (patrol addr bad corrected (start s)) := by
  refine takes_of_onlyIf (c := !(bad && corrected)) ?_ (by rcases hone with h | h <;> simp [h])
  show execPatrol addr 255 bad corrected s = _
  simp [execPatrol, runDev, show inLocal (start s) addr = true from hlocal]

theorem takes_patrolLine {slice : Nat} (hslice : slice < 32) (haddr : addr < hbmEnd) (bad corrected : Bool) :
    Takes (.patrol addr slice bad corrected) s (patrolLine addr slice bad corrected (start s)) := by
  refine takes_of_onlyIf (c := decide (addr < hbmEnd)) ?_ (decide_eq_true haddr)
  show execPatrol addr slice bad corrected s = _
  simp [execPatrol, runDev, show inLocal (start s) addr = true from hlocal, show slice ≠ 255 by omega, Nat.not_le.mpr hslice]

end

theorem exec_patrol_nowhere {s : State} {addr : Nat} (hnowhere : inLocal s.dev addr = false) (slice : Nat) (bad corrected : Bool) :
    exec (.patrol addr slice bad corrected) s = .fault .noSuchAddress := by
  show execPatrol addr slice bad corrected s = _
  simp [execPatrol, runDev, show inLocal (start s) addr = false from hnowhere, settle]

/-- Settles O54: the engine's three rows, then PATROL of memory, of a cache line and of a hole. -/
theorem moverStops : Obligations.MoverStops := by
  intro s e source addr slice bad corrected he
  refine ⟨fun hlow hhigh => takes_moverBusError he addr hlow hhigh, takes_moverDrainComplete he, drainTimeout_due he,
    ⟨ended s (moverClear e (start s)), takes_moverClear he, ended_mem_of_posted moverClear_posted, fun hstopped hdrained => moverClear_clears (d := start s) ⟨hstopped, hdrained⟩,
      fun hnot => ?_, fun k hk => moverClear_ne (d := start s) hk⟩,
    fun hlocal hone => takes_patrol hlocal hone, fun hlocal => ⟨_, takes_patrol hlocal (.inr rfl), patrol_poisons (start s) addr⟩,
    fun hlocal hslice haddr => ⟨⟨_, takes_patrolLine hlocal hslice haddr true false, patrolLine_poisons (start s) addr slice⟩,
      ⟨_, takes_patrolLine hlocal hslice haddr bad true, rfl, rfl, countCorrection_counts (start s) _⟩⟩,
    fun hlocal => ⟨_, takes_patrol hlocal (.inl rfl), countCorrection_counts (start s) _, rfl⟩,
    fun hnowhere => exec_patrol_nowhere hnowhere slice bad corrected⟩
  rw [moverClear_nothing (d := start s) hnot]
  rfl

end Sys2Proof
end

section
/-!
PROOFS. The rows of the mover channels (12 R306 to R321): what each does on a channel of a running engine.
-/

namespace Sys2Proof.Machine

open Sys2Proof

/-- A channel in execution on a running engine stands at an instruction. -/
structure AtInstr (s : State) (e c : Nat) (i : MInstr) : Prop where
  engine : e < 96
  channel : c < 64
  goes : (getEngine s.dev e).stopped = false
  inExecution : (getChan s.dev e c).state = 1 ∨ (getChan s.dev e c).state = 2
  stands : (getChan s.dev e c).arm.prog[(getChan s.dev e c).pc]? = some i

/-- A row about a channel's instruction is its meaning there. -/
theorem AtInstr.run {s : State} {e c : Nat} {i : MInstr} (h : AtInstr s e c i) (f : Memory → Dev → Chan → MInstr → DevOut) :
    onInstr e c s f = settle s (f s.mem (rowStart s) (getChan s.dev e c) i) := onInstr_at h.engine h.channel h.inExecution h.goes h.stands f

/-! ### LOOP, WAIT, SIGNAL, END -/

section
variable {s : State} {e c : Nat}

theorem takes_loop {k n : Nat} {t : Int} (h : AtInstr s e c (.loop k n t)) :
    let x := getChan s.dev e c
    let v := (if x.ctr.getD k 0 = 0 then n else x.ctr.getD k 0) - 1
    Takes (.loop e c) s (setChan (rowStart s) e c { x with ctr := setAt x.ctr k v, pc := if v = 0 then x.pc + 1 else ((x.pc : Int) + t).toNat }) := by
  have hexec : exec (.loop e c) s = settle s (.next (setChan (rowStart s) e c (loopStep (getChan s.dev e c) k n t))) := by
    show execLoop e c s = _
    exact h.run _
  simp only [loopStep, ite_not] at hexec
  exact hexec

section
variable {n : Nat} (h : AtInstr s e c (.wait n))
include h

theorem exec_wait : exec (.wait e c) s = settle s (.next (setChan (rowStart s) e c (waitStep (getChan s.dev e c) s.dev.time n))) := by
  show execWait e c s = _
  exact h.run _

theorem takes_wait_passes (hcount : n ≤ (getChan s.dev e c).sync) : Takes (.wait e c) s
    (setChan (rowStart s) e c { (getChan s.dev e c) with sync := (getChan s.dev e c).sync - n, pc := (getChan s.dev e c).pc + 1, waiting := false }) :=
  takes_of_settle (exec_wait h) (congrArg (fun x => DevOut.next (setChan (rowStart s) e c x)) (if_pos hcount))

theorem takes_wait_waits (hcount : (getChan s.dev e c).sync < n) : Takes (.wait e c) s (setChan (rowStart s) e c { (getChan s.dev e c) with
    waiting := true, waitSince := if (getChan s.dev e c).waiting then (getChan s.dev e c).waitSince else s.dev.time }) :=
  takes_of_settle (exec_wait h) (congrArg (fun x => DevOut.next (setChan (rowStart s) e c x)) (if_neg (Nat.not_le.mpr hcount)))

theorem takes_waitTimeout (hcount : (getChan s.dev e c).sync < n) (hwaits : (getChan s.dev e c).waiting = true) :
    Takes (.waitTimeout e c) s (moverFault (rowStart s) (getChan s.dev e c).arm.owner e c 0x0406 (getChan s.dev e c).sync) := by
  refine takes_of_onlyIf (c := (getChan s.dev e c).waiting && decide ((getChan s.dev e c).sync < n)) ?_ (by simp [hwaits, hcount])
  show execWaitTimeout e c s = _
  exact h.run _

end

section
variable {k ch n tag : Nat} (h : AtInstr s e c (.signal k ch n tag))
include h

theorem exec_signal : exec (.signal e c) s = settle s (.next (if allComplete s.dev e c (getChan s.dev e c) then signalNow (rowStart s) e c (getChan s.dev e c) k ch n tag
    else issueBacks (setChan (rowStart s) e c { (getChan s.dev e c) with state := 2 }) e c false)) := by
  show execSignal e c s = _
  exact h.run _

/-- SIGNAL waits until the MOVEs before it are complete (R316). -/
theorem takes_signal_waits (hopen : allComplete s.dev e c (getChan s.dev e c) = false) :
    Takes (.signal e c) s (issueBacks (setChan (rowStart s) e c { (getChan s.dev e c) with state := 2 }) e c false) :=
  takes_of_settle (exec_signal h) (congrArg DevOut.next (if_neg (ne_true_of_eq_false hopen)))

theorem takes_signal (hdone : allComplete s.dev e c (getChan s.dev e c) = true) :
    Takes (.signal e c) s (signalNow (rowStart s) e c (getChan s.dev e c) k ch n tag) :=
  takes_of_settle (exec_signal h) (congrArg DevOut.next (if_pos hdone))

end

section
variable (h : AtInstr s e c .done)
include h

theorem exec_moverEnd : exec (.moverEnd e c) s = settle s (.next (if !allComplete s.dev e c (getChan s.dev e c) then
      issueBacks (setChan (rowStart s) e c { (getChan s.dev e c) with state := 2 }) e c false
    else if (getChan s.dev e c).pending.isSome then issueBacks (setChan (rowStart s) e c { (getChan s.dev e c) with state := 2, since := [] }) e c true
    else idleChan (rowStart s) e c)) := by
  show execMoverEnd e c s = _
  exact h.run _

/-- END waits until the MOVEs before it are complete (R316). -/
theorem takes_moverEnd_waits (hopen : allComplete s.dev e c (getChan s.dev e c) = false) :
    Takes (.moverEnd e c) s (issueBacks (setChan (rowStart s) e c { (getChan s.dev e c) with state := 2 }) e c false) :=
  takes_of_settle (exec_moverEnd h) (congrArg DevOut.next (if_pos (congrArg not hopen)))

theorem takes_moverEnd_idle (hdone : allComplete s.dev e c (getChan s.dev e c) = true) (hnone : (getChan s.dev e c).pending = none) :
    Takes (.moverEnd e c) s (idleChan (rowStart s) e c) :=
  takes_of_settle (exec_moverEnd h) (congrArg DevOut.next ((if_neg (by simpa using hdone)).trans (if_neg (by simp [hnone]))))

/-- END with a program pending reads back every path that the old program wrote (R319). -/
theorem takes_moverEnd_pending (hdone : allComplete s.dev e c (getChan s.dev e c) = true) (hsome : (getChan s.dev e c).pending ≠ none) :
    Takes (.moverEnd e c) s (issueBacks (setChan (rowStart s) e c { (getChan s.dev e c) with state := 2, since := [] }) e c true) :=
  takes_of_settle (exec_moverEnd h) (congrArg DevOut.next ((if_neg (by simpa using hdone)).trans (if_pos (Option.isSome_iff_ne_none.mpr hsome))))

/-- The pending program starts once every path of the old one is read back (R319). -/
theorem takes_rearmStart {a : Arm} (hpending : (getChan s.dev e c).pending = some a) (hstate : (getChan s.dev e c).state = 2) (hsince : (getChan s.dev e c).since = [])
    (hdone : allComplete s.dev e c (getChan s.dev e c) = true) (hback : ∀ p ∈ (getChan s.dev e c).allPaths, p.answered = true) :
    Takes (.rearmStart e c) s (setChan (rowStart s) e c (startArm (getChan s.dev e c) a)) := by
  show execRearmStart e c s = settle s (.next _)
  refine (h.run _).trans (congrArg (settle s) ?_)
  rw [hpending]
  exact onlyIf_eq_next.mpr ⟨by simpa [hstate, hsince] using ⟨hdone, hback⟩, rfl⟩

end

end

/-- SIGNAL to another channel adds to its sync counter (R309). -/
theorem addSync_adds {d : Dev} {e c owner target n : Nat} (hfits : (getChan d e target).sync + n ≤ 0xFFFFFFFF) :
    addSync d e c owner target n = setChan d e target { (getChan d e target) with sync := (getChan d e target).sync + n } := if_neg (Nat.not_lt.mpr hfits)

theorem addSync_overflows {d : Dev} {e c owner target n : Nat} (hover : 0xFFFFFFFF < (getChan d e target).sync + n) :
    addSync d e c owner target n = moverFault d owner e c 0x0407 target := if_pos hover

/-! ### MOVE and BURST_DELIVER -/

section
variable {m : Memory} {d : Dev} {e c : Nat} {x : Chan} {f src dst n w : Nat}

theorem moveStep_memory (hsrc : mfStreamSrc f = false) (hdst : mfStreamDst f = false) : moveStep m d e c x f src dst n w = .next (moveBytes m d e c x f src dst n) :=
  if_pos (by simp [hsrc, hdst])

section
variable {slot q : Nat} (hq : physQueue d w = some (slot, q)) (hrun : (getJob d slot).state = .running) (hfree : remoteBusy d e c = false) (hmore : x.moveDone n = false)
include hq hrun hfree hmore

theorem moveStep_streamOut (hsrc : mfStreamSrc f = true) (hdst : mfStreamDst f = false) : moveStep m d e c x f src dst n w = .next (streamOut d e c x f dst n slot q) := by
  simp [moveStep, queueLive, hsrc, hdst, hq, hrun, hfree, hmore]

theorem moveStep_streamIn (hsrc : mfStreamSrc f = false) (hdst : mfStreamDst f = true) : moveStep m d e c x f src dst n w = .next (streamIn m d e c x f src n slot q) := by
  simp [moveStep, queueLive, hsrc, hdst, hq, hrun, hfree, hmore]

theorem moveStep_between (hsrc : mfStreamSrc f = true) (hdst : mfStreamDst f = true) {slot' q' : Nat} (hbound : x.arm.srcQueue = some (slot', q'))
    (hrun' : (getJob d slot').state = .running) : moveStep m d e c x f src dst n w =
      .next (if (slot', q') = (slot, q) then fetchBurst d e c x f slot q else streamAcross d e c f n (slot', q') (slot, q)) := by
  simp [moveStep, queueLive, hsrc, hdst, hq, hrun, hfree, hmore, hbound, hrun']

end

section
variable {slot q st p : Nat} {t : Tile} (hdemand : demands d slot q = some (st, p))
include hdemand

/-- A burst that its port has taken already is done. -/
theorem burstDeliver_again (htaken : (getQ d slot q).taken.getD 0 0 ≠ t.seq) : burstDeliver d e c n slot q t = .next (burstDone d e c n t) := by
  simp only [burstDeliver, hdemand]
  exact if_pos htaken

/-- A burst that its port takes is done, its job still running. -/
theorem burstDeliver_takes {u : Dev} (hnext : (getQ d slot q).taken.getD 0 0 = t.seq) (htake : tileConsume slot st p d = .next u) (hruns : stopped u slot = false) :
    burstDeliver d e c n slot q t = .next (burstDone u e c n t) := by
  simp only [burstDeliver, hdemand, htake, hruns]
  exact if_neg (not_not.mpr hnext)

end

end

section
variable {s : State} {e c f src dst n w : Nat} (h : AtInstr s e c (.move f src dst n w))
include h

theorem exec_move : exec (.move e c) s = settle s (moveStep s.mem (rowStart s) e c (getChan s.dev e c) f src dst n w) := by
  show execMove e c s = _
  exact h.run _

theorem exec_burstDeliver {slot q : Nat} {t : Tile} (hheld : (getChan s.dev e c).held = some t) (hq : instrQueue s.dev (.move f src dst n w) = some (slot, q))
    (hrun : (getJob s.dev slot).state = .running) : exec (.burstDeliver e c) s = settle s (burstDeliver (rowStart s) e c n slot q t) := by
  show execBurstDeliver e c s = _
  refine (h.run _).trans (congrArg (settle s) ?_)
  rw [hheld, show instrQueue (rowStart s) (.move f src dst n w) = some (slot, q) from hq]
  exact if_pos (decide_eq_true hrun)

end

/-! ### ARM -/

section
variable {m : Memory} {d : Dev} {e c : Nat}

theorem acceptArm_eq (a : Arm) : acceptArm d e c a =
    setChan d e c (if (getChan d e c).state = 0 then { state := 1, arm := a, regs := a.regs } else { (getChan d e c) with pending := some a }) :=
  (apply_ite (setChan d e c) ..).symm

/-- A program that passes R310 has a length that the engine fetches, of memory that Oluat holds. -/
theorem fetched_of_programFault {n : Nat} {raw : Bytes} {a : Arm} (h : programFault d e n raw a = none) :
    ¬ (n = 0 ∨ 256 < n ∨ (!oluatHolds d a.program (16 * n)) = true) := by
  intro hbad
  unfold programFault at h
  rw [if_pos (by tauto)] at h
  exact absurd h (by simp)

/-- An arm that passes the checks of R310 and R311 is accepted by a channel with no program pending. -/
theorem armChan_accepts {n : Nat} {raw : Bytes} {a : Arm} (hroom : (getChan d e c).state = 0 ∨ (getChan d e c).pending = none)
    (hprog : programFault d e n raw a = none) (hextent : extentFault d a = none) : armChan d e c n raw a = acceptArm d e c a := by
  have hfree : ¬ ((getChan d e c).state ≠ 0 ∧ (getChan d e c).pending.isSome = true) := by
    rcases hroom with h | h <;> simp [h]
  unfold armChan
  dsimp only
  rw [if_neg hfree, hprog, hextent]

theorem fetchArm_accepts {desc raw : Bytes} {src : Option (Nat × Nat)} (hroom : (getChan d e c).state = 0 ∨ (getChan d e c).pending = none)
    (hraw : localRead m d (u64at desc 0) (16 * u16at desc 8) = .ok raw) (hmodes : oluatModes (readArm desc raw src) = true)
    (hprog : programFault d e (u16at desc 8) raw (readArm desc raw src) = none) (hextent : extentFault d (readArm desc raw src) = none) :
    fetchArm m d e c desc src = .next (acceptArm d e c (readArm desc raw src)) := by
  have hfetched : ¬ (u16at desc 8 = 0 ∨ 256 < u16at desc 8 ∨ (!oluatHolds d (u64at desc 0) (16 * u16at desc 8)) = true) := fetched_of_programFault hprog
  unfold fetchArm
  dsimp only
  rw [if_neg hfetched, hraw]
  dsimp only
  rw [hmodes, onlyIf_true, armChan_accepts hroom hprog hextent]

end

/-- The device whose memory holds the program that Oluat stored for a descriptor (log entry 82). -/
def progStored (s : State) (a : Nat) (prog : Bytes) : Dev := if oluatHolds s.dev a prog.length then devWrite (start s) a prog else start s

theorem getChan_progStored (s : State) (a : Nat) (prog : Bytes) (e c : Nat) : getChan (progStored s a prog) e c = getChan s.dev e c := by
  unfold progStored
  split <;> rfl

section
variable {s : State} {e c : Nat} (he : e < 96) (hc : c < 64)
include he hc

theorem takes_arm {desc prog raw : Bytes} {src : Option (Nat × Nat)} (hgoes : (getEngine s.dev e).stopped = false) (hlen : desc.length = 64) (hzero : allZero desc 0x0B 5 = true)
    (howns : ownsChan s.dev (u8at desc 0x0A) e c = true) (hstate : (getChan s.dev e c).state ≠ 3) (hroom : (getChan s.dev e c).state = 0 ∨ (getChan s.dev e c).pending = none)
    (hraw : localRead s.mem (progStored s (u64at desc 0) prog) (u64at desc 0) (16 * u16at desc 8) = .ok raw) (hmodes : oluatModes (readArm desc raw src) = true)
    (hprog : programFault (progStored s (u64at desc 0) prog) e (u16at desc 8) raw (readArm desc raw src) = none)
    (hextent : extentFault (progStored s (u64at desc 0) prog) (readArm desc raw src) = none) :
    Takes (.arm e c desc prog src) s (setChan (progStored s (u64at desc 0) prog) e c (if (getChan s.dev e c).state = 0 then
      { state := 1, arm := readArm desc raw src, regs := (readArm desc raw src).regs } else { (getChan s.dev e c) with pending := some (readArm desc raw src) })) := by
  have hmet : (decide (desc.length = 64) && allZero desc 0x0B 5 && ownsChan (start s) (u8at desc 0x0A) e c && decide ((getChan s.dev e c).state ≠ 3) &&
      !(getEngine (start s) e).stopped) = true := by
    simp [hlen, hzero, hstate, show ownsChan (start s) (u8at desc 0x0A) e c = true from howns, show (getEngine (start s) e).stopped = false from hgoes]
  have haccepts := fetchArm_accepts (getChan_progStored s (u64at desc 0) prog e c ▸ hroom) hraw hmodes hprog hextent
  rw [acceptArm_eq, getChan_progStored] at haccepts
  show execArm e c desc prog src s = _
  rw [execArm, onChan_at he hc, if_pos hmet]
  exact congrArg (settle s) haccepts

/-! ### READ_BACK_RETURN and BARRIER_ACKNOWLEDGEMENT -/

/-- READ_BACK_RETURN of a path that the channel owes (R315, R316). -/
theorem exec_readBackReturn {r : PathRef} {p : Path} {a : Await} (hgoes : (getEngine s.dev e).stopped = false) (hpath : pathRef r = some p)
    (hopen : readBackOpen s.dev (getChan s.dev e c) p = some a) : exec (.readBackReturn e c r true) s = settle s
      (if !backOut s.dev e c p then onlyIf (backOut (readBackReq e c (start s) a) e c p) (readBackReq e c (start s) a)
       else .next (setChan (dropBack (start s) e c p) e c (readBackDone (getChan s.dev e c) p))) := by
  show execReadBackReturn e c r true s = _
  rw [execReadBackReturn, onChan_at he hc]
  have hopen' : readBackOpen (start s) (getChan s.dev e c) p = some a := hopen
  have hgoes' : (getEngine (start s) e).stopped = false := hgoes
  cases r with
  | ring n => simp [pathRef] at hpath
  | _ =>
    simp only [hpath, hopen', hgoes', Bool.false_eq_true, if_false]
    rfl

theorem takes_ringReadBack {k : Nat} (hk : k < 3) (hdue : (s.dev.win.ring k).unread = true ∨ (s.dev.win.ring k).disabling = true) :
    Takes (.readBackReturn e c (.ring k) true) s (ringReadBack k (start s)) := by
  show execReadBackReturn e c (.ring k) true s = _
  rw [execReadBackReturn, onChan_at he hc]
  refine congrArg (settle s) ((if_neg (Nat.not_le.mpr hk)).trans (onlyIf_eq_next.mpr ⟨?_, rfl⟩))
  simpa using hdue

/-- A controller acknowledges the barrier writes of its path (R315). -/
theorem takes_barrierAcknowledgement {r : PathRef} {p : Path} {a : Await} (hgoes : (getEngine s.dev e).stopped = false) (hctl : r = .tier ∨ ∃ k, r = .hbm k)
    (hpath : pathRef r = some p) (hmem : a ∈ (getChan s.dev e c).since) (ha : a.path = p) (hbarrier : a.barrier = true) (hopen : a.answered = false) :
    Takes (.barrierAcknowledgement e c r) s (setChan (start s) e c { (getChan s.dev e c) with
      since := (getChan s.dev e c).since.map (fun a => if a.path = p ∧ a.barrier = true ∧ a.answered = false then { a with answered := true } else a) }) := by
  have hhit (b : Await) : (pathRef r == some b.path && b.barrier && !b.answered) = true ↔ b.path = p ∧ b.barrier = true ∧ b.answered = false := by
    simp [hpath, and_assoc, eq_comm (a := p)]
  have hany : (getChan s.dev e c).since.any (fun b => pathRef r == some b.path && b.barrier && !b.answered) = true :=
    List.any_eq_true.mpr ⟨a, hmem, (hhit a).mpr ⟨ha, hbarrier, hopen⟩⟩
  have hacknowledged : (fun b : Await => if b.path = p ∧ b.barrier = true ∧ b.answered = false then { b with answered := true } else b) =
      fun b => if pathRef r == some b.path && b.barrier && !b.answered then { b with answered := true } else b :=
    funext fun b => if_congr (hhit b).symm rfl rfl
  show execBarrierAcknowledgement e c r s = _
  unfold execBarrierAcknowledgement
  rw [onChan_at he hc]
  refine congrArg (settle s) (onlyIf_eq_next.mpr ⟨?_, ?_⟩)
  · rw [hany, show (getEngine (start s) e).stopped = false from hgoes]
    rcases hctl with rfl | ⟨k, rfl⟩ <;> rfl
  · rw [hacknowledged]

end

end Sys2Proof.Machine

namespace Sys2Proof

open Sys2Proof.Machine

/-- Settles O53, row by row. -/
theorem moverRows : Obligations.MoverRows := by
  intro s e c he hc hgoes x d
  refine ⟨fun desc prog src raw hlen hzero howns hstate hroom => takes_arm he hc hgoes hlen hzero howns hstate hroom, fun i hin hat => ⟨?_, ?_, ?_, ?_, ?_⟩,
    fun r p a hpath hopen => ⟨fun hout => ?_, fun hout hissued => ?_⟩, fun k hk hdue => takes_ringReadBack he hc hk hdue,
    fun r p a hctl hpath hmem => takes_barrierAcknowledgement he hc hgoes hctl hpath hmem⟩
  · rintro k n t rfl
    exact takes_loop ⟨he, hc, hgoes, hin, hat⟩
  · rintro n rfl
    have hrow : AtInstr s e c (.wait n) := ⟨he, hc, hgoes, hin, hat⟩
    exact ⟨takes_wait_passes hrow, takes_wait_waits hrow, takes_waitTimeout hrow⟩
  · rintro k ch n tag rfl
    have hrow : AtInstr s e c (.signal k ch n tag) := ⟨he, hc, hgoes, hin, hat⟩
    refine ⟨takes_signal_waits hrow, fun hdone hk => ?_, fun hdone hk => ⟨fun hfits => ?_, fun hover => ?_⟩⟩
    · exact (takes_signal hrow hdone).of_eq (if_pos hk)
    · exact (takes_signal hrow hdone).of_eq ((if_neg hk).trans (addSync_adds hfits))
    · exact (takes_signal hrow hdone).of_eq ((if_neg hk).trans (addSync_overflows hover))
  · rintro rfl
    have hrow : AtInstr s e c .done := ⟨he, hc, hgoes, hin, hat⟩
    exact ⟨takes_moverEnd_waits hrow, takes_moverEnd_idle hrow, takes_moverEnd_pending hrow, fun a => takes_rearmStart hrow⟩
  · rintro f src dst n w rfl
    have hrow : AtInstr s e c (.move f src dst n w) := ⟨he, hc, hgoes, hin, hat⟩
    refine ⟨fun hsrc hdst => takes_of_settle (exec_move hrow) (moveStep_memory hsrc hdst), fun slot q hq hrun hfree hmore => ⟨fun hsrc hdst => ?_, fun hsrc hdst => ?_,
      fun hsrc hdst slot' q' hbound hrun' => ?_⟩, fun slot q t st p hheld hq hrun hdemand => ⟨fun htaken => ?_, fun u hnext htake hruns => ?_⟩⟩
    · exact takes_of_settle (exec_move hrow) (moveStep_streamOut (d := d) hq hrun hfree hmore hsrc hdst)
    · exact takes_of_settle (exec_move hrow) (moveStep_streamIn (d := d) hq hrun hfree hmore hsrc hdst)
    · exact takes_of_settle (exec_move hrow) (moveStep_between (d := d) hq hrun hfree hmore hsrc hdst hbound hrun')
    · exact takes_of_settle (exec_burstDeliver hrow hheld hq hrun) (burstDeliver_again (d := d) hdemand htaken)
    · exact takes_of_settle (exec_burstDeliver hrow hheld hq hrun) (burstDeliver_takes (d := d) hdemand hnext htake hruns)
  · exact takes_of_settle (exec_readBackReturn he hc hgoes hpath hopen) (if_neg (by simp [hout]))
  · exact takes_of_settle (exec_readBackReturn he hc hgoes hpath hopen) ((if_pos (by simp [hout])).trans (onlyIf_eq_next.mpr ⟨hissued, rfl⟩))

end Sys2Proof
end

section
/-!
PROOFS. What every step keeps, and memory read back: a step runs the command at the front of the queue, every command settles what its meaning answers, and a
byte reads as its last write or loss left it (13 R331; log entries 1 and 25).
-/

namespace Sys2Proof.Machine

open Sys2Proof

/-! ### Steps -/

/-- A row ends by settling what its meaning answers. -/
def Settles (s : State) (o : Host.Outcome State Fault Refusal) : Prop := ∃ r, o = settle s r

section
variable (s : State)

theorem settles_runDev (f : Memory → Dev → DevOut) : Settles s (runDev s f) := ⟨_, rfl⟩

theorem settles_onStation (slot st : Nat) (ok : SType → Bool) (f : Memory → Dev → DevOut) : Settles s (onStation slot st ok s f) := settles_runDev ..

theorem settles_kernelRow (op : Nat) (ka : KAt) (w : KWord) : Settles s (kernelRow op ka w s) := settles_onStation ..

theorem settles_onQueue (slot queue : Nat) (f : Dev → DevOut) : Settles s (onQueue slot queue s f) := settles_runDev ..

theorem settles_onSlot (slot : Nat) (f : Memory → Dev → DevOut) : Settles s (onSlot slot s f) := settles_runDev ..

theorem settles_onChan (e c : Nat) (f : Memory → Dev → Chan → DevOut) : Settles s (onChan e c s f) := settles_runDev ..

theorem settles_onInstr (e c : Nat) (f : Memory → Dev → Chan → MInstr → DevOut) : Settles s (onInstr e c s f) := settles_onChan ..

/-- Every row settles what its meaning answers, by the guard that stands in front of the meaning: a station, a queue, a job slot, a channel, its instruction, the
next word of a kernel, or none. -/
theorem exec_settles (c : Instr) : Settles s (exec c s) := by
  unfold exec
  cases c with
  | tileConsume | creditReturn | saturationReplacement | intakeObject | unpackObject | parseRecord | brambleDivert | brambleReturn | alignRow | emitTile
  | shaleEncodeBlock | shaleCompressorResume | shaleDecodeBlock | shaleDecompressorResume | matchSearch | searchRepeat | pairCommit | scrub
  | tableBuildComplete | frequencySample | hashjoinBuildRow | hashjoinProbeRow | rowGroup | endProgram | selectGroup | imageDecode | imageWarp
  | shuffleStoreRow | sampleStoreComplete | shuffleEmit | batchAssemble | layoutTransfer | batchEmit | consumedPoll | partials | validCounts | sampleHoldings
  => exact settles_onStation ..
  | spillValveOpen | spillRefill => exact settles_onQueue ..
  | startBarrier | startBarrierTimeout | prepare | checkpointWritten | prepared | commit | commitTimeout | progressSend | progress | participantLost | stop
  | restoreComplete | resume | abort | rollback => exact settles_onSlot ..
  | arm | readBackReturn | barrierAcknowledgement => exact settles_onChan ..
  | move | loop | wait | signal | moverEnd | waitTimeout | rearmStart | burstDeliver => exact settles_onInstr ..
  | kNop | kLdcol | kStcol | kMov | kRowidx | kInfo | kValid | kSetnull | kCoalesce | kSel | kLdpay | kStpay | kLdtab | kBr | kBrz | kBrnz | kEmit | kEnd
  | kRaise | kScount | kSany | kSall | kMwrite | kAdd | kSub | kMul | kDiv | kFma | kNeg | kAbs | kMin | kMax | kClamp | kSqrt | kRecip | kRsqrt | kExp
  | kLog | kLog1p | kExpm1 | kFloor | kCeil | kRint | kTrunc | kMod | kAdds | kSubs | kMuls | kSign | kCopysign | kCmpeq | kCmpne | kCmplt | kCmple | kCmpgt
  | kCmpge | kIsnan | kIsinf | kIsfin | kAnd | kOr | kXor | kNot | kAndn | kShl | kShr | kSar | kRotl | kRotr | kPopcnt | kClz | kCtz | kBswap | kCvt | kCvts
  | kReint | kTimepart | kTimetrunc | kXxh64 | kMur3l | kMur3h | kCrc32c | kXxh64c | kHmod | kHbucket | kBucket | kBucketw | kSlen | kSchars | kSlower
  | kSupper | kSsub | kSprefix | kSsuffix | kSfind | kSfield | kStoi | kStof | kDstr | kScat | kAcc | kAccp | kAccn | kAccx | kSketch | kAccrd | kQread
  | kAccclr | kAccemit | kAccmerge | kEmbag | kMpack | kMunpack | kCdot => exact settles_kernelRow ..
  | _ => exact settles_runDev ..

end

/-- A command leaves the state in which some device ends. -/
theorem exec_ends {c : Instr} {s t : State} (h : exec c s = .next t) : ∃ d, t = ended s d := by
  obtain ⟨r, hr⟩ := exec_settles s c
  obtain ⟨d, _, ht⟩ := settle_eq_next.mp (hr.symm.trans h)
  exact ⟨d, ht⟩

theorem exec_keeps_inv {c : Instr} {s t : State} (hs : Inv s) (h : exec c s = .next t) : Inv t := by
  obtain ⟨d, rfl⟩ := exec_ends h
  exact ended_inv hs d

theorem step_idle {s : State} (h : s.pending = []) : step s = .next (idleStep s) := by
  unfold step
  rw [h]

theorem step_front {s : State} {c : Instr} {rest : List Instr} (h : s.pending = c :: rest) : step s = exec c { s with pending := rest } := by
  unfold step
  rw [h]

/-- The invariant is about the memory and the device's posted writes: the queue and the timestamp are no part of it. -/
theorem idleStep_inv {s : State} (h : Inv s) : Inv (idleStep s) := h

theorem step_keeps_inv {s t : State} (hs : Inv s) (h : step s = .next t) : Inv t := by
  cases hq : s.pending with
  | nil =>
    rw [step_idle hq] at h
    cases h
    exact idleStep_inv hs
  | cons c rest =>
    rw [step_front hq] at h
    exact exec_keeps_inv (s := { s with pending := rest }) hs h

/-! ### Bytes of memory -/

theorem memByte_cons (c : Host.Cell) (m : Memory) (x : Nat) : memByte (c :: m) x = if c.1 = x then c.2 else memByte m x := by
  unfold memByte
  by_cases h : c.1 = x <;> simp [h]

/-- What is kept by address reads as before, the rest as unlisted. -/
theorem memByte_filter (m : Memory) (keep : Nat → Bool) (x : Nat) : memByte (m.filter (fun c => keep c.1)) x = if keep x then memByte m x else 0 := by
  induction m with
  | nil => exact (ite_self _).symm
  | cons c m ih =>
    rw [List.filter_cons, memByte_cons]
    by_cases hx : c.1 = x
    · subst hx
      by_cases hkeep : keep c.1 <;> simp [hkeep, memByte_cons, ih]
    · by_cases hkeep : keep c.1 <;> simp [hkeep, hx, memByte_cons, ih]

theorem find_unlisted {m : Memory} {x : Nat} (h : ∀ c ∈ m, c.1 ≠ x) : m.find? (fun c => c.1 == x) = none :=
  List.find?_eq_none.mpr (fun c hc => by simpa using h c hc)

/-- An address that no cell lists reads 0 (log entry 1). -/
theorem memByte_unlisted {m : Memory} {x : Nat} (h : ∀ c ∈ m, c.1 ≠ x) : memByte m x = 0 := by
  rw [memByte, find_unlisted h]

theorem memByte_append_left {p q : Memory} {x : Nat} (h : ∀ c ∈ q, c.1 ≠ x) : memByte (p ++ q) x = memByte p x := by
  rw [memByte, List.find?_append, find_unlisted h, Option.or_none, memByte]

theorem memByte_append_right {p q : Memory} {x : Nat} (h : ∀ c ∈ p, c.1 ≠ x) : memByte (p ++ q) x = memByte q x := by
  rw [memByte, List.find?_append, find_unlisted h, Option.none_or, memByte]

/-- The cells of bytes read as the bytes, and as unlisted outside their run. -/
theorem memByte_memCells (bs : Bytes) (x : Nat) : ∀ a, memByte (memCells a bs) x = if a ≤ x ∧ x < a + bs.length then bs.getD (x - a) 0 else 0 := by
  induction bs with
  | nil =>
    intro a
    rw [if_neg (by simp)]
    rfl
  | cons b bs ih =>
    intro a
    have hread : memByte (memCells a (b :: bs)) x = if a = x then b else memByte (memCells (a + 1) bs) x := by
      rw [memCells]
      split
      next hzero =>
        split
        next hx => rw [ih, if_neg (by omega), hzero]
        next => rfl
      next => exact memByte_cons ..
    rw [hread, ih]
    by_cases hx : a = x
    · simp [hx]
    · rw [if_neg hx]
      by_cases hin : a + 1 ≤ x ∧ x < a + 1 + bs.length
      · rw [if_pos hin, if_pos ⟨by omega, by rw [List.length_cons]; omega⟩, show x - a = x - (a + 1) + 1 by omega, List.getD_cons_succ]
      · rw [if_neg hin, if_neg (by rw [List.length_cons]; omega)]

/-- A byte after a write: in the run the byte written, elsewhere the byte before. -/
theorem memByte_memWrite (m : Memory) (a : Nat) (bs : Bytes) (x : Nat) :
    memByte (memWrite m a bs) x = if a ≤ x ∧ x < a + bs.length then bs.getD (x - a) 0 else memByte m x := by
  obtain ⟨hcells, _⟩ := memCells_props bs a
  have hbelow := memByte_filter m (fun y => decide (y < a)) x
  have habove := memByte_filter m (fun y => decide (a + bs.length ≤ y)) x
  have habove_ne (h : x < a + bs.length) : ∀ c ∈ m.filter (fun c => decide (a + bs.length ≤ c.1)), c.1 ≠ x := by
    intro c hc
    have := of_decide_eq_true (List.mem_filter.mp hc).2
    omega
  have hcells_ne (h : x < a ∨ a + bs.length ≤ x) : ∀ c ∈ memCells a bs, c.1 ≠ x := by
    intro c hc
    obtain ⟨hlow, hhigh, _⟩ := hcells c hc
    omega
  have hbelow_ne (h : a ≤ x) : ∀ c ∈ m.filter (fun c => decide (c.1 < a)), c.1 ≠ x := by
    intro c hc
    have := of_decide_eq_true (List.mem_filter.mp hc).2
    omega
  unfold memWrite
  rcases Nat.lt_or_ge x a with hx | hx
  · rw [memByte_append_left (habove_ne (by omega)), memByte_append_left (hcells_ne (.inl hx)), hbelow, if_pos (decide_eq_true hx), if_neg (by omega)]
  · rcases Nat.lt_or_ge x (a + bs.length) with hend | hend
    · rw [memByte_append_left (habove_ne hend), memByte_append_right (hbelow_ne hx), memByte_memCells]
      simp [hx, hend]
    · rw [List.append_assoc, memByte_append_right (hbelow_ne hx), memByte_append_right (hcells_ne (.inr hend)), habove, if_pos (decide_eq_true hend), if_neg (by omega)]

theorem memByte_memLose (m : Memory) (lo hi x : Nat) : memByte (memLose m lo hi) x = if lo ≤ x ∧ x < hi then 0 else memByte m x := by
  have hkeep := memByte_filter m (fun y => decide (y < lo) || decide (hi ≤ y)) x
  unfold memLose
  rw [hkeep]
  by_cases hin : lo ≤ x ∧ x < hi
  · rw [if_pos hin, if_neg (by simpa using hin)]
  · rw [if_neg hin, if_pos (by rw [Bool.or_eq_true, decide_eq_true_eq, decide_eq_true_eq]; omega)]

/-! ### Runs of memory -/

theorem memFill_length : ∀ (n a : Nat) (cs : Memory), (memFill a n cs).length = n
  | 0, _, _ => rfl
  | n + 1, a, [] => congrArg (· + 1) (memFill_length n (a + 1) [])
  | n + 1, a, c :: r => by
    rw [memFill]
    split <;> exact congrArg (· + 1) (memFill_length n (a + 1) _)

/-- Filling from rising cells at or above the first address gives the byte of each address. -/
theorem memFill_getD : ∀ (n a i : Nat) (cs : Memory), (∀ c ∈ cs, a ≤ c.1) → cs.Pairwise (fun x y => x.1 < y.1) → i < n →
    (memFill a n cs).getD i 0 = memByte cs (a + i) := by
  intro n
  induction n with
  | zero => intro a i cs _ _ hi; omega
  | succ n ih =>
    intro a i cs hlow hrise hi
    cases cs with
    | nil =>
      rw [memFill]
      cases i with
      | zero => rfl
      | succ i => rw [List.getD_cons_succ, ih (a + 1) i [] (by simp) .nil (by omega)]; rfl
    | cons c r =>
      obtain ⟨hhead, htail⟩ := List.pairwise_cons.mp hrise
      have hfirst := hlow c (by simp)
      rw [memFill, memByte_cons]
      by_cases hc : c.1 = a
      · rw [if_pos hc]
        cases i with
        | zero => rw [if_pos (by omega)]; rfl
        | succ i =>
          rw [List.getD_cons_succ, if_neg (by omega), ih (a + 1) i r (fun y hy => by have := hhead y hy; omega) htail (by omega), Nat.add_assoc, Nat.add_comm 1 i]
      · rw [if_neg hc]
        cases i with
        | zero => rw [if_neg (by omega), memByte_unlisted (fun y hy => by have := hhead y hy; omega)]; rfl
        | succ i =>
          have hlow' : ∀ y ∈ c :: r, a + 1 ≤ y.1 := by
            intro y hy
            rcases List.mem_cons.mp hy with rfl | hy
            · omega
            · have := hhead y hy; omega
          rw [List.getD_cons_succ, ih (a + 1) i (c :: r) hlow' hrise (by omega), memByte_cons, Nat.add_assoc, Nat.add_comm 1 i]

theorem memRead_length (m : Memory) (a n : Nat) : (memRead m a n).length = n := memFill_length ..

theorem memRead_getD {m : Memory} (hwf : Memory.wf m = true) {a n i : Nat} (hi : i < n) : (memRead m a n).getD i 0 = memByte m (a + i) := by
  obtain ⟨_, hrise⟩ := (Memory.wf_iff m).mp hwf
  have hin := memByte_filter m (fun y => decide (a ≤ y) && decide (y < a + n)) (a + i)
  rw [if_pos (by simpa using hi)] at hin
  unfold memRead
  rw [memFill_getD n a i _ (fun c hc => ?_) (hrise.filter _) hi, hin]
  have := (List.mem_filter.mp hc).2
  simp only [Bool.and_eq_true, decide_eq_true_eq] at this
  exact this.1

theorem memRead_memWrite {m : Memory} (hwf : Memory.wf m = true) (a : Nat) (bs : Bytes) : memRead (memWrite m a bs) a bs.length = bs := by
  refine List.ext_getElem (memRead_length ..) (fun i hi hbs => ?_)
  have hbyte := memRead_getD (memWrite_wf hwf a bs) (a := a) hbs
  rw [memByte_memWrite, if_pos ⟨by omega, by omega⟩, Nat.add_sub_cancel_left, List.getD_eq_getElem _ _ hi, List.getD_eq_getElem _ _ hbs] at hbyte
  exact hbyte

end Sys2Proof.Machine

namespace Sys2Proof

open Sys2Proof.Machine

/-- Settles O3: the queue is empty and only time passes, or the command at its front settles what its meaning answers. -/
theorem stepKeepsInvariant : Obligations.StepKeepsInvariant := fun _ _ hs h => step_keeps_inv hs h

/-- Settles O5, byte by byte: the cells below, in and above the run, and the rising cells read from their first address upward. -/
theorem memoryReadAfterWrite : Obligations.MemoryReadAfterWrite :=
  ⟨fun m a bs x lo hi => ⟨memByte_memWrite m a bs x, memByte_memLose m lo hi x⟩,
    fun m a n bs hwf => ⟨memRead_length m a n, fun _ hi => memRead_getD hwf hi, memRead_memWrite hwf a bs⟩⟩

/-- Settles O2: nothing is listed in memory and nothing is posted. -/
theorem resetInvariant : Obligations.ResetInvariant := ⟨reset_mem_wf, rfl⟩

/-- Settles O1, by the two cases of the queue. -/
theorem stepRunsFront : Obligations.StepRunsFront := ⟨fun _ _ _ => step_front rfl, fun _ h => step_idle h⟩

end Sys2Proof
end

section
/-!
PROOFS. The rows of links and ports (14 R357 to R379): what each does on a link that exists.
-/

namespace Sys2Proof.Machine

open Sys2Proof

section
variable {i : Instr} {s : State} (o : Host.Outcome State Fault Refusal) {p : Prop} [Decidable p] {f : Memory → Dev → DevOut}

/-- A row about a unit that exists runs its meaning. `o` is the row's own name. -/
theorem exec_unless (hrow : exec i s = o) (hexec : o = runDev s (fun m d => if p then .fault .noSuchUnit else f m d)) (hunit : ¬ p) :
    exec i s = settle s (f s.mem (start s)) := (hrow.trans hexec).trans (congrArg (settle s) (if_neg hunit))

theorem takes_unless {d : Dev} (hrow : exec i s = o) (hexec : o = runDev s (fun m d => if p then .fault .noSuchUnit else f m d)) (hunit : ¬ p)
    (hnext : f s.mem (start s) = .next d) : Takes i s d := takes_of_settle (exec_unless o hrow hexec hunit) hnext

end

theorem onlyIf_of_true {c : Bool} (h : c = true) (d : Dev) : onlyIf c d = .next d := onlyIf_eq_next.mpr ⟨h, rfl⟩

section
variable (s : State) (r : LinkRef)

@[simp] theorem getLink_start : getLink (start s) r = getLink s.dev r := rfl

@[simp] theorem linkEnabled_start : linkEnabled (start s) r = linkEnabled s.dev r := rfl

end

/-! ### Links -/

section
variable {s : State} {r : LinkRef} (hr : linkRefOk r = true)
include hr

theorem link_named : ¬ (!linkRefOk r) = true := by simp [hr]

theorem takes_trainingFrame (bs : Bytes) : Takes (.trainingFrame r bs) s
    (if frameOk bs && linkEnabled s.dev r && !(getLink s.dev r).up && !([1, 2, 3].contains (getLink s.dev r).downReason) then trainFrame (start s) r bs else start s) :=
  takes_unless (execTrainingFrame r bs s) rfl rfl (link_named hr) rfl

theorem takes_trainingStepTimeout (hstep : 1 ≤ (getLink s.dev r).step) : Takes (.trainingStepTimeout r) s (trainingFails (start s) r) :=
  takes_unless (execTrainingStepTimeout r s) rfl rfl (link_named hr) (onlyIf_of_true (decide_eq_true hstep) _)

theorem takes_trainingRetry (hfailed : 1 ≤ (getLink s.dev r).failures) (hfew : (getLink s.dev r).failures < 3) (hstep : (getLink s.dev r).step = 0)
    (hdown : (getLink s.dev r).up = false) (hmay : linkEnabled s.dev r = true) :
    Takes (.trainingRetry r) s (send (modAny (start s) r (fun l => { l with step := 1 })) (.train (linkId r) 1)) :=
  takes_unless (execTrainingRetry r s) rfl rfl (link_named hr) (onlyIf_of_true (by simp [hfailed, hfew, hstep, hdown, hmay]) _)

theorem takes_fastRetrain (hup : (getLink s.dev r).up = true) : Takes (.fastRetrain r) s (fastRetrain (start s) r) :=
  takes_unless (execFastRetrain r s) rfl rfl (link_named hr) (onlyIf_of_true hup _)

theorem takes_codewordLockLoss (hup : (getLink s.dev r).up = true) : Takes (.codewordLockLoss r) s (linkDown (start s) r 4 0) :=
  takes_unless (execCodewordLockLoss r s) rfl rfl (link_named hr) (onlyIf_of_true hup _)

theorem takes_lowPowerIdle (hup : (getLink s.dev r).up = true) (hstate : s.dev.power.state = .d2) (hlow : (getLink s.dev r).lowPower = false) :
    Takes (.lowPowerIdle r) s (modAny (start s) r (fun l => { l with lowPower := true })) :=
  takes_unless (execLowPowerIdle r s) rfl rfl (link_named hr) (onlyIf_of_true (by simp [hup, hstate, hlow]) _)

theorem exec_wake : exec (.wake r) s = settle s (onlyIf (getLink s.dev r).lowPower (send (modAny (start s) r (fun l => { l with lowPower := false })) (.wake (linkId r)))) :=
  exec_unless (execWake r s) rfl rfl (link_named hr)

theorem takes_wake (hlow : (getLink s.dev r).lowPower = true) : Takes (.wake r) s (send (modAny (start s) r (fun l => { l with lowPower := false })) (.wake (linkId r))) :=
  takes_of_onlyIf (exec_wake hr) hlow

theorem takes_controlFlit (entries : List (Nat × Nat × Nat)) (hinit : (getLink s.dev r).up = true ∨ (getLink s.dev r).step = 6) :
    Takes (.controlFlit r entries) s (controlFlit r entries (start s)) :=
  takes_unless (execControlFlit r entries s) rfl rfl (link_named hr) (onlyIf_of_true ((Bool.or_eq_true _ _).mpr (hinit.imp_right decide_eq_true)) _)

theorem takes_flitReceive {times : List (List (List Nat))} (hup : (getLink s.dev r).up = true) (hlanes : times.all (lanesOk (getLink s.dev r).width) = true) :
    Takes (.flitReceive r times) s (flitArrive r times (start s)) :=
  takes_unless (execFlitReceive r times s) rfl rfl (link_named hr) (onlyIf_of_true (Bool.and_eq_true_iff.mpr ⟨hup, hlanes⟩) _)

end

/-! ### Ports -/

section
variable {s : State} {port : Nat} (hport : port < 2)
include hport

theorem takes_memData (tag : Nat) {data : Bytes} {error : Bool} (hup : (s.dev.ports.getD port {}).up = true) (hdata : error = true → data = []) :
    Takes (.memData port tag data error) s (memData port tag data error (start s)) := by
  refine takes_unless (execMemData port tag data error s) rfl rfl (Nat.not_le.mpr hport) (onlyIf_of_true (Bool.and_eq_true_iff.mpr ⟨hup, ?_⟩) _)
  cases error with
  | false => rfl
  | true => rw [hdata rfl]; rfl

theorem takes_feed (feed : Nat) {data : Bytes} (hup : (s.dev.ports.getD port {}).up = true) (hsome : 1 ≤ data.length) (hmost : data.length ≤ 4096) :
    Takes (.feed port feed data) s (feedData port feed data (start s)) :=
  takes_unless (execFeed port feed data s) rfl rfl (Nat.not_le.mpr hport) (onlyIf_of_true (Bool.and_eq_true_iff.mpr ⟨Bool.and_eq_true_iff.mpr ⟨hup, decide_eq_true hsome⟩, decide_eq_true hmost⟩) _)

theorem takes_memReadTimeout {tag : Nat} {q : ReadReq} (hread : findRead s.dev port tag = some q) :
    Takes (.memReadTimeout port tag) s (readFailed (dropRead (start s) port tag) q 3) := by
  refine takes_unless (execMemReadTimeout port tag s) rfl rfl (Nat.not_le.mpr hport) ?_
  rw [show findRead (start s) port tag = some q from hread]

end

theorem port_of_linkRefOk {r : LinkRef} (hr : linkRefOk r = true) (hport : r.hedge = false) : r.num < 2 := by
  simpa [linkRefOk, hport] using hr

theorem getLink_port {d : Dev} {r : LinkRef} (hport : r.hedge = false) : getLink d r = d.ports.getD r.num {} := if_neg (by simp [hport])

end Sys2Proof.Machine

namespace Sys2Proof

open Sys2Proof.Machine

/-- Settles O56, row by row. -/
theorem linkRows : Obligations.LinkRows := by
  intro s r hr l d
  refine ⟨takes_trainingFrame hr, takes_trainingStepTimeout hr, takes_trainingRetry hr, takes_fastRetrain hr, takes_codewordLockLoss hr, takes_lowPowerIdle hr, takes_wake hr,
    takes_controlFlit hr, fun _ => takes_flitReceive hr, fun hedge => ?_⟩
  have hport := port_of_linkRefOk hr hedge
  have hl : l = s.dev.ports.getD r.num {} := getLink_port hedge
  rw [hl]
  exact ⟨fun tag _ _ => takes_memData hport tag, fun feed _ => takes_feed hport feed, fun _ _ => takes_memReadTimeout hport⟩

end Sys2Proof
end

section
/-!
PROOFS. Links and their sequenced flits (14 R361 to R363, R374): a link read after a change of it, a NAK, an ACK, and each outcome of a flit.
-/

namespace Sys2Proof.Machine

open Sys2Proof

/-! ### A link after a change of it -/

/-- The device has the link that a command names. -/
def HasLink (d : Dev) (r : LinkRef) : Prop := r.num < (if r.hedge then d.links else d.ports).length

/-- A link that is up is one that the device has. -/
theorem hasLink_of_up {d : Dev} {r : LinkRef} (h : (getLink d r).up = true) : HasLink d r := by
  have hin {xs : List Link} (hup : (xs.getD r.num {}).up = true) : r.num < xs.length := by
    refine Decidable.by_contra (fun hout => ?_)
    rw [List.getD_eq_getElem?_getD, List.getElem?_eq_none (Nat.not_lt.mp hout)] at hup
    exact absurd hup (by decide)
  unfold HasLink
  unfold getLink at h
  split at h
  next hedge => rw [if_pos hedge]; exact hin h
  next hport => rw [if_neg hport]; exact hin h

section
variable (d : Dev) (r : LinkRef) (f : Link → Link)

@[simp] theorem modAny_time : (modAny d r f).time = d.time := by
  unfold modAny
  split <;> rfl

@[simp] theorem modAny_sent : (modAny d r f).sent = d.sent := by
  unfold modAny
  split <;> rfl

@[simp] theorem hasLink_modAny : HasLink (modAny d r f) r ↔ HasLink d r := by
  unfold HasLink modAny
  split
  · exact iff_of_eq (congrArg (r.num < ·) (modifyAt_length ..))
  · exact iff_of_eq (congrArg (r.num < ·) (modifyAt_length ..))

@[simp] theorem getLink_send (o : Out) : getLink (send d o) r = getLink d r := rfl

end

theorem getLink_modAny {d : Dev} {r : LinkRef} (h : HasLink d r) (f : Link → Link) : getLink (modAny d r f) r = f (getLink d r) := by
  unfold HasLink at h
  unfold getLink modAny
  split at h
  next hedge => simp only [hedge, if_true, link_modLink, h, and_self]
  next port => simp only [port, if_false, port_modPort, h, and_self, if_true, Bool.false_eq_true]

/-! ### A NAK -/

/-- The SEQ last accepted. -/
def Link.lastSeq (l : Link) : Nat := (l.rxSeq + 4095) % 4096

/-- A NAK for the SEQ last accepted went out within the last 2 µs (R362). -/
def Link.nakRecent (l : Link) (now : Nat) : Bool := l.naked.any (fun x => decide (x.1 = l.lastSeq) && decide (now < x.2 + 2000))

/-- What a flit that is not accepted leaves of a link, but for its counts, and sends. -/
structure FlitRefused (d u : Dev) (r : LinkRef) : Prop where
  rxSeq : (getLink u r).rxSeq = (getLink d r).rxSeq
  credits : (getLink u r).credits = (getLink d r).credits
  txAcked : (getLink u r).txAcked = (getLink d r).txAcked
  discarding : (getLink u r).discarding = true
  sent : u.sent = if (getLink d r).nakRecent d.time then d.sent else d.sent ++ [.nak (linkId r) (getLink d r).lastSeq]

theorem sendNak_eq (d : Dev) (r : LinkRef) : sendNak d r =
    if (getLink d r).nakRecent d.time then modAny d r (fun l => { l with discarding := true })
    else send (modAny (modAny d r (fun l => { l with discarding := true })) r
      (fun l => { l with naked := some ((getLink d r).lastSeq, d.time), counts := { l.counts with nakSent := l.counts.nakSent + 1 } })) (.nak (linkId r) (getLink d r).lastSeq) := by
  have hrecent : (match (getLink d r).naked with
      | some (sq, t) => decide (sq = (getLink d r).lastSeq) && decide (d.time < t + 2000)
      | none => false) = (getLink d r).nakRecent d.time := by
    rw [Link.nakRecent]
    cases (getLink d r).naked <;> rfl
  rw [← hrecent]
  unfold sendNak
  simp only [modAny_time]
  rfl

section
variable {d : Dev} {r : LinkRef} (h : HasLink d r)
include h

theorem sendNak_refuses : FlitRefused d (sendNak d r) r := by
  rw [sendNak_eq]
  split
  next hrecent => constructor <;> simp [getLink_modAny h, hrecent]
  next hnot => constructor <;> simp [getLink_modAny, h, hnot]

theorem sendNak_crcErrors : (getLink (sendNak d r) r).counts.crcErrors = (getLink d r).counts.crcErrors := by
  rw [sendNak_eq]
  split <;> simp [getLink_modAny, h]

end

/-- A flit whose CHECK fails is counted on its link (R362). -/
def crcCounted (d : Dev) (r : LinkRef) : Dev := modAny d r (fun l => { l with counts := { l.counts with crcErrors := l.counts.crcErrors + 1 } })

/-- The count is nothing that a NAK reads or that the link's numbers depend on. -/
theorem sendNak_crcCounted {d : Dev} {r : LinkRef} (h : HasLink d r) :
    FlitRefused d (sendNak (crcCounted d r) r) r ∧ (getLink (sendNak (crcCounted d r) r) r).counts.crcErrors = (getLink d r).counts.crcErrors + 1 := by
  have hlink : HasLink (crcCounted d r) r := (hasLink_modAny ..).mpr h
  have hcounted : getLink (crcCounted d r) r = _ := getLink_modAny h _
  obtain ⟨hrx, hcredits, hacked, hdisc, hsent⟩ := sendNak_refuses hlink
  rw [hcounted] at hrx hcredits hacked hsent
  rw [sendNak_crcErrors hlink, hcounted]
  refine ⟨⟨hrx, hcredits, hacked, hdisc, hsent.trans ?_⟩, rfl⟩
  rw [crcCounted, modAny_sent, modAny_time]
  rfl

/-! ### A flit -/

/-- The CHECK of a flit holds, no uncorrectable codeword overlaps it, and its reserved bits are 0 (R361). -/
structure FlitGood (bs : Bytes) (bad : Bool) : Prop where
  whole : bad = false
  check : crc64 (slice bs 0 248) = u64at bs 248
  flags : u8at bs 1 < 8
  seq : u16at bs 2 < 4096
  ack : u16at bs 4 < 4096

section
variable {d : Dev} {r : LinkRef} {bs : Bytes} {bad : Bool}

/-- A flit whose CHECK fails is counted and answered by a NAK (R362). -/
theorem flitReceive_bad (h : bad = true ∨ crc64 (slice bs 0 248) ≠ u64at bs 248) :
    flitReceive r bs bad d = sendNak (crcCounted d r) r :=
  if_pos (by simpa using h)

/-- A good flit: its acknowledgement is taken, and then, on a link that is still up, its type and SEQ decide. -/
theorem flitReceive_good (h : FlitGood bs bad) (htype : u8at bs 0 ≤ 2) : flitReceive r bs bad d =
    let u := takeAck d r (u8at bs 1) (u16at bs 4)
    if !(getLink u r).up then u
    else if u8at bs 0 = 0 then (if u16at bs 6 ≠ 0 ∨ !allZero bs 8 240 then protocolError u r 1 else u)
    else if u16at bs 2 ≠ (getLink d r).rxSeq then (if (getLink d r).discarding then u else sendNak u r)
    else if (getLink d r).discarding ∧ !bit (u8at bs 1) 2 then u
    else acceptFlit u r bs := by
  obtain ⟨hwhole, hcheck, hflags, hseq, hack⟩ := h
  have hgood : ¬ (bad || decide (crc64 (slice bs 0 248) ≠ u64at bs 248)) = true := by simp [hwhole, hcheck]
  have hreserved : ¬ (2 < u8at bs 0 ∨ 8 ≤ u8at bs 1 ∨ 4096 ≤ u16at bs 2 ∨ 4096 ≤ u16at bs 4) := by omega
  exact (if_neg hgood).trans (if_neg hreserved)

/-- A flit with neither ACK nor NAK acknowledges nothing. -/
theorem takeAck_plain {flags : Nat} (hack : bit flags 0 = false) (hnak : bit flags 1 = false) (ack : Nat) : takeAck d r flags ack = d :=
  if_pos (by simp [hack, hnak])

/-- A sequenced flit that carries no acknowledgement, on a link that is up. -/
theorem flitReceive_plain (h : FlitGood bs bad) (hup : (getLink d r).up = true) (hplain : bit (u8at bs 1) 0 = false ∧ bit (u8at bs 1) 1 = false)
    (htype : u8at bs 0 = 1 ∨ u8at bs 0 = 2) : flitReceive r bs bad d =
    if u16at bs 2 ≠ (getLink d r).rxSeq then (if (getLink d r).discarding then d else sendNak d r)
    else if (getLink d r).discarding ∧ !bit (u8at bs 1) 2 then d
    else acceptFlit d r bs := by
  rw [flitReceive_good h (by omega)]
  dsimp only
  rw [takeAck_plain hplain.1 hplain.2, if_neg (by simp [hup]), if_neg (by omega)]

/-- The expected flit, not discarded, is accepted. -/
theorem flitReceive_expected (h : FlitGood bs bad) (hup : (getLink d r).up = true) (hplain : bit (u8at bs 1) 0 = false ∧ bit (u8at bs 1) 1 = false)
    (htype : u8at bs 0 = 1 ∨ u8at bs 0 = 2) (hseq : u16at bs 2 = (getLink d r).rxSeq) (hreplay : (getLink d r).discarding = true → bit (u8at bs 1) 2 = true) :
    flitReceive r bs bad d = acceptFlit d r bs := by
  rw [flitReceive_plain h hup hplain htype, if_neg (not_not.mpr hseq), if_neg]
  rintro ⟨hdisc, hnot⟩
  rw [hreplay hdisc] at hnot
  exact absurd hnot (by decide)

/-- A link that accepted a flit: the next SEQ is expected, its credits are added, what its transactions use is `k`'s (R361, R362). -/
def Link.accepted (l : Link) (credit : Nat) (k : Link) : Link :=
  { l with rxSeq := (l.rxSeq + 1) % 4096, discarding := false, naked := none, credits := addCredits l.credits (credit / 8192) (credit % 8192),
           rxSlots := k.rxSlots, granted := k.granted, feedDue := k.feedDue }

/-- The flit is acknowledged. -/
def flitAccepted (d : Dev) (r : LinkRef) (credit : Nat) (k : Link) : Dev :=
  send (modAny d r (fun l => l.accepted credit k)) (.ack (linkId r) (getLink d r).rxSeq)

/-- A flit of type 2 carries no transactions; those of type 1 lie within the credits granted. -/
theorem acceptFlit_accepts (h : u8at bs 0 = 2 ∨ u8at bs 0 = 1 ∧ ∃ x, walkSlots r.hedge 15 (getLink d r) (slice bs 8 240) = .inr x) :
    ∃ k, acceptFlit d r bs = flitAccepted d r (u16at bs 6) k := by
  unfold acceptFlit
  rcases h with htype | ⟨htype, x, hwalk⟩
  · exact ⟨_, if_neg (by omega)⟩
  · rw [if_pos htype, hwalk]
    exact ⟨x, rfl⟩

/-- Transactions beyond the credits granted, or ill-formed, are a protocol error (R378). -/
theorem acceptFlit_breaks {rule : Nat} (htype : u8at bs 0 = 1) (hwalk : walkSlots r.hedge 15 (getLink d r) (slice bs 8 240) = .inl rule) :
    acceptFlit d r bs = protocolError d r rule := by
  unfold acceptFlit
  rw [if_pos htype, hwalk]

/-- A link of which `k` more flits are acknowledged (R363). -/
def Link.acked (l : Link) (k : Nat) : Link :=
  { l with txAcked := l.txAcked + k, nakSame := if k = 0 then l.nakSame else 0, replay := l.replay.filter (fun x => decide (l.txAcked + k < x.1)) }

/-- An ACK covers flits up to the one it names and none beyond those sent (R363). -/
theorem ackCovers_eq_some {l : Link} {ack k : Nat} (h : ackCovers l ack = some k) : (l.txAcked + k) % 4096 = (ack + 1) % 4096 ∧ l.txAcked + k ≤ l.txSent := by
  unfold ackCovers at h
  dsimp only at h
  split at h
  next hsent =>
    cases h
    exact ⟨by omega, hsent⟩
  next => cases h

theorem takeAck_ack {flags ack k : Nat} (hack : bit flags 0 = true) (hnak : bit flags 1 = false) (hcovers : ackCovers (getLink d r) ack = some k) :
    takeAck d r flags ack = modAny d r (fun l => l.acked k) := by
  unfold takeAck Link.acked
  simp [hack, hnak, hcovers]

/-- An idle flit with an ACK moves the acknowledged count, and nothing else of the link's numbers. -/
theorem flitReceive_idleAck {k : Nat} (h : FlitGood bs bad) (hup : (getLink d r).up = true) (htype : u8at bs 0 = 0) (hcredit : u16at bs 6 = 0)
    (hzero : allZero bs 8 240 = true) (hack : bit (u8at bs 1) 0 = true) (hnak : bit (u8at bs 1) 1 = false) (hcovers : ackCovers (getLink d r) (u16at bs 4) = some k) :
    flitReceive r bs bad d = modAny d r (fun l => l.acked k) := by
  rw [flitReceive_good h (by omega)]
  dsimp only
  rw [takeAck_ack hack hnak hcovers, getLink_modAny (hasLink_of_up hup), if_neg (by simp [Link.acked, hup]), if_pos htype, if_neg (by simp [hcredit, hzero])]

end

/-- WAKE leaves the link's SEQ and credits (R374): it wakes a link in low power, and is no event on another. -/
theorem exec_wake_link {s t : State} {r : LinkRef} (hr : linkRefOk r = true) (hup : (getLink s.dev r).up = true) (h : exec (.wake r) s = .next t) :
    getLink t.dev r = { (getLink s.dev r) with lowPower := false } := by
  rw [exec_wake hr] at h
  cases hlow : (getLink s.dev r).lowPower with
  | true =>
    rw [hlow] at h
    cases h
    exact getLink_modAny (d := start s) (hasLink_of_up (d := start s) hup) _
  | false =>
    rw [hlow] at h
    cases h
    show getLink s.dev r = _
    rw [← hlow]

end Sys2Proof.Machine

namespace Sys2Proof

open Sys2Proof.Machine

/-- Settles O57, by what becomes of the flit: refused with a NAK, discarded, accepted, a protocol error, or an ACK alone. -/
theorem flitsInOrder : Obligations.FlitsInOrder := by
  intro d r bs bad hr hup l u k last recent good plain
  have hlink := hasLink_of_up hup
  have hgood (h : good) : FlitGood bs bad := ⟨h.1, h.2.1, h.2.2.1, h.2.2.2.1, h.2.2.2.2⟩
  have hexpected (h : good) (hplain : plain) (htype : u8at bs 0 = 1 ∨ u8at bs 0 = 2) := flitReceive_expected (hgood h) hup hplain htype
  refine ⟨fun h => ?_, fun h hplain htype hseq hdisc => ?_, fun h hplain htype hseq hdisc hreplay => ?_, fun h hplain hseq hreplay hwalk => ?_,
    fun rule h hplain htype hseq hreplay hwalk => ?_, fun h htype hcredit hzero hack hnak _ hcovers => ?_, fun s t hs h => ?_⟩
  · obtain ⟨⟨hrx, hcredits, hacked, hdisc, hsent⟩, hcount⟩ := sendNak_crcCounted hlink
    rw [← flitReceive_bad h] at hrx hcredits hacked hdisc hsent hcount
    exact ⟨hrx, hcredits, hacked, hdisc, hcount, hsent⟩
  · have hu : u = sendNak d r := by
      show flitReceive r bs bad d = _
      rw [flitReceive_plain (hgood h) hup hplain htype, if_pos hseq, if_neg (by simpa using hdisc)]
    obtain ⟨hrx, hcredits, hacked, hnow, hsent⟩ := sendNak_refuses hlink
    have hcount := sendNak_crcErrors hlink
    rw [← hu] at hrx hcredits hacked hnow hsent hcount
    exact ⟨hrx, hcredits, hacked, hnow, hcount, hsent⟩
  · show flitReceive r bs bad d = d
    rw [flitReceive_plain (hgood h) hup hplain htype, if_neg (not_not.mpr hseq), if_pos ⟨hdisc, by simp [hreplay]⟩]
  · obtain ⟨x, hx⟩ := acceptFlit_accepts hwalk
    have hu : u = flitAccepted d r (u16at bs 6) x := (hexpected h hplain (by omega) hseq hreplay).trans hx
    have hk : k = l.accepted (u16at bs 6) x := by
      show getLink u r = _
      rw [hu, flitAccepted, getLink_send, getLink_modAny hlink]
    rw [hk]
    refine ⟨rfl, rfl, rfl, rfl, hup, ?_⟩
    rw [hu, flitAccepted, send_sent, modAny_sent]
  · exact (hexpected h hplain (.inl htype) hseq hreplay).trans (acceptFlit_breaks htype hwalk)
  · obtain ⟨n, hn⟩ := Option.isSome_iff_exists.mp hcovers
    obtain ⟨hmod, hbound⟩ := ackCovers_eq_some hn
    have hk : k = l.acked n := by
      show getLink (flitReceive r bs bad d) r = _
      rw [flitReceive_idleAck (hgood h) hup htype hcredit hzero hack hnak hn, getLink_modAny hlink]
    rw [hk]
    exact ⟨hmod, Nat.le_add_right .., hbound, rfl, rfl, rfl⟩
  · subst hs
    rw [exec_wake_link hr hup h]
    exact ⟨rfl, rfl, rfl, rfl, rfl⟩

end Sys2Proof
end

section
/-!
PROOFS. The rows of the hedge (15 R380 to R397): packets for this device, packets for others, the messages of a verified link, the identity exchange.
-/

namespace Sys2Proof.Machine

open Sys2Proof

/-! ### Tiles and flush markers of a job -/

section
variable {d : Dev} {l slot h : Nat} {p : Packet}

/-- Traffic of no job, or on an admitted link, is no protocol error (15 R399). -/
theorem admitted_traffic {tag : Nat} {k : Link} (h : tag = 0xFFFFFFFF ∨ k.isAdmitted = true) : ¬ (tag ≠ 0xFFFFFFFF ∧ (!k.isAdmitted) = true) := by
  rintro ⟨htag, hnot⟩
  rcases h with h | h
  · exact htag h
  · rw [h] at hnot
    exact absurd hnot (by decide)

section
variable (hadmitted : p.jobTag = 0xFFFFFFFF ∨ (d.links.getD l {}).isAdmitted = true)
include hadmitted

section
variable (hnone : slotOfTag d p.jobTag = none)
include hnone

/-- What arrives for a job that this device does not hold changes nothing (log entry 87). -/
theorem hedgeTile_unknown : hedgeTile l p d = .next d := by
  unfold hedgeTile
  dsimp only
  rw [if_neg (admitted_traffic hadmitted), hnone]

theorem flushMark_unknown : flushMark l p d = .next d := by
  unfold flushMark
  rw [if_neg (admitted_traffic hadmitted), hnone]

theorem flushAck_unknown : flushAck l p d = .next d := by
  unfold flushAck
  rw [if_neg (admitted_traffic hadmitted), hnone]

end

section
variable (hslot : slotOfTag d p.jobTag = some slot) (hrun : (getJob d slot).state = .running)
include hslot hrun

/-- A FLUSH_ACK that is awaited counts (15 R384). -/
theorem flushAck_counts (hawaited : 0 < (getQ d slot (p.aux / pow2 48)).flushing) (hpart : (senderPart (getJob d slot) p.src).isSome = true) :
    flushAck l p d = .next (modQ d slot (p.aux / pow2 48) (fun x => { x with flushing := x.flushing - 1 })) := by
  unfold flushAck
  rw [if_neg (admitted_traffic hadmitted), hslot]
  exact (if_neg (not_not.mpr hrun)).trans (onlyIf_of_true (Bool.and_eq_true_iff.mpr ⟨decide_eq_true hawaited, hpart⟩) _)

section
variable (hpart : senderPart (getJob d slot) p.src = some h)
include hpart

/-- A tile of a participant, its seal good and its queue one of the job's, is restamped with the local slot and sealed again; it goes to the batch stations of its
queue on every participant, or into the queue (02 R36, R44; log entry 24). -/
theorem hedgeTile_placed (hseal : (Tile.ofBytes p.data).computeSeal = (Tile.ofBytes p.data).crc)
    (hqueue : (Tile.ofBytes p.data).queue < (getJob d slot).image.queues.length) :
    let t := Tile.ofBytes p.data
    let t' := ({ t with jobSlot := slot }).sealed
    hedgeTile l p d = .next (if (farQueues (getJob d slot)).contains t.queue then (batchesOf (getJob d slot) t.queue).foldl (farTile l slot h t.queue t') d
      else enterQueue l slot t' d) := by
  unfold hedgeTile
  dsimp only
  rw [if_neg (admitted_traffic hadmitted), hslot]
  dsimp only
  rw [if_neg (not_not.mpr hrun), if_neg (not_not.mpr hseal), if_neg (Nat.not_le.mpr hqueue), hpart]
  exact (apply_ite ..).symm

theorem flushMark_batch {st : Nat} {sts : List Nat} (hbatch : batchesOf (getJob d slot) (p.aux / pow2 48) = st :: sts) :
    flushMark l p d = .next (answerFlush (modHolder d slot st h (fun y => { y with flush := some (p.aux % pow2 48) })) slot st h (p.aux / pow2 48)) := by
  unfold flushMark
  rw [if_neg (admitted_traffic hadmitted), hslot]
  dsimp only
  rw [if_neg (not_not.mpr hrun), hpart, hbatch]

theorem flushMark_queue (hnone : batchesOf (getJob d slot) (p.aux / pow2 48) = []) (hqueue : p.aux / pow2 48 < (getJob d slot).image.queues.length) :
    flushMark l p d = .next (answerMarks (modQ d slot (p.aux / pow2 48) (fun x => { x with marks := x.marks ++ [(h, p.aux % pow2 48)] })) slot (p.aux / pow2 48)) := by
  unfold flushMark
  rw [if_neg (admitted_traffic hadmitted), hslot]
  dsimp only
  rw [if_neg (not_not.mpr hrun), hpart, hnone]
  exact onlyIf_of_true (decide_eq_true hqueue) _

end

end

end

end

section
variable {s : State} {link : Nat} (hlink : link < 48)
include hlink

/-! ### Packets for this device -/

section
variable {p : PktArg} (hfor : forThis s.dev link p = true)
include hfor

theorem takes_hedgeMemWrite (hsome : 1 ≤ p.data.length) (hmost : p.data.length ≤ 4096) : Takes (.hedgeMemWrite link p) s (memPacket link (pktOf 1 p) s.mem (start s)) :=
  takes_unless (execHedgeMemWrite link p s) rfl rfl (Nat.not_le.mpr hlink)
    (onlyIf_of_true (Bool.and_eq_true_iff.mpr ⟨Bool.and_eq_true_iff.mpr ⟨hfor, decide_eq_true hsome⟩, decide_eq_true hmost⟩) _)

/-- The length of the read stands in AUX above the OSEQ (log entry 12). -/
theorem takes_hedgeMemRead (hsome : 1 ≤ p.aux >>> 32) (hmost : p.aux >>> 32 ≤ 4096) : Takes (.hedgeMemRead link p) s (memPacket link (pktOf 2 p) s.mem (start s)) :=
  takes_unless (execHedgeMemRead link p s) rfl rfl (Nat.not_le.mpr hlink)
    (onlyIf_of_true (Bool.and_eq_true_iff.mpr ⟨Bool.and_eq_true_iff.mpr ⟨hfor, decide_eq_true hsome⟩, decide_eq_true hmost⟩) _)

theorem takes_hedgeMemData (hdata : bit p.pflags 0 = true → p.data = []) : Takes (.hedgeMemData link p) s (hedgeMemData link (pktOf 3 p) (start s)) := by
  have hempty : (!bit p.pflags 0 || p.data.isEmpty) = true := by
    cases herror : bit p.pflags 0 with
    | false => rfl
    | true => rw [hdata herror]; rfl
  exact takes_unless (execHedgeMemData link p s) rfl rfl (Nat.not_le.mpr hlink) (onlyIf_of_true (Bool.and_eq_true_iff.mpr ⟨hfor, hempty⟩) _)

theorem takes_writeAck : Takes (.writeAck link p) s (writeAck link (pktOf 4 p) (start s)) :=
  takes_unless (execWriteAck link p s) rfl rfl (Nat.not_le.mpr hlink) (onlyIf_of_true hfor _)

theorem takes_hedgeTile {d : Dev} (hlen : p.data.length = 4160) (hnext : hedgeTile link (pktOf 0x10 p) (start s) = .next d) : Takes (.hedgeTile link p) s d :=
  takes_unless (execHedgeTile link p s) rfl rfl (Nat.not_le.mpr hlink) ((if_pos (Bool.and_eq_true_iff.mpr ⟨hfor, decide_eq_true hlen⟩)).trans hnext)

theorem takes_flush {d : Dev} (hnext : flushMark link (pktOf 0x11 p) (start s) = .next d) : Takes (.flush link p) s d :=
  takes_unless (execFlush link p s) rfl rfl (Nat.not_le.mpr hlink) ((if_pos hfor).trans hnext)

theorem takes_flushAck {d : Dev} (hnext : flushAck link (pktOf 0x12 p) (start s) = .next d) : Takes (.flushAck link p) s d :=
  takes_unless (execFlushAck link p s) rfl rfl (Nat.not_le.mpr hlink) ((if_pos hfor).trans hnext)

end

/-! ### Messages of a verified link -/

section
variable (hverified : (s.dev.links.getD link {}).isVerified = true)
include hverified

theorem takes_linkState (r : TopoRec) : Takes (.linkState link r) s (linkState link r (start s)) :=
  takes_unless (execLinkState link r s) rfl rfl (Nat.not_le.mpr hlink) (onlyIf_of_true hverified _)

theorem takes_discovery {phase : Nat} (recs : List TopoRec) (hphase : phase = 1 ∨ phase = 2 ∨ phase = 4) :
    Takes (.discovery link phase recs) s (discovery link phase recs (start s)) :=
  takes_unless (execDiscovery link phase recs s) rfl rfl (Nat.not_le.mpr hlink)
    ((if_neg (ne_true_of_eq_false (congrArg not hverified))).trans (if_pos hphase))

theorem takes_admitLink (yes : Bool) :
    Takes (.admitLink link yes) s (linkChanged (modLink (start s) link (fun k => { k with peer := { k.peer with peerApproves := yes } }))) :=
  takes_unless (execAdmit link yes s) rfl rfl (Nat.not_le.mpr hlink) (onlyIf_of_true hverified _)

theorem takes_timeSync {kind t1 t2 t3 : Nat} {d : Dev} (hnext : timeSync link kind t1 t2 t3 (start s) = .next d) : Takes (.timeSync link kind t1 t2 t3) s d :=
  takes_unless (execTimeSync link kind t1 t2 t3 s) rfl rfl (Nat.not_le.mpr hlink) ((if_pos hverified).trans hnext)

section
variable {ptype : Nat} {p : PktArg} (hforward : forwardable s.dev ptype p = true)
include hforward

theorem takes_packetForward : Takes (.packetForward link ptype p) s (packetForward link (pktOf ptype p) (start s)) :=
  takes_unless (execPacketForward link ptype p s) rfl rfl (Nat.not_le.mpr hlink) (onlyIf_of_true (Bool.and_eq_true_iff.mpr ⟨hverified, hforward⟩) _)

theorem takes_escapeTimeout (hescape : bit p.pflags 1 = false) : Takes (.escapeTimeout link ptype p) s (escapeTimeout link (pktOf ptype p) (start s)) :=
  takes_unless (execEscapeTimeout link ptype p s) rfl rfl (Nat.not_le.mpr hlink)
    (onlyIf_of_true (Bool.and_eq_true_iff.mpr ⟨Bool.and_eq_true_iff.mpr ⟨hverified, hforward⟩, congrArg not hescape⟩) _)

end

end

/-! ### A link that is up -/

section
variable (hup : (s.dev.links.getD link {}).up = true)
include hup

theorem takes_ident_key {data : Bytes} (hlen : data.length = 1984) : Takes (.ident link 1 data) s (identKey link data (start s)) :=
  takes_unless (execIdent link 1 data s) rfl rfl (Nat.not_le.mpr hlink) ((if_neg (ne_true_of_eq_false (congrArg not hup))).trans (if_pos ⟨rfl, hlen⟩))

theorem takes_ident_sign {data : Bytes} (hlen : data.length = 3309) (hkey : (s.dev.links.getD link {}).peer.key ≠ []) :
    Takes (.ident link 2 data) s (identSign link data (start s)) :=
  takes_unless (execIdent link 2 data s) rfl rfl (Nat.not_le.mpr hlink)
    ((if_neg (ne_true_of_eq_false (congrArg not hup))).trans ((if_neg (by simp)).trans (if_pos ⟨rfl, hlen, hkey⟩)))

theorem takes_hedgeLinkDown {reason : Nat} (hlow : 1 ≤ reason) (hhigh : reason ≤ 5) : Takes (.hedgeLinkDown link reason) s (linkDown (start s) ⟨true, link⟩ reason 0) :=
  takes_unless (execHedgeLinkDown link reason s) rfl rfl (Nat.not_le.mpr hlink)
    (onlyIf_of_true (Bool.and_eq_true_iff.mpr ⟨Bool.and_eq_true_iff.mpr ⟨hup, decide_eq_true hlow⟩, decide_eq_true hhigh⟩) _)

section
variable (hopen : (s.dev.links.getD link {}).peer.verified = false)
include hopen

theorem takes_identTimeout : Takes (.identTimeout link) s (deviceFault (start s) 0x0704 link 3 (linkDie ⟨true, link⟩)) :=
  takes_unless (execIdentTimeout link s) rfl rfl (Nat.not_le.mpr hlink) (onlyIf_of_true (Bool.and_eq_true_iff.mpr ⟨hup, congrArg not hopen⟩) _)

theorem takes_identRetry : Takes (.identRetry link) s (sendIdent (start s) link) :=
  takes_unless (execIdentRetry link s) rfl rfl (Nat.not_le.mpr hlink) (onlyIf_of_true (Bool.and_eq_true_iff.mpr ⟨hup, congrArg not hopen⟩) _)

end

end

end

/-! ### Acknowledgements and time -/

section
variable {s : State}

theorem takes_writeAckTimer {e src : Nat} (hopen : 0 < (getRx s.dev e src).unacked) : Takes (.writeAckTimer e src) s (sendAck (start s) (getRx s.dev e src)) :=
  takes_of_onlyIf (i := .writeAckTimer e src) rfl (decide_eq_true hopen)

theorem takes_timeSyncTick : Takes .timeSyncTick s (timeSyncTick (start s)) := rfl

/-- A reply to the request that is out corrects the timestamp (R397). -/
theorem timeSync_reply {d : Dev} {t1 : Nat} (hout : d.hedge.t1 = some t1) (link t2 t3 : Nat) : timeSync link 2 t1 t2 t3 d =
    .next (checkBound (applyOffset { d with hedge := { d.hedge with t1 := none } } ((((t2 : Int) - t1) - ((d.time : Int) - t3)) / 2))) := by
  unfold timeSync
  rw [if_neg (by decide), if_pos rfl, hout]
  exact onlyIf_of_true (decide_eq_true rfl) _

end

end Sys2Proof.Machine

namespace Sys2Proof

open Sys2Proof.Machine

/-- Settles O58, row by row. -/
theorem hedgeRows : Obligations.HedgeRows := by
  intro s link hlink l d
  refine ⟨fun p hfor => ⟨takes_hedgeMemWrite hlink hfor, takes_hedgeMemRead hlink hfor, takes_hedgeMemData hlink hfor, takes_writeAck hlink hfor,
      fun slot h hadmitted hslot hrun hpart => ⟨fun hlen hseal hqueue => ?_, fun st sts hbatch => ?_, fun hnone hqueue => ?_⟩,
      fun hadmitted hnone => ⟨fun hlen => ?_, ?_, ?_⟩, fun slot _ hadmitted hslot hrun hawaited hpart => ?_⟩,
    fun e src => takes_writeAckTimer,
    fun hverified => ⟨takes_linkState hlink hverified, fun phase recs => takes_discovery hlink hverified recs, takes_admitLink hlink hverified,
      fun t1 t2 t3 => takes_timeSync hlink hverified rfl, fun t1 t2 t3 hout => takes_timeSync hlink hverified (timeSync_reply (d := start s) hout link t2 t3),
      fun ptype p hforward => ⟨takes_packetForward hlink hverified hforward, takes_escapeTimeout hlink hverified hforward⟩⟩,
    takes_timeSyncTick,
    fun hup => ⟨fun data => takes_ident_key hlink hup, fun data => takes_ident_sign hlink hup,
      fun hopen => ⟨takes_identTimeout hlink hup hopen, takes_identRetry hlink hup hopen⟩, fun reason => takes_hedgeLinkDown hlink hup⟩⟩
  · exact takes_hedgeTile hlink hfor hlen (hedgeTile_placed (d := start s) (p := pktOf 0x10 p) hadmitted hslot hrun hpart hseal hqueue)
  · exact takes_flush hlink hfor (flushMark_batch (d := start s) (p := pktOf 0x11 p) hadmitted hslot hrun hpart hbatch)
  · exact takes_flush hlink hfor (flushMark_queue (d := start s) (p := pktOf 0x11 p) hadmitted hslot hrun hpart hnone hqueue)
  · exact takes_hedgeTile hlink hfor hlen (hedgeTile_unknown (d := start s) (p := pktOf 0x10 p) hadmitted hnone)
  · exact takes_flush hlink hfor (flushMark_unknown (d := start s) (p := pktOf 0x11 p) hadmitted hnone)
  · exact takes_flushAck hlink hfor (flushAck_unknown (d := start s) (p := pktOf 0x12 p) hadmitted hnone)
  · exact takes_flushAck hlink hfor (flushAck_counts (d := start s) (p := pktOf 0x12 p) (.inr hadmitted) hslot hrun hawaited hpart)

end Sys2Proof
end

section
/-!
PROOFS. The rows of the hedgerow chain (15 R400 to R404).
-/

namespace Sys2Proof.Machine

open Sys2Proof

section
variable {s : State} (hon : chainOn s.dev = true)
include hon

theorem chain_on : ¬ (!chainOn (start s)) = true := by simp [show chainOn (start s) = true from hon]

/-! ### Enumeration -/

/-- ENUMERATE takes NEXT as the address where the strap is high and NEXT is at most 64, and sends it on, counted where the strap is high (R402). -/
theorem exec_enumerate {next : Nat} (hlow : 1 ≤ next) (hhigh : next < 256) : ∃ u, exec (.enumerate next) s = .next u ∧
    u.dev.chain.addr = (if strapChainPos s.dev.root.straps ∧ next ≤ 64 then next else 0) ∧
    u.dev.chain.store = s.dev.chain.store ++ [(false, { dest := 0xFF, src := 0, kind := 1, data := le 1 (if strapChainPos s.dev.root.straps then (next + 1) % 256 else next) })] := by
  refine ⟨_, takes_of_onlyIf (i := .enumerate next) (d := enumerate next (start s)) rfl (by simp [show chainOn (start s) = true from hon, hlow, hhigh]), ?_, rfl⟩
  show (if strapChainPos s.dev.root.straps && decide (next ≤ 64) then next else 0) = _
  simp only [Bool.and_eq_true, decide_eq_true_eq]

theorem takes_lastDeviceTimeout {n : Nat} (hout : s.dev.chain.enumNext = some n) : Takes .lastDeviceTimeout s (lastDevice n (start s)) := by
  show execLastDeviceTimeout s = _
  rw [execLastDeviceTimeout, runDev, show (start s).chain.enumNext = some n from hout]
  exact congrArg (settle s) (if_pos hon)

/-! ### Frames -/

/-- The device after a frame that fails its CRC or carries a reserved KIND (R401). -/
def frameDiscarded (s : State) : Dev := { start s with chain := { s.dev.chain with discarded := s.dev.chain.discarded + 1 } }

theorem takes_chainCommand_bad {bs : Bytes} (hbad : readFrame bs = none) : Takes (.chainCommand false bs) s (frameDiscarded s) := by
  show execChainCommand false bs s = _
  rw [execChainCommand, hbad]
  exact congrArg (settle s) (if_neg (by simpa using chain_on hon))

theorem takes_chainFrameForward_bad {bs : Bytes} (up : Bool) (hbad : readFrame bs = none) : Takes (.chainFrameForward up bs) s (frameDiscarded s) := by
  show execChainFrameForward up bs s = _
  rw [execChainFrameForward, hbad]
  exact congrArg (settle s) (if_neg (chain_on hon))

theorem takes_chainFrameForward {bs : Bytes} {f : Frame} {up : Bool} (hframe : readFrame bs = some f) (hother : up = true ∨ f.dest ≠ s.dev.chain.addr ∨ s.dev.chain.addr = 0) :
    Takes (.chainFrameForward up bs) s (storeFrame (start s) up f) := by
  have hmet : (up || decide (f.dest ≠ s.dev.chain.addr) || decide (s.dev.chain.addr = 0)) = true := by
    rwa [Bool.or_eq_true, Bool.or_eq_true, decide_eq_true_eq, decide_eq_true_eq, or_assoc]
  show execChainFrameForward up bs s = _
  rw [execChainFrameForward, hframe]
  exact congrArg (settle s) ((if_neg (chain_on hon)).trans (onlyIf_of_true hmet _))

/-- The device as a frame for it finds it: one for every device goes on downstream first (R401). -/
def frameTaken (s : State) (f : Frame) : Dev := if f.dest = 0xFF then storeFrame (start s) false f else start s

/-- A COMMAND or DATA frame for this device is taken (R403). -/
theorem exec_chainCommand {bs : Bytes} {f : Frame} (hframe : readFrame bs = some f) (hkind : f.kind = 4 ∨ f.kind = 5) (haddr : s.dev.chain.addr ≠ 0)
    (hdest : f.dest = s.dev.chain.addr ∨ f.dest = 0xFF) : exec (.chainCommand false bs) s = settle s (chainCommand f s.mem (frameTaken s f)) := by
  have hfor : ¬ (!(f.kind == 4 || f.kind == 5) || decide (s.dev.chain.addr = 0) || !(f.dest == s.dev.chain.addr || f.dest == 0xFF)) = true := by
    simpa [haddr, or_iff_not_imp_left] using And.intro hkind hdest
  show execChainCommand false bs s = _
  rw [execChainCommand, hframe]
  exact congrArg (settle s) ((if_neg (by simpa using chain_on hon)).trans (if_neg hfor))

end

section
variable {s : State} {f : Frame}

/-- A frame that goes on changes the store only. -/
theorem frameTaken_answers : (frameTaken s f).chain.answers = s.dev.chain.answers := by
  unfold frameTaken
  split <;> rfl

theorem frameTaken_cid : (frameTaken s f).chain.cid = s.dev.chain.cid := by
  unfold frameTaken
  split <;> rfl

theorem frameTaken_buf : (frameTaken s f).chain.buf = s.dev.chain.buf := by
  unfold frameTaken
  split <;> rfl

end

section
variable {f : Frame} {m : Memory} {d : Dev}

/-- A repeated CID is answered from the store (R403). -/
theorem chainCommand_again {all : Bytes} (hknown : assocGet d.chain.answers f.cid = some all) (hkind : f.kind = 4) (hfirst : f.offset = 0) :
    chainCommand f m d =
      .next (modChain d (fun c => { c with store := c.store ++ (respFrames c.addr f.cid (all.length / 4096 + 1) 0 all).map (fun x => (true, x)) })) := by
  rw [chainCommand, hknown]
  exact if_pos ⟨hkind, hfirst⟩

section
variable (hnew : assocGet d.chain.answers f.cid = none)
include hnew

/-- A COMMAND frame starts a command where none is in progress; the device acts on it where it is the last (R403). -/
theorem chainCommand_first (hidle : d.chain.cid = none) (hkind : f.kind = 4) (hfirst : f.offset = 0) :
    let d' := modChain d (fun c => { c with cid := some f.cid, buf := f.data })
    chainCommand f m d = .next (if f.last then runChain m d' (chainCmd f.cid f.data) else d') := by
  rw [chainCommand, hnew]
  dsimp only
  rw [hidle]
  exact (if_pos ⟨hkind, hfirst⟩).trans (apply_ite ..).symm

theorem chainCommand_goesOn (hbusy : d.chain.cid = some f.cid) :
    let d' := modChain d (fun c => { c with buf := putAt d.chain.buf f.offset f.data })
    chainCommand f m d = .next (if f.last then runChain m d' (chainCmd f.cid (putAt d.chain.buf f.offset f.data)) else d') := by
  rw [chainCommand, hnew]
  dsimp only
  rw [hbusy]
  exact (if_neg (not_not.mpr rfl)).trans (apply_ite ..).symm

/-- A second command is refused while one is in progress (R403). -/
theorem chainCommand_second {x : Nat} (hbusy : d.chain.cid = some x) (hother : x ≠ f.cid) (hkind : f.kind = 4) (hfirst : f.offset = 0) :
    chainCommand f m d = .next (refuseSecond d f) := by
  rw [chainCommand, hnew]
  dsimp only
  rw [hbusy]
  exact (if_pos hother).trans (if_pos ⟨hkind, hfirst⟩)

end

end

/-! ### Turns and heartbeats -/

section
variable {s : State} (hon : chainOn s.dev = true)
include hon

theorem takes_turnPass (up : Bool) : Takes (.turnPass up) s (turnPass up (start s)) := takes_of_onlyIf (i := .turnPass up) rfl hon

theorem takes_heartbeatTick (haddr : s.dev.chain.addr ≠ 0) : Takes .heartbeatTick s (heartbeatTick (start s)) :=
  takes_of_onlyIf (i := .heartbeatTick) rfl (Bool.and_eq_true_iff.mpr ⟨hon, decide_eq_true haddr⟩)

theorem takes_heartbeat {src : Nat} (haddr : s.dev.chain.addr ≠ 0) (hbeyond : s.dev.chain.addr < src) (hlast : src ≤ 64) :
    Takes (.heartbeat src) s (modChain (start s) (fun c => { c with watch := assocSet c.watch src (0, false) })) :=
  takes_of_onlyIf (i := .heartbeat src) rfl (by simp [show chainOn (start s) = true from hon, haddr, hbeyond, hlast])

/-- The device just behind this one, silent for three intervals and not yet reported, is missing (R404). -/
theorem takes_heartbeatMissing {n : Nat} (hwatch : s.dev.chain.watch.find? (fun w => w.1 == s.dev.chain.addr + 1) = some (s.dev.chain.addr + 1, n, false)) (hsilent : 3 ≤ n) :
    Takes (.heartbeatMissing (s.dev.chain.addr + 1)) s (heartbeatMissing (s.dev.chain.addr + 1) (start s)) := by
  have hmem := List.mem_of_find?_eq_some hwatch
  have hin : s.dev.chain.addr + 1 ∈ silent s.dev.chain := List.mem_map.mpr ⟨_, List.mem_filter.mpr ⟨hmem, decide_eq_true hsilent⟩, rfl⟩
  have hnot : s.dev.chain.watch.any (fun w => w.1 == s.dev.chain.addr + 1 && !w.2.2) = true := List.any_eq_true.mpr ⟨_, hmem, by simp⟩
  refine takes_of_onlyIf (i := .heartbeatMissing (s.dev.chain.addr + 1)) rfl ?_
  simp [show chainOn (start s) = true from hon, hin, hnot]

end

end Sys2Proof.Machine

namespace Sys2Proof

open Sys2Proof.Machine

/-- Settles O59, row by row. -/
theorem chainRows : Obligations.ChainRows := by
  intro s hon d ch
  refine ⟨fun next => exec_enumerate hon, fun n => takes_lastDeviceTimeout hon, fun bs hbad => ⟨takes_chainCommand_bad hon hbad, fun up => takes_chainFrameForward_bad hon up hbad⟩,
    fun bs f hframe hkind haddr hdest => ?_, fun bs f up => takes_chainFrameForward hon, takes_turnPass hon true, fun hturn => ?_, fun hturn => ?_,
    takes_heartbeatTick hon, fun src => takes_heartbeat hon, fun n => takes_heartbeatMissing hon⟩
  · have hexec := exec_chainCommand hon hframe hkind haddr hdest
    refine ⟨fun all hknown hfour hfirst => takes_of_settle hexec (chainCommand_again (by rwa [frameTaken_answers]) hfour hfirst), fun hnew => ⟨fun hidle hfour hfirst => ?_,
      fun hbusy => ?_, fun x hbusy hother hfour hfirst => ?_⟩⟩
    · exact takes_of_settle hexec (chainCommand_first (by rwa [frameTaken_answers]) (frameTaken_cid.trans hidle) hfour hfirst)
    · have hnext := chainCommand_goesOn (m := s.mem) (d := frameTaken s f) (by rwa [frameTaken_answers]) (frameTaken_cid.trans hbusy)
      rw [frameTaken_buf] at hnext
      exact takes_of_settle hexec hnext
    · exact takes_of_settle hexec (chainCommand_second (by rwa [frameTaken_answers]) (frameTaken_cid.trans hbusy) hother hfour hfirst)
  · exact (takes_turnPass hon false).of_eq (if_pos hturn)
  · exact (takes_turnPass hon false).of_eq (if_neg (ne_true_of_eq_false hturn))

end Sys2Proof
end

section
/-!
PROOFS. The rows of the board: power, reset, reference, thermal trip, rails, boot, monitors, JTAG and debug (16 R407 to R427, 17 R429 to R448).
-/

namespace Sys2Proof.Machine

open Sys2Proof

/-! ### What a reset of the dies sends -/

@[simp] theorem writeEvent_sent (d : Dev) (e : Bytes) : (writeEvent d e).sent = d.sent := by
  obtain ⟨w, ps, po, h⟩ := writeEvent_frame d e
  rw [h]

@[simp] theorem setJState_sent (d : Dev) (slot : Nat) (st : JState) (reason : Nat) : (setJState d slot st reason).sent = d.sent := by
  obtain ⟨w, ps, po, h⟩ := setJState_frame d slot st reason
  rw [h]

/-- The end of a commit that no command waits for sends nothing. -/
theorem finishCommit_sent {c : Commit} (h : c.waiters = []) (d : Dev) (slot : Nat) : (finishCommit d slot c).sent = d.sent := by
  unfold finishCommit
  rw [h]
  dsimp only [List.foldl_nil]
  split
  · exact (setJState_sent _ _ _ _).trans (writeEvent_sent _ _)
  · exact writeEvent_sent _ _

theorem dropPrepared_sent (d : Dev) (slot : Nat) : (dropPrepared d slot).sent = d.sent := by
  unfold dropPrepared
  dsimp only
  split
  · rfl
  · split <;> rfl

theorem parkJob_sent (d : Dev) (slot : Nat) : (parkJob d slot).sent = d.sent := by
  unfold parkJob
  dsimp only
  split
  · rfl
  · split
    · split
      · exact finishCommit_sent rfl d slot
      · exact dropPrepared_sent d slot
    · rfl

theorem resetDies_sent (d : Dev) (cause : Nat) (count cold : Bool) : (resetDies d cause count cold).sent = d.sent := by
  unfold resetDies loseMemory
  dsimp only
  rw [foldl_keeps (·.sent) parkJob_sent]

@[simp] theorem keepTierStore_sent (d : Dev) : (keepTierStore d).sent = d.sent := by
  unfold keepTierStore
  split <;> rfl

/-! ### Power, reset, reference -/

section
variable {s : State}

theorem takes_powerOn (straps tier : Nat) (hopen : s.dev.root.strapsLatched = false) : Takes (.powerOn straps tier) s (powerOn straps tier (start s)) :=
  takes_of_onlyIf (i := .powerOn straps tier) rfl (congrArg not hopen)

theorem takes_resetNAssert (cool : Bool) (hlatched : s.dev.root.strapsLatched = true) (hhigh : s.dev.root.resetNLow = false) :
    Takes (.resetNAssert cool) s (resetNAssert cool (start s)) :=
  takes_of_onlyIf (i := .resetNAssert cool) rfl (Bool.and_eq_true_iff.mpr ⟨hlatched, congrArg not hhigh⟩)

/-- The count of resets stays at its bound (R64). -/
theorem resetWin_resets (w : Window) (cause : Nat) : (resetWin w cause true).resets = min (w.resets + 1) (max 0xFFFF w.resets) := by
  rw [resetWin, Bool.true_and]
  split
  next hbelow => have := of_decide_eq_true hbelow; dsimp only; omega
  next hbound => have := mt decide_eq_true hbound; dsimp only; omega

/-- The device without a thermal trip. -/
def untripped (d : Dev) : Dev := { d with root := { d.root with tripped := false } }

theorem resetNAssert_cool (d : Dev) : resetNAssert true d =
    { fullReset (untripped d) 1 with root := { (fullReset (untripped d) 1).root with resetNLow := true } } := by
  rw [resetNAssert, if_neg (by simp)]
  rfl

theorem resetNAssert_win (d : Dev) : (resetNAssert true d).win = resetWin d.win 1 true := by
  rw [resetNAssert_cool]
  exact fullReset_win (untripped d) 1

theorem resetNAssert_jobs (d : Dev) : (resetNAssert true d).jobs = List.replicate 64 {} := by
  rw [resetNAssert_cool]
  exact fullReset_jobs (untripped d) 1

theorem resetNAssert_hedge_addr (d : Dev) : (resetNAssert true d).hedge.addr = d.hedge.addr := by
  rw [resetNAssert_cool]
  exact fullReset_hedge_addr (untripped d) 1

theorem resetNAssert_bootStep (d : Dev) : (resetNAssert true d).root.bootStep = 2 := by
  rw [resetNAssert_cool]
  rfl

/-- RESET_N makes a full reset where every comparator is cool, and the boot waits until its release (R448). -/
theorem exec_resetNAssert (hlatched : s.dev.root.strapsLatched = true) (hhigh : s.dev.root.resetNLow = false) :
    ∃ u, exec (.resetNAssert true) s = .next u ∧ u.dev.win.lastCause = 1 ∧ u.dev.win.resets = min (s.dev.win.resets + 1) (max 0xFFFF s.dev.win.resets) ∧
      u.dev.root.resetNLow = true ∧ u.dev.root.bootStep = 2 ∧ u.dev.hedge.addr = s.dev.hedge.addr ∧ ∀ k, (getJob u.dev k).state = .free := by
  obtain ⟨hcause, hfree, _⟩ := free_and_disabled (resetNAssert_win (start s)) (resetNAssert_jobs (start s))
  refine ⟨_, takes_resetNAssert true hlatched hhigh, hcause, ?_, rfl, resetNAssert_bootStep (start s), resetNAssert_hedge_addr (start s), hfree⟩
  rw [ended_win, resetNAssert_win, resetWin_resets]
  rfl

theorem takes_resetNRelease (hlow : s.dev.root.resetNLow = true) : Takes .resetNRelease s { start s with root := { s.dev.root with resetNLow := false } } :=
  takes_of_onlyIf (i := .resetNRelease) rfl hlow

theorem takes_referenceLost (href : s.dev.root.refOk = true) (hlatched : s.dev.root.strapsLatched = true) : Takes .referenceLost s (referenceLost (start s)) :=
  takes_of_onlyIf (i := .referenceLost) rfl (Bool.and_eq_true_iff.mpr ⟨href, hlatched⟩)

theorem takes_referenceReturn (hlost : s.dev.root.refOk = false) : Takes .referenceReturn s { start s with root := { s.dev.root with refOk := true, bootStep := 2 } } :=
  takes_of_onlyIf (i := .referenceReturn) rfl (congrArg not hlost)

/-! ### Trip and rails -/

theorem exec_thermalTrip {die : Nat} (hdie : die < 100) (hcool : s.dev.root.tripped = false) (hlatched : s.dev.root.strapsLatched = true) :
    ∃ u, exec (.thermalTrip die) s = .next u ∧ u.dev.sent = [.thermtrip] ∧ u.dev.root.tripped = true ∧ u.dev.root.tripDie = some die ∧ u.dev.root.bootStep = 0 := by
  refine ⟨ended s (thermalTrip die (start s)), takes_unless (execThermalTrip die s) rfl rfl (Nat.not_le.mpr hdie)
    (onlyIf_of_true (Bool.and_eq_true_iff.mpr ⟨congrArg not hcool, hlatched⟩) _), ?_, rfl, rfl, rfl⟩
  show (keepTierStore (resetDies (start s) s.dev.win.lastCause false false)).sent ++ [.thermtrip] = _
  rw [keepTierStore_sent, resetDies_sent, fresh_sent, List.nil_append]

/-- Rails that go leave no boot running; the tier's take its store with them, VAON the strap word and the peer table (16 R420). -/
theorem railRemoval_leaves (vaon tier : Bool) (d : Dev) : let u := railRemoval vaon tier d
    u.root.mainOn = false ∧ u.root.bootStep = 0 ∧ (tier = true → u.ckpts = []) ∧ (vaon = true → u.root.strapsLatched = false ∧ u.root.peers = []) := by
  cases vaon <;> cases tier <;> simp [railRemoval]

theorem exec_railRemoval (vaon tier : Bool) (hmay : vaon = true ∨ s.dev.power.state = .d3 ∨ s.dev.root.tripped = true) :
    ∃ u, exec (.railRemoval vaon tier) s = .next u ∧ u.dev.root.mainOn = false ∧ u.dev.root.bootStep = 0 ∧ (tier = true → u.dev.ckpts = []) ∧
      (vaon = true → u.dev.root.strapsLatched = false ∧ u.dev.root.peers = []) := by
  refine ⟨_, takes_of_onlyIf (i := .railRemoval vaon tier) (d := railRemoval vaon tier (start s)) rfl ?_, railRemoval_leaves vaon tier (start s)⟩
  rw [Bool.or_eq_true, Bool.or_eq_true, decide_eq_true_eq, or_assoc]
  exact hmay

/-! ### Boot -/

section
variable (hready : bootReady s.dev.root = true)
include hready

theorem takes_bootComplete (self : Option (Nat × Nat)) (hbm tier flash : Option Nat) :
    Takes (.bootComplete self hbm tier flash) s (bootRun (start s) self hbm tier flash) :=
  takes_of_onlyIf (i := .bootComplete self hbm tier flash) rfl hready

theorem takes_bootStepTimeout (die : Nat) (hnone : pendingTarget s.dev.root = none) :
    Takes (.bootStepTimeout die) s (enterRecovery (bootFault (start s) 0x0E05 s.dev.root.bootStep die rootDie)) := by
  refine takes_of_settle (r := bootTimeout die (start s)) rfl ?_
  rw [bootTimeout, show pendingTarget (start s).root = none from hnone]
  exact onlyIf_of_true hready _

/-- A boot that tried a PENDING image runs once more without it (R443). -/
theorem takes_bootStepTimeout_pending (die : Nat) {t : Nat} (hpending : pendingTarget s.dev.root = some t) :
    Takes (.bootStepTimeout die) s (secondRun (start s) t (0x100 + s.dev.root.bootStep)) := by
  refine takes_of_settle (r := bootTimeout die (start s)) rfl ?_
  rw [bootTimeout, show pendingTarget (start s).root = some t from hpending]
  exact onlyIf_of_true hready _

end

/-! ### Monitors -/

theorem deviceFaultReset_power (d : Dev) (f : FaultInfo) : (deviceFaultReset d f).power = d.power := by
  obtain ⟨w, ps, po, js, hfault⟩ := reportFault_frame d { f with fflags := f.fflags ||| 2 }
  rw [deviceFaultReset, needReset, hfault]

/-- A domain that does not wake makes a full reset due, and is waited for no more (R415). -/
theorem exec_domainWakeTimeout {die : Nat} (domain : Nat) (hdie : die < 100) (hwaking : s.dev.power.waking.contains die = true) :
    ∃ u, exec (.domainWakeTimeout die domain) s = .next u ∧ u.dev.root.resetCause = some 5 ∧ u.dev.power.waking.contains die = false := by
  refine ⟨_, takes_unless (execDomainWakeTimeout die domain s) rfl rfl (Nat.not_le.mpr hdie) (onlyIf_of_true hwaking _), rfl, ?_⟩
  show (deviceFaultReset _ _).power.waking.contains die = false
  rw [deviceFaultReset_power]
  simp

theorem takes_monitorSample (readings : List (Nat × Int)) (sat : List Bool) (rails : List Nat) (hon : hubOn s.dev = true) :
    Takes (.monitorSample readings sat rails) s (monitorSample readings sat rails (start s)) :=
  takes_of_onlyIf (i := .monitorSample readings sat rails) rfl hon

/-! ### JTAG and debug -/

/-- The device whose JTAG register holds a code and which has shifted bytes out (R446). -/
def jtagOut (d : Dev) (code : Nat) (out : Bytes) : Dev := send { d with root := { d.root with jtag := code } } (.tdo out)

section
variable (hrails : s.dev.root.railsOn = true)
include hrails

theorem takes_bypass : Takes .bypass s (jtagOut (start s) 0 [0]) := takes_of_onlyIf (i := .bypass) rfl hrails

theorem takes_idcode : Takes .idcode s (jtagOut (start s) 1 Config.bsdlIdcode) := takes_of_onlyIf (i := .idcode) rfl hrails

theorem takes_samplePreload : Takes .samplePreload s (jtagOut (rowStart s) 2 (Config.bsdlCapture s.dev.free)) := takes_of_onlyIf (i := .samplePreload) rfl hrails

/-- The EXTEST instructions are taken in RECOVERY, and are BYPASS elsewhere (R446). -/
theorem takes_extest {i : Instr} {code : Nat} (hexec : exec i s = settle s (extest code (start s))) :
    Takes i s (if s.dev.power.state = .recovery then jtagOut (rowStart s) code (Config.bsdlCapture s.dev.free) else jtagOut (start s) 0 [0]) := by
  refine takes_of_settle hexec ?_
  unfold extest
  split
  next h => exact (onlyIf_of_true hrails _).trans (congrArg DevOut.next (if_pos h).symm)
  next h => exact (onlyIf_of_true hrails _).trans (congrArg DevOut.next (if_neg h).symm)

theorem takes_debugChallenge : Takes .debugChallenge s (send (start s) (.tdo (challenge (start s)))) := takes_of_onlyIf (i := .debugChallenge) rfl hrails

theorem takes_debugStatus : Takes .debugStatus s (send (start s) (.tdo [byteOf s.dev.root.debugResult])) := takes_of_onlyIf (i := .debugStatus) rfl hrails

theorem takes_debugToken (bs : Bytes) : Takes (.debugToken bs) s (debugToken bs (start s)) := takes_of_onlyIf (i := .debugToken bs) rfl hrails

end

end

end Sys2Proof.Machine

namespace Sys2Proof

open Sys2Proof.Machine

/-- Settles O60, row by row. -/
theorem boardRows : Obligations.BoardRows := by
  intro s r d f
  refine ⟨fun straps tier => takes_powerOn straps tier, fun cool => takes_resetNAssert cool, fun hlatched hhigh _ => exec_resetNAssert hlatched hhigh, takes_resetNRelease,
    takes_referenceLost, takes_referenceReturn, fun die => exec_thermalTrip, fun vaon tier => exec_railRemoval vaon tier,
    fun self hbm tier flash hready => takes_bootComplete hready self hbm tier flash, fun die hready => takes_bootStepTimeout hready die,
    fun die t hready => takes_bootStepTimeout_pending hready die, fun die domain => exec_domainWakeTimeout domain,
    fun readings sat rails => takes_monitorSample readings sat rails, fun hrails => ⟨takes_bypass hrails, takes_idcode hrails, takes_samplePreload hrails, ?_,
      takes_debugChallenge hrails, takes_debugStatus hrails, takes_debugToken hrails⟩⟩
  simp only [List.forall_mem_cons]
  exact ⟨takes_extest hrails rfl, takes_extest hrails rfl, takes_extest hrails rfl, fun x hx => absurd hx (List.not_mem_nil)⟩

end Sys2Proof
end
